-- ==== Sys2Proof/Word.lean ====
section
/-! DEFINITION. The word types of the device (spec/00_scope.md R7, R8): bits are numbered from 0, the least significant. -/

namespace Sys2Proof

/-- One byte of memory or of a message. -/
abbrev Byte := BitVec 8
/-- A 16-bit word: status codes and completion flags (R17, R21). -/
abbrev W16 := BitVec 16
/-- A 32-bit word: handles, FP32 encodings, shader registers. -/
abbrev W32 := BitVec 32
/-- A 64-bit word: memory structures and wide registers. -/
abbrev W64 := BitVec 64

end Sys2Proof
end

