-- ==== Sys2Proof/Syntax.lean ====
section
/-! DEFINITION. The commands of the device: one constructor for each row of spec/opcode_table.json, and the types of their
operands. -/

namespace Sys2Proof

/-- The unit that takes a command (R496, R518, R520). -/
inductive UnitRef where
  | frontEnd (part : Fin 16)
  | courts (part : Fin 16)
  | quarters (part : Fin 16)
  | raster (fe : Fin 4)
  | pipe (p : Fin 4)
  | walker
  | channel (c : Fin 4)
  | iqlPort (p : Fin 4)
deriving DecidableEq, Repr

/-- The registers that the row FE_CTX_TABLE_BASE covers (R547). -/
inductive FeReg where
  | ctxTable
  | queueTable
  | doorbell
  | score
  | schedCfg
  | partCfg (p : Fin 16)
deriving DecidableEq, Repr

/-- An Ihlique packet (R617), its payload, its traffic class (R618), and what the header of the frame that carries it says: ACK, the
credits returned on the channel CVC, and KEY_PHASE (R612, R614, R615). -/
structure Packet where
  typ : Nat
  dst : Nat
  src : Nat
  epoch : Nat
  txid : Nat := 0
  txgen : Nat := 0
  len : Nat := 0
  hops : Nat := 0
  op : Nat := 0
  laddr : Nat := 0
  payload : List Byte := []
  cls : Nat := 0
  ack : Nat := 0
  cvc : Nat := 0
  credits : Nat := 0
  keyPhase : Bool := false
deriving DecidableEq, Repr

/-- The samples of an AVTP packet as it carries them: the bytes that one of every channel takes in a slot, and, for audio, the width of
each, 0 for 16 bits, 1 for 24 and 2 for 32 (R581). -/
structure AvSamples where
  frameBytes : BitVec 16
  width : Fin 3 := 2
deriving DecidableEq, Repr

/-- Why an Ihlique port fails to start (R607, R610). -/
inductive StartFail where
  | training
  | keys
deriving DecidableEq, Repr

/-- What asks for a replay on a link: a gap in SEQ or a failed frame seen here, or the peer's request (R613, R616). -/
inductive ReplayCause where
  | gap
  | failedFrame
  | peerAsks (seq : BitVec 24)
deriving DecidableEq, Repr

/-- Why a received frame is dropped (R550, R557, R561). -/
inductive RxDrop where
  | tooLongOrFcs
  | macsec
  | unclassified
deriving DecidableEq, Repr

/-- The address registers of a port (R552). -/
inductive PortReg where
  | mac
  | ipLo
  | ipHi
deriving DecidableEq, Repr

/-- The table bases of the Ethernet block (R601). -/
inductive EthTable where
  | qp
  | key
  | stream
deriving DecidableEq, Repr

/-- A clock that droop stretches: a partition's court clock or a quarter's clock (R146, R690). -/
inductive StretchRef where
  | partition (p : Fin 16)
  | quarter (q : Fin 4)
deriving DecidableEq, Repr

/-- A thread group of a shader command: the queue of the command, its block (for a render pass, the group's number within the
pass) and its number within the block. -/
structure GroupRef where
  q : Fin 16384
  block : W32
  group : Fin 32
deriving DecidableEq, Repr

/-- A physical core: quarter and number (R237). -/
structure CoreRef where
  quarter : Fin 4
  core : Fin 17
deriving DecidableEq, Repr

/-- Comparisons. -/
inductive CmpFn where
  | lt | le | eq | ne | gt | ge
deriving DecidableEq, Repr

/-- What OP means in the INT class (R261, R268); the numbers of OP are not in the spec, so the command names the operation
(log 30). -/
inductive IntFn where
  | add | sub | mul
  | mulHi (signed : Bool)
  | mad
  | and | or | xor | not
  | shl | shr | sar
  | min (signed : Bool)
  | max (signed : Bool)
  | cmp (c : CmpFn) (signed : Bool)
  | quot (signed : Bool)
  | rem (signed : Bool)
  | reserved
deriving DecidableEq, Repr

/-- What OP means in the FP32 and FP16X2 classes (R261); `high` names the half that a packed comparison takes. -/
inductive FpFn where
  | add | mul | fma | min | max
  | cmp (c : CmpFn) (high : Bool)
  | reserved
deriving DecidableEq, Repr

/-- A source or target of a conversion (R261): a format of R59 by its code, or a 32-bit integer. -/
inductive CvtTy where
  | fmt (code : Fin 16)
  | i32
  | u32
deriving DecidableEq, Repr

/-- The special functions of R261. -/
inductive SfuFn where
  | rcp | rsqrt | sqrt | exp2 | log2 | sin | cos | reserved
deriving DecidableEq, Repr

/-- The system values of R265. -/
inductive SysVal where
  | lane | team | group
  | blockX | blockY | blockZ
  | gridX | gridY | gridZ
  | timeLo | timeHi
deriving DecidableEq, Repr

/-- Predicate logic. -/
inductive PredFn where
  | and | or | xor | andNot
deriving DecidableEq, Repr

/-- What OP means in the MOVE class (R261, R265), SETTEAM apart. A move takes the first source, or the second: a register, a
launch constant or the immediate. -/
inductive MoveFn where
  | movA
  | movB
  | sel (p : Fin 8)
  | pred (f : PredFn) (a b : Fin 8)
  | sys (v : SysVal)
  | reserved
deriving DecidableEq, Repr

/-- How a shuffle forms its source lane from the second source. -/
inductive ShufFn where
  | idx | up | down | bfly
deriving DecidableEq, Repr

/-- Lane reductions. -/
inductive RedFn where
  | fadd | fmin | fmax | iadd
  | imin (signed : Bool)
  | imax (signed : Bool)
  | and | or | xor
deriving DecidableEq, Repr

/-- What OP means in the LANE class (R253, R255, R261, R269). A scaled conversion gives the element, or the block's scale
field. -/
inductive LaneFn where
  | shuffle (f : ShufFn)
  | vote (all : Bool) (p : Fin 8)
  | ballot (p : Fin 8)
  | reduce (f : RedFn)
  | scaled (code : Fin 16) (scale : Bool)
  | reserved
deriving DecidableEq, Repr

/-- What OP means in the GLOBAL class: an access of `2 ^ size` bytes (R271). -/
inductive MemFn where
  | load (size : Fin 5) (signed : Bool)
  | store (size : Fin 5)
  | reserved
deriving DecidableEq, Repr

/-- The atomics of R282. -/
inductive AtomFn where
  | add | and | or | xor | fadd | exch | cas
  | min (signed : Bool)
  | max (signed : Bool)
deriving DecidableEq, Repr

/-- What OP means in the LOCAL class. -/
inductive LocalFn where
  | load (size : Fin 5) (signed : Bool)
  | store (size : Fin 5)
  | atomic (f : AtomFn) (wide : Bool)
  | reserved
deriving DecidableEq, Repr
/-- The units that cache translations (R466). -/
inductive HolderRef where
  | court (n : Fin 16)
  | core (c : CoreRef)
  | raster (q : Fin 4)
  | pipe (p : Fin 4)
  | channel (c : Fin 4)
  | net
deriving DecidableEq, Repr

/-- The accesses that a walk is for (R461). -/
inductive WalkFor where
  | load | store | atomic | fetch
deriving DecidableEq, Repr

/-- The registers of a signature region (R418). -/
inductive SigReg where
  | rect | cfg | expect
deriving DecidableEq, Repr

/-- The timing and pixel clock registers of a pipe (R418). -/
inductive TimingReg where
  | h | v | pclk
deriving DecidableEq, Repr

/-- What a sink does with hot-plug detect (R414). -/
inductive HpdEvent where
  | assert | interrupt | deassert
deriving DecidableEq, Repr


/-- The agents of a huddle (R698). -/
inductive HuddleAgent where
  | steward | frontEnd | composer | memory | ethernet | ihlique | compression | referee
deriving DecidableEq, Repr

/-- What the tray controller does at the target map besides key commands (R851, R852). -/
inductive TrayAccess where
  | wake (v : W32)
  | ibiEn (v : W32)
  | ibiCause (v : W32)
  | keyData (i : Fin 6) (v : W64)
  | read (off n : Fin 256)
deriving DecidableEq, Repr

/-- The commands of the device: one constructor for each row of the table of operations and events. -/
inductive Instr where
  /-- SEND (R579). A RoCEv2 SEND arrives on a queue pair and is handled by the pair's role: management requests, a doorbell record, or a NAK. -/
  | send (qp : Fin 1024) (psn : BitVec 24) (ecn : Bool) (data : List Byte)
  /-- RDMA_WRITE (R570). An RDMA WRITE request is checked against its key and made visible at device scope before it is acknowledged. -/
  | rdmaWrite (qp : Fin 1024) (psn : BitVec 24) (ecn : Bool) (rkey : W32) (va : W64) (data : List Byte)
  /-- RDMA_READ (R572). An RDMA READ request is checked against its key entry and answered with data or a NAK. -/
  | rdmaRead (qp : Fin 1024) (psn : BitVec 24) (ecn : Bool) (rkey : W32) (va : W64) (len : W32)
  /-- COMPARE_AND_SWAP (R565). A 64-bit RoCEv2 compare-and-swap request is checked and performed on device memory. -/
  | compareAndSwap (qp : Fin 1024) (psn : BitVec 24) (ecn : Bool) (rkey : W32) (va : W64) (cmp : W64) (swap : W64)
  /-- FETCH_AND_ADD (R565). A 64-bit RoCEv2 fetch-and-add request is checked and performed on device memory. -/
  | fetchAndAdd (qp : Fin 1024) (psn : BitVec 24) (ecn : Bool) (rkey : W32) (va : W64) (add : W64)
  /-- ACK_RECEIVED (R568). A transport acknowledgement retires requests of a queue pair, and a DRAINING pair with nothing outstanding returns to RESET. -/
  | ackReceived (qp : Fin 1024) (psn : BitVec 24)
  /-- NAK_RECEIVED (R575). A NAK refuses a device request, a fatal one moves the queue pair to ERROR, and a refused completion or signal falls to R541. -/
  | nakReceived (qp : Fin 1024) (psn : BitVec 24) (code : Fin 32)
  /-- ACK_TIMEOUT (R568). A local ack or receiver-not-ready timer expires, and the request is retried or the queue pair enters ERROR once retries are exhausted. -/
  | ackTimeout (qp : Fin 1024) (rnr : Bool)
  /-- DOORBELL_RECORD (R505). A doorbell record arrives in the doorbell ring, is checked whole, and has its updates applied in order. -/
  | doorbellRecord (qp : Fin 1024) (data : List Byte)
  /-- CREATE (R485). FE_OP CREATE checks a context record and makes the index ACTIVE with the next generation. -/
  | create (arg : W32)
  /-- DESTROY (R536). FE_OP DESTROY stops fetching, stops the queues, discards preloads, aborts unstarted commands and begins stopping running ones. -/
  | destroy (h : W32)
  /-- DESTROY_STOP_TIMEOUT (R536). 50 ms after DESTROY, every unit still running a command of the context is reset at engine level. -/
  | destroyStopTimeout (ctx : Fin 4096)
  /-- DESTROY_RELEASE (R539). Once the running commands have stopped, the context's fences are abandoned, its keys revoked, its composer and stream resources released and its translations dropped. -/
  | destroyRelease (ctx : Fin 4096)
  /-- DESTRUCTION_ENDS (R536). Destruction ends: the final scoreboard record is written, the context becomes FREE, and CONTEXT_DESTROYED is recorded. -/
  | destructionEnds (ctx : Fin 4096)
  /-- SET (R486). FE_OP SET rereads words 2 to 4 of a context record and applies the new limits and partition. -/
  | set (h : W32)
  /-- RESUME (R543). FE_OP RESUME moves a HOSTLOST context to ACTIVE, empties its fallback ring and resumes fetching. -/
  | resume (h : W32)
  /-- QUERY (R484). FE_OP QUERY returns a context's state and its fallback producer count. -/
  | query (h : W32)
  /-- QUEUE_CREATE (R492). FE_OP QUEUE_CREATE checks a queue record and makes the queue ACTIVE and benched. -/
  | queueCreate (arg : W32)
  /-- QUEUE_DESTROY (R493). FE_OP QUEUE_DESTROY moves a queue to STOPPING and aborts its unstarted commands. -/
  | queueDestroy (h : W32)
  /-- QUEUE_QUERY (R493). FE_OP QUEUE_QUERY returns a queue's state. -/
  | queueQuery (h : W32)
  /-- COMMAND_AT_HEAD (R499). A command reaches the head of its queue and is checked, or completed with CONTEXT_LOST in a lost context. -/
  | commandAtHead (q : Fin 16384)
  /-- WAIT_EXAMINE (R513). A blocked wait is examined again, on a fence change, a notice, a doorbell, or the 100 µs timer. -/
  | waitExamine (q : Fin 16384)
  /-- WAIT_TIMEOUT (R515). A wait exceeds WAIT_TIMEOUT_MS, and its command completes with TIMEOUT, losing the context. -/
  | waitTimeout (q : Fin 16384)
  /-- REMOTE_FENCE_READ (R633). A read of a remote fence, made to examine a wait, completes, and a failure leaves the wait pending. -/
  | remoteFenceRead (q : Fin 16384) (value : Option W64)
  /-- COMMAND_START (R518). A unit can take a command, and the front end starts the ready command of the partition with the lowest priority number. -/
  | commandStart (u : UnitRef)
  /-- AGING (R519). A ready command of priority 2 or 3 passes AGE_MS and comes to rank as priority 1. -/
  | aging (q : Fin 16384)
  /-- SLICE_END (R523). In round-robin mode, a slot's SLICE_US expires and the parsers move to the next slot. -/
  | sliceEnd
  /-- FW_FALLBACK (R524). The scheduler firmware misses its heartbeat for 10 ms, and the device sets MODE and FW_FALLBACK to 1. -/
  | fwFallback
  /-- PRELOAD (R526). The next command of an on-deck queue is preloaded when its predecessor starts or when it becomes blocked. -/
  | preload (q : Fin 16384)
  /-- BENCH_SWAP (R529). A benched queue that has become ready is brought into a slot of its partition. -/
  | benchSwap (q : Fin 16384)
  /-- BENCH_CHECK (R530). The firmware checks every partition for fully blocked slots, when a wait blocks and at least every 100 µs. -/
  | benchCheck
  /-- DEADLOCK_SEARCH (R533). Every slot of a partition is blocked, and the firmware searches the wait graph and fails the latest-submitted wait on a cycle. -/
  | deadlockSearch (part : Fin 16)
  /-- SCOREBOARD_UPDATE (R544). Every 1 ms, the device writes each live context's scoreboard record. -/
  | scoreboardUpdate
  /-- SCOREBOARD_WALK (R545). At least once a second, the steward walks each context's tables to update SD_BYTES and LP_BYTES. -/
  | scoreboardWalk
  /-- NOP (R496). A NOP command waits and signals only. -/
  | nop (q : Fin 16384)
  /-- FREE (R535). A FREE command completes once its wait is satisfied and every earlier-submitted command of its context has completed. -/
  | free (q : Fin 16384)
  /-- FE_PART_COMMIT (R516). A write of GO submits the staged partition layout, which is checked and taken into a whistle. -/
  | fePartCommit (v : W32)
  /-- WHISTLE_REPORT (R731). A participant latches a whistle's change and reports the epoch, and the last report makes the whistle STEADY and releases held commands. -/
  | whistleReport (unit : Fin 28)
  /-- WHISTLE_TIMEOUT (R731). 1 ms passes with a participant unreported, and the whistle fails back to the old modes. -/
  | whistleTimeout
  /-- FLD_FMT_DEFAULT (R94). A write to FLD_FMT_DEFAULT takes the new overflow default into a whistle. -/
  | fldFmtDefault (v : W32)
  /-- FLD_SCRUB_CFG (R164). A write to FLD_SCRUB_CFG changes the scrubbing mode through the whistle, or sets LOCK. -/
  | fldScrubCfg (v : W32)
  /-- FLD_SPARE_MAP (R154). A write to a court's spare map is checked and held pending until the court next holds no command. -/
  | fldSpareMap (court : Fin 16) (v : W64)
  /-- COURT_REMAP (R154). A court that holds no command applies its pending spare map, and the spare is scrubbed before first use. -/
  | courtRemap (court : Fin 16)
  /-- FIELD (R211). A FIELD command begins after its wait: it reads its parameters and tables, runs the checks of R189, places its footprint and staggers its courts. -/
  | field (q : Fin 16384)
  /-- BUNDLE (R192). The sequencer decodes and checks a bundle and issues its first schedule cycle with its court actions and DMA slots. -/
  | bundle (part : Fin 16)
  /-- SCHEDULE_CYCLE (R192). A partition advances one schedule cycle, in which every row performs its row operation. -/
  | scheduleCycle (part : Fin 16)
  /-- NETWORK_TRANSFER_ARRIVAL (R127). The flits of a field network transfer land in the destination court buffer. -/
  | networkTransferArrival (part : Fin 16)
  /-- DMA_COMPLETE (R219). A DMA slot completes, which can end a late-data stall, a SYNC wait or the command. -/
  | dmaComplete (court : Fin 16) (stream : Fin 2)
  /-- HEAVY_HOLD_EXPIRY (R689). HOLD_US passes after the last heavy phase, and the heavy voltage offset is removed. -/
  | heavyHoldExpiry
  /-- FIELD_END (R204). The END bundle's last cycle has passed and its DMA has completed, and the field command completes. -/
  | fieldEnd (part : Fin 16)
  /-- COURT_SCRUB (R160). The device begins scrubbing a court by its scrubbing mode, a power-up, a reset or a partition change. -/
  | courtScrub (court : Fin 16)
  /-- COURT_SCRUB_END (R158). A court scrub finishes, and the court may start a command again. -/
  | courtScrubEnd (court : Fin 16)
  /-- DROOP_DETECT (R690). A droop detector fires and stretches its partition's or quarter's clock. -/
  | droopDetect (site : Fin 20)
  /-- STRETCH_END (R690). STRETCH_CYCLES pass after the last detection, and stretching ends. -/
  | stretchEnd (clock : StretchRef)
  /-- LAUNCH (R245). A LAUNCH begins after its wait: its header is checked and its launch constants are read. -/
  | launch (q : Fin 16384)
  /-- BLOCK_START (R242). A block of a launch starts on a core once its group slots, registers and local memory are free. -/
  | blockStart (q : Fin 16384) (quarter : Fin 4) (core : Fin 16) (base : Fin 257)
  /-- INT (R268). A thread group executes an integer instruction. -/
  | intOp (g : GroupRef) (op : IntFn)
  /-- FP32 (R266). A thread group executes an FP32 instruction. -/
  | fp32Op (g : GroupRef) (op : FpFn)
  /-- FP16X2 (R266). A thread group executes a packed FP16 instruction. -/
  | fp16x2Op (g : GroupRef) (op : FpFn)
  /-- CVT (R269). A thread group executes a conversion. -/
  | cvtOp (g : GroupRef) (src : CvtTy) (dst : CvtTy)
  /-- SFU (R267). A thread group executes a special-function instruction. -/
  | sfuOp (g : GroupRef) (op : SfuFn)
  /-- MOVE (R265). A thread group executes a move, select or system-value read. -/
  | moveOp (g : GroupRef) (op : MoveFn)
  /-- SETTEAM (R253). Threads set their team numbers and leave their old teams. -/
  | setteam (g : GroupRef)
  /-- LANE (R253). A lane instruction executes once every thread of its team waits at it, or stops the command with TEAM_SPLIT. -/
  | laneOp (g : GroupRef) (op : LaneFn)
  /-- GLOBAL (R270). A thread group executes a global load or store through translation. -/
  | globalMem (g : GroupRef) (op : MemFn)
  /-- LOCAL (R273). A thread group executes a local memory load, store or atomic. -/
  | localMem (g : GroupRef) (op : LocalFn)
  /-- ATOMIC (R283). A thread group executes an atomic through translation, reducing lanes per address in lane order. -/
  | atomicOp (g : GroupRef) (op : AtomFn) (wide : Bool)
  /-- FENCE (R275). A thread executes a memory fence at a scope. -/
  | fenceOp (g : GroupRef)
  /-- SAMPLE (R343). A thread group reads an image through the sample unit. -/
  | sample (g : GroupRef)
  /-- VIN (R340). A vertex thread reads its vertex or instance index. -/
  | vin (g : GroupRef)
  /-- VOUT (R340). A vertex thread writes its position or an attribute vector. -/
  | vout (g : GroupRef)
  /-- INTERP (R340). A fragment thread reads an interpolated attribute. -/
  | interp (g : GroupRef)
  /-- COUT (R340). A fragment thread writes a colour for an attachment. -/
  | cout (g : GroupRef)
  /-- ZOUT (R340). A fragment thread writes its depth. -/
  | zout (g : GroupRef)
  /-- KILL (R340). A fragment thread discards its fragment. -/
  | kill (g : GroupRef)
  /-- TREAD (R340). A fragment thread reads the tile buffer at its fragment. -/
  | tread (g : GroupRef)
  /-- BRANCH (R262). A thread branches by OFFSET. -/
  | branch (g : GroupRef)
  /-- CALL (R262). A thread calls, writing its return address. -/
  | call (g : GroupRef)
  /-- RET (R262). A thread returns to the address in a register. -/
  | ret (g : GroupRef)
  /-- EXIT (R287). A thread exits and counts as arrived at barriers and lane instructions. -/
  | exit (g : GroupRef)
  /-- CONVERGE (R251). A thread executes CONVERGE and is held at the target until its group reconverges. -/
  | converge (g : GroupRef)
  /-- CONVERGE_HOLD_EXPIRY (R251). A held thread's group issues 256 times, and the thread becomes ready again. -/
  | convergeHoldExpiry (g : GroupRef)
  /-- GROUP_BARRIER (R287). A thread arrives at a group barrier, which completes when every live thread of the group has arrived. -/
  | groupBarrier (g : GroupRef)
  /-- BLOCK_BARRIER (R287). A thread arrives at a block barrier, which completes when every live thread of the block has arrived. -/
  | blockBarrier (g : GroupRef)
  /-- AMMA (R294). A group starts an async matrix operation, which reads and checks its descriptor. -/
  | amma (g : GroupRef)
  /-- AMMA_COMPLETE (R296). An async matrix operation has written D, and its token clears. -/
  | ammaComplete (core : CoreRef)
  /-- WAITTOK (R296). A thread waits until the named tokens have cleared. -/
  | waittok (g : GroupRef)
  /-- GROUP_END (R299). A group ends once all its threads have exited and all its tokens have cleared. -/
  | groupEnd (g : GroupRef)
  /-- LAUNCH_END (R280). Every block of a launch, or a stopped launch's issued accesses, has finished, and the command completes. -/
  | launchEnd (q : Fin 16384)
  /-- MERGE_DRAIN (R452). A merging-buffer entry drains 1,024 cycles after its first write, or when a release, load, atomic or full buffer forces it. -/
  | mergeDrain (core : CoreRef) (line : BitVec 33)
  /-- CORE_SCRUB (R302). The device begins scrubbing a core by its scrubbing mode or a required case. -/
  | coreScrub (core : CoreRef)
  /-- CORE_SCRUB_END (R301). A core scrub finishes, and the core may start blocks again. -/
  | coreScrubEnd (core : CoreRef)
  /-- SHA_SPARE_MAP (R306). A write to a quarter's spare map is held pending until the affected logical cores hold no block or tile buffer. -/
  | shaSpareMap (quarter : Fin 4) (v : W32)
  /-- CORE_REMAP (R306). The affected logical cores hold nothing, and the pending spare map takes effect. -/
  | coreRemap (quarter : Fin 4)
  /-- RENDER (R351). A render pass begins after its wait: its heap BUSY is set by an atomic, and the pass is checked and starts its vertex stage. -/
  | render (q : Fin 16384)
  /-- TILER_WRITE (R353). The tiler bins a triangle into the lists of the tiles it covers. -/
  | tilerWrite (fe : Fin 4)
  /-- BINNING_END (R353). Binning ends, and each tile moves to WAIT_MEM or, under the skip rule, to DONE. -/
  | binningEnd (fe : Fin 4)
  /-- PARTIAL_RENDER (R363). The tiler fails to obtain a chunk, holds the triangle, and renders and spills every binned tile. -/
  | partialRender (fe : Fin 4)
  /-- PARTIAL_RENDER_END (R363). The last spill completes, the heap is reset, and binning resumes with the held triangle. -/
  | partialRenderEnd (fe : Fin 4)
  /-- TILE_BUFFER_GRANT (R356). A core grants a tile buffer, and the tile loads by its spill slot or load operations. -/
  | tileBufferGrant (fe : Fin 4) (core : Fin 16) (base : Fin 257)
  /-- TILE_LOAD_DONE (R353). A tile's load completes, and the tile starts shading. -/
  | tileLoadDone (fe : Fin 4) (tile : BitVec 18)
  /-- TILE_SHADED (R353). Every listed triangle of a tile has passed, and the tile spills or stores. -/
  | tileShaded (fe : Fin 4) (tile : BitVec 18)
  /-- SPILL_DONE (R353). A tile's spill write completes, S is set and its tile buffer is freed. -/
  | spillDone (fe : Fin 4) (tile : BitVec 18)
  /-- WRITEBACK_DONE (R358). A tile's writeback completes, its tile buffer is freed, and the last one completes the pass. -/
  | writebackDone (fe : Fin 4) (tile : BitVec 18)
  /-- PIPE_ENABLE (R375). An enable request to a composer pipe starts it or clears a pending disable. -/
  | pipeEnable (pipe : Fin 4) (noSkip : Bool) (bpc : Fin 4)
  /-- PIPE_DISABLE (R375). A disable request to a composer pipe begins stopping it or marks a pending disable. -/
  | pipeDisable (pipe : Fin 4) (noSkip : Bool) (bpc : Fin 4)
  /-- FRAME_BOUNDARY (R380). A pipe reaches a frame boundary: FRAME_SEQ rises, the shadow state becomes active, signatures are judged and pipe state changes take effect. -/
  | frameBoundary (pipe : Fin 4)
  /-- PRESENT (R388). A present is checked after its wait and applied to the pipe's shadow state, or held for its target. -/
  | present (q : Fin 16384)
  /-- FETCH_UNDERFLOW (R399). A layer fetch returns no data in time, and the pipe outputs background for those pixels. -/
  | fetchUnderflow (pipe : Fin 4) (x : W16) (y : W16) (n : W16)
  /-- LAYER_FETCH (R400). A layer fetch faults, the owner context is lost, and the layer's rectangle shows background. -/
  | layerFetch (pipe : Fin 4) (layer : Fin 8) (line : W16)
  /-- FRAME_RECORD (R412). A frame's writeback slot has been written, and its frame record and fence signal follow. -/
  | frameRecord (pipe : Fin 4)
  /-- LYR_COMMIT (R382). A write of ARM commits pending signature and writeback changes at the next boundary. -/
  | lyrCommit (pipe : Fin 4) (v : W32)
  /-- LYR_LAYER_OWNER (R387). A write changes a layer's owner, which takes effect and disables the layer at the next boundary. -/
  | lyrLayerOwner (pipe : Fin 4) (layer : Fin 8) (v : W64)
  /-- LYR_SIG_REGION (R403). A write to a signature region register is checked against the active area and ACTION. -/
  | lyrSigRegion (pipe : Fin 4) (region : Fin 16) (reg : SigReg) (v : W64)
  /-- LYR_SIG_CTRL (R408). A write to LYR_SIG_CTRL enables regions or sets LOCK. -/
  | lyrSigCtrl (pipe : Fin 4) (v : W32)
  /-- LYR_TIMING (R404). A write to a pipe's timing, pixel clock or stream register is checked and refused unless the pipe is OFF and the values are allowed. -/
  | lyrTiming (pipe : Fin 4) (reg : TimingReg) (v : W64)
  /-- HOT_PLUG (R414). A sink asserts hot-plug detect or interrupts, and the transmitter reads its capabilities and trains the link. -/
  | hotPlug (tx : Fin 2) (ev : HpdEvent)
  /-- LINK_TRAINING_END (R415). Training of a DisplayPort link ends, and stream time slots are allocated or training failures counted. -/
  | linkTrainingEnd (tx : Fin 2) (result : Option (Fin 7 × Fin 3))
  /-- TRAIN_RETRY (R414). A second passes after training failed at every rate, and training is tried again. -/
  | trainRetry (tx : Fin 2)
  /-- DPX_STREAM (R421). A write to a DisplayPort stream register is checked and applied. -/
  | dpxStream (pipe : Fin 4) (v : W64)
  /-- MEM_SD_COMMIT (R425). A write of GO checks the next stacked-DRAM range map and takes it into a whistle. -/
  | memSdCommit (v : W32)
  /-- SD_ZEROING_END (R426). The stacked DRAM has been zeroed under a new map, and GO reads 0. -/
  | sdZeroingEnd
  /-- TABLE_WALK (R460). The walker walks a context's tables for an access and gives a translation or a fault. -/
  | tableWalk (ho : HolderRef) (h : W32) (acc : WalkFor) (va : BitVec 64)
  /-- PATROL (R438). The patrol scrubber reads the next lines of both DRAMs over each PATROL_HOURS period. -/
  | patrol (lines : BitVec 36)
  /-- SD_TEMP_UPDATE (R440). Every 1 ms, a stacked-DRAM channel reads its temperature and sets its refresh rate. -/
  | sdTempUpdate (channel : Fin 64) (raw : W16)
  /-- MEM_SC_RETIRE (R447). A write retires cache ways, which takes effect once their dirty lines are written back. -/
  | memScRetire (slice : Fin 16) (v : W32)
  /-- MEM_QOS_CFG (R476). A write to MEM_QOS_CFG is checked and takes effect at once. -/
  | memQosCfg (v : W32)
  /-- INVAL_RANGE (R470). A translation command drops every cached translation of a context that maps a range. -/
  | invalRange (q : Fin 16384)
  /-- INVAL_ALL (R470). A translation command drops every cached translation of a context. -/
  | invalAll (q : Fin 16384)
  /-- ROOT_SWITCH (R470). A translation command flips SEL and drops every cached translation of the context in one step. -/
  | rootSwitch (q : Fin 16384)
  /-- ROW_REMAP (R786). A DRAM controller holds a failing row's accesses, copies it to a spare row and switches its remap entry. -/
  | rowRemap (a : BitVec 40)
  /-- PORT_ENABLE (R551). An enable request to an Ethernet port starts it or clears a pending disable. -/
  | portEnable (port : Fin 8)
  /-- PORT_DISABLE (R551). A disable request to an Ethernet port begins stopping it, failing its queue pairs and stopping its streams. -/
  | portDisable (port : Fin 8)
  /-- PHY_POWERED (R551). A port's PHY is powered, and the port turns ON and starts link training. -/
  | phyPowered (port : Fin 8)
  /-- PHY_POWERED_DOWN (R551). A port's PHY is powered down, and the port turns OFF or starts again. -/
  | phyPoweredDown (port : Fin 8)
  /-- LINK_UP (R549). Link training completes with the partner, and LINK_UP reads 1. -/
  | linkUp (port : Fin 8)
  /-- LINK_DOWN (R553). A port's link falls, and LINK_DOWNS rises and an event is recorded. -/
  | linkDown (port : Fin 8)
  /-- TC10_SLEEP_REQUEST (R554). A link partner requests TC10 sleep, which is accepted or rejected. -/
  | tc10SleepRequest (port : Fin 8)
  /-- TC10_WAKE (R699). A TC10 wake-up arrives on a port, waking the link or the device. -/
  | tc10Wake (port : Fin 8)
  /-- TC10_WAKE_TIMEOUT (R555). A frame held for a sleeping link is not sent within 10 ms and is dropped. -/
  | tc10WakeTimeout (port : Fin 8)
  /-- FRAME_TRANSMIT (R560). A frame leaves a port past its class mask, rate limit and MACsec protection. -/
  | frameTransmit (port : Fin 8)
  /-- UNCLASSIFIED_FRAME (R557). A received frame fails its checks or matches no class and is dropped and counted. -/
  | unclassifiedFrame (port : Fin 8) (why : RxDrop)
  /-- QP_START (R568). ETH_OP QP_START reads and checks a queue-pair record and starts its transport. -/
  | qpStart (arg : W32)
  /-- QP_STOP (R568). ETH_OP QP_STOP drains or resets a queue pair. -/
  | qpStop (arg : W32)
  /-- QP_QUERY (R568). ETH_OP QP_QUERY returns a queue pair's state. -/
  | qpQuery (arg : W32)
  /-- KEY_LOAD (R571). ETH_OP KEY_LOAD reads and loads a key entry. -/
  | keyLoad (arg : W32)
  /-- KEY_REVOKE (R576). ETH_OP KEY_REVOKE stops using a key entry and completes once its accesses are answered. -/
  | keyRevoke (arg : W32)
  /-- STREAM_START (R583). ETH_OP STREAM_START reads and checks a stream record and starts a listener or talker. -/
  | streamStart (arg : W32)
  /-- STREAM_STOP (R583). ETH_OP STREAM_STOP ends a stream after the slot in progress. -/
  | streamStop (arg : W32)
  /-- AVTP_PACKET (R584). An AVTP packet of a running listener is placed in its slot, and a finished slot gets its ingress record and fence signal. -/
  | avtpPacket (stream : Fin 64) (seq : BitVec 8) (ts : W32) (first : Bool) (last : Bool) (samples : AvSamples) (rate : W32) (data : List Byte)
  /-- TALKER_FRAME (R590). A pipe's writeback fence reaches a frame, and the talker sends its packets paced with presentation times. -/
  | talkerFrame (stream : Fin 64) (bytes : BitVec 14)
  /-- SYNC_MESSAGE (R594). A gPTP Sync arrives on the slave port and drives the time state and counter discipline. -/
  | syncMessage (port : Fin 8) (gm : W64) (offset : W64)
  /-- ANNOUNCE_MESSAGE (R593). A gPTP Announce arrives and is taken on the slave port or ignored and counted. -/
  | announceMessage (port : Fin 8) (gm : W64)
  /-- PEER_DELAY_REQUEST (R593). A gPTP peer delay request arrives and is answered. -/
  | peerDelayRequest (port : Fin 8)
  /-- SYNC_TRANSMIT (R593). Each sync interval, the device sends Sync and Announce on its master ports. -/
  | syncTransmit
  /-- SYNC_TIMEOUT (R594). No Sync arrives for 3 sync intervals, and time moves to HOLDOVER or FREE_RUN. -/
  | syncTimeout
  /-- HOLDOVER_EXPIRY (R594). HOLDOVER_S seconds pass in HOLDOVER, and time moves to FREE_RUN. -/
  | holdoverExpiry
  /-- TIM_CFG (R593). A write to TIM_CFG is checked and takes effect at once, a new slave port restarting acquisition. -/
  | timCfg (v : W32)
  /-- ETH_REFCLK_LOST (R874). The 25 MHz reference is absent for 10 µs, links fall and the counter runs on the always-on oscillator. -/
  | ethRefclkLost
  /-- IQL_PORT_ENABLE (R607). An enable request to an Ihlique port starts training and key establishment. -/
  | iqlPortEnable (port : Fin 4)
  /-- IQL_PORT_DISABLE (R607). A disable request to an Ihlique port stops routing to it and begins stopping. -/
  | iqlPortDisable (port : Fin 4)
  /-- KEY_EXCHANGE (R609). Two stewards exchange, sign and check keys over a trained link and derive its AES keys. -/
  | keyExchange (port : Fin 4) (lanes : BitVec 4) (peer : Fin 64) (peerEpoch : BitVec 8) (authentic : Bool)
  /-- IQL_PORT_ON (R607). A port's lanes are trained and keys established, and it turns ON and sends ANNOUNCE. -/
  | iqlPortOn (port : Fin 4)
  /-- IQL_START_RETRY (R607). Training or key establishment fails, and the port retries every second. -/
  | iqlStartRetry (port : Fin 4) (why : StartFail)
  /-- IQL_LANES_DOWN (R607). A stopping port's lanes are powered down, and it turns OFF or starts again. -/
  | iqlLanesDown (port : Fin 4)
  /-- IQL_LINK_DOWN (R608). An ON port's link fails, LINK_UP reads 0, and the port retrains every second. -/
  | iqlLinkDown (port : Fin 4)
  /-- LANE_RETRAIN (R605). A lane's uncorrected FEC count exceeds 16 in a second, and the port retrains, possibly to ×2. -/
  | laneRetrain (port : Fin 4) (lane : Fin 4) (count : W32)
  /-- REKEY (R612). After 2^40 frames, new keys are derived and the sender flips KEY_PHASE. -/
  | rekey (port : Fin 4)
  /-- LINK_REPLAY (R616). A receiver finds a gap or a failed frame and asks the sender to replay, or rekeys after 16 failures. -/
  | linkReplay (port : Fin 4) (cause : ReplayCause)
  /-- READ (R622). An Ihlique READ packet arrives, and is served at its destination or forwarded. -/
  | read (port : Fin 4) (vc : Fin 8) (p : Packet)
  /-- READ_RSP (R630). A READ_RSP arrives and completes its transaction, or is discarded as stale. -/
  | readRsp (port : Fin 4) (vc : Fin 8) (p : Packet)
  /-- WRITE (R622). An Ihlique WRITE packet arrives, and is made visible and acknowledged, or forwarded. -/
  | write (port : Fin 4) (vc : Fin 8) (p : Packet)
  /-- WRITE_ACK (R630). A WRITE_ACK arrives and completes its transaction, or is discarded as stale. -/
  | writeAck (port : Fin 4) (vc : Fin 8) (p : Packet)
  /-- ATOMIC_PACKET (R620). An Ihlique ATOMIC packet arrives and is performed and answered, or forwarded. -/
  | atomicPacket (port : Fin 4) (vc : Fin 8) (p : Packet)
  /-- ATOMIC_RSP (R630). An ATOMIC_RSP arrives, completing its transaction and, for a fence signal, sending a FENCE_NOTICE. -/
  | atomicRsp (port : Fin 4) (vc : Fin 8) (p : Packet)
  /-- DOORBELL (R634). An Ihlique DOORBELL packet arrives and is applied as a doorbell record, or dropped under validation. -/
  | doorbell (port : Fin 4) (vc : Fin 8) (p : Packet)
  /-- FENCE_NOTICE (R632). A FENCE_NOTICE arrives, and the device examines its waits on that fence. -/
  | fenceNotice (port : Fin 4) (vc : Fin 8) (p : Packet)
  /-- ANNOUNCE (R642). An ANNOUNCE arrives with a new EPOCH, which is recorded, ending outstanding transactions to the sender. -/
  | announce (port : Fin 4) (vc : Fin 8) (p : Packet)
  /-- TX_TIMEOUT (R631). A remote transaction gets no response within TX_TIMEOUT_US and ends its command with ACCESS_FAULT. -/
  | txTimeout (txid : Fin 4096)
  /-- IQL_ROUTE (R646). A write to a routing entry is checked and applies to later lookups. -/
  | iqlRoute (dev : Fin 64) (v : W32)
  /-- IQL_PORT_CTRL (R647). A write to ALLOW_X2 or DATELINE is refused unless the port is OFF. -/
  | iqlPortCtrl (port : Fin 4) (v : W32)
  /-- BULK (R636). A BULK command checks its descriptor and copies a range to or from one other device. -/
  | bulk (q : Fin 16384)
  /-- CHANNEL_ENABLE (R651). An enable request to a compression channel starts it or clears a pending disable. -/
  | channelEnable (channel : Fin 4)
  /-- CHANNEL_DISABLE (R651). A disable request to a compression channel begins stopping it. -/
  | channelDisable (channel : Fin 4)
  /-- CHANNEL_POWERED (R651). A starting compression channel is powered and turns ON. -/
  | channelPowered (channel : Fin 4)
  /-- COMPRESS (R659). A COMPRESS command packs its input into its destination list and writes its state record. -/
  | compress (q : Fin 16384)
  /-- DECOMPRESS (R667). A DECOMPRESS command unpacks its input, verifies check values and writes its state record. -/
  | decompress (q : Fin 16384)
  /-- DOMAIN_START (R678). A PWR_DOMAIN_REQ start request starts a court, quarter or raster domain. -/
  | domainStart (domain : Fin 32)
  /-- DOMAIN_STOP (R678). A PWR_DOMAIN_REQ stop request stops a domain unless it belongs to a partition. -/
  | domainStop (domain : Fin 32)
  /-- DOMAIN_ON (R677). A domain's start time and scrub pass, and it reaches ON. -/
  | domainOn (domain : Fin 29)
  /-- DOMAIN_OFF (R677). A stopping domain's isolation is done, and it turns OFF. -/
  | domainOff (domain : Fin 29)
  /-- PAD_RELEASE (R682). A write to PAD_RELEASE ends the pad hold of an ON domain. -/
  | padRelease (v : W32)
  /-- CLOCK_STEP (R685). The arithmetic clock moves one 25 MHz step, at most every 10 µs. -/
  | clockStep
  /-- TARGET_ACTIVE (R699). A write of TARGET 0 is a wake event. -/
  | targetActive
  /-- TARGET_STANDBY (R696). A write of TARGET 2 starts a huddle for STANDBY. -/
  | targetStandby
  /-- TARGET_WATCH (R696). A write of TARGET 3 starts a huddle for WATCH. -/
  | targetWatch
  /-- HUDDLE_ANSWER (R697). An agent answers ACCEPT, REFUSE or DELAY, and the huddle ends at the first refusal or the last acceptance. -/
  | huddleAnswer (agent : HuddleAgent)
  /-- HUDDLE_DELAY_EXPIRY (R697). A delaying agent's limit expires, and the controller asks it again. -/
  | huddleDelayExpiry (agent : HuddleAgent)
  /-- WATCH_SAVE_DONE (R702). The stacked DRAM has been copied to the save area, and the WATCH entry continues. -/
  | watchSaveDone
  /-- WAKE (R704). A wake event in STANDBY or WATCH starts the wake sequence. -/
  | wake
  /-- WATCH_RESTORE_DONE (R704). The save area has been copied back, and the device reaches ACTIVE. -/
  | watchRestoreDone
  /-- IDLE_ENTRY (R695). IDLE_US pass with no work, and the device enters IDLE. -/
  | idleEntry
  /-- WATCH_PERIOD (R705). Each PERIOD_MS in WATCH, the island reads the sensor and audio and wakes the device on a run of hits. -/
  | watchPeriod (sensor : Option W16) (samples : List (BitVec 24))
  /-- ESTIMATE_TICK (R709). Every 10 µs, the controller forms an activity estimate. -/
  | estimateTick (mw : W32)
  /-- MEASURED_SAMPLE (R710). At 1 kHz, the controller reads the regulators and updates divergence, measurement loss and fixed-mode exit. -/
  | measuredSample (mw : W32) (failing : List (BitVec 8))
  /-- CONTROL_TICK (R713). At each control tick, the controller sets the granted fraction and decides boost. -/
  | controlTick (field : W32) (step : W32) (next : W32)
  /-- RECAL (R719). A write of RECAL, or DIVERGED, starts a fit of new power coefficients. -/
  | recal
  /-- RECAL_RETRY (R719). 10 s pass after a fit that did not clear DIVERGED, and a new fit begins. -/
  | recalRetry
  /-- PWR_CAP_MW (R714). A write of the cap is checked against the floor and takes effect at the next tick. -/
  | pwrCapMw (v : W32)
  /-- PWR_DOMAIN_PERMIT (R714). A write of the permit mask is checked against the cap and changes the floor. -/
  | pwrDomainPermit (v : W32)
  /-- PWR_FIXED_MODE (R720). A write of EN enters or leaves fixed-frequency mode through the whistle. -/
  | pwrFixedMode (v : W32)
  /-- ISSUE_LIMIT (R718). A write of ISSUE_LIMIT sets the fraction ceiling through the whistle. -/
  | issueLimit (v : W32)
  /-- RAMP_CYCLES (R693). A write of RAMP_CYCLES sets the ramp length through the whistle. -/
  | rampCycles (v : W32)
  /-- PWR_WATCH_SAVE (R703). A write naming the save area is checked against usable LPDDR5X. -/
  | pwrWatchSave (v : W64)
  /-- PWR_WATCH_CFG (R734). A write to PWR_WATCH_CFG is checked, including that some wake source is enabled. -/
  | pwrWatchCfg (v : W32)
  /-- SENSOR_READ (R724). Every 100 µs, the junction sensors are read, which can enter the throttle or trip. -/
  | sensorRead (sensor : Fin 32) (raw : W16)
  /-- THROTTLE_STEP_UP (R725). A hot reading persists 10 ms, and the throttle goes one step further. -/
  | throttleStepUp
  /-- THROTTLE_STEP_DOWN (R725). Every reading stays below 97 °C for 100 ms, and the throttle goes back one step. -/
  | throttleStepDown
  /-- RAIL_FAULT (R869). A monitored core rail leaves its range for 5 µs, and the device shuts down and enters TRIPPED. -/
  | railFault
  /-- PORST_N_ASSERT (R866). A valid PORST_N assertion takes the device to OFF at once. -/
  | porstNAssert
  /-- PWR_FAIL (R868). PWR_FAIL_N is low for 10 µs, and the steward flushes the event recorder. -/
  | pwrFail
  /-- POWER_RESTORED (R801). PWR_FAIL_N returns high with power held, and the other flush region is erased. -/
  | powerRestored
  /-- BUDGET_OVERRUN (R743). The referee finds a command over its budget and stops it at context level. -/
  | budgetOverrun (q : Fin 16384)
  /-- STOP_BOUND_MISS (R739). A recovery level misses its bound, and recovery climbs one level. -/
  | stopBoundMiss (id : W32)
  /-- FENCE_DRAIN_END (R747). 10 µs after a fence closes, held writes are dropped and outstanding reads answered with errors. -/
  | fenceDrainEnd (id : W32)
  /-- RESET_END (R750). Every reset unit has scrubbed, the fence opens and the suspects are completed or queued for replay. -/
  | resetEnd (id : W32)
  /-- REPLAY (R754). The referee replays the next suspect alone on the reset units. -/
  | replay (id : W32)
  /-- SHARED_UNIT_TIMEOUT (R742). A shared unit leaves a request unanswered for 1 ms, and a chip-level recovery starts. -/
  | sharedUnitTimeout
  /-- CHIP_RESET (R761). A chip-level recovery fences every domain, captures state, resets, restores and retrains the device. -/
  | chipReset (benched : Bool) (trained : Bool)
  /-- CHIP_RECOVERY_TIMEOUT (R766). A chip-level recovery does not finish within 3 s, and the device requests a power cycle. -/
  | chipRecoveryTimeout
  /-- POWER_CYCLE_REQ (R767). The device fences everything, flushes the recorder and asserts TRAY_REQ_N. -/
  | powerCycleReq
  /-- TRAY_REQ_HOLDOFF_END (R768). 60 s since the last assertion pass, and a held power-cycle request asserts TRAY_REQ_N. -/
  | trayReqHoldoffEnd
  /-- WATCHDOG_EXPIRY (R818). The steward's hardware watchdog expires, and the device requests a power cycle. -/
  | watchdogExpiry
  /-- REF_BUDGET_MARGIN (R738). A write of the margin is checked and applies to field commands that start later. -/
  | refBudgetMargin (v : W32)
  /-- REF_FAULT_RING (R774). A write naming the fault ring is checked and refused while contexts exist. -/
  | refFaultRing (v : W64)
  /-- INSPECTION_DUE (R776). PERIOD_H hours pass since a unit's last inspection, and an inspection is queued. -/
  | inspectionDue (kind : Fin 2) (unit : Fin 68)
  /-- STW_INSPECT_REQ (R808). A write requests an inspection of a named unit. -/
  | stwInspectReq (v : W32)
  /-- INSPECTION (R777). The referee takes a due unit once its conditions hold and runs the inspection workload. -/
  | inspection (kind : Fin 3) (unit : Fin 68) (way : Fin 16)
  /-- INSPECTION_END (R781). An inspection ends, and the steward remaps, retires or passes the unit. -/
  | inspectionEnd (kind : Fin 3) (unit : Fin 68) (way : Fin 16) (mask : BitVec 18) (engines : List (Fin 8 × Fin 17))
  /-- JOURNAL_APPEND (R792). Within 1 s of a repair, the steward appends it to the repair journal. -/
  | journalAppend
  /-- TOKEN_REFILL (R798). Limited codes' token buckets refill at RATE tokens per second. -/
  | tokenRefill
  /-- EVR_CFG (R798). A write of RATE and BURST is checked and takes effect at once. -/
  | evrCfg (v : W32)
  /-- FREEZE (R800). A write of FREEZE stops writes to the event ring. -/
  | freeze (v : W32)
  /-- THAW (R800). A write of THAW ends a freeze and writes a THAWED record. -/
  | thaw (v : W32)
  /-- FREEZE_TIMEOUT (R800). FREEZE_MAX_MS passes, and the freeze ends. -/
  | freezeTimeout
  /-- FLUSH (R801). A fatal fault, trip or power failure begins programming the event ring into an erased flush region. -/
  | flush
  /-- FLUSH_DONE (R801). The flush region is verified, and record writing resumes. -/
  | flushDone
  /-- STW_CAPTURE_STATUS (R806). A write of 1 to a capture slot's VALID frees the slot. -/
  | stwCaptureStatus (v : W32)
  /-- BOOT (R817). PORST_N is released, and the device samples straps, verifies the image and boots to READY. -/
  | boot (force : Bool) (role : Bool) (addr : Fin 8) (stuck : Bool) (silent : List (BitVec 16)) (ppr : List (BitVec 40))
  /-- RECOVERY_STATUS (R822). A recovery STATUS request returns the first steward registers. -/
  | recoveryStatus (op : BitVec 8) (region : BitVec 8) (seq : W16) (len : W32) (rsv : W32) (off : W32)
  /-- RECOVERY_READ (R822). A recovery READ request reads a flash region. -/
  | recoveryRead (region : BitVec 8) (seq : W16) (len : W32) (rsv : W32) (off : W32)
  /-- ERASE (R822). A recovery ERASE request erases part of an allowed region. -/
  | erase (region : BitVec 8) (seq : W16) (len : W32) (rsv : W32) (off : W32)
  /-- RECOVERY_WRITE (R822). A recovery WRITE request programs part of an allowed region. -/
  | recoveryWrite (region : BitVec 8) (seq : W16) (len : W32) (rsv : W32) (off : W32) (data : List Byte)
  /-- VERIFY (R822). A recovery VERIFY request checks the image region. -/
  | verify (region : BitVec 8) (seq : W16) (len : W32) (rsv : W32) (off : W32)
  /-- RESTART (R822). A recovery RESTART request restarts boot from its first step. -/
  | restart (region : BitVec 8) (seq : W16) (len : W32) (rsv : W32) (off : W32)
  /-- CAL_READ (R840). STW_OP CAL_READ copies the calibration record to a buffer. -/
  | calRead
  /-- CAL_WRITE (R840). STW_OP CAL_WRITE checks and replaces the calibration record for the next boot. -/
  | calWrite
  /-- CFG_READ (R854). STW_OP CFG_READ copies the configuration record to a buffer. -/
  | cfgRead
  /-- CFG_WRITE (R826). STW_OP CFG_WRITE checks and programs a configuration record for the next boot. -/
  | cfgWrite
  /-- UPDATE (R824). STW_OP UPDATE verifies, programs and reverifies a new image. -/
  | update (param : W32)
  /-- ATTEST (R844). STW_OP ATTEST writes a signed attestation report over a nonce. -/
  | attest
  /-- IDENTITY_READ (R854). STW_OP IDENTITY_READ copies the identity certificate. -/
  | identityRead
  /-- CLAIM (R836). STW_OP CLAIM gives an unowned pin, timer or buffer to an owner. -/
  | claim (param : W32)
  /-- RELEASE (R836). STW_OP RELEASE frees a resource that the releasing owner holds. -/
  | release (param : W32)
  /-- MACSEC_INSTALL (R849). A key operation installs a MACsec association and zeroes the key registers. -/
  | macsecInstall (tray : Bool) (param : W32) (sci : W64)
  /-- MACSEC_SELECT (R849). A key operation makes an installed association the port's transmit association. -/
  | macsecSelect (tray : Bool) (param : W32)
  /-- HOST_TIMER_ALARM (R834). A host-owned always-on timer reaches its alarm time and sets TIMER in STW_IRQ_CAUSE. -/
  | hostTimerAlarm (timer : Fin 4)
  /-- TRAY_WAKE (R852). The tray controller writes TRAY_WAKE, which is a wake event. -/
  | trayWake (acc : TrayAccess)
  /-- ENTDAA (R851). The tray controller assigns the target a dynamic address. -/
  | entdaa (addr : BitVec 7)
  /-- DPX_LINK_CTRL (R414). A write to a transmitter's link control enables or disables it, starting the composer domain and link training if the sink asserts hot-plug detect, or is refused for reserved codes. -/
  | dpxLinkCtrl (tx : Fin 2) (v : W32)
  /-- LOSS_OF_LOCK (R414). A trained DisplayPort link loses lock, and the transmitter retrains within 100 ms. -/
  | lossOfLock (tx : Fin 2)
  /-- IQL_LINK_RETRAIN (R608). Every 1 s while an ON Ihlique port has LINK_UP 0, the port retrains, and LINK_UP returns to 1 when the link carries frames again. -/
  | iqlLinkRetrain (port : Fin 4) (up : Bool)
  /-- RETRAIN_END (R606). An Ihlique retrain completes within 10 ms, the port's width is set and held traffic is released and replayed. -/
  | retrainEnd (port : Fin 4) (lanes : BitVec 4)
  /-- LP_TEMP_UPDATE (R441). An LPDDR5X package's temperature report changes, and its controller sets the refresh rate the package requires. -/
  | lpTempUpdate (controller : Fin 8) (temp : BitVec 8) (rate : Fin 3)
  /-- REFCLK_LOST (R874). The 100 MHz or 156.25 MHz reference is absent for 10 µs while CLK_REQ_N is low, and the steward declares a fatal fault that starts a chip-level recovery. -/
  | refclkLost
  /-- ALWAYS_ON_SUPPLY_LOST (R699). The always-on supply is lost, and the device goes to OFF from any state, TRIPPED included, and releases TRAY_REQ_N. -/
  | alwaysOnSupplyLost
  /-- TCK (R877). A TCK edge advances the test access port, shifting its instruction or data register and applying EXTEST, HIGHZ, CLAMP or BYPASS as PORST_N allows. -/
  | tck (tms : Bool) (tdi : Bool) (pins : List Bool)
  /-- TRST_N (R880). TRST_N is driven low, and the TAP is reset with IDCODE selected and TDO high-Z. -/
  | trstN
  /-- FE_CTX_TABLE_BASE (R547). A write to a front-end table base, FE_SCHED_CFG or FE_PART_CFG is checked and refused while contexts exist or when out of range. -/
  | feCtxTableBase (reg : FeReg) (v : W64)
  /-- ETH_QP_TABLE_BASE (R601). A write to an Ethernet table base is refused while any queue pair is not RESET or any stream runs. -/
  | ethQpTableBase (table : EthTable) (v : W64)
  /-- ETH_PORT_MAC (R552). A write to a port's MAC or IP address registers takes effect only while the port is OFF, and is otherwise refused with RESOURCE_BUSY. -/
  | ethPortMac (port : Fin 8) (reg : PortReg) (v : W64)
  /-- LYR_WB_CTRL (R419). A write to a pipe's writeback control is checked for format and slot count and staged into the shadow state. -/
  | lyrWbCtrl (pipe : Fin 4) (v : W32)
  /-- IQL_CFG (R646). A write to IQL_CFG sets TX_TIMEOUT_US, or is refused if it is 0. -/
  | iqlCfg (v : W32)
  /-- INVALID_REQUEST (R565). A RoCEv2 request of an unsupported operation arrives and is answered with a NAK for an invalid request. -/
  | invalidRequest (qp : Fin 1024) (psn : BitVec 24) (ecn : Bool)
deriving DecidableEq, Repr

end Sys2Proof
end

