-- ==== Sys2Proof/Decode.lean ====
section
/-! DEFINITION. The word form of a command. The table of operations and events gives no row any bits: a command is an event at
the boundary of the device, not a word, so no word spells one. -/

namespace Sys2Proof

/-- The command that a word spells by the table's bits: none, because no row of the table gives bits. -/
def decodeTableWord (_nbits _w : Nat) : Option Instr := none

end Sys2Proof
end

