-- ==== Sys2Proof/Config.lean ====
section
/-! DEFINITION. What the spec leaves open: free values. Each is a constant without a body, so no proof can see what it is.
The assumption log says of each which rule leaves it open. -/

namespace Sys2Proof

/-- A fresh value, applied to the counter `free` of the state (log 8). -/
opaque Config.freeValue : Nat → W64

/-- The result of a special function, by function number and input bits: each is a fixed function of its input (R121, R267). It
picks the result among those that the accuracy bounds allow, or the whole result where the spec states none (log 21). -/
opaque Config.special : Nat → W32 → W32

/-- A value that the spec does not state, as a fixed function of its inputs: the first argument says which (log 23). -/
opaque Config.unstated : Nat → List W32 → W32

/-- Whether an OP value is reserved in the CONTROL, FENCE and ASYNC classes, by class and OP: the spec gives their numbers nowhere (R263;
log 105). -/
opaque Config.opReserved : Nat → Nat → Bool

/-- What can go wrong in memory, and when the system cache writes a line back (R430 to R439, R446). -/
inductive Upset where
  /-- bytes of a line's codeword in a DRAM array change: the data at 0 to 127, the check bytes from 128 on -/
  | cells (line : Nat) (bytes : List (Nat × Byte))
  /-- link ECC finds an error in a line's transfer that it cannot correct; whether the repeat fails too (R433) -/
  | bus (line : Nat) (again : Bool)
  /-- bits of a line in the system cache change (R439) -/
  | cache (line : Nat) (bits : List Nat)
  /-- the system cache writes a line back -/
  | evict (line : Nat)
deriving DecidableEq, Repr, Inhabited

/-- What happens to memory as the counter of free values stands at a number and the device waits for a command (log 108). -/
opaque Config.upset : Nat → Option Upset

/-- The way of its slice that a line of the system cache lies in (R443, R447; log 108). -/
opaque Config.scWay : Nat → Nat

/-- The 32-bit container of an audio sample of 2 or 3 bytes as carried: R581 does not say where in it the sample lies (log 19). -/
opaque Config.aafContainer : Nat → List Byte → List Byte

/-- The credit, beyond one whole frame, that a receiver grants on a virtual channel as a link comes up, in 64-byte units: R615 gives no
size (log 109). -/
opaque Config.iqlCredit : Nat → Nat

/-- The DRAM row of a local address on its channel or controller: the spec gives no row geometry (log 38). -/
opaque Config.rowOf : Nat → Nat

/-! What a compressor chooses and R657 to R660 leave open (log 110): each is a fixed function of the stream (R659). -/

/-- What a cycle or a byte of a kind weighs where the estimated energy is divided among contexts: 0 a court cycle, 1 a core cycle, 2 a
raster cycle, 3 a byte of COMPRESS (R545; log 112). -/
opaque Config.energyWeight : Nat → Nat

/-- The hash of the next bytes, 3 for DEFLATE and 4 for Zstandard. -/
opaque Config.matchHash : Nat → List Byte → Nat

/-- The code lengths of a dynamic block as its header gives them, for a LEVEL and the counts of the symbols; used where they make codes
for every symbol of the block. -/
opaque Config.dynHeader : Nat → List Nat → List Nat → List Bool

/-- A compressed Zstandard block, for a LEVEL, the packed bytes before it, its literals and its sequences; used where it holds just
these. -/
opaque Config.zstdBlock : Nat → List Byte → List Byte → List (Nat × Nat × Nat) → List Byte

/-- Whether a fixed-Huffman block is written where a dynamic one is as small. -/
opaque Config.fixedFirst : Bool

/-- FLEVEL of a zlib header and XFL of a gzip header, for a LEVEL; the bytes that hold a Dictionary_ID. -/
opaque Config.zlibLevel : Nat → Nat
opaque Config.gzipXfl : Nat → Byte
opaque Config.dictIdSize : Nat → Nat

/-- How far a command reads ahead of the output that has filled its destinations (R663; log 111). -/
opaque Config.cdeAhead : List Nat → Nat → Nat

/-- The outputs of a command that ends with an ERROR, which R669 leaves undefined, for the bytes it had made. -/
opaque Config.cdeWreck : List Nat → List Byte → List Byte

/-- What a stream becomes whose dictionary changed under it (R666): its output, and an ERROR; for its parameters, both dictionaries and
its input. -/
opaque Config.cdeMixed : List Nat → List Byte → List Byte → List Byte → List Byte × Option Nat

/-- What a state record holds beyond its first 64 bytes, for its stream's parameters, input, flushes and output (R664). -/
opaque Config.statePrivate : List Nat → List Byte → List Nat → Nat → List Byte

/-- A field of the 64-byte header of the directory, whose layout the spec does not state: 0 SERIAL, 1 GRADE, 2 the base MAC address
(R842; log 49). -/
opaque Config.dirField : Nat → List Byte → W64

/-- Where the identity certificate lies in the directory (R842; log 49). -/
opaque Config.certAt : Nat

/-- The key hash fused at manufacture (R815). -/
opaque Config.fusedKeyHash : List Byte

/-- Whether an ML-DSA-44 signature verifies: key, hash and signature (R815; FIPS 204 stands outside the spec). -/
opaque Config.verifies : List Byte → List Byte → List Byte → Bool

/-- The identity key's ML-DSA-44 signature over a hash: its bytes (R843, R844). -/
opaque Config.signature : List Byte → Nat → Byte

/-- The ceiling of domain `i` (0 to 28), or for `i` from 32 the field issue share of court `i − 32`, in mW, in the calibration
record's power model, whose layout the spec does not state (R839; log 50). -/
opaque Config.powerModel : List Byte → Nat → Nat

/-- The voltage ceiling fused for a rail, in mV, by the RAIL codes of R831: no rule gives a value, but that of rail 0 is at most 900
(R688, R863; log 102). -/
opaque Config.railCeiling : Nat → Nat

/-- The base remaps of the calibration record, as journal entries: TYPE, UNIT, SUB and row address (R839; log 50). -/
opaque Config.baseRemaps : List Byte → List (Nat × Nat × Nat × Nat)

/-- What the data region of the flash keeps (R812): EPOCH, the boot watchdog count, the flush regions and the one flushed last. -/
structure DataFacts where
  epoch : Nat := 0
  misses : Nat := 0
  flushed : List (Option (List (Nat × W64))) := [none, none]
  lastFlush : Option Nat := none
deriving DecidableEq, Repr, Inhabited

/-- The bytes of the data region, whose layout the spec does not state (log 51). -/
opaque Config.dataBytes : DataFacts → Nat → Byte

/-- What the data region keeps once bytes from an offset have been erased (none) or programmed by the recovery service (log 51). -/
opaque Config.dataEdited : DataFacts → Nat → Option (List Byte) → DataFacts

end Sys2Proof
end

