-- ==== Sys2Proof/Machine/Bits.lean ====
section
/-! DEFINITION. Bit fields, sign extension and byte order (spec/00_scope.md R7, R8). -/

namespace Sys2Proof.Machine

/-- The bits `[hi:lo]` of a number. -/
def natBits (n hi lo : Nat) : Nat := n / 2 ^ lo % 2 ^ (hi + 1 - lo)

/-- Whether bit `i` of a number is 1. -/
def natBit (n i : Nat) : Bool := n / 2 ^ i % 2 = 1

/-- The bits `[hi:lo]` of a word. -/
def bitsOf {w : Nat} (v : BitVec w) (hi lo : Nat) : Nat := natBits v.toNat hi lo

/-- The word with its bits `[hi:lo]` replaced by `x`. -/
def putBits {w : Nat} (v : BitVec w) (hi lo x : Nat) : BitVec w :=
  BitVec.ofNat w (v.toNat - natBits v.toNat hi lo * 2 ^ lo + x % 2 ^ (hi + 1 - lo) * 2 ^ lo)

/-- The two's complement value of the low `w` bits of a number. -/
def signed (w n : Nat) : Int :=
  let v := n % 2 ^ w
  if 2 * v < 2 ^ w then (v : Int) else (v : Int) - 2 ^ w

/-- An integer as its low `w` bits. -/
def toBits (w : Nat) (v : Int) : Nat := (v % (2 ^ w : Nat)).toNat

/-- The little-endian number that bytes spell (R8). -/
def leNat : List Byte → Nat
  | [] => 0
  | b :: bs => b.toNat + 256 * leNat bs

/-- The `n` little-endian bytes of a number (R8). -/
def leBytes : Nat → Nat → List Byte
  | 0, _ => []
  | n + 1, v => BitVec.ofNat 8 v :: leBytes n (v / 256)

/-- The list whose entry `i` is `f i`, of length `n`. -/
def tabulate {α : Type} (n : Nat) (f : Nat → α) : List α := (List.range n).map f

/-- Whether `a` is a multiple of `n`. -/
def aligned (a n : Nat) : Bool := a % n = 0

/-- CRC-32C (R401) continued over further bytes from the value so far, which is 0 before the first: the reflected Castagnoli
polynomial, initial value and final exclusive-or all ones. -/
def crc32cFrom (v : W32) (bs : List Byte) : W32 :=
  let step (c : W32) : W32 := if c.toNat % 2 = 1 then (c >>> 1) ^^^ 0x82F63B78#32 else c >>> 1
  let byte (c : W32) (b : Byte) : W32 := (List.range 8).foldl (fun c _ => step c) (c ^^^ b.setWidth 32)
  (bs.foldl byte (v ^^^ 0xFFFFFFFF#32)) ^^^ 0xFFFFFFFF#32

/-- CRC-32C of bytes (R401). -/
def crc32c (bs : List Byte) : W32 := crc32cFrom 0 bs

end Sys2Proof.Machine
end

