-- ==== Sys2Proof/Machine/Inflate.lean ====
section
/-! DEFINITION. DEFLATE, zlib and gzip as the compression engine unpacks them (spec/13 R648, R667, R669), by the standards that R648 names:
RFC 1951, RFC 1950 and RFC 1952 (log 110). -/

namespace Sys2Proof.Machine

/-- Where unpacking stands once its input is used up or it must stop: it wants more input, its stream has ended, or the input is bad, with
an ERROR code of R669. -/
inductive Stop where
  | more
  | done
  | bad (error : Nat)
deriving DecidableEq, Repr

/-! ### Check values (R667) -/

/-- Adler-32 of bytes. -/
def adler32 (bs : List Byte) : Nat :=
  let p := bs.foldl (fun (p : Nat × Nat) b =>
    let a := (p.1 + b.toNat) % 65521
    (a, (p.2 + a) % 65521)) (1, 0)
  p.2 * 65536 + p.1

/-- CRC-32 of bytes, by the reflected polynomial 0xEDB88320. -/
def crc32 (bs : List Byte) : Nat :=
  let step (c : W32) : W32 := if c.toNat % 2 = 1 then (c >>> 1) ^^^ 0xEDB88320#32 else c >>> 1
  let byte (c : W32) (b : Byte) : W32 := (List.range 8).foldl (fun c _ => step c) (c ^^^ b.setWidth 32)
  ((bs.foldl byte 0xFFFFFFFF#32) ^^^ 0xFFFFFFFF#32).toNat

/-- The big-endian number that bytes spell. -/
def beNat (bs : List Byte) : Nat := leNat bs.reverse

/-! ### Bits -/

/-- The `n` low bits of a number, the lowest first. -/
def bitsLow (n v : Nat) : List Bool := tabulate n (natBit v)

/-- The number that bits spell, the lowest first. -/
def lowNat : List Bool → Nat
  | [] => 0
  | b :: bs => (if b then 1 else 0) + 2 * lowNat bs

/-- The bits of bytes, each from its lowest. -/
def bitsOfBytes (bs : List Byte) : List Bool := (bs.map (fun b => bitsLow 8 b.toNat)).flatten

/-- The whole bytes that bits make. -/
def bytesOfBits : List Bool → List Byte
  | a :: b :: c :: d :: e :: f :: g :: h :: bs => BitVec.ofNat 8 (lowNat [a, b, c, d, e, f, g, h]) :: bytesOfBits bs
  | _ => []

/-- A number of `n` bits from the front, lowest first; none where fewer are left. -/
def takeNum (n : Nat) (bs : List Bool) : Option (Nat × List Bool) :=
  if bs.length < n then none else some (lowNat (bs.take n), bs.drop n)

/-! ### Prefix codes (RFC 1951, 3.2.2) -/

/-- How many symbols have codes of each length from 0 to 15. -/
def lengthCounts (lens : List Nat) : List Nat := tabulate 16 (fun n => (lens.filter (· = n)).length)

/-- The symbols in the order of their codes. -/
def codeOrder (lens : List Nat) : List Nat :=
  (tabulate 15 (fun n => (lens.zipIdx.filter (fun x => x.1 = n + 1)).map (·.2))).flatten

/-- The room that code lengths leave in a code of 15 bits: 0 where they make a complete code, none where they are too many. -/
def codeRoom (lens : List Nat) : Option Nat :=
  let used := lens.foldl (fun n l => if l = 0 then n else n + 2 ^ (15 - l)) 0
  if 2 ^ 15 < used then none else some (2 ^ 15 - used)

/-- Whether code lengths make a code that a block may use: a complete one, or a single code of one bit. -/
def codeFits (lens : List Nat) : Bool :=
  codeRoom lens = some 0 || decide ((lens.filter (· ≠ 0)) = [1])

/-- A code, ready to be read: its counts and its symbols. -/
structure Prefix where
  counts : List Nat
  order : List Nat
deriving DecidableEq, Repr

def prefixOf (lens : List Nat) : Prefix := { counts := lengthCounts lens, order := codeOrder lens }

/-- A symbol is read, the first bit the highest of its code. `none` in the answer: no code begins so. `len`: the length in hand. -/
def readSymbol (p : Prefix) : Nat → Nat → Nat → Nat → Nat → List Bool → Option (Option Nat × List Bool)
  | 0, _, _, _, _, bs => some (none, bs)
  | fuel + 1, len, code, first, index, bs =>
    match bs with
    | [] => none
    | b :: bs =>
      let code := code + (if b then 1 else 0)
      let n := p.counts.getD len 0
      if code < first + n then some (some (p.order.getD (index + (code - first)) 0), bs)
      else readSymbol p fuel (len + 1) (2 * code) (2 * (first + n)) (index + n) bs

/-- The next symbol of a code. -/
def Prefix.read (p : Prefix) (bs : List Bool) : Option (Option Nat × List Bool) := readSymbol p 15 1 0 0 0 bs

/-- The bits of a symbol's code, the highest first. -/
def codeBits (lens : List Nat) (sym : Nat) : List Bool :=
  let l := lens.getD sym 0
  let firsts := (List.range l).foldl (fun c n => (c + (if n = 0 then 0 else (lens.filter (· = n)).length)) * 2) 0
  let before := ((lens.take sym).filter (· = l)).length
  (bitsLow l (firsts + before)).reverse

/-! ### Blocks (RFC 1951, 3.2) -/

/-- The base and the extra bits of the length codes 257 to 285, and of the distance codes. -/
def lengthBases : List (Nat × Nat) :=
  [(3, 0), (4, 0), (5, 0), (6, 0), (7, 0), (8, 0), (9, 0), (10, 0), (11, 1), (13, 1), (15, 1), (17, 1), (19, 2), (23, 2), (27, 2),
   (31, 2), (35, 3), (43, 3), (51, 3), (59, 3), (67, 4), (83, 4), (99, 4), (115, 4), (131, 5), (163, 5), (195, 5), (227, 5), (258, 0)]
def distBases : List (Nat × Nat) :=
  [(1, 0), (2, 0), (3, 0), (4, 0), (5, 1), (7, 1), (9, 2), (13, 2), (17, 3), (25, 3), (33, 4), (49, 4), (65, 5), (97, 5), (129, 6),
   (193, 6), (257, 7), (385, 7), (513, 8), (769, 8), (1025, 9), (1537, 9), (2049, 10), (3073, 10), (4097, 11), (6145, 11),
   (8193, 12), (12289, 12), (16385, 13), (24577, 13)]

/-- The lengths of the fixed codes. -/
def fixedLit : List Nat :=
  List.replicate 144 8 ++ List.replicate 112 9 ++ List.replicate 24 7 ++ List.replicate 8 8
def fixedDist : List Nat := List.replicate 30 5 ++ [5, 5]

/-- Output with the history below it, the newest byte first. -/
abbrev Hist := List Byte

/-- `n` bytes from distance `d` back are copied. -/
def copyBack (d : Nat) : Nat → Hist → Hist
  | 0, h => h
  | n + 1, h => copyBack d n (h.getD (d - 1) 0 :: h)

/-- The symbols of a block: where it ends or stops. `fuel` bounds them. -/
def inflateSyms (lit dist : Prefix) : Nat → Hist → List Bool → Hist × List Bool × Stop
  | 0, h, bs => (h, bs, .more)
  | fuel + 1, h, bs =>
    match lit.read bs with
    | none => (h, bs, .more)
    | some (none, _) => (h, bs, .bad 2)
    | some (some sym, bs') =>
      if sym < 256 then inflateSyms lit dist fuel (BitVec.ofNat 8 sym :: h) bs'
      else if sym = 256 then (h, bs', .done)
      else
        match lengthBases[sym - 257]? with
        | none => (h, bs, .bad 2)
        | some (base, extra) =>
          match takeNum extra bs' with
          | none => (h, bs, .more)
          | some (x, bs') =>
            match dist.read bs' with
            | none => (h, bs, .more)
            | some (none, _) => (h, bs, .bad 2)
            | some (some ds, bs') =>
              match distBases[ds]? with
              | none => (h, bs, .bad 2)
              | some (dbase, dextra) =>
                match takeNum dextra bs' with
                | none => (h, bs, .more)
                | some (y, bs') =>
                  if h.length < dbase + y then (h, bs, .bad 3)
                  else inflateSyms lit dist fuel (copyBack (dbase + y) (base + x) h) bs'

/-- The code lengths of a dynamic block, up to `n` of them; `none` in the answer: they are bad. `fuel` bounds them. -/
def readLengths (p : Prefix) : Nat → Nat → List Nat → List Bool → Option (Option (List Nat) × List Bool)
  | 0, _, acc, bs => some (some acc, bs)
  | fuel + 1, n, acc, bs =>
    if n ≤ acc.length then some (if acc.length = n then some acc else none, bs)
    else
      match p.read bs with
      | none => none
      | some (none, bs) => some (none, bs)
      | some (some sym, bs) =>
        if sym < 16 then readLengths p fuel n (acc ++ [sym]) bs
        else
          let (extra, base) := if sym = 16 then (2, 3) else if sym = 17 then (3, 3) else (7, 11)
          match takeNum extra bs with
          | none => none
          | some (x, bs) =>
            match (if sym = 16 then acc.getLast? else some 0) with
            | none => some (none, bs)
            | some v => readLengths p fuel n (acc ++ List.replicate (base + x) v) bs

/-- The order in which a dynamic block gives the lengths of the code-length code. -/
def clOrder : List Nat := [16, 17, 18, 0, 8, 7, 9, 6, 10, 5, 11, 4, 12, 3, 13, 2, 14, 1, 15]

/-- The code-length code's own lengths: `n` of 3 bits. -/
def readClLens : Nat → List Bool → Option (List Nat × List Bool)
  | 0, bs => some ([], bs)
  | n + 1, bs =>
    match takeNum 3 bs with
    | none => none
    | some (x, bs) => (readClLens n bs).map (fun r => (x :: r.1, r.2))

/-- The codes of a dynamic block: the lengths of both; `none` in the answer: they are bad. -/
def readTables (bs : List Bool) : Option (Option (List Nat × List Nat) × List Bool) :=
  match takeNum 14 bs with
  | none => none
  | some (v, bs) =>
    let hlit := v % 32 + 257
    let hdist := v / 32 % 32 + 1
    match readClLens (v / 1024 + 4) bs with
    | none => none
    | some (cls, bs) =>
      let lens := tabulate 19 (fun s => ((clOrder.zip cls).find? (fun x => x.1 = s)).elim 0 (·.2))
      if 286 < hlit ∨ 30 < hdist ∨ codeRoom lens ≠ some 0 then some (none, bs)
      else
        match readLengths (prefixOf lens) 320 (hlit + hdist) [] bs with
        | none => none
        | some (none, bs) => some (none, bs)
        | some (some all, bs) =>
          let lit := all.take hlit
          let dist := all.drop hlit
          let distOk := codeFits dist || dist.all (· = 0)
          some (if codeFits lit && distOk && decide (lit.getD 256 0 ≠ 0) then some (lit, dist) else none, bs)

/-- One block after its three header bits. -/
def inflateBlock (typ : Nat) (h : Hist) (bs : List Bool) : Hist × List Bool × Stop :=
  match typ with
  | 0 =>
    let bs := bs.drop (bs.length % 8)
    match takeNum 16 bs with
    | none => (h, bs, .more)
    | some (n, rest) =>
      match takeNum 16 rest with
      | none => (h, bs, .more)
      | some (c, rest) =>
        if n + c ≠ 65535 then (h, bs, .bad 2)
        else
          let k := min n (rest.length / 8)
          ((bytesOfBits (rest.take (8 * k))).reverse ++ h, rest.drop (8 * k), if k = n then .done else .more)
  | 1 => inflateSyms (prefixOf fixedLit) (prefixOf fixedDist) (bs.length + 1) h bs
  | 2 =>
    match readTables bs with
    | none => (h, bs, .more)
    | some (none, _) => (h, bs, .bad 2)
    | some (some (lit, dist), rest) => inflateSyms (prefixOf lit) (prefixOf dist) (rest.length + 1) h rest
  | _ => (h, bs, .bad 2)

/-- The blocks of a DEFLATE stream. `fuel` bounds them. -/
def inflateBits : Nat → Hist → List Bool → Hist × List Bool × Stop
  | 0, h, bs => (h, bs, .more)
  | fuel + 1, h, bs =>
    match takeNum 3 bs with
    | none => (h, bs, .more)
    | some (v, rest) =>
      match inflateBlock (v / 2) h rest with
      | (h, bs, .done) => if v % 2 = 1 then (h, bs, .done) else inflateBits fuel h bs
      | r => r

/-! ### Streams -/

/-- What unpacking has made of a stream's packed bytes so far: the plain bytes, the packed bytes not used, how it stands, whether the
input may end here, the frames or members completed, the skippable frames skipped and the dictionary named last. -/
structure Unpacked where
  out : List Byte := []
  rest : List Byte := []
  stop : Stop := .more
  edge : Bool := false
  frames : Nat := 0
  skipped : Nat := 0
  dictSeen : Nat := 0
deriving DecidableEq, Repr

/-- A raw DEFLATE stream over a preset history. -/
def inflate (dict bs : List Byte) : Unpacked :=
  let bits := bitsOfBytes bs
  let hist := dict.reverse.take 32768
  let (h, rest, stop) := inflateBits (bits.length + 1) hist bits
  { out := (h.take (h.length - hist.length)).reverse, rest := bs.drop (bs.length - rest.length / 8), stop := stop,
    edge := decide (stop = .done) }

/-- A check value of `n` bytes follows a stream's end. -/
def Unpacked.checked (u : Unpacked) (n : Nat) (good : List Byte → Bool) : Unpacked :=
  match u.stop with
  | .done =>
    if u.rest.length < n then { u with stop := .more, edge := false }
    else if good (u.rest.take n) then { u with rest := u.rest.drop n }
    else { u with stop := .bad 4, edge := false }
  | _ => u

/-- A zlib stream (RFC 1950). -/
def unzlib (dict bs : List Byte) : Unpacked :=
  match bs with
  | cmf :: flg :: rest =>
    if cmf.toNat % 16 ≠ 8 ∨ 7 < cmf.toNat / 16 ∨ (cmf.toNat * 256 + flg.toNat) % 31 ≠ 0 then { rest := bs, stop := .bad 1 }
    else
      let go (dict rest : List Byte) : Unpacked :=
        let u := inflate dict rest
        u.checked 4 (fun c => decide (beNat c = adler32 u.out))
      if natBit flg.toNat 5 then
        (if rest.length < 4 then { rest := bs }
         else if dict.isEmpty ∨ beNat (rest.take 4) ≠ adler32 dict then { rest := bs, stop := .bad 7 }
         else go dict (rest.drop 4))
      else go [] rest
  | _ => { rest := bs }

/-- A field of a gzip header that ends in a zero byte: what follows it. -/
def afterZero (bs : List Byte) : Option (List Byte) :=
  match bs.dropWhile (· ≠ 0) with
  | [] => none
  | _ :: rest => some rest

/-- What follows a gzip header (RFC 1952); `none` where it is not whole. -/
def gzipBody (bs : List Byte) : Option (List Byte) :=
  if bs.length < 10 then none
  else
    let flg := (bs.getD 3 0).toNat
    let extra : Option (List Byte) :=
      if natBit flg 2 then
        (let r := bs.drop 10
         if r.length < 2 ∨ (r.drop 2).length < leNat (r.take 2) then none else some (r.drop (2 + leNat (r.take 2))))
      else some (bs.drop 10)
    let name := extra.bind (fun r => if natBit flg 3 then afterZero r else some r)
    let comment := name.bind (fun r => if natBit flg 4 then afterZero r else some r)
    comment.bind (fun r => if natBit flg 1 then (if r.length < 2 then none else some (r.drop 2)) else some r)

/-- One gzip member (RFC 1952). -/
def gunzipOne (bs : List Byte) : Unpacked :=
  let flg := (bs.getD 3 0).toNat
  if bs.take 3 ≠ ([0x1F, 0x8B, 8] : List Byte).take bs.length ∨ 32 ≤ flg then { rest := bs, stop := .bad 1 }
  else
    match gzipBody bs with
    | none => { rest := bs }
    | some body =>
      let head := bs.take (bs.length - body.length)
      if natBit flg 1 && decide (leNat (head.drop (head.length - 2)) ≠ crc32 (head.take (head.length - 2)) % 65536) then
        { rest := bs, stop := .bad 4 }
      else
        let u := inflate [] body
        u.checked 8 (fun c => decide (leNat (c.take 4) = crc32 u.out ∧ leNat (c.drop 4) = u.out.length % 2 ^ 32))

/-- Consecutive gzip members. `fuel` bounds them. -/
def gunzip : Nat → List Byte → Unpacked
  | 0, bs => { rest := bs }
  | fuel + 1, bs =>
    let u := gunzipOne bs
    match u.stop with
    | .done =>
      if u.rest.isEmpty then { u with stop := .more, frames := 1 }
      else
        let v := gunzip fuel u.rest
        { v with out := u.out ++ v.out, frames := 1 + v.frames }
    | _ => u

end Sys2Proof.Machine
end

