-- ==== Sys2Proof/Machine/Zstd.lean ====
section
/-! DEFINITION. Zstandard as the compression engine unpacks it (spec/13 R648 to R650, R667, R669), by the standard that R648 names: RFC 8878
(log 110). -/

namespace Sys2Proof.Machine

/-! ### The content checksum -/

/-- The constants and one round of XXH64. -/
def xxP1 : W64 := 0x9E3779B185EBCA87#64
def xxP2 : W64 := 0xC2B2AE3D27D4EB4F#64
def xxP3 : W64 := 0x165667B19E3779F9#64
def xxP4 : W64 := 0x85EBCA77C2B2AE63#64
def xxP5 : W64 := 0x27D4EB2F165667C5#64
def xxRound (acc lane : W64) : W64 := (acc + lane * xxP2).rotateLeft 31 * xxP1
def xxMerge (h v : W64) : W64 := (h ^^^ xxRound 0 v) * xxP1 + xxP4

/-- The little-endian word at a place. -/
def wordOfBytes (bs : List Byte) (n : Nat) : W64 := BitVec.ofNat 64 (leNat (bs.take n))

/-- The stripes of 32 bytes, into four lanes: the lanes and what is left over. -/
def xxStripes : Nat → W64 → W64 → W64 → W64 → List Byte → W64 × List Byte
  | 0, a, b, c, d, bs => (xxMerge (xxMerge (xxMerge (xxMerge
      (a.rotateLeft 1 + b.rotateLeft 7 + c.rotateLeft 12 + d.rotateLeft 18) a) b) c) d, bs)
  | n + 1, a, b, c, d, bs =>
    xxStripes n (xxRound a (wordOfBytes bs 8)) (xxRound b (wordOfBytes (bs.drop 8) 8)) (xxRound c (wordOfBytes (bs.drop 16) 8))
      (xxRound d (wordOfBytes (bs.drop 24) 8)) (bs.drop 32)

/-- The last bytes, fewer than 32. `fuel` bounds the steps. -/
def xxTail : Nat → W64 → List Byte → W64
  | 0, h, _ => h
  | fuel + 1, h, bs =>
    if 8 ≤ bs.length then
      xxTail fuel ((h ^^^ xxRound 0 (wordOfBytes bs 8)).rotateLeft 27 * xxP1 + xxP4) (bs.drop 8)
    else if 4 ≤ bs.length then xxTail fuel ((h ^^^ wordOfBytes bs 4 * xxP1).rotateLeft 23 * xxP2 + xxP3) (bs.drop 4)
    else
      match bs with
      | [] => h
      | b :: bs => xxTail fuel ((h ^^^ b.setWidth 64 * xxP5).rotateLeft 11 * xxP1) bs

/-- XXH64 of bytes, with seed 0. -/
def xxh64 (bs : List Byte) : W64 :=
  let n := BitVec.ofNat 64 bs.length
  let (h, rest) := if 32 ≤ bs.length then xxStripes (bs.length / 32) (xxP1 + xxP2) xxP2 0 (0 - xxP1) bs else (xxP5, bs)
  let h := xxTail 32 (h + n) rest
  let h := (h ^^^ (h >>> 33)) * xxP2
  let h := (h ^^^ (h >>> 29)) * xxP3
  h ^^^ (h >>> 32)

/-! ### Bits read backwards -/

/-- The bits of a stream that is read from its end: what follows the highest set bit of its last byte, highest first. -/
def backBits (bs : List Byte) : Option (List Bool) :=
  match bs.getLast? with
  | none => none
  | some b => if b = 0 then none else some (((bitsOfBytes bs).reverse.dropWhile (!·)).drop 1)

/-- A number of `n` bits, the first the highest; bits past the end read as 0. -/
def peekBack (n : Nat) (bs : List Bool) : Nat :=
  (List.range n).foldl (fun v i => 2 * v + (if bs.getD i false then 1 else 0)) 0

/-- The same, taken; none where fewer bits are left. -/
def readBack (n : Nat) (bs : List Bool) : Option (Nat × List Bool) :=
  if bs.length < n then none else some (peekBack n bs, bs.drop n)

/-! ### Finite-state entropy (RFC 8878, 4.1) -/

/-- A table: for each state its symbol, the bits that its next state reads, and what they are added to; with the bits of a state. -/
structure Fse where
  log : Nat
  cells : List (Nat × Nat × Nat)
deriving DecidableEq, Repr

/-- The counts of symbols over the cells of a table, given a distribution; a probability below 1 takes one cell. -/
def fseCells (p : Int) : Nat := if p < 0 then 1 else p.toNat

/-- Where the cells of the symbols lie: those of a probability below 1 at the end, the others in steps. -/
def fseSpread (log : Nat) (probs : List Int) : List Nat :=
  let size := 2 ^ log
  let low := (probs.zipIdx.filter (fun x => decide (x.1 < 0))).map (·.2)
  let high := size - low.length
  let step := size / 2 + size / 8 + 3
  let places := (tabulate size (fun i => i * step % size)).filter (· < high)
  let syms := (probs.zipIdx.map (fun x => List.replicate (if x.1 < 0 then 0 else x.1.toNat) x.2)).flatten
  tabulate size (fun i =>
    if high ≤ i then low.getD (size - 1 - i) 0
    else ((places.zip syms).find? (fun x => x.1 = i)).elim 0 (·.2))

/-- The table of a distribution. -/
def fseTable (log : Nat) (probs : List Int) : Fse :=
  let spread := fseSpread log probs
  { log := log
    cells := (spread.foldl (fun (acc : List (Nat × Nat × Nat) × List Nat) sym =>
      let k := fseCells (probs.getD sym 0) + (acc.2.filter (· = sym)).length
      let bits := log - Nat.log2 k
      (acc.1 ++ [(sym, bits, k * 2 ^ bits - 2 ^ log)], acc.2 ++ [sym])) ([], [])).1 }

/-- A table of one symbol. -/
def fseOnly (sym : Nat) : Fse := { log := 0, cells := [(sym, 0, 0)] }

/-- Zeros that follow a probability of 0: two bits at a time. `fuel` bounds them. -/
def fseZeros : Nat → List Int → List Bool → Option (List Int × List Bool)
  | 0, acc, bs => some (acc, bs)
  | fuel + 1, acc, bs =>
    match takeNum 2 bs with
    | none => none
    | some (n, bs) =>
      let acc := acc ++ List.replicate n 0
      if n = 3 then fseZeros fuel acc bs else some (acc, bs)

/-- The probabilities of a table's description. `left`: cells not given away. `fuel` bounds the symbols. -/
def fseProbs : Nat → Nat → List Int → List Bool → Option (List Int × List Bool)
  | 0, _, _, _ => none
  | fuel + 1, left, acc, bs =>
    if left = 0 then some (acc, bs)
    else
      let n := Nat.log2 (left + 1) + 1
      let spare := 2 ^ n - 1 - (left + 1)
      match takeNum n bs with
      | none => none
      | some (v, bs') =>
        let lowV := v % 2 ^ (n - 1)
        let (v, bs) := if lowV < spare then (lowV, bs.drop (n - 1)) else ((if 2 ^ (n - 1) ≤ v then v - spare else v), bs')
        let p : Int := (v : Int) - 1
        if left < fseCells p then none
        else if p = 0 then
          match fseZeros 256 (acc ++ [0]) bs with
          | none => none
          | some (acc, bs) => fseProbs fuel left acc bs
        else fseProbs fuel (left - fseCells p) (acc ++ [p]) bs

/-- A table's description, at most `maxLog` bits of state and symbols up to `maxSym`: the table and the bytes that follow. -/
def readFse (maxLog maxSym : Nat) (bs : List Byte) : Option (Fse × List Byte) :=
  let bits := bitsOfBytes bs
  match takeNum 4 bits with
  | none => none
  | some (v, rest) =>
    let log := v + 5
    if maxLog < log then none
    else
      match fseProbs 300 (2 ^ log) [] rest with
      | none => none
      | some (probs, rest) =>
        if maxSym + 1 < probs.length then none
        else some (fseTable log probs, bs.drop (bs.length - rest.length / 8))

/-- The cell of a state. -/
def Fse.at (t : Fse) (state : Nat) : Nat × Nat × Nat := t.cells.getD state (0, 0, 0)

/-! ### Literals (RFC 8878, 3.1.1.3.1, 4.2) -/

/-- A Huffman table: the longest code's bits, and for each number of that many bits its symbol and the bits of its code. -/
structure Huff where
  log : Nat
  cells : List (Nat × Nat)
deriving DecidableEq, Repr

/-- Weights that two interleaved states give. `fuel` bounds them. -/
def fseWeights (t : Fse) : Nat → Nat → Nat → List Bool → List Nat
  | 0, _, _, _ => []
  | fuel + 1, a, b, bs =>
    let (sym, n, base) := t.at a
    match readBack n bs with
    | none => [sym, (t.at b).1]
    | some (v, bs) => sym :: fseWeights t fuel b (base + v) bs

/-- The table that weights make, the last weight being what makes the code complete. -/
def huffOf (ws : List Nat) : Option Huff :=
  let sum := ws.foldl (fun n w => if w = 0 then n else n + 2 ^ (w - 1)) 0
  if sum = 0 ∨ 255 < ws.length ∨ ws.any (fun w => decide (11 < w)) then none
  else
    let log := Nat.log2 sum + 1
    let left := 2 ^ log - sum
    if 11 < log ∨ 2 ^ Nat.log2 left ≠ left then none
    else
      let all := ws ++ [Nat.log2 left + 1]
      some { log := log
             cells := (tabulate log (fun i => ((all.zipIdx.filter (fun x => x.1 = i + 1)).map (fun x =>
               List.replicate (2 ^ i) (x.2, log - i))).flatten)).flatten }

/-- A Huffman table's description: the table and the bytes that follow. -/
def readHuff (bs : List Byte) : Option (Huff × List Byte) :=
  match bs with
  | [] => none
  | h :: rest =>
    if h.toNat < 128 then
      let desc := rest.take h.toNat
      if desc.length < h.toNat then none
      else
        match readFse 6 255 desc with
        | none => none
        | some (t, stream) =>
          (backBits stream).bind (fun bits =>
            (readBack t.log bits).bind (fun (a, bits) =>
              (readBack t.log bits).bind (fun (b, bits) =>
                (huffOf (fseWeights t 255 a b bits)).map (fun x => (x, rest.drop h.toNat)))))
    else
      let n := h.toNat - 127
      let k := (n + 1) / 2
      if rest.length < k then none
      else
        let ws := ((rest.take k).map (fun b => [b.toNat / 16, b.toNat % 16])).flatten
        (huffOf (ws.take n)).map (fun x => (x, rest.drop k))

/-- `n` symbols of a Huffman stream, which they use up. -/
def huffSyms (t : Huff) : Nat → List Bool → Option (List Byte)
  | 0, bs => if bs.isEmpty then some [] else none
  | n + 1, bs =>
    let (sym, k) := t.cells.getD (peekBack t.log bs) (0, 0)
    if bs.length < k then none else (huffSyms t n (bs.drop k)).map (BitVec.ofNat 8 sym :: ·)

/-- One Huffman stream of `n` symbols. -/
def huffStream (t : Huff) (n : Nat) (bs : List Byte) : Option (List Byte) := (backBits bs).bind (huffSyms t n)

/-- One stream, or four behind a jump table. -/
def huffStreams (t : Huff) (four : Bool) (n : Nat) (bs : List Byte) : Option (List Byte) :=
  if !four then huffStream t n bs
  else if bs.length < 6 then none
  else
    let a := leNat (bs.take 2)
    let b := leNat ((bs.drop 2).take 2)
    let c := leNat ((bs.drop 4).take 2)
    let rest := bs.drop 6
    let k := (n + 3) / 4
    if rest.length < a + b + c ∨ n < 3 * k then none
    else
      (huffStream t k (rest.take a)).bind (fun w =>
        (huffStream t k ((rest.drop a).take b)).bind (fun x =>
          (huffStream t k ((rest.drop (a + b)).take c)).bind (fun y =>
            (huffStream t (n - 3 * k) (rest.drop (a + b + c))).map (fun z => w ++ x ++ y ++ z))))

/-- What a frame's blocks hand to each other: the Huffman table, the three tables of sequences and the repeated offsets. -/
structure ZTables where
  huff : Option Huff := none
  ll : Option Fse := none
  off : Option Fse := none
  ml : Option Fse := none
  reps : Nat × Nat × Nat := (1, 4, 8)
deriving DecidableEq, Repr

/-- The literals section: the literals, the Huffman table then in force, and the bytes that follow. -/
def readLiterals (t : ZTables) (bs : List Byte) : Option (List Byte × Option Huff × List Byte) :=
  match bs with
  | [] => none
  | h :: _ =>
    let typ := h.toNat % 4
    let form := h.toNat / 4 % 4
    if typ < 2 then
      let (k, n) := if form % 2 = 0 then (1, h.toNat / 8)
        else if form = 1 then (2, leNat (bs.take 2) / 16) else (3, leNat (bs.take 3) / 16)
      let body := bs.drop k
      if bs.length < k then none
      else if typ = 0 then (if body.length < n then none else some (body.take n, t.huff, body.drop n))
      else
        match body with
        | [] => none
        | b :: rest => some (List.replicate n b, t.huff, rest)
    else
      let (k, w) := if form < 2 then (3, 10) else if form = 2 then (4, 14) else (5, 18)
      let v := leNat (bs.take k) / 16
      let n := v % 2 ^ w
      let size := v / 2 ^ w
      let body := bs.drop k
      if body.length < size then none
      else
        let tree : Option (Huff × List Byte) :=
          if typ = 2 then readHuff (body.take size) else t.huff.map (fun x => (x, body.take size))
        tree.bind (fun (x, data) => (huffStreams x (form ≠ 0) n data).map (fun ls => (ls, some x, body.drop size)))

/-! ### Sequences (RFC 8878, 3.1.1.3.2) -/

/-- The distributions that a block may take for granted. -/
def llDefault : List Int :=
  [4, 3, 2, 2, 2, 2, 2, 2, 2, 2, 2, 2, 2, 1, 1, 1, 2, 2, 2, 2, 2, 2, 2, 2, 2, 3, 2, 1, 1, 1, 1, 1, -1, -1, -1, -1]
def mlDefault : List Int :=
  [1, 4, 3, 2, 2, 2, 2, 2, 2, 1, 1, 1, 1, 1, 1, 1, 1, 1, 1, 1, 1, 1, 1, 1, 1, 1, 1, 1, 1, 1, 1, 1, 1, 1, 1, 1, 1, 1, 1, 1, 1, 1, 1,
   1, 1, 1, -1, -1, -1, -1, -1, -1, -1]
def offDefault : List Int :=
  [1, 1, 1, 1, 1, 1, 2, 2, 2, 1, 1, 1, 1, 1, 1, 1, 1, 1, 1, 1, 1, 1, 1, 1, -1, -1, -1, -1, -1]

/-- The base and the extra bits of the literal-length and match-length codes. -/
def llBases : List (Nat × Nat) :=
  tabulate 16 (fun i => (i, 0)) ++
  [(16, 1), (18, 1), (20, 1), (22, 1), (24, 2), (28, 2), (32, 3), (40, 3), (48, 4), (64, 6), (128, 7), (256, 8), (512, 9), (1024, 10),
   (2048, 11), (4096, 12), (8192, 13), (16384, 14), (32768, 15), (65536, 16)]
def mlBases : List (Nat × Nat) :=
  tabulate 32 (fun i => (i + 3, 0)) ++
  [(35, 1), (37, 1), (39, 1), (41, 1), (43, 2), (47, 2), (51, 3), (59, 3), (67, 4), (83, 4), (99, 5), (131, 7), (259, 8), (515, 9),
   (1027, 10), (2051, 11), (4099, 12), (8195, 13), (16387, 14), (32771, 15), (65539, 16)]

/-- One of the three tables of sequences, by its mode: the table and the bytes that follow. -/
def seqTable (mode : Nat) (dlog : Nat) (dflt : List Int) (maxLog maxSym : Nat) (old : Option Fse) (bs : List Byte) :
    Option (Fse × List Byte) :=
  match mode with
  | 0 => some (fseTable dlog dflt, bs)
  | 1 => match bs with
    | [] => none
    | b :: rest => if maxSym < b.toNat then none else some (fseOnly b.toNat, rest)
  | 2 => readFse maxLog maxSym bs
  | _ => old.map (fun t => (t, bs))

/-- A sequence: how many literals, then how many bytes from how far back. -/
structure Seq where
  lits : Nat
  len : Nat
  off : Nat
deriving DecidableEq, Repr

/-- The offset that a value stands for, and the repeated offsets after it; none where it is 0. -/
def resolveOff (r : Nat × Nat × Nat) (lits v : Nat) : Option (Nat × (Nat × Nat × Nat)) :=
  if 3 < v then some (v - 3, (v - 3, r.1, r.2.1))
  else
    match (if lits = 0 then v + 1 else v) with
    | 1 => some (r.1, r)
    | 2 => some (r.2.1, (r.2.1, r.1, r.2.2))
    | 3 => some (r.2.2, (r.2.2, r.1, r.2.1))
    | _ => if r.1 ≤ 1 then none else some (r.1 - 1, (r.1 - 1, r.1, r.2.1))

/-- The sequences of a block from their three states, which they use up the stream with. -/
def readSeqs (tl tf tm : Fse) : Nat → Nat → Nat → Nat → Nat × Nat × Nat → List Bool → Option (List Seq × (Nat × Nat × Nat))
  | 0, _, _, _, r, bs => if bs.isEmpty then some ([], r) else none
  | n + 1, sl, so, sm, r, bs =>
    let (lc, ln, lb) := tl.at sl
    let (oc, on, ob) := tf.at so
    let (mc, mn, mb) := tm.at sm
    let (lbase, lx) := llBases.getD lc (0, 0)
    let (mbase, mx) := mlBases.getD mc (0, 0)
    (readBack oc bs).bind (fun (o, bs) =>
      (readBack mx bs).bind (fun (m, bs) =>
        (readBack lx bs).bind (fun (l, bs) =>
          (resolveOff r (lbase + l) (2 ^ oc + o)).bind (fun (off, r) =>
            let here : Seq := { lits := lbase + l, len := mbase + m, off := off }
            if n = 0 then (readSeqs tl tf tm 0 0 0 0 r bs).map (fun x => (here :: x.1, x.2))
            else
              (readBack ln bs).bind (fun (a, bs) =>
                (readBack mn bs).bind (fun (b, bs) =>
                  (readBack on bs).bind (fun (c, bs) =>
                    (readSeqs tl tf tm n (lb + a) (ob + c) (mb + b) r bs).map (fun x => (here :: x.1, x.2)))))))))

/-- The number of sequences, and the bytes that follow it. -/
def readSeqCount (bs : List Byte) : Option (Nat × List Byte) :=
  match bs with
  | [] => none
  | a :: rest =>
    if a.toNat < 128 then some (a.toNat, rest)
    else if a.toNat < 255 then
      match rest with
      | [] => none
      | b :: rest => some ((a.toNat - 128) * 256 + b.toNat, rest)
    else
      match rest with
      | b :: c :: rest => some (b.toNat + c.toNat * 256 + 0x7F00, rest)
      | _ => none

/-- The sequences section: the sequences, and the tables after it. -/
def readSequences (t : ZTables) (bs : List Byte) : Option (List Seq × ZTables) :=
  (readSeqCount bs).bind (fun (n, bs) =>
    if n = 0 then (if bs.isEmpty then some ([], t) else none)
    else
      match bs with
      | [] => none
      | m :: bs =>
        if m.toNat % 4 ≠ 0 then none
        else
          (seqTable (m.toNat / 64) 6 llDefault 9 35 t.ll bs).bind (fun (tl, bs) =>
            (seqTable (m.toNat / 16 % 4) 5 offDefault 8 31 t.off bs).bind (fun (tf, bs) =>
              (seqTable (m.toNat / 4 % 4) 6 mlDefault 9 52 t.ml bs).bind (fun (tm, bs) =>
                (backBits bs).bind (fun bits =>
                  (readBack tl.log bits).bind (fun (sl, bits) =>
                    (readBack tf.log bits).bind (fun (so, bits) =>
                      (readBack tm.log bits).bind (fun (sm, bits) =>
                        (readSeqs tl tf tm n sl so sm t.reps bits).map (fun (x, r) =>
                          (x, { t with ll := some tl, off := some tf, ml := some tm, reps := r }))))))))))

/-- A compressed block: its literals, its sequences and the tables after it. -/
def readBlock (t : ZTables) (bs : List Byte) : Option (List Byte × List Seq × ZTables) :=
  (readLiterals t bs).bind (fun (lits, huff, rest) =>
    (readSequences { t with huff := huff } rest).map (fun (seqs, t) => (lits, seqs, t)))

/-- The sequences are carried out over the history; the literals left over follow. -/
def runSeqs : List Byte → List Seq → Hist → Hist × Stop
  | lits, [], h => (lits.reverse ++ h, .done)
  | lits, x :: xs, h =>
    if lits.length < x.lits then (h, .bad 2)
    else
      let h := (lits.take x.lits).reverse ++ h
      if h.length < x.off then (h, .bad 3) else runSeqs (lits.drop x.lits) xs (copyBack x.off x.len h)

/-! ### Frames (RFC 8878, 3.1.1) -/

/-- The blocks of a frame. `fuel` bounds them. -/
def zBlocks : Nat → ZTables → Hist → List Byte → Hist × List Byte × Stop
  | 0, _, h, bs => (h, bs, .more)
  | fuel + 1, t, h, bs =>
    if bs.length < 3 then (h, bs, .more)
    else
      let v := leNat (bs.take 3)
      let n := v / 8
      let body := bs.drop 3
      let next (t : ZTables) (h : Hist) (rest : List Byte) : Hist × List Byte × Stop :=
        if v % 2 = 1 then (h, rest, .done) else zBlocks fuel t h rest
      if 131072 < n then (h, bs, .bad 2)
      else
        match v / 2 % 4 with
        | 0 =>
          if body.length < n then (body.reverse ++ h, [], .more) else next t ((body.take n).reverse ++ h) (body.drop n)
        | 1 => match body with
          | [] => (h, bs, .more)
          | b :: rest => next t (List.replicate n b ++ h) rest
        | 2 =>
          if body.length < n then (h, bs, .more)
          else
            match readBlock t (body.take n) with
            | none => (h, bs, .bad 2)
            | some (lits, seqs, t') =>
              match runSeqs lits seqs h with
              | (h', .done) => if 131072 < h'.length - h.length then (h', bs, .bad 2) else next t' h' (body.drop n)
              | (h', stop) => (h', bs, stop)
        | _ => (h, bs, .bad 2)

/-- A frame's header: its window, its content size, its Dictionary_ID, whether a checksum follows it, and its bytes. -/
structure ZHeader where
  window : Nat
  size : Option Nat
  dictId : Nat
  sum : Bool
  bytes : Nat
deriving DecidableEq, Repr

/-- A frame's header after the magic number; none where it is not whole. -/
def readZHeader (bs : List Byte) : Option ZHeader :=
  match bs with
  | [] => none
  | d :: rest =>
    let single := natBit d.toNat 5
    let wn := if single then 0 else 1
    let dn := [0, 1, 2, 4].getD (d.toNat % 4) 0
    let sn := match d.toNat / 64 with
      | 0 => if single then 1 else 0
      | 1 => 2
      | 2 => 4
      | _ => 8
    if rest.length < wn + dn + sn then none
    else
      let w := (rest.getD 0 0).toNat
      let base := 2 ^ (10 + w / 8)
      let sz := leNat ((rest.drop (wn + dn)).take sn) + (if sn = 2 then 256 else 0)
      some { window := if single then sz else base + base / 8 * (w % 8)
             size := if sn = 0 then none else some sz
             dictId := leNat ((rest.drop wn).take dn), sum := natBit d.toNat 2, bytes := 1 + wn + dn + sn }

/-- A dictionary: the tables that it gives and its content, as history. None where one in the format of RFC 8878, 5, is bad. -/
def readDict (dict : List Byte) : Option (ZTables × Hist) :=
  if leNat (dict.take 4) ≠ 0xEC30A437 ∨ dict.length < 8 then some ({}, dict.reverse)
  else
    (readHuff (dict.drop 8)).bind (fun (hf, bs) =>
      (readFse 8 31 bs).bind (fun (tf, bs) =>
        (readFse 9 52 bs).bind (fun (tm, bs) =>
          (readFse 9 35 bs).bind (fun (tl, bs) =>
            if bs.length < 12 then none
            else
              let r (i : Nat) : Nat := leNat ((bs.drop (4 * i)).take 4)
              some ({ huff := some hf, ll := some tl, off := some tf, ml := some tm, reps := (r 0, r 1, r 2) },
                (bs.drop 12).reverse)))))

/-- One frame that is not skippable, its magic number apart (R649, R667, R669). -/
def unzstdFrame (wlog dictId : Nat) (dict bs : List Byte) : Unpacked :=
  match readZHeader bs with
  | none => { rest := bs }
  | some z =>
    let limit := min (2 ^ wlog) 8388608
    if natBit (bs.getD 0 0).toNat 3 then { rest := bs, stop := .bad 1 }
    else if limit < z.window then { rest := bs, stop := .bad 6 }
    else if (dictId ≠ 0 ∧ z.dictId ≠ 0 ∧ z.dictId ≠ dictId) ∨ (z.dictId ≠ 0 ∧ dict = []) then
      { rest := bs, stop := .bad 7, dictSeen := z.dictId }
    else
      match readDict dict with
      | none => { rest := bs, stop := .bad 2, dictSeen := z.dictId }
      | some (t, hist) =>
        let (h, rest, stop) := zBlocks (bs.length + 1) t hist (bs.drop z.bytes)
        let out := (h.take (h.length - hist.length)).reverse
        let u : Unpacked := { out := out, rest := rest, stop := stop, dictSeen := z.dictId }
        let u := if stop = .done ∧ z.size.any (fun n => decide (n ≠ out.length)) then { u with stop := .bad 4 } else u
        if z.sum then u.checked 4 (fun c => decide (leNat c = (xxh64 out).toNat % 2 ^ 32)) else u

/-- A run of Zstandard frames; a skippable one gives nothing and is counted (R650). `fuel` bounds them. -/
def unzstd (wlog dictId : Nat) (dict : List Byte) : Nat → List Byte → Unpacked
  | 0, bs => { rest := bs }
  | fuel + 1, bs =>
    if bs.isEmpty then { edge := true }
    else
      let magic := leNat (bs.take 4)
      let join (u v : Unpacked) : Unpacked :=
        { v with out := u.out ++ v.out, frames := u.frames + v.frames, skipped := u.skipped + v.skipped,
                 dictSeen := if v.frames = 0 ∧ v.dictSeen = 0 then u.dictSeen else v.dictSeen }
      if bs.length < 4 then { rest := bs }
      else if magic / 16 = 0x184D2A5 then
        (let n := leNat ((bs.drop 4).take 4)
         if bs.length < 8 ∨ (bs.drop 8).length < n then { rest := bs }
         else join { skipped := 1 } (unzstd wlog dictId dict fuel (bs.drop (8 + n))))
      else if magic ≠ 0xFD2FB528 then { rest := bs, stop := .bad 1 }
      else
        let u := unzstdFrame wlog dictId dict (bs.drop 4)
        match u.stop with
        | .done => join { u with frames := 1 } (unzstd wlog dictId dict fuel u.rest)
        | _ => u

end Sys2Proof.Machine
end

