-- ==== Sys2Proof/Machine/Pack.lean ====
section
/-! DEFINITION. What the compression engine packs (spec/13 R657 to R661, R667): the matcher, the blocks and the check values. The whole
packed output is a function of the stream's input, its flushes and its parameters (R659); what that function is beyond the rules is free
(log 110). -/

namespace Sys2Proof.Machine

open Sys2Proof

/-! ### Matching (R657) -/

/-- A byte as it is, or a match: its length and how far back it lies. -/
inductive Tok where
  | lit (b : Byte)
  | mat (len dist : Nat)
deriving DecidableEq, Repr

/-- What a matcher goes by: how many bytes it hashes, its window, its longest match, and LEVEL. -/
structure Matcher where
  key : Nat
  window : Nat
  longest : Nat
  level : Nat
deriving DecidableEq, Repr

/-- The chain depth and the lazy steps of a LEVEL. -/
def Matcher.depth (m : Matcher) : Nat := [0, 4, 32, 256].getD m.level 0
def Matcher.lazy (m : Matcher) : Nat := [0, 0, 1, 2].getD m.level 0

/-- The bytes that begin `d` before the next one. -/
def fromBack (h : Hist) (ahead : List Byte) (d : Nat) : List Byte := (h.take d).reverse ++ ahead

/-- The chain of earlier positions in the window with the hash of the next bytes, nearest first, up to the depth. -/
def Matcher.chain (m : Matcher) (h : Hist) (ahead : List Byte) : List Nat :=
  if ahead.length < m.key then []
  else
    let hash (bs : List Byte) : Nat := Config.matchHash m.key (bs.take m.key)
    (((List.range (min m.window h.length)).map (· + 1)).filter (fun d => hash (fromBack h ahead d) = hash ahead)).take m.depth

/-- How many bytes two lists begin with in common. -/
def commonLen (a b : List Byte) : Nat := ((a.zip b).takeWhile (fun p => p.1 = p.2)).length

/-- The longest match of the chain, the nearest of equals: its length, 0 for none of 3 bytes, and its distance. -/
def Matcher.best (m : Matcher) (h : Hist) (ahead : List Byte) : Nat × Nat :=
  (m.chain h ahead).foldl (fun acc d =>
    let n := min m.longest (commonLen (fromBack h ahead d) ahead)
    if 3 ≤ n ∧ acc.1 < n then (n, d) else acc) (0, 0)

/-- Whether a match begun at one of the next positions that lazy matching looks at is longer than `n`. -/
def Matcher.later (m : Matcher) (h : Hist) (ahead : List Byte) (n : Nat) : Bool :=
  (List.range m.lazy).any (fun i =>
    decide (n < (m.best ((ahead.take (i + 1)).reverse ++ h) (ahead.drop (i + 1))).1))

/-- A block as literals and matches. `fuel` bounds them. -/
def Matcher.tokens (m : Matcher) : Nat → Hist → List Byte → List Tok
  | 0, _, _ => []
  | fuel + 1, h, ahead =>
    match ahead with
    | [] => []
    | b :: rest =>
      let (n, d) := m.best h ahead
      if n = 0 ∨ m.later h ahead n then .lit b :: m.tokens fuel (b :: h) rest
      else .mat n d :: m.tokens fuel ((ahead.take n).reverse ++ h) (ahead.drop n)

/-! ### DEFLATE blocks (R658) -/

/-- The code of a value in a table of bases, and its extra bits. -/
def codeFor (bases : List (Nat × Nat)) (v : Nat) : Nat × List Bool :=
  match ((bases.zipIdx.filter (fun x => decide (x.1.1 ≤ v))).getLast?) with
  | none => (0, [])
  | some (e, i) => (i, bitsLow e.2 (v - e.1))

/-- The literal or length symbol of a token, and its distance symbol. -/
def Tok.litSym : Tok → Nat
  | .lit b => b.toNat
  | .mat n _ => 257 + (codeFor lengthBases n).1
def Tok.distSym : Tok → Option Nat
  | .lit _ => none
  | .mat _ d => some (codeFor distBases d).1

/-- A token in a pair of codes. -/
def Tok.bits (lit dist : List Nat) (t : Tok) : List Bool :=
  codeBits lit t.litSym ++ (match t with
    | .lit _ => []
    | .mat n d => (codeFor lengthBases n).2 ++ codeBits dist (codeFor distBases d).1 ++ (codeFor distBases d).2)

/-- The tokens of a block and its end, in a pair of codes. -/
def tokenBits (lit dist : List Nat) (ts : List Tok) : List Bool := (ts.map (Tok.bits lit dist)).flatten ++ codeBits lit 256

/-- The header of a dynamic block: the codes that it gives, where they have one for every symbol. -/
def dynCodes (level : Nat) (ts : List Tok) : Option (List Bool × List Nat × List Nat) :=
  let ls := ts.map Tok.litSym ++ [256]
  let ds := ts.filterMap Tok.distSym
  let h := Config.dynHeader level (tabulate 286 (fun s => (ls.filter (· = s)).length)) (tabulate 30 (fun s => (ds.filter (· = s)).length))
  match readTables h with
  | some (some (lit, dist), []) =>
    if ls.all (fun s => decide (lit.getD s 0 ≠ 0)) && ds.all (fun s => decide (dist.getD s 0 ≠ 0)) then some (h, lit, dist) else none
  | _ => none

/-- Zeros up to a byte's end, `n` bits into the stream. -/
def padBits (n : Nat) : List Bool := List.replicate ((8 - n % 8) % 8) false

/-- A stored block that begins `n` bits into the stream. -/
def storedBits (last : Bool) (n : Nat) (bs : List Byte) : List Bool :=
  [last, false, false] ++ padBits (n + 3) ++ bitsLow 16 bs.length ++ bitsLow 16 (65535 - bs.length) ++ bitsOfBytes bs

/-- A block of input: the smallest of a stored, a fixed and a dynamic one; of equals the stored one. -/
def deflateBlock (m : Matcher) (h : Hist) (n : Nat) (bs : List Byte) : List Bool :=
  let ts := m.tokens (bs.length + 1) h bs
  let stored := storedBits false n bs
  let fixed := [false, true, false] ++ tokenBits fixedLit fixedDist ts
  let huff := match dynCodes m.level ts with
    | none => fixed
    | some (head, lit, dist) =>
      let dyn := [false, false, true] ++ head ++ tokenBits lit dist ts
      if dyn.length < fixed.length ∨ (dyn.length = fixed.length ∧ !Config.fixedFirst) then dyn else fixed
  if huff.length < stored.length then huff else stored

/-! ### Cutting a stream into blocks (R658, R660) -/

/-- Blocks of `k` bytes, with the rest as a last one if `all`. `fuel` bounds them. -/
def cutBlocks (k : Nat) (all : Bool) : Nat → List Byte → List (List Byte)
  | 0, _ => []
  | fuel + 1, bs =>
    if bs.isEmpty ∨ (bs.length < k ∧ !all) then []
    else bs.take k :: cutBlocks k all fuel (bs.drop k)

/-- The input up to each flush, and what follows the last. -/
def cutFlushes (bs : List Byte) (flushes : List Nat) : List (List Byte) × List Byte :=
  flushes.foldl (fun acc f =>
    let done := (acc.1.map List.length).sum
    (acc.1 ++ [acc.2.take (f - done)], acc.2.drop (f - done))) ([], bs)

/-- Blocks put after one another, each with the history before it. -/
def deflateBlocks (m : Matcher) (h : Hist) (bits : List Bool) (blocks : List (List Byte)) : Hist × List Bool :=
  blocks.foldl (fun acc bs => (bs.reverse ++ acc.1, acc.2 ++ deflateBlock m acc.1 acc.2.length bs)) (h, bits)

/-- The DEFLATE bits of a stream so far: every flush ends its block and adds an empty stored one, the last with BFINAL. -/
def deflateAll (m : Matcher) (h : Hist) (bs : List Byte) (flushes : List Nat) (final : Bool) : List Bool :=
  let (segs, rest) := cutFlushes bs flushes
  let (h, bits) := segs.foldl (fun acc seg =>
    let (h, bits) := deflateBlocks m acc.1 acc.2 (cutBlocks 65535 true (seg.length + 1) seg)
    (h, bits ++ storedBits false bits.length [])) (h, [])
  let (_, bits) := deflateBlocks m h bits (cutBlocks 65535 final (rest.length + 1) rest)
  if final then bits ++ storedBits true bits.length [] else bits

/-! ### Zstandard blocks (R658) -/

/-- The literals and the sequences of tokens; `n` literals wait for their match. -/
def litsOf (ts : List Tok) : List Byte := ts.filterMap (fun t => match t with
  | .lit b => some b
  | .mat .. => none)
def seqsOf : Nat → List Tok → List Seq
  | _, [] => []
  | n, .lit _ :: ts => seqsOf (n + 1) ts
  | n, .mat len d :: ts => { lits := n, len := len, off := d } :: seqsOf 0 ts

/-- What blocks have made so far: the tables, the history and the packed bytes. -/
structure ZPacked where
  tables : ZTables
  hist : Hist
  bytes : List Byte
deriving DecidableEq, Repr

/-- A block's three bytes of header. -/
def zBlockHead (last : Bool) (typ n : Nat) : List Byte := leBytes 3 (n * 8 + typ * 2 + (if last then 1 else 0))

/-- A block of input: the smallest of a raw, an RLE and a compressed one; of equals the raw one. -/
def zstdPut (m : Matcher) (last : Bool) (z : ZPacked) (bs : List Byte) : ZPacked :=
  let ts := m.tokens (bs.length + 1) z.hist bs
  let lits := litsOf ts
  let seqs := seqsOf 0 ts
  let body := Config.zstdBlock m.level z.bytes lits (seqs.map (fun x => (x.lits, x.len, x.off)))
  let packed : Option ZTables := match readBlock z.tables body with
    | some (l, q, t) => if l = lits ∧ q = seqs then some t else none
    | none => none
  let same : Option Byte := match bs with
    | b :: rest => if rest.all (· = b) then some b else none
    | [] => none
  let put (t : ZTables) (out : List Byte) : ZPacked := { tables := t, hist := bs.reverse ++ z.hist, bytes := z.bytes ++ out }
  let raw := put z.tables (zBlockHead last 0 bs.length ++ bs)
  let small := min bs.length (if same.isSome then 1 else bs.length)
  match packed, same with
  | some t, _ =>
    if body.length < small then put t (zBlockHead last 2 body.length ++ body)
    else (match same with
      | some b => if 1 < bs.length then put z.tables (zBlockHead last 1 bs.length ++ [b]) else raw
      | none => raw)
  | none, some b => if 1 < bs.length then put z.tables (zBlockHead last 1 bs.length ++ [b]) else raw
  | none, none => raw

/-- A frame's header (R648): its window, and DICT_ID in as many bytes as hold it. -/
def zstdHead (wlog zcheck dictId : Nat) : List Byte :=
  let k := Config.dictIdSize dictId
  let k := if dictId = 0 then 0 else if (k = 1 ∨ k = 2 ∨ k = 4) ∧ dictId < 256 ^ k then k else 4
  let code := if k = 4 then 3 else k
  leBytes 4 0xFD2FB528 ++ [BitVec.ofNat 8 (zcheck * 4 + code), BitVec.ofNat 8 ((wlog - 10) * 8)] ++ leBytes k dictId

/-- The bytes of a Zstandard stream so far: every flush ends its block; the last block is marked, an empty one where no input is pending
(R660). -/
def zstdAll (m : Matcher) (wlog zcheck dictId : Nat) (dict bs : List Byte) (flushes : List Nat) (final : Bool) : List Byte :=
  let (t, h) := (readDict dict).getD ({}, [])
  let (segs, rest) := cutFlushes bs flushes
  let z : ZPacked := { tables := t, hist := h, bytes := zstdHead wlog zcheck dictId }
  let z := (segs.map (fun seg => cutBlocks 131072 true (seg.length + 1) seg)).flatten.foldl (zstdPut m false) z
  let full := rest.length / 131072 * 131072
  let z := (cutBlocks 131072 false (rest.length + 1) (rest.take full)).foldl (zstdPut m false) z
  if final then
    (zstdPut m true z (rest.drop full)).bytes ++ (if zcheck = 1 then leBytes 4 (xxh64 bs).toNat else [])
  else z.bytes

/-! ### Streams (R648, R667) -/

/-- What fixes a stream's bytes beside its input and flushes (R659). -/
structure PackParams where
  format : Nat
  level : Nat
  wlog : Nat
  zcheck : Nat
  dictId : Nat
  dict : List Byte
deriving DecidableEq, Repr

/-- A zlib header: DEFLATE, a window of 32 KiB, FLEVEL, and FDICT and DICTID where there is a dictionary. -/
def zlibHead (level : Nat) (dict : List Byte) : List Byte :=
  let flg := Config.zlibLevel level % 4 * 64 + (if dict.isEmpty then 0 else 32)
  let flg := flg + (31 - (0x78 * 256 + flg) % 31) % 31
  [0x78, BitVec.ofNat 8 flg] ++ (if dict.isEmpty then [] else (leBytes 4 (adler32 dict)).reverse)

/-- A gzip header: no optional field, MTIME 0, OS 255. -/
def gzipHead (level : Nat) : List Byte := [0x1F, 0x8B, 8, 0, 0, 0, 0, 0, Config.gzipXfl level, 255]

/-- Everything that a COMPRESS stream has packed so far (R659): whole bytes only, up to 7 bits being held (R660). -/
def packed (p : PackParams) (bs : List Byte) (flushes : List Nat) (final : Bool) : List Byte :=
  if p.format = 3 then
    zstdAll { key := 4, window := 2 ^ p.wlog, longest := 65536, level := p.level } p.wlog p.zcheck p.dictId p.dict bs flushes final
  else
    let m : Matcher := { key := 3, window := 32768, longest := 258, level := p.level }
    let body := bytesOfBits (deflateAll m (p.dict.reverse.take 32768) bs flushes final)
    let last (tail : List Byte) : List Byte := if final then tail else []
    match p.format with
    | 0 => body
    | 1 => zlibHead p.level p.dict ++ body ++ last (leBytes 4 (adler32 bs)).reverse
    | _ => gzipHead p.level ++ body ++ last (leBytes 4 (crc32 bs) ++ leBytes 4 bs.length)

/-- Everything that a DECOMPRESS stream has made of its packed bytes so far (R648, R667, R669). -/
def unpacked (p : PackParams) (bs : List Byte) : Unpacked :=
  match p.format with
  | 0 => inflate p.dict bs
  | 1 => unzlib p.dict bs
  | 2 => if bs.isEmpty then {} else gunzip (bs.length + 1) bs
  | _ => unzstd p.wlog p.dictId p.dict (bs.length + 1) bs

end Sys2Proof.Machine
end

