-- ==== Sys2Proof/Machine/Num.lean ====
section
/-! DEFINITION. Number formats and exact arithmetic (spec/02_number_formats.md R59 to R100): decoding to the internal
form, the one rounding, conversion to storage formats, exact block sums and the absolute-maximum record. -/

namespace Sys2Proof.Machine

/-- The element formats of R59. -/
inductive Fmt where
  | fp32 | fp16 | bf16 | e4m3 | e5m2 | e3m2 | e2m3 | e2m1 | int8
deriving DecidableEq, Repr

/-- The FMT code of R59; `none` for a reserved code. -/
def Fmt.ofCode (c : Nat) : Option Fmt :=
  match c with
  | 0 => some .fp32
  | 1 => some .fp16
  | 2 => some .bf16
  | 4 => some .e4m3
  | 5 => some .e5m2
  | 6 => some .e3m2
  | 7 => some .e2m3
  | 8 => some .e2m1
  | 9 => some .int8
  | _ => none

/-- Element bits (R59). -/
def Fmt.width : Fmt → Nat
  | .fp32 => 32
  | .fp16 | .bf16 => 16
  | .e4m3 | .e5m2 | .int8 => 8
  | .e3m2 | .e2m3 => 6
  | .e2m1 => 4

/-- Width class, as the bits of its widest format (R59). -/
def Fmt.cls : Fmt → Nat
  | .fp32 => 32
  | .fp16 | .bf16 => 16
  | .e4m3 | .e5m2 | .e3m2 | .e2m3 | .int8 => 8
  | .e2m1 => 4

/-- Whether SCALED may be set (R59, R61). -/
def Fmt.scalable : Fmt → Bool
  | .fp32 | .fp16 | .bf16 => false
  | _ => true

/-- Fraction bits (R63). -/
def Fmt.frac : Fmt → Nat
  | .fp32 => 23
  | .fp16 => 10
  | .bf16 => 7
  | .e4m3 | .e2m3 => 3
  | .e5m2 | .e3m2 => 2
  | .e2m1 => 1
  | .int8 => 0

/-- Exponent bias (R63). -/
def Fmt.bias : Fmt → Int
  | .fp32 | .bf16 => 127
  | .fp16 | .e5m2 => 15
  | .e4m3 => 7
  | .e3m2 => 3
  | .e2m3 | .e2m1 => 1
  | .int8 => 0

/-- Whether subnormals are kept (R64, R72). -/
def Fmt.keepsSub : Fmt → Bool
  | .fp32 | .bf16 => false
  | _ => true

/-- `emax` of R95. -/
def Fmt.emax : Fmt → Int
  | .e4m3 => 8
  | .e5m2 | .fp16 => 15
  | .e3m2 => 4
  | .e2m3 | .e2m1 => 2
  | .int8 => 0
  | .fp32 | .bf16 => 127

/-- The largest finite magnitude, as an encoding without its sign (R64, R91). -/
def Fmt.maxCode : Fmt → Nat
  | .fp32 => 0x7F7FFFFF
  | .fp16 => 0x7BFF
  | .bf16 => 0x7F7F
  | .e4m3 => 0x7E
  | .e5m2 => 0x7B
  | .e3m2 | .e2m3 => 0x1F
  | .e2m1 => 0x7
  | .int8 => 0x7F

/-- The canonical NaN of R66; 0 for the formats without a NaN, which is what R91 writes for one. -/
def Fmt.nanCode : Fmt → Nat
  | .fp32 => 0x7FC00000
  | .fp16 => 0x7E00
  | .bf16 => 0x7FC0
  | .e4m3 | .e5m2 => 0x7F
  | .e3m2 | .e2m3 | .e2m1 | .int8 => 0

/-- The internal form of R71: a NaN, an infinity, or `(-1)^neg * m * 2^q`. -/
inductive Num where
  | nan
  | inf (neg : Bool)
  | fin (neg : Bool) (m : Nat) (q : Int)
deriving DecidableEq, Repr

/-- Whether the value is a zero of either sign. -/
def Num.isZero : Num → Bool
  | .fin _ m _ => decide (m = 0)
  | _ => false

def Num.isNan : Num → Bool
  | .nan => true
  | _ => false

/-- The sign of the value, false for a NaN. -/
def Num.isNeg : Num → Bool
  | .nan => false
  | .inf n => n
  | .fin n _ _ => n

/-- The value with its sign inverted. -/
def Num.negate : Num → Num
  | .nan => .nan
  | .inf n => .inf (!n)
  | .fin n m q => .fin (!n) m q

/-- The value without its sign. -/
def Num.abs : Num → Num
  | .nan => .nan
  | .inf _ => .inf false
  | .fin _ m q => .fin false m q

/-- R71's decode of one element's bits, with the special values of R64. -/
def Num.decode (f : Fmt) (b : Nat) : Num :=
  match f with
  | .int8 =>
    let v := b % 256
    if v < 128 then .fin false v (-6) else .fin true (256 - v) (-6)
  | f =>
    let p := f.frac
    let w := f.width
    let s := b / 2 ^ (w - 1) % 2 = 1
    let e := b / 2 ^ p % 2 ^ (w - 1 - p)
    let fr := b % 2 ^ p
    let top := 2 ^ (w - 1 - p) - 1
    let ieee := f = .fp32 ∨ f = .fp16 ∨ f = .bf16 ∨ f = .e5m2
    if ieee ∧ e = top ∧ fr ≠ 0 then .nan
    else if ieee ∧ e = top then .inf s
    else if f = .e4m3 ∧ e = top ∧ fr = 7 then .nan
    else if e = 0 then
      if f.keepsSub then .fin s fr (1 - f.bias - p) else .fin s 0 0
    else .fin s (fr + 2 ^ p) ((e : Int) - f.bias - p)

/-- The bits of a natural number: 0 for 0. -/
def bitLen (n : Nat) : Nat := if n = 0 then 0 else n.log2 + 1

/-- `m * 2^(-k)` rounded to an integer, to nearest with ties to even (R86). -/
def roundShift (m k : Nat) : Nat :=
  let t := m / 2 ^ k
  let r := m % 2 ^ k
  if 2 * r > 2 ^ k ∨ (2 * r = 2 ^ k ∧ t % 2 = 1) then t + 1 else t

/-- `m * 2^q` on the grid `2^g`, rounded to nearest with ties to even. -/
def onGrid (m : Nat) (q g : Int) : Nat :=
  if g ≤ q then m * 2 ^ (q - g).toNat else roundShift m (g - q).toNat

/-- `m * 2^q` rounded to `n` significant bits with an exponent of at least `gmin` on its grid (none: unbounded). The
answer is the integer on the grid and the grid's exponent. -/
def roundSig (n : Nat) (gmin : Option Int) (m : Nat) (q : Int) : Nat × Int :=
  let g := q + (bitLen m : Int) - n
  let g := match gmin with
    | none => g
    | some b => max g b
  (onGrid m q g, g)

/-- Whether `m * 2^q > m' * 2^q'`. -/
def magGt (m : Nat) (q : Int) (m' : Nat) (q' : Int) : Bool :=
  let b := min q q'
  decide (m * 2 ^ (q - b).toNat > m' * 2 ^ (q' - b).toNat)

/-- The sign bit of a format. -/
def Fmt.signBit (f : Fmt) (neg : Bool) : Nat := if neg then 2 ^ (f.width - 1) else 0

/-- The encoding without a sign of a finite non-zero magnitude `r * 2^g` that lies on the format's grid. -/
def Fmt.encodeMag (f : Fmt) (r : Nat) (g : Int) : Nat :=
  if r = 0 then 0
  else
    let p := f.frac
    let l := r.log2
    let e := (l : Int) + g + f.bias
    if e ≤ 0 then onGrid r g (1 - f.bias - p)
    else e.toNat * 2 ^ p + (if l ≤ p then r * 2 ^ (p - l) else r / 2 ^ (l - p)) - 2 ^ p

/-- What one conversion gives (R91): the element's bits, whether it saturated, whether it dropped a NaN. -/
structure Conv where
  bits : Nat
  sat : Bool := false
  dropped : Bool := false
deriving DecidableEq, Repr

/-- The result of an overflow or an infinite source in the target (R91). -/
def Fmt.overflow (f : Fmt) (nonSat neg : Bool) : Conv :=
  let s := f.signBit neg
  match f with
  | .fp32 => { bits := s + 0x7F800000 }
  | .fp16 => { bits := s + 0x7C00 }
  | .bf16 => { bits := s + 0x7F80 }
  | .e4m3 => if nonSat then { bits := 0x7F } else { bits := s + 0x7E, sat := true }
  | .e5m2 => if nonSat then { bits := s + 0x7C } else { bits := s + 0x7B, sat := true }
  | .int8 => { bits := if neg then 0x80 else 0x7F, sat := true }
  | _ => { bits := s + f.maxCode, sat := true }

/-- The conversion of a value to a format under an overflow mode (R90, R91). Mark: an INT8 result of exactly −2, which 0x80 holds, is
in range though its magnitude exceeds the largest finite value of R64 (log 94). -/
def Num.convert (f : Fmt) (nonSat : Bool) : Num → Conv
  | .nan => { bits := f.nanCode, dropped := decide (f = .e3m2 ∨ f = .e2m3 ∨ f = .e2m1 ∨ f = .int8) }
  | .inf neg => f.overflow nonSat neg
  | .fin neg m q =>
    match f with
    | .int8 =>
      let r := onGrid m q (-6)
      if neg then (if r > 128 then f.overflow nonSat neg else { bits := (256 - r) % 256 })
      else if r > 127 then f.overflow nonSat neg
      else { bits := r }
    | f =>
      let p := f.frac
      let (ru, gu) := roundSig (p + 1) none m q
      let lim : Num := Num.decode f f.maxCode
      let tooBig := match lim with
        | .fin _ lm lq => magGt ru gu lm lq
        | _ => false
      if tooBig then f.overflow nonSat neg
      else
        let (r, g) := if f.keepsSub then roundSig (p + 1) (some (1 - f.bias - p)) m q else (ru, gu)
        if !f.keepsSub ∧ (bitLen r : Int) + g ≤ 1 - f.bias then { bits := f.signBit neg }
        else { bits := f.signBit neg + f.encodeMag r g }

/-- The value rounded once to FP32 with the flush of R82. -/
def Num.toFp32 (x : Num) : W32 := BitVec.ofNat 32 (x.convert .fp32 false).bits
/-- The value rounded once to FP16, subnormals kept (R64). -/
def Num.toFp16 (x : Num) : W16 := BitVec.ofNat 16 (x.convert .fp16 false).bits
/-- An FP32 value as an arithmetic unit reads and writes it: a subnormal is a zero of its sign, a NaN the canonical one (R66, R72). -/
def fp32Read (b : W32) : W32 := (Num.decode .fp32 b.toNat).toFp32
/-- An FP32 encoding read by an arithmetic unit (R72). -/
def Num.ofFp32 (b : W32) : Num := Num.decode .fp32 b.toNat
/-- An FP16 encoding read by an arithmetic unit. -/
def Num.ofFp16 (b : W16) : Num := Num.decode .fp16 b.toNat

/-- The exact signed sum of two finite values; a zero sum is −0 only when both are negative (R85, IEEE 754-2019). -/
def Num.addFin (n1 : Bool) (m1 : Nat) (q1 : Int) (n2 : Bool) (m2 : Nat) (q2 : Int) : Num :=
  let b := min q1 q2
  let a1 : Int := m1 * 2 ^ (q1 - b).toNat
  let a2 : Int := m2 * 2 ^ (q2 - b).toNat
  let v := (if n1 then -a1 else a1) + (if n2 then -a2 else a2)
  if v = 0 then .fin (n1 && n2) 0 0 else .fin (decide (v < 0)) v.natAbs b

/-- The exact sum (R85). -/
def Num.add : Num → Num → Num
  | .nan, _ => .nan
  | _, .nan => .nan
  | .inf a, .inf b => if a = b then .inf a else .nan
  | .inf a, .fin .. => .inf a
  | .fin .., .inf b => .inf b
  | .fin n1 m1 q1, .fin n2 m2 q2 => Num.addFin n1 m1 q1 n2 m2 q2

/-- The exact product; an infinity times a zero is a NaN (R79, R83). -/
def Num.mul : Num → Num → Num
  | .nan, _ => .nan
  | _, .nan => .nan
  | .inf a, .inf b => .inf (a ^^ b)
  | .inf a, .fin n m _ => if m = 0 then .nan else .inf (a ^^ n)
  | .fin n m _, .inf b => if m = 0 then .nan else .inf (n ^^ b)
  | .fin n1 m1 q1, .fin n2 m2 q2 => .fin (n1 ^^ n2) (m1 * m2) (q1 + q2)

/-- The order of two values that are not NaNs, with −0 below +0 (R97). -/
def Num.lt : Num → Num → Bool
  | .inf a, .inf b => a && !b
  | .inf a, .fin .. => a
  | .fin .., .inf b => !b
  | .fin n1 m1 q1, .fin n2 m2 q2 =>
    if n1 = n2 then (if n1 then magGt m1 q1 m2 q2 else magGt m2 q2 m1 q1) else n1
  | _, _ => false

/-- IEEE ordered less-than: zeros of either sign are equal, a NaN is unordered. -/
def Num.ltIeee (a b : Num) : Bool := if a.isZero && b.isZero then false else a.lt b

/-- IEEE equality. -/
def Num.eqIeee (a b : Num) : Bool :=
  !a.isNan && !b.isNan && !a.ltIeee b && !b.ltIeee a

/-- maximumNumber (R97). -/
def Num.maxNum (a b : Num) : Num :=
  if a.isNan then b else if b.isNan then a else if a.lt b then b else a

/-- minimumNumber (R97). -/
def Num.minNum (a b : Num) : Num :=
  if a.isNan then b else if b.isNan then a else if b.lt a then b else a

/-- FP32 operations: one rounding, subnormals flushed on both sides (R72, R82, R85, R97). -/
def fp32Add (a b : W32) : W32 := ((Num.ofFp32 a).add (Num.ofFp32 b)).toFp32
def fp32Sub (a b : W32) : W32 := ((Num.ofFp32 a).add (Num.ofFp32 b).negate).toFp32
def fp32Mul (a b : W32) : W32 := ((Num.ofFp32 a).mul (Num.ofFp32 b)).toFp32
def fp32Fma (a b c : W32) : W32 := (((Num.ofFp32 a).mul (Num.ofFp32 b)).add (Num.ofFp32 c)).toFp32
def fp32Max (a b : W32) : W32 := ((Num.ofFp32 a).maxNum (Num.ofFp32 b)).toFp32
def fp32Min (a b : W32) : W32 := ((Num.ofFp32 a).minNum (Num.ofFp32 b)).toFp32

/-- FP16 operations: one rounding to FP16, subnormals kept. -/
def fp16Add (a b : W16) : W16 := ((Num.ofFp16 a).add (Num.ofFp16 b)).toFp16
def fp16Sub (a b : W16) : W16 := ((Num.ofFp16 a).add (Num.ofFp16 b).negate).toFp16
def fp16Mul (a b : W16) : W16 := ((Num.ofFp16 a).mul (Num.ofFp16 b)).toFp16
def fp16Fma (a b c : W16) : W16 := (((Num.ofFp16 a).mul (Num.ofFp16 b)).add (Num.ofFp16 c)).toFp16
def fp16Max (a b : W16) : W16 := ((Num.ofFp16 a).maxNum (Num.ofFp16 b)).toFp16
def fp16Min (a b : W16) : W16 := ((Num.ofFp16 a).minNum (Num.ofFp16 b)).toFp16

/-- The integer a value rounds to, to nearest with ties to even, clamped to `[lo, hi]`; a NaN gives 0. -/
def Num.toIntClamp (lo hi : Int) : Num → Int
  | .nan => 0
  | .inf n => if n then lo else hi
  | .fin n m q =>
    let r : Int := onGrid m q 0
    let v := if n then -r else r
    max lo (min hi v)

/-- The integer a value truncates to, clamped to `[lo, hi]`; a NaN gives 0. -/
def Num.truncClamp (lo hi : Int) : Num → Int
  | .nan => 0
  | .inf n => if n then lo else hi
  | .fin n m q =>
    let r : Int := if 0 ≤ q then m * 2 ^ q.toNat else m / 2 ^ (-q).toNat
    let v := if n then -r else r
    max lo (min hi v)

/-- An integer as an exact value. -/
def Num.ofInt (v : Int) : Num := .fin (decide (v < 0)) v.natAbs 0

/-- What one pass over the pairs of a block has found (R79, R80). -/
structure BlockAcc where
  nan : Bool := false
  posInf : Bool := false
  negInf : Bool := false
  allNegZero : Bool := true
  sum : Int := 0          -- in units of 2^-266 (R78); the 96-bit register of R77 is the same sum scaled
deriving DecidableEq, Repr

/-- One pair of a block enters the exact sum. -/
def BlockAcc.pair (acc : BlockAcc) (x y : Num) : BlockAcc :=
  match x.mul y with
  | .nan => { acc with nan := true }
  | .inf n => if n then { acc with negInf := true } else { acc with posInf := true }
  | .fin n m q =>
    let v : Int := (m : Int) * 2 ^ (q + 266).toNat
    { acc with
      allNegZero := acc.allNegZero && n && decide (m = 0)
      sum := acc.sum + (if n then -v else v) }

/-- The exact block sum and its one rounding (R77 to R82). `ea` and `eb` are the scale fields, 127 where unscaled. -/
def blockSum (pairs : List (Num × Num)) (ea eb : Nat) : W32 :=
  if ea = 255 ∨ eb = 255 then 0x7FC00000#32
  else
    let a : BlockAcc := pairs.foldl (fun (acc : BlockAcc) xy => acc.pair xy.1 xy.2) {}
    if a.nan ∨ (a.posInf ∧ a.negInf) then 0x7FC00000#32
    else if a.posInf then 0x7F800000#32
    else if a.negInf then 0xFF800000#32
    else if a.sum = 0 then (if a.allNegZero then 0x80000000#32 else 0#32)
    else (Num.fin (decide (a.sum < 0)) a.sum.natAbs (-266 + ((ea : Int) - 127) + ((eb : Int) - 127))).toFp32

/-- One product of the 32-bit class, rounded on its own (R83). -/
def product32 (x y : Num) (ea eb : Nat) : W32 :=
  if ea = 255 ∨ eb = 255 then 0x7FC00000#32
  else
    match x.mul y with
    | .fin n m q => (Num.fin n m (q + ((ea : Int) - 127) + ((eb : Int) - 127))).toFp32
    | z => z.toFp32

/-- The products per engine per court-clock cycle of a pair of width classes (R74). -/
def pairRate (a b : Nat) : Nat :=
  match max a b with
  | 4 => 512
  | 8 => 256
  | 16 => 128
  | _ => 32

/-- Element `i` of a packed vector whose bytes, little-endian, form `n` (R67). -/
def unpackElem (f : Fmt) (n i : Nat) : Nat := n / 2 ^ (f.width * i) % 2 ^ f.width

/-- The packed form of elements, as one little-endian number (R67). -/
def packElems (f : Fmt) : List Nat → Nat
  | [] => 0
  | e :: es => e % 2 ^ f.width + 2 ^ f.width * packElems f es

/-- The bytes that `n` packed elements take (R67). -/
def Fmt.packedBytes (f : Fmt) (n : Nat) : Nat := (f.width * n + 7) / 8

/-- The scale field a block is written with (R95): 0xFF for a NaN or an infinite M, 0x7F for a zero M. -/
def blockScale (f : Fmt) (xs : List Num) : Nat :=
  if xs.any (fun x => match x with
    | .fin .. => false
    | _ => true) then 0xFF
  else
    let top := xs.foldl (fun (a : Option Int) x => match x with
      | .fin _ m q =>
        if m = 0 then a
        else
          let e := (m.log2 : Int) + q
          match a with
          | none => some e
          | some b => some (max b e)
      | _ => a) none
    match top with
    | none => 0x7F
    | some e => (max 0 (min 254 (127 + e - f.emax))).toNat

/-- A block converted to a scaled operand (R95, R96): the scale field and each element's conversion. -/
def convertBlock (f : Fmt) (xs : List Num) : Nat × List Conv :=
  let sc := blockScale f xs
  if sc = 0xFF then (sc, xs.map (fun _ => { bits := 0 }))
  else (sc, xs.map (fun x => match x with
    | .fin n m q => (Num.fin n m (q + 127 - (sc : Int))).convert f false
    | x => x.convert f false))

/-- The absolute-maximum record takes in one FP32 value before conversion (R98, R99). -/
def amaxTake (r : W64) (x : W32) : W64 :=
  match Num.ofFp32 x with
  | .nan => r ||| 0x100000000#64
  | .inf _ => (r &&& 0xFFFFFFFF00000000#64) ||| 0x27F800000#64
  | .fin _ m _ =>
    let mag := if m = 0 then 0 else x.toNat % 2 ^ 31
    if mag > r.toNat % 2 ^ 32 then BitVec.ofNat 64 (r.toNat / 2 ^ 32 * 2 ^ 32 + mag) else r

/-- The record notes what a conversion saturated or dropped (R99). -/
def amaxConv (r : W64) (c : Conv) : W64 :=
  r ||| (if c.sat then 0x800000000#64 else 0#64) ||| (if c.dropped then 0x400000000#64 else 0#64)

/-- The merge of two records: flags joined, the larger magnitude kept (R123); +Inf once INF_SEEN is set (R99). -/
def amaxMerge (a b : W64) : W64 :=
  let fl := (a ||| b) &&& 0xF00000000#64
  let m := if fl.getLsbD 33 then 0x7F800000 else max (a.toNat % 2 ^ 32) (b.toNat % 2 ^ 32)
  fl ||| BitVec.ofNat 64 m

end Sys2Proof.Machine
end

