-- ==== Sys2Proof/Machine/RegName.lean ====
section
/-! DEFINITION. The names of the register families (spec/00_scope.md Registers; the register tables of every chapter).
Each name is the family's number in RegTable.lean; `Reg.key` joins it with an instance number. -/

namespace Sys2Proof.Machine.Reg

/-- `STW_ID`, 17_boot_trust_configuration.md R853. -/
abbrev stwId : Nat := 0
/-- `STW_SERIAL`, 17_boot_trust_configuration.md R853. -/
abbrev stwSerial : Nat := 1
/-- `STW_BOOT_STATUS`, 17_boot_trust_configuration.md R853. -/
abbrev stwBootStatus : Nat := 2
/-- `STW_IMAGE`, 17_boot_trust_configuration.md R853. -/
abbrev stwImage : Nat := 3
/-- `STW_IMAGE_HASH_i`, 17_boot_trust_configuration.md R853. -/
abbrev stwImageHash : Nat := 4
/-- `STW_CFG_SEQ`, 17_boot_trust_configuration.md R853. -/
abbrev stwCfgSeq : Nat := 5
/-- `STW_OP`, 17_boot_trust_configuration.md R853. -/
abbrev stwOp : Nat := 6
/-- `STW_OP_ARG`, 17_boot_trust_configuration.md R853. -/
abbrev stwOpArg : Nat := 7
/-- `STW_OP_RESULT`, 17_boot_trust_configuration.md R853. -/
abbrev stwOpResult : Nat := 8
/-- `STW_KEY_DATA_i`, 17_boot_trust_configuration.md R853. -/
abbrev stwKeyData : Nat := 9
/-- `STW_CLAIM_k`, 17_boot_trust_configuration.md R853. -/
abbrev stwClaim : Nat := 10
/-- `STW_GPIO`, 17_boot_trust_configuration.md R853. -/
abbrev stwGpio : Nat := 11
/-- `STW_TIMER_t`, 17_boot_trust_configuration.md R853. -/
abbrev stwTimer : Nat := 12
/-- `STW_IRQ_EN`, 17_boot_trust_configuration.md R853. -/
abbrev stwIrqEn : Nat := 13
/-- `STW_IRQ_CAUSE`, 17_boot_trust_configuration.md R853. -/
abbrev stwIrqCause : Nat := 14
/-- `STW_INSPECT_CFG`, 16_repair_and_records.md R807. -/
abbrev stwInspectCfg : Nat := 15
/-- `STW_INSPECT_REQ`, 16_repair_and_records.md R807. -/
abbrev stwInspectReq : Nat := 16
/-- `STW_INSPECT_STATUS`, 16_repair_and_records.md R807. -/
abbrev stwInspectStatus : Nat := 17
/-- `STW_INSPECT_TIME`, 16_repair_and_records.md R807. -/
abbrev stwInspectTime : Nat := 18
/-- `STW_REPAIR_JOURNAL`, 16_repair_and_records.md R807. -/
abbrev stwRepairJournal : Nat := 19
/-- `STW_CAPTURE_STATUS`, 16_repair_and_records.md R807. -/
abbrev stwCaptureStatus : Nat := 20
/-- `STW_INSPECTIONS`, 16_repair_and_records.md R807. -/
abbrev stwInspections : Nat := 21
/-- `STW_INSPECT_FAILS`, 16_repair_and_records.md R807. -/
abbrev stwInspectFails : Nat := 22
/-- `STW_ENGINE_REMAPS`, 16_repair_and_records.md R807. -/
abbrev stwEngineRemaps : Nat := 23
/-- `STW_COURTS_RETIRED`, 16_repair_and_records.md R807. -/
abbrev stwCourtsRetired : Nat := 24
/-- `STW_CORE_REMAPS`, 16_repair_and_records.md R807. -/
abbrev stwCoreRemaps : Nat := 25
/-- `STW_CORES_RETIRED`, 16_repair_and_records.md R807. -/
abbrev stwCoresRetired : Nat := 26
/-- `STW_WAYS_RETIRED`, 16_repair_and_records.md R807. -/
abbrev stwWaysRetired : Nat := 27
/-- `STW_SD_ROW_REMAPS`, 16_repair_and_records.md R807. -/
abbrev stwSdRowRemaps : Nat := 28
/-- `STW_LP_ROW_REPAIRS`, 16_repair_and_records.md R807. -/
abbrev stwLpRowRepairs : Nat := 29
/-- `STW_SBUF`, 17_boot_trust_configuration.md R853. -/
abbrev stwSbuf : Nat := 30
/-- `PWR_ID`, 14_power_clocks_thermal.md R733. -/
abbrev pwrId : Nat := 31
/-- `PWR_STATE_REQ`, 14_power_clocks_thermal.md R733. -/
abbrev pwrStateReq : Nat := 32
/-- `PWR_STATE_STATUS`, 14_power_clocks_thermal.md R733. -/
abbrev pwrStateStatus : Nat := 33
/-- `PWR_IDLE_CFG`, 14_power_clocks_thermal.md R733. -/
abbrev pwrIdleCfg : Nat := 34
/-- `PWR_CAP_MW`, 14_power_clocks_thermal.md R733. -/
abbrev pwrCapMw : Nat := 35
/-- `PWR_WINDOW_MS`, 14_power_clocks_thermal.md R733. -/
abbrev pwrWindowMs : Nat := 36
/-- `PWR_FIXED_MODE`, 14_power_clocks_thermal.md R733. -/
abbrev pwrFixedMode : Nat := 37
/-- `PWR_ISSUE_LIMIT`, 14_power_clocks_thermal.md R733. -/
abbrev pwrIssueLimit : Nat := 38
/-- `PWR_BOOST_CFG`, 14_power_clocks_thermal.md R733. -/
abbrev pwrBoostCfg : Nat := 39
/-- `PWR_STATUS`, 14_power_clocks_thermal.md R733. -/
abbrev pwrStatus : Nat := 40
/-- `PWR_MEASURED_MW`, 14_power_clocks_thermal.md R733. -/
abbrev pwrMeasuredMw : Nat := 41
/-- `PWR_ESTIMATE_MW`, 14_power_clocks_thermal.md R733. -/
abbrev pwrEstimateMw : Nat := 42
/-- `PWR_AVERAGE_MW`, 14_power_clocks_thermal.md R733. -/
abbrev pwrAverageMw : Nat := 43
/-- `PWR_DOMAIN_PERMIT`, 14_power_clocks_thermal.md R733. -/
abbrev pwrDomainPermit : Nat := 44
/-- `PWR_FLOOR_MW`, 14_power_clocks_thermal.md R733. -/
abbrev pwrFloorMw : Nat := 45
/-- `PWR_DOMAIN_REQ`, 14_power_clocks_thermal.md R733. -/
abbrev pwrDomainReq : Nat := 46
/-- `PWR_DOMAIN_STATUS_d`, 14_power_clocks_thermal.md R733. -/
abbrev pwrDomainStatus : Nat := 47
/-- `PAD_RELEASE`, 14_power_clocks_thermal.md R733. -/
abbrev padRelease : Nat := 48
/-- `PWR_VOLT_CFG`, 14_power_clocks_thermal.md R733. -/
abbrev pwrVoltCfg : Nat := 49
/-- `PWR_KICK_CFG`, 14_power_clocks_thermal.md R733. -/
abbrev pwrKickCfg : Nat := 50
/-- `PWR_DROOP_COUNT`, 14_power_clocks_thermal.md R733. -/
abbrev pwrDroopCount : Nat := 51
/-- `PWR_THROTTLE_COUNT`, 14_power_clocks_thermal.md R733. -/
abbrev pwrThrottleCount : Nat := 52
/-- `PWR_WATCH_CFG`, 14_power_clocks_thermal.md R733. -/
abbrev pwrWatchCfg : Nat := 53
/-- `PWR_WATCH_AUDIO`, 14_power_clocks_thermal.md R733. -/
abbrev pwrWatchAudio : Nat := 54
/-- `PWR_WATCH_SENSOR`, 14_power_clocks_thermal.md R733. -/
abbrev pwrWatchSensor : Nat := 55
/-- `PWR_WATCH_SAVE`, 14_power_clocks_thermal.md R733. -/
abbrev pwrWatchSave : Nat := 56
/-- `PWR_WAKE_CAUSE`, 14_power_clocks_thermal.md R733. -/
abbrev pwrWakeCause : Nat := 57
/-- `PWR_WATCH_LAST`, 14_power_clocks_thermal.md R733. -/
abbrev pwrWatchLast : Nat := 58
/-- `PWR_TEMP_MAX`, 14_power_clocks_thermal.md R733. -/
abbrev pwrTempMax : Nat := 59
/-- `PWR_TEMP_s`, 14_power_clocks_thermal.md R733. -/
abbrev pwrTemp : Nat := 60
/-- `WHISTLE_EPOCH`, 14_power_clocks_thermal.md R733. -/
abbrev whistleEpoch : Nat := 61
/-- `WHISTLE_STATUS`, 14_power_clocks_thermal.md R733. -/
abbrev whistleStatus : Nat := 62
/-- `FE_ID`, 10_contexts_queues_scheduling.md R546. -/
abbrev feId : Nat := 63
/-- `FE_SCHED_CFG`, 10_contexts_queues_scheduling.md R546. -/
abbrev feSchedCfg : Nat := 64
/-- `FE_SECURITY`, 10_contexts_queues_scheduling.md R546. -/
abbrev feSecurity : Nat := 65
/-- `FE_CTX_TABLE_BASE`, 10_contexts_queues_scheduling.md R546. -/
abbrev feCtxTableBase : Nat := 66
/-- `FE_QUEUE_TABLE_BASE`, 10_contexts_queues_scheduling.md R546. -/
abbrev feQueueTableBase : Nat := 67
/-- `FE_DOORBELL_BASE`, 10_contexts_queues_scheduling.md R546. -/
abbrev feDoorbellBase : Nat := 68
/-- `FE_SCORE_BASE`, 10_contexts_queues_scheduling.md R546. -/
abbrev feScoreBase : Nat := 69
/-- `FE_OP`, 10_contexts_queues_scheduling.md R546. -/
abbrev feOp : Nat := 70
/-- `FE_OP_RESULT`, 10_contexts_queues_scheduling.md R546. -/
abbrev feOpResult : Nat := 71
/-- `FE_PART_CFG_p`, 10_contexts_queues_scheduling.md R546. -/
abbrev fePartCfg : Nat := 72
/-- `FE_PART_UNITS`, 10_contexts_queues_scheduling.md R546. -/
abbrev fePartUnits : Nat := 73
/-- `FE_PART_COMMIT`, 10_contexts_queues_scheduling.md R546. -/
abbrev fePartCommit : Nat := 74
/-- `FE_STALE_COUNT`, 10_contexts_queues_scheduling.md R546. -/
abbrev feStaleCount : Nat := 75
/-- `FE_DOORBELL_BAD`, 10_contexts_queues_scheduling.md R546. -/
abbrev feDoorbellBad : Nat := 76
/-- `FE_SWAP_COUNT`, 10_contexts_queues_scheduling.md R546. -/
abbrev feSwapCount : Nat := 77
/-- `FE_DEADLOCK_COUNT`, 10_contexts_queues_scheduling.md R546. -/
abbrev feDeadlockCount : Nat := 78
/-- `FE_WAIT_TIMEOUTS`, 10_contexts_queues_scheduling.md R546. -/
abbrev feWaitTimeouts : Nat := 79
/-- `FLD_ID`, 03_matrix_field.md R166. -/
abbrev fldId : Nat := 80
/-- `FLD_PART_CFG`, 03_matrix_field.md R167. -/
abbrev fldPartCfg : Nat := 81
/-- `FLD_PART_VALID`, 03_matrix_field.md R168. -/
abbrev fldPartValid : Nat := 82
/-- `FLD_SCRUB_CFG`, 03_matrix_field.md R169. -/
abbrev fldScrubCfg : Nat := 83
/-- `FLD_FMT_DEFAULT`, 02_number_formats.md R93. -/
abbrev fldFmtDefault : Nat := 84
/-- `FLD_COURT_STATUS_n`, 03_matrix_field.md R171. -/
abbrev fldCourtStatus : Nat := 85
/-- `FLD_SPARE_MAP_n`, 03_matrix_field.md R172. -/
abbrev fldSpareMap : Nat := 86
/-- `FLD_PART_STALL_LATE_p`, 03_matrix_field.md R174. -/
abbrev fldPartStallLate : Nat := 87
/-- `FLD_PART_STALL_THROTTLE_p`, 03_matrix_field.md R174. -/
abbrev fldPartStallThrottle : Nat := 88
/-- `FLD_PART_STALL_CONFLICT_p`, 03_matrix_field.md R174. -/
abbrev fldPartStallConflict : Nat := 89
/-- `FLD_PART_STALL_STRETCH_p`, 03_matrix_field.md R174. -/
abbrev fldPartStallStretch : Nat := 90
/-- `SHA_ID`, 06_shader_cores.md R313. -/
abbrev shaId : Nat := 91
/-- `SHA_QUARTER_STATUS_q`, 06_shader_cores.md R314. -/
abbrev shaQuarterStatus : Nat := 92
/-- `SHA_SPARE_MAP_q`, 06_shader_cores.md R315. -/
abbrev shaSpareMap : Nat := 93
/-- `SHA_CORE_RETIRED_q`, 06_shader_cores.md R316. -/
abbrev shaCoreRetired : Nat := 94
/-- `SHA_FAULT_COUNT_q`, 06_shader_cores.md R317. -/
abbrev shaFaultCount : Nat := 95
/-- `GFX_ID`, 07_raster_pipeline.md R372. -/
abbrev gfxId : Nat := 96
/-- `GFX_FE_STATUS_q`, 07_raster_pipeline.md R373. -/
abbrev gfxFeStatus : Nat := 97
/-- `GFX_PARTIAL_COUNT_q`, 07_raster_pipeline.md R374. -/
abbrev gfxPartialCount : Nat := 98
/-- `GFX_TILES_q`, 07_raster_pipeline.md R374. -/
abbrev gfxTiles : Nat := 99
/-- `GFX_PRIMS_q`, 07_raster_pipeline.md R374. -/
abbrev gfxPrims : Nat := 100
/-- `GFX_SPILL_BYTES_q`, 07_raster_pipeline.md R374. -/
abbrev gfxSpillBytes : Nat := 101
/-- `GFX_FILL_q`, 07_raster_pipeline.md R374. -/
abbrev gfxFill : Nat := 102
/-- `LYR_ID`, 08_layer_composer.md R417. -/
abbrev lyrId : Nat := 103
/-- `LYR_PIPE_CTRL_p`, 08_layer_composer.md R418. -/
abbrev lyrPipeCtrl : Nat := 104
/-- `LYR_PIPE_STATUS_p`, 08_layer_composer.md R418. -/
abbrev lyrPipeStatus : Nat := 105
/-- `LYR_TIMING_H_p`, 08_layer_composer.md R418. -/
abbrev lyrTimingH : Nat := 106
/-- `LYR_TIMING_V_p`, 08_layer_composer.md R418. -/
abbrev lyrTimingV : Nat := 107
/-- `LYR_PCLK_p`, 08_layer_composer.md R418. -/
abbrev lyrPclk : Nat := 108
/-- `LYR_BG_p`, 08_layer_composer.md R418. -/
abbrev lyrBg : Nat := 109
/-- `LYR_COMMIT_p`, 08_layer_composer.md R418. -/
abbrev lyrCommit : Nat := 110
/-- `LYR_FRAME_SEQ_p`, 08_layer_composer.md R418. -/
abbrev lyrFrameSeq : Nat := 111
/-- `LYR_LATE_COUNT_p`, 08_layer_composer.md R418. -/
abbrev lyrLateCount : Nat := 112
/-- `LYR_UNDERFLOW_COUNT_p`, 08_layer_composer.md R418. -/
abbrev lyrUnderflowCount : Nat := 113
/-- `LYR_SKIP_BYTES_p`, 08_layer_composer.md R418. -/
abbrev lyrSkipBytes : Nat := 114
/-- `LYR_LAYER_OWNER_p_l`, 08_layer_composer.md R418. -/
abbrev lyrLayerOwner : Nat := 115
/-- `LYR_SIG_CTRL_p`, 08_layer_composer.md R418. -/
abbrev lyrSigCtrl : Nat := 116
/-- `LYR_SIG_STATUS_p`, 08_layer_composer.md R418. -/
abbrev lyrSigStatus : Nat := 117
/-- `LYR_SIG_RECT_p_r`, 08_layer_composer.md R418. -/
abbrev lyrSigRect : Nat := 118
/-- `LYR_SIG_CFG_p_r`, 08_layer_composer.md R418. -/
abbrev lyrSigCfg : Nat := 119
/-- `LYR_SIG_EXPECT_p_r`, 08_layer_composer.md R418. -/
abbrev lyrSigExpect : Nat := 120
/-- `LYR_SIG_LAST_p_r`, 08_layer_composer.md R418. -/
abbrev lyrSigLast : Nat := 121
/-- `LYR_SIG_MISS_p_r`, 08_layer_composer.md R418. -/
abbrev lyrSigMiss : Nat := 122
/-- `LYR_WB_CTRL_p`, 08_layer_composer.md R418. -/
abbrev lyrWbCtrl : Nat := 123
/-- `LYR_WB_BASE_p`, 08_layer_composer.md R418. -/
abbrev lyrWbBase : Nat := 124
/-- `LYR_WB_GEOM_p`, 08_layer_composer.md R418. -/
abbrev lyrWbGeom : Nat := 125
/-- `LYR_WB_FENCE_p`, 08_layer_composer.md R418. -/
abbrev lyrWbFence : Nat := 126
/-- `LYR_WB_RECORD_p`, 08_layer_composer.md R418. -/
abbrev lyrWbRecord : Nat := 127
/-- `LYR_WB_OWNER_p`, 08_layer_composer.md R418. -/
abbrev lyrWbOwner : Nat := 128
/-- `DPX_LINK_CTRL_t`, 08_layer_composer.md R420. -/
abbrev dpxLinkCtrl : Nat := 129
/-- `DPX_LINK_STATUS_t`, 08_layer_composer.md R420. -/
abbrev dpxLinkStatus : Nat := 130
/-- `DPX_STREAM_p`, 08_layer_composer.md R420. -/
abbrev dpxStream : Nat := 131
/-- `MEM_ID`, 09_memory_and_translation.md R475. -/
abbrev memId : Nat := 132
/-- `MEM_CFG`, 09_memory_and_translation.md R475. -/
abbrev memCfg : Nat := 133
/-- `MEM_SD_COMMIT`, 09_memory_and_translation.md R475. -/
abbrev memSdCommit : Nat := 134
/-- `MEM_SD_RANGE_i`, 09_memory_and_translation.md R475. -/
abbrev memSdRange : Nat := 135
/-- `MEM_SD_CHAN_c`, 09_memory_and_translation.md R475. -/
abbrev memSdChan : Nat := 136
/-- `MEM_LP_CHAN_c`, 09_memory_and_translation.md R475. -/
abbrev memLpChan : Nat := 137
/-- `MEM_SC_RETIRE_s`, 09_memory_and_translation.md R475. -/
abbrev memScRetire : Nat := 138
/-- `MEM_UE_LOG_i`, 09_memory_and_translation.md R475. -/
abbrev memUeLog : Nat := 139
/-- `MEM_UE_NEXT`, 09_memory_and_translation.md R475. -/
abbrev memUeNext : Nat := 140
/-- `MEM_UE_TOTAL`, 09_memory_and_translation.md R475. -/
abbrev memUeTotal : Nat := 141
/-- `MEM_PATROL_CFG`, 09_memory_and_translation.md R475. -/
abbrev memPatrolCfg : Nat := 142
/-- `MEM_QOS_CFG`, 09_memory_and_translation.md R475. -/
abbrev memQosCfg : Nat := 143
/-- `MMU_ID`, 09_memory_and_translation.md R477. -/
abbrev mmuId : Nat := 144
/-- `MMU_WALKS`, 09_memory_and_translation.md R477. -/
abbrev mmuWalks : Nat := 145
/-- `MMU_WALK_FAULTS`, 09_memory_and_translation.md R477. -/
abbrev mmuWalkFaults : Nat := 146
/-- `MMU_XLATE_CMDS`, 09_memory_and_translation.md R477. -/
abbrev mmuXlateCmds : Nat := 147
/-- `MMU_LAST_FAULT`, 09_memory_and_translation.md R477. -/
abbrev mmuLastFault : Nat := 148
/-- `MMU_LAST_FAULT_VA`, 09_memory_and_translation.md R477. -/
abbrev mmuLastFaultVa : Nat := 149
/-- `ETH_ID`, 11_network_ports.md R600. -/
abbrev ethId : Nat := 150
/-- `ETH_QP_TABLE_BASE`, 11_network_ports.md R600. -/
abbrev ethQpTableBase : Nat := 151
/-- `ETH_KEY_TABLE_BASE`, 11_network_ports.md R600. -/
abbrev ethKeyTableBase : Nat := 152
/-- `ETH_STREAM_TABLE_BASE`, 11_network_ports.md R600. -/
abbrev ethStreamTableBase : Nat := 153
/-- `ETH_OP`, 11_network_ports.md R600. -/
abbrev ethOp : Nat := 154
/-- `ETH_OP_RESULT`, 11_network_ports.md R600. -/
abbrev ethOpResult : Nat := 155
/-- `ETH_ECN_MARKED`, 11_network_ports.md R600. -/
abbrev ethEcnMarked : Nat := 156
/-- `ETH_EVENTS_DROPPED`, 11_network_ports.md R600. -/
abbrev ethEventsDropped : Nat := 157
/-- `ETH_RX_REFUSED`, 11_network_ports.md R600. -/
abbrev ethRxRefused : Nat := 158
/-- `ETH_STREAM_COUNT_i`, 11_network_ports.md R600. -/
abbrev ethStreamCount : Nat := 159
/-- `ETH_STREAM_GAPS_i`, 11_network_ports.md R600. -/
abbrev ethStreamGaps : Nat := 160
/-- `ETH_PORT_CTRL_n`, 11_network_ports.md R600. -/
abbrev ethPortCtrl : Nat := 161
/-- `ETH_PORT_STATUS_n`, 11_network_ports.md R600. -/
abbrev ethPortStatus : Nat := 162
/-- `ETH_PORT_MAC_n`, 11_network_ports.md R600. -/
abbrev ethPortMac : Nat := 163
/-- `ETH_PORT_IP_LO_n`, 11_network_ports.md R600. -/
abbrev ethPortIpLo : Nat := 164
/-- `ETH_PORT_IP_HI_n`, 11_network_ports.md R600. -/
abbrev ethPortIpHi : Nat := 165
/-- `ETH_EGRESS_n`, 11_network_ports.md R600. -/
abbrev ethEgress : Nat := 166
/-- `ETH_RX_FRAMES_n`, 11_network_ports.md R600. -/
abbrev ethRxFrames : Nat := 167
/-- `ETH_TX_FRAMES_n`, 11_network_ports.md R600. -/
abbrev ethTxFrames : Nat := 168
/-- `ETH_RX_FCS_ERRORS_n`, 11_network_ports.md R600. -/
abbrev ethRxFcsErrors : Nat := 169
/-- `ETH_FEC_CORRECTED_n`, 11_network_ports.md R600. -/
abbrev ethFecCorrected : Nat := 170
/-- `ETH_FEC_UNCORRECTED_n`, 11_network_ports.md R600. -/
abbrev ethFecUncorrected : Nat := 171
/-- `ETH_RX_UNCLASSIFIED_n`, 11_network_ports.md R600. -/
abbrev ethRxUnclassified : Nat := 172
/-- `ETH_TX_FILTERED_n`, 11_network_ports.md R600. -/
abbrev ethTxFiltered : Nat := 173
/-- `ETH_TX_DROPS_n`, 11_network_ports.md R600. -/
abbrev ethTxDrops : Nat := 174
/-- `ETH_MACSEC_DROPS_n`, 11_network_ports.md R600. -/
abbrev ethMacsecDrops : Nat := 175
/-- `ETH_LINK_DOWNS_n`, 11_network_ports.md R600. -/
abbrev ethLinkDowns : Nat := 176
/-- `TIM_NOW_NS`, 11_network_ports.md R602. -/
abbrev timNowNs : Nat := 177
/-- `TIM_CFG`, 11_network_ports.md R602. -/
abbrev timCfg : Nat := 178
/-- `TIM_STATUS`, 11_network_ports.md R602. -/
abbrev timStatus : Nat := 179
/-- `TIM_OFFSET_NS`, 11_network_ports.md R602. -/
abbrev timOffsetNs : Nat := 180
/-- `TIM_FREQ_PPB`, 11_network_ports.md R602. -/
abbrev timFreqPpb : Nat := 181
/-- `TIM_GM_ID`, 11_network_ports.md R602. -/
abbrev timGmId : Nat := 182
/-- `TIM_HOLDOVER_NS`, 11_network_ports.md R602. -/
abbrev timHoldoverNs : Nat := 183
/-- `TIM_IGNORED`, 11_network_ports.md R602. -/
abbrev timIgnored : Nat := 184
/-- `IQL_ID`, 12_ihlique_links.md R645. -/
abbrev iqlId : Nat := 185
/-- `IQL_CFG`, 12_ihlique_links.md R645. -/
abbrev iqlCfg : Nat := 186
/-- `IQL_ROUTE_d`, 12_ihlique_links.md R645. -/
abbrev iqlRoute : Nat := 187
/-- `IQL_EPOCH_d`, 12_ihlique_links.md R645. -/
abbrev iqlEpoch : Nat := 188
/-- `IQL_PORT_CTRL_p`, 12_ihlique_links.md R645. -/
abbrev iqlPortCtrl : Nat := 189
/-- `IQL_PORT_STATUS_p`, 12_ihlique_links.md R645. -/
abbrev iqlPortStatus : Nat := 190
/-- `IQL_TX_PACKETS_p`, 12_ihlique_links.md R645. -/
abbrev iqlTxPackets : Nat := 191
/-- `IQL_RX_PACKETS_p`, 12_ihlique_links.md R645. -/
abbrev iqlRxPackets : Nat := 192
/-- `IQL_FEC_CORRECTED_p`, 12_ihlique_links.md R645. -/
abbrev iqlFecCorrected : Nat := 193
/-- `IQL_FEC_UNCORRECTED_p`, 12_ihlique_links.md R645. -/
abbrev iqlFecUncorrected : Nat := 194
/-- `IQL_LINK_RETRIES_p`, 12_ihlique_links.md R645. -/
abbrev iqlLinkRetries : Nat := 195
/-- `IQL_AUTH_FAILS_p`, 12_ihlique_links.md R645. -/
abbrev iqlAuthFails : Nat := 196
/-- `IQL_STALE_DROPS_p`, 12_ihlique_links.md R645. -/
abbrev iqlStaleDrops : Nat := 197
/-- `IQL_NO_ROUTE_p`, 12_ihlique_links.md R645. -/
abbrev iqlNoRoute : Nat := 198
/-- `IQL_RETRAINS_p`, 12_ihlique_links.md R645. -/
abbrev iqlRetrains : Nat := 199
/-- `CDE_ID`, 13_compression_engine.md R674. -/
abbrev cdeId : Nat := 200
/-- `CDE_CHAN_CTRL_c`, 13_compression_engine.md R674. -/
abbrev cdeChanCtrl : Nat := 201
/-- `CDE_CHAN_STATUS_c`, 13_compression_engine.md R674. -/
abbrev cdeChanStatus : Nat := 202
/-- `CDE_IN_BYTES_c`, 13_compression_engine.md R674. -/
abbrev cdeInBytes : Nat := 203
/-- `CDE_OUT_BYTES_c`, 13_compression_engine.md R674. -/
abbrev cdeOutBytes : Nat := 204
/-- `CDE_COMMANDS_c`, 13_compression_engine.md R674. -/
abbrev cdeCommands : Nat := 205
/-- `CDE_STOPS_c`, 13_compression_engine.md R674. -/
abbrev cdeStops : Nat := 206
/-- `CDE_ERRORS_c`, 13_compression_engine.md R674. -/
abbrev cdeErrors : Nat := 207
/-- `CDE_CHECK_FAILS_c`, 13_compression_engine.md R674. -/
abbrev cdeCheckFails : Nat := 208
/-- `CDE_SKIPPED_c`, 13_compression_engine.md R674. -/
abbrev cdeSkipped : Nat := 209
/-- `REF_ID`, 15_hangs_resets_recovery.md R772. -/
abbrev refId : Nat := 210
/-- `REF_BUDGET_MARGIN`, 15_hangs_resets_recovery.md R772. -/
abbrev refBudgetMargin : Nat := 211
/-- `REF_FAULT_RING`, 15_hangs_resets_recovery.md R772. -/
abbrev refFaultRing : Nat := 212
/-- `REF_FAULT_COUNT`, 15_hangs_resets_recovery.md R772. -/
abbrev refFaultCount : Nat := 213
/-- `REF_STATUS`, 15_hangs_resets_recovery.md R772. -/
abbrev refStatus : Nat := 214
/-- `REF_CONTEXT_STOPS`, 15_hangs_resets_recovery.md R772. -/
abbrev refContextStops : Nat := 215
/-- `REF_ENGINE_RESETS`, 15_hangs_resets_recovery.md R772. -/
abbrev refEngineResets : Nat := 216
/-- `REF_PARTITION_RESETS`, 15_hangs_resets_recovery.md R772. -/
abbrev refPartitionResets : Nat := 217
/-- `REF_CHIP_RESETS`, 15_hangs_resets_recovery.md R772. -/
abbrev refChipResets : Nat := 218
/-- `REF_TRANSIENTS`, 15_hangs_resets_recovery.md R772. -/
abbrev refTransients : Nat := 219
/-- `REF_GUILTY`, 15_hangs_resets_recovery.md R772. -/
abbrev refGuilty : Nat := 220
/-- `REF_VICTIMS`, 15_hangs_resets_recovery.md R772. -/
abbrev refVictims : Nat := 221
/-- `REF_WRITES_DROPPED`, 15_hangs_resets_recovery.md R772. -/
abbrev refWritesDropped : Nat := 222
/-- `REF_TRAY_LAST`, 15_hangs_resets_recovery.md R772. -/
abbrev refTrayLast : Nat := 223
/-- `REF_CHIP_LAST`, 15_hangs_resets_recovery.md R772. -/
abbrev refChipLast : Nat := 224
/-- `EVR_ID`, 16_repair_and_records.md R809. -/
abbrev evrId : Nat := 225
/-- `EVR_CFG`, 16_repair_and_records.md R809. -/
abbrev evrCfg : Nat := 226
/-- `EVR_FREEZE`, 16_repair_and_records.md R809. -/
abbrev evrFreeze : Nat := 227
/-- `EVR_HEAD`, 16_repair_and_records.md R809. -/
abbrev evrHead : Nat := 228
/-- `EVR_LOST`, 16_repair_and_records.md R809. -/
abbrev evrLost : Nat := 229
/-- `EVR_SUPPRESSED`, 16_repair_and_records.md R809. -/
abbrev evrSuppressed : Nat := 230
/-- `EVR_FLUSH_STATUS`, 16_repair_and_records.md R809. -/
abbrev evrFlushStatus : Nat := 231
/-- `EVR_RING`, 16_repair_and_records.md R809. -/
abbrev evrRing : Nat := 232
/-- `EVR_PREV`, 16_repair_and_records.md R809. -/
abbrev evrPrev : Nat := 233

/-- A field of a register family: its bits `[hi:lo]`. -/
structure Field where
  fam : Nat
  hi : Nat
  lo : Nat
deriving DecidableEq, Repr

/-- The key of register `i` of a family; no family has 65536. -/
def key (fam i : Nat) : Nat := fam * 65536 + i % 65536

end Sys2Proof.Machine.Reg

namespace Sys2Proof.Machine.F

open Sys2Proof.Machine.Reg (Field)

/-- `STW_ID.DEVICE`, bits [31:16], R853. -/
abbrev stwIdDevice : Field := ⟨0, 31, 16⟩
/-- `STW_ID.GRADE`, bits [15:8], R853. -/
abbrev stwIdGrade : Field := ⟨0, 15, 8⟩
/-- `STW_ID.ROM`, bits [7:0], R853. -/
abbrev stwIdRom : Field := ⟨0, 7, 0⟩
/-- `STW_SERIAL.SERIAL`, bits [63:0], R853. -/
abbrev stwSerialSerial : Field := ⟨1, 63, 0⟩
/-- `STW_BOOT_STATUS.STATE`, bits [63:60], R853. -/
abbrev stwBootStatusState : Field := ⟨2, 63, 60⟩
/-- `STW_BOOT_STATUS.ERROR`, bits [59:52], R853. -/
abbrev stwBootStatusError : Field := ⟨2, 59, 52⟩
/-- `STW_BOOT_STATUS.DETAIL`, bits [39:0], R853. -/
abbrev stwBootStatusDetail : Field := ⟨2, 39, 0⟩
/-- `STW_IMAGE.SVN`, bits [63:56], R853. -/
abbrev stwImageSvn : Field := ⟨3, 63, 56⟩
/-- `STW_IMAGE.MIN_SVN`, bits [55:48], R853. -/
abbrev stwImageMinSvn : Field := ⟨3, 55, 48⟩
/-- `STW_IMAGE_HASH_i.HASH`, bits [63:0], R853. -/
abbrev stwImageHashHash : Field := ⟨4, 63, 0⟩
/-- `STW_CFG_SEQ.SEQ`, bits [63:0], R853. -/
abbrev stwCfgSeqSeq : Field := ⟨5, 63, 0⟩
/-- `STW_OP.OP`, bits [63:56], R853. -/
abbrev stwOpOp : Field := ⟨6, 63, 56⟩
/-- `STW_OP.PARAM`, bits [31:0], R853. -/
abbrev stwOpParam : Field := ⟨6, 31, 0⟩
/-- `STW_OP_ARG.ADDR`, bits [39:0], R853. -/
abbrev stwOpArgAddr : Field := ⟨7, 39, 0⟩
/-- `STW_OP_RESULT.STATUS`, bits [63:48], R853. -/
abbrev stwOpResultStatus : Field := ⟨8, 63, 48⟩
/-- `STW_OP_RESULT.VALUE`, bits [47:0], R853. -/
abbrev stwOpResultValue : Field := ⟨8, 47, 0⟩
/-- `STW_KEY_DATA_i.DATA`, bits [63:0], R853. -/
abbrev stwKeyDataData : Field := ⟨9, 63, 0⟩
/-- `STW_CLAIM_k.FUNCTION`, bits [15:8], R853. -/
abbrev stwClaimFunction : Field := ⟨10, 15, 8⟩
/-- `STW_CLAIM_k.OWNER`, bits [7:0], R853. -/
abbrev stwClaimOwner : Field := ⟨10, 7, 0⟩
/-- `STW_GPIO.OUT`, bits [31:16], R853. -/
abbrev stwGpioOut : Field := ⟨11, 31, 16⟩
/-- `STW_GPIO.IN`, bits [15:0], R853. -/
abbrev stwGpioIn : Field := ⟨11, 15, 0⟩
/-- `STW_TIMER_t.ALARM_NS`, bits [63:0], R853. -/
abbrev stwTimerAlarmNs : Field := ⟨12, 63, 0⟩
/-- `STW_IRQ_EN.EN`, bits [3:0], R853. -/
abbrev stwIrqEnEn : Field := ⟨13, 3, 0⟩
/-- `STW_IRQ_CAUSE.CAUSE`, bits [3:0], R853. -/
abbrev stwIrqCauseCause : Field := ⟨14, 3, 0⟩
/-- `STW_INSPECT_CFG.PERIOD_H`, bits [31:24], R807. -/
abbrev stwInspectCfgPeriodH : Field := ⟨15, 31, 24⟩
/-- `STW_INSPECT_CFG.EXCLUDE`, bits [15:0], R807. -/
abbrev stwInspectCfgExclude : Field := ⟨15, 15, 0⟩
/-- `STW_INSPECT_REQ.KIND`, bits [31:30], R807. -/
abbrev stwInspectReqKind : Field := ⟨16, 31, 30⟩
/-- `STW_INSPECT_REQ.UNIT`, bits [15:8], R807. -/
abbrev stwInspectReqUnit : Field := ⟨16, 15, 8⟩
/-- `STW_INSPECT_REQ.WAY`, bits [7:4], R807. -/
abbrev stwInspectReqWay : Field := ⟨16, 7, 4⟩
/-- `STW_INSPECT_STATUS.KIND`, bits [63:62], R807. -/
abbrev stwInspectStatusKind : Field := ⟨17, 63, 62⟩
/-- `STW_INSPECT_STATUS.UNIT`, bits [61:54], R807. -/
abbrev stwInspectStatusUnit : Field := ⟨17, 61, 54⟩
/-- `STW_INSPECT_STATUS.RESULT`, bits [53:52], R807. -/
abbrev stwInspectStatusResult : Field := ⟨17, 53, 52⟩
/-- `STW_INSPECT_STATUS.FAIL_MASK`, bits [17:0], R807. -/
abbrev stwInspectStatusFailMask : Field := ⟨17, 17, 0⟩
/-- `STW_INSPECT_TIME.NS`, bits [63:0], R807. -/
abbrev stwInspectTimeNs : Field := ⟨18, 63, 0⟩
/-- `STW_REPAIR_JOURNAL.FULL`, bits [16:16], R807. -/
abbrev stwRepairJournalFull : Field := ⟨19, 16, 16⟩
/-- `STW_REPAIR_JOURNAL.USED`, bits [15:0], R807. -/
abbrev stwRepairJournalUsed : Field := ⟨19, 15, 0⟩
/-- `STW_CAPTURE_STATUS.OVERWRITES`, bits [31:16], R807. -/
abbrev stwCaptureStatusOverwrites : Field := ⟨20, 31, 16⟩
/-- `STW_CAPTURE_STATUS.VALID_1`, bits [1:1], R807. -/
abbrev stwCaptureStatusValid1 : Field := ⟨20, 1, 1⟩
/-- `STW_CAPTURE_STATUS.VALID_0`, bits [0:0], R807. -/
abbrev stwCaptureStatusValid0 : Field := ⟨20, 0, 0⟩
/-- `STW_INSPECTIONS.COUNT`, bits [63:0], R807. -/
abbrev stwInspectionsCount : Field := ⟨21, 63, 0⟩
/-- `STW_INSPECT_FAILS.COUNT`, bits [63:0], R807. -/
abbrev stwInspectFailsCount : Field := ⟨22, 63, 0⟩
/-- `STW_ENGINE_REMAPS.COUNT`, bits [63:0], R807. -/
abbrev stwEngineRemapsCount : Field := ⟨23, 63, 0⟩
/-- `STW_COURTS_RETIRED.COUNT`, bits [63:0], R807. -/
abbrev stwCourtsRetiredCount : Field := ⟨24, 63, 0⟩
/-- `STW_CORE_REMAPS.COUNT`, bits [63:0], R807. -/
abbrev stwCoreRemapsCount : Field := ⟨25, 63, 0⟩
/-- `STW_CORES_RETIRED.COUNT`, bits [63:0], R807. -/
abbrev stwCoresRetiredCount : Field := ⟨26, 63, 0⟩
/-- `STW_WAYS_RETIRED.COUNT`, bits [63:0], R807. -/
abbrev stwWaysRetiredCount : Field := ⟨27, 63, 0⟩
/-- `STW_SD_ROW_REMAPS.COUNT`, bits [63:0], R807. -/
abbrev stwSdRowRemapsCount : Field := ⟨28, 63, 0⟩
/-- `STW_LP_ROW_REPAIRS.COUNT`, bits [63:0], R807. -/
abbrev stwLpRowRepairsCount : Field := ⟨29, 63, 0⟩
/-- `STW_SBUF.DATA`, bits [63:0], R853. -/
abbrev stwSbufData : Field := ⟨30, 63, 0⟩
/-- `PWR_ID.DOMAINS`, bits [31:24], R733. -/
abbrev pwrIdDomains : Field := ⟨31, 31, 24⟩
/-- `PWR_ID.CLOCK_DOMAINS`, bits [23:16], R733. -/
abbrev pwrIdClockDomains : Field := ⟨31, 23, 16⟩
/-- `PWR_ID.PLLS`, bits [15:8], R733. -/
abbrev pwrIdPlls : Field := ⟨31, 15, 8⟩
/-- `PWR_ID.SENSORS`, bits [7:0], R733. -/
abbrev pwrIdSensors : Field := ⟨31, 7, 0⟩
/-- `PWR_STATE_REQ.TARGET`, bits [2:0], R733. -/
abbrev pwrStateReqTarget : Field := ⟨32, 2, 0⟩
/-- `PWR_STATE_STATUS.REFUSER`, bits [31:24], R733. -/
abbrev pwrStateStatusRefuser : Field := ⟨33, 31, 24⟩
/-- `PWR_STATE_STATUS.REASON`, bits [23:16], R733. -/
abbrev pwrStateStatusReason : Field := ⟨33, 23, 16⟩
/-- `PWR_STATE_STATUS.RESULT`, bits [15:12], R733. -/
abbrev pwrStateStatusResult : Field := ⟨33, 15, 12⟩
/-- `PWR_STATE_STATUS.HUDDLE`, bits [3:3], R733. -/
abbrev pwrStateStatusHuddle : Field := ⟨33, 3, 3⟩
/-- `PWR_STATE_STATUS.STATE`, bits [2:0], R733. -/
abbrev pwrStateStatusState : Field := ⟨33, 2, 0⟩
/-- `PWR_IDLE_CFG.AUTO_IDLE`, bits [31:31], R733. -/
abbrev pwrIdleCfgAutoIdle : Field := ⟨34, 31, 31⟩
/-- `PWR_IDLE_CFG.IDLE_US`, bits [15:0], R733. -/
abbrev pwrIdleCfgIdleUs : Field := ⟨34, 15, 0⟩
/-- `PWR_CAP_MW.CAP`, bits [17:0], R733. -/
abbrev pwrCapMwCap : Field := ⟨35, 17, 0⟩
/-- `PWR_WINDOW_MS.WINDOW`, bits [14:0], R733. -/
abbrev pwrWindowMsWindow : Field := ⟨36, 14, 0⟩
/-- `PWR_FIXED_MODE.EXITED`, bits [31:31], R733. -/
abbrev pwrFixedModeExited : Field := ⟨37, 31, 31⟩
/-- `PWR_FIXED_MODE.FRACTION`, bits [15:8], R733. -/
abbrev pwrFixedModeFraction : Field := ⟨37, 15, 8⟩
/-- `PWR_FIXED_MODE.EN`, bits [0:0], R733. -/
abbrev pwrFixedModeEn : Field := ⟨37, 0, 0⟩
/-- `PWR_ISSUE_LIMIT.LIMIT`, bits [6:0], R733. -/
abbrev pwrIssueLimitLimit : Field := ⟨38, 6, 0⟩
/-- `PWR_BOOST_CFG.RECAL`, bits [1:1], R733. -/
abbrev pwrBoostCfgRecal : Field := ⟨39, 1, 1⟩
/-- `PWR_BOOST_CFG.BOOST_EN`, bits [0:0], R733. -/
abbrev pwrBoostCfgBoostEn : Field := ⟨39, 0, 0⟩
/-- `PWR_STATUS.ARITH_MHZ`, bits [63:48], R733. -/
abbrev pwrStatusArithMhz : Field := ⟨40, 63, 48⟩
/-- `PWR_STATUS.GRANTED`, bits [47:40], R733. -/
abbrev pwrStatusGranted : Field := ⟨40, 47, 40⟩
/-- `PWR_STATUS.TRUST`, bits [31:30], R733. -/
abbrev pwrStatusTrust : Field := ⟨40, 31, 30⟩
/-- `PWR_STATUS.THERMAL_STEP`, bits [29:28], R733. -/
abbrev pwrStatusThermalStep : Field := ⟨40, 29, 28⟩
/-- `PWR_STATUS.BOOST`, bits [27:27], R733. -/
abbrev pwrStatusBoost : Field := ⟨40, 27, 27⟩
/-- `PWR_STATUS.HEAVY`, bits [26:26], R733. -/
abbrev pwrStatusHeavy : Field := ⟨40, 26, 26⟩
/-- `PWR_STATUS.DIVERGED`, bits [25:25], R733. -/
abbrev pwrStatusDiverged : Field := ⟨40, 25, 25⟩
/-- `PWR_STATUS.MEAS_LOST`, bits [24:24], R733. -/
abbrev pwrStatusMeasLost : Field := ⟨40, 24, 24⟩
/-- `PWR_MEASURED_MW.MW`, bits [31:0], R733. -/
abbrev pwrMeasuredMwMw : Field := ⟨41, 31, 0⟩
/-- `PWR_ESTIMATE_MW.MW`, bits [31:0], R733. -/
abbrev pwrEstimateMwMw : Field := ⟨42, 31, 0⟩
/-- `PWR_AVERAGE_MW.MW`, bits [31:0], R733. -/
abbrev pwrAverageMwMw : Field := ⟨43, 31, 0⟩
/-- `PWR_DOMAIN_PERMIT.FIXED`, bits [28:26], R733. -/
abbrev pwrDomainPermitFixed : Field := ⟨44, 28, 26⟩
/-- `PWR_DOMAIN_PERMIT.PERMIT`, bits [25:0], R733. -/
abbrev pwrDomainPermitPermit : Field := ⟨44, 25, 0⟩
/-- `PWR_FLOOR_MW.MW`, bits [31:0], R733. -/
abbrev pwrFloorMwMw : Field := ⟨45, 31, 0⟩
/-- `PWR_DOMAIN_REQ.ON`, bits [31:31], R733. -/
abbrev pwrDomainReqOn : Field := ⟨46, 31, 31⟩
/-- `PWR_DOMAIN_REQ.DOMAIN`, bits [4:0], R733. -/
abbrev pwrDomainReqDomain : Field := ⟨46, 4, 0⟩
/-- `PWR_DOMAIN_STATUS_d.PADS_HELD`, bits [4:4], R733. -/
abbrev pwrDomainStatusPadsHeld : Field := ⟨47, 4, 4⟩
/-- `PWR_DOMAIN_STATUS_d.PERMITTED`, bits [3:3], R733. -/
abbrev pwrDomainStatusPermitted : Field := ⟨47, 3, 3⟩
/-- `PWR_DOMAIN_STATUS_d.STATE`, bits [2:0], R733. -/
abbrev pwrDomainStatusState : Field := ⟨47, 2, 0⟩
/-- `PAD_RELEASE.RELEASE`, bits [28:0], R733. -/
abbrev padReleaseRelease : Field := ⟨48, 28, 0⟩
/-- `PWR_VOLT_CFG.DROOP_MV`, bits [31:24], R733. -/
abbrev pwrVoltCfgDroopMv : Field := ⟨49, 31, 24⟩
/-- `PWR_VOLT_CFG.HEAVY_MV`, bits [23:16], R733. -/
abbrev pwrVoltCfgHeavyMv : Field := ⟨49, 23, 16⟩
/-- `PWR_VOLT_CFG.HOLD_US`, bits [15:8], R733. -/
abbrev pwrVoltCfgHoldUs : Field := ⟨49, 15, 8⟩
/-- `PWR_VOLT_CFG.STRETCH_CYCLES`, bits [7:0], R733. -/
abbrev pwrVoltCfgStretchCycles : Field := ⟨49, 7, 0⟩
/-- `PWR_KICK_CFG.RAMP_CYCLES`, bits [12:0], R733. -/
abbrev pwrKickCfgRampCycles : Field := ⟨50, 12, 0⟩
/-- `PWR_DROOP_COUNT.COUNT`, bits [63:0], R733. -/
abbrev pwrDroopCountCount : Field := ⟨51, 63, 0⟩
/-- `PWR_THROTTLE_COUNT.COUNT`, bits [63:0], R733. -/
abbrev pwrThrottleCountCount : Field := ⟨52, 63, 0⟩
/-- `PWR_WATCH_CFG.PERIOD_MS`, bits [31:18], R733. -/
abbrev pwrWatchCfgPeriodMs : Field := ⟨53, 31, 18⟩
/-- `PWR_WATCH_CFG.WINDOW_MS`, bits [17:11], R733. -/
abbrev pwrWatchCfgWindowMs : Field := ⟨53, 17, 11⟩
/-- `PWR_WATCH_CFG.HITS`, bits [10:7], R733. -/
abbrev pwrWatchCfgHits : Field := ⟨53, 10, 7⟩
/-- `PWR_WATCH_CFG.COMBINE`, bits [6:6], R733. -/
abbrev pwrWatchCfgCombine : Field := ⟨53, 6, 6⟩
/-- `PWR_WATCH_CFG.CMP`, bits [5:5], R733. -/
abbrev pwrWatchCfgCmp : Field := ⟨53, 5, 5⟩
/-- `PWR_WATCH_CFG.SENSOR_EN`, bits [4:4], R733. -/
abbrev pwrWatchCfgSensorEn : Field := ⟨53, 4, 4⟩
/-- `PWR_WATCH_CFG.AUDIO_EN`, bits [3:3], R733. -/
abbrev pwrWatchCfgAudioEn : Field := ⟨53, 3, 3⟩
/-- `PWR_WATCH_AUDIO.THRESH`, bits [31:0], R733. -/
abbrev pwrWatchAudioThresh : Field := ⟨54, 31, 0⟩
/-- `PWR_WATCH_SENSOR.ADDR`, bits [31:25], R733. -/
abbrev pwrWatchSensorAddr : Field := ⟨55, 31, 25⟩
/-- `PWR_WATCH_SENSOR.REG`, bits [24:17], R733. -/
abbrev pwrWatchSensorReg : Field := ⟨55, 24, 17⟩
/-- `PWR_WATCH_SENSOR.THRESH`, bits [15:0], R733. -/
abbrev pwrWatchSensorThresh : Field := ⟨55, 15, 0⟩
/-- `PWR_WATCH_SAVE.ADDR`, bits [39:30], R733. -/
abbrev pwrWatchSaveAddr : Field := ⟨56, 39, 30⟩
/-- `PWR_WATCH_SAVE.VALID`, bits [0:0], R733. -/
abbrev pwrWatchSaveValid : Field := ⟨56, 0, 0⟩
/-- `PWR_WAKE_CAUSE.TC10`, bits [31:24], R733. -/
abbrev pwrWakeCauseTc10 : Field := ⟨57, 31, 24⟩
/-- `PWR_WAKE_CAUSE.TRAY`, bits [3:3], R733. -/
abbrev pwrWakeCauseTray : Field := ⟨57, 3, 3⟩
/-- `PWR_WAKE_CAUSE.HOST`, bits [2:2], R733. -/
abbrev pwrWakeCauseHost : Field := ⟨57, 2, 2⟩
/-- `PWR_WAKE_CAUSE.MATCH`, bits [1:1], R733. -/
abbrev pwrWakeCauseMatch : Field := ⟨57, 1, 1⟩
/-- `PWR_WAKE_CAUSE.REQUEST`, bits [0:0], R733. -/
abbrev pwrWakeCauseRequest : Field := ⟨57, 0, 0⟩
/-- `PWR_WATCH_LAST.ENERGY`, bits [63:32], R733. -/
abbrev pwrWatchLastEnergy : Field := ⟨58, 63, 32⟩
/-- `PWR_WATCH_LAST.SENSOR`, bits [31:16], R733. -/
abbrev pwrWatchLastSensor : Field := ⟨58, 31, 16⟩
/-- `PWR_WATCH_LAST.SENSOR_ERRORS`, bits [15:0], R733. -/
abbrev pwrWatchLastSensorErrors : Field := ⟨58, 15, 0⟩
/-- `PWR_TEMP_MAX.SENSOR`, bits [15:8], R733. -/
abbrev pwrTempMaxSensor : Field := ⟨59, 15, 8⟩
/-- `PWR_TEMP_MAX.TEMP`, bits [7:0], R733. -/
abbrev pwrTempMaxTemp : Field := ⟨59, 7, 0⟩
/-- `PWR_TEMP_s.TEMP`, bits [7:0], R733. -/
abbrev pwrTempTemp : Field := ⟨60, 7, 0⟩
/-- `WHISTLE_EPOCH.EPOCH`, bits [63:0], R733. -/
abbrev whistleEpochEpoch : Field := ⟨61, 63, 0⟩
/-- `WHISTLE_STATUS.CHANGES`, bits [23:16], R733. -/
abbrev whistleStatusChanges : Field := ⟨62, 23, 16⟩
/-- `WHISTLE_STATUS.UNIT`, bits [15:8], R733. -/
abbrev whistleStatusUnit : Field := ⟨62, 15, 8⟩
/-- `WHISTLE_STATUS.STATE`, bits [1:0], R733. -/
abbrev whistleStatusState : Field := ⟨62, 1, 0⟩
/-- `FE_ID.SLOTS`, bits [31:24], R546. -/
abbrev feIdSlots : Field := ⟨63, 31, 24⟩
/-- `FE_ID.ONDECK`, bits [23:16], R546. -/
abbrev feIdOndeck : Field := ⟨63, 23, 16⟩
/-- `FE_ID.PRIORITIES`, bits [15:8], R546. -/
abbrev feIdPriorities : Field := ⟨63, 15, 8⟩
/-- `FE_ID.PARTITIONS`, bits [7:0], R546. -/
abbrev feIdPartitions : Field := ⟨63, 7, 0⟩
/-- `FE_SCHED_CFG.AGE_MS`, bits [31:24], R546. -/
abbrev feSchedCfgAgeMs : Field := ⟨64, 31, 24⟩
/-- `FE_SCHED_CFG.SLICE_US`, bits [23:8], R546. -/
abbrev feSchedCfgSliceUs : Field := ⟨64, 23, 8⟩
/-- `FE_SCHED_CFG.FW_FALLBACK`, bits [1:1], R546. -/
abbrev feSchedCfgFwFallback : Field := ⟨64, 1, 1⟩
/-- `FE_SCHED_CFG.MODE`, bits [0:0], R546. -/
abbrev feSchedCfgMode : Field := ⟨64, 0, 0⟩
/-- `FE_SECURITY.LOCK`, bits [31:31], R546. -/
abbrev feSecurityLock : Field := ⟨65, 31, 31⟩
/-- `FE_SECURITY.VALIDATE`, bits [0:0], R546. -/
abbrev feSecurityValidate : Field := ⟨65, 0, 0⟩
/-- `FE_CTX_TABLE_BASE.ADDR`, bits [39:16], R546. -/
abbrev feCtxTableBaseAddr : Field := ⟨66, 39, 16⟩
/-- `FE_QUEUE_TABLE_BASE.ADDR`, bits [39:16], R546. -/
abbrev feQueueTableBaseAddr : Field := ⟨67, 39, 16⟩
/-- `FE_DOORBELL_BASE.ADDR`, bits [39:11], R546. -/
abbrev feDoorbellBaseAddr : Field := ⟨68, 39, 11⟩
/-- `FE_DOORBELL_BASE.SLOTS_LOG2`, bits [3:0], R546. -/
abbrev feDoorbellBaseSlotsLog2 : Field := ⟨68, 3, 0⟩
/-- `FE_SCORE_BASE.ADDR`, bits [39:16], R546. -/
abbrev feScoreBaseAddr : Field := ⟨69, 39, 16⟩
/-- `FE_OP.OP`, bits [63:60], R546. -/
abbrev feOpOp : Field := ⟨70, 63, 60⟩
/-- `FE_OP.ARG`, bits [31:0], R546. -/
abbrev feOpArg : Field := ⟨70, 31, 0⟩
/-- `FE_OP_RESULT.STATUS`, bits [63:48], R546. -/
abbrev feOpResultStatus : Field := ⟨71, 63, 48⟩
/-- `FE_OP_RESULT.STATE`, bits [47:44], R546. -/
abbrev feOpResultState : Field := ⟨71, 47, 44⟩
/-- `FE_OP_RESULT.HANDLE`, bits [31:0], R546. -/
abbrev feOpResultHandle : Field := ⟨71, 31, 0⟩
/-- `FE_PART_CFG_p.SLOTS`, bits [7:0], R546. -/
abbrev fePartCfgSlots : Field := ⟨72, 7, 0⟩
/-- `FE_PART_UNITS.RASTER_IN`, bits [23:20], R546. -/
abbrev fePartUnitsRasterIn : Field := ⟨73, 23, 20⟩
/-- `FE_PART_UNITS.QUARTER_IN`, bits [19:16], R546. -/
abbrev fePartUnitsQuarterIn : Field := ⟨73, 19, 16⟩
/-- `FE_PART_UNITS.PART_Q3`, bits [15:12], R546. -/
abbrev fePartUnitsPartQ3 : Field := ⟨73, 15, 12⟩
/-- `FE_PART_UNITS.PART_Q2`, bits [11:8], R546. -/
abbrev fePartUnitsPartQ2 : Field := ⟨73, 11, 8⟩
/-- `FE_PART_UNITS.PART_Q1`, bits [7:4], R546. -/
abbrev fePartUnitsPartQ1 : Field := ⟨73, 7, 4⟩
/-- `FE_PART_UNITS.PART_Q0`, bits [3:0], R546. -/
abbrev fePartUnitsPartQ0 : Field := ⟨73, 3, 0⟩
/-- `FE_PART_COMMIT.FAILED`, bits [1:1], R546. -/
abbrev fePartCommitFailed : Field := ⟨74, 1, 1⟩
/-- `FE_PART_COMMIT.GO`, bits [0:0], R546. -/
abbrev fePartCommitGo : Field := ⟨74, 0, 0⟩
/-- `FE_STALE_COUNT.COUNT`, bits [63:0], R546. -/
abbrev feStaleCountCount : Field := ⟨75, 63, 0⟩
/-- `FE_DOORBELL_BAD.COUNT`, bits [63:0], R546. -/
abbrev feDoorbellBadCount : Field := ⟨76, 63, 0⟩
/-- `FE_SWAP_COUNT.COUNT`, bits [63:0], R546. -/
abbrev feSwapCountCount : Field := ⟨77, 63, 0⟩
/-- `FE_DEADLOCK_COUNT.COUNT`, bits [63:0], R546. -/
abbrev feDeadlockCountCount : Field := ⟨78, 63, 0⟩
/-- `FE_WAIT_TIMEOUTS.COUNT`, bits [63:0], R546. -/
abbrev feWaitTimeoutsCount : Field := ⟨79, 63, 0⟩
/-- `FLD_ID.COURTS`, bits [31:24], R166. -/
abbrev fldIdCourts : Field := ⟨80, 31, 24⟩
/-- `FLD_ID.ROWS`, bits [23:16], R166. -/
abbrev fldIdRows : Field := ⟨80, 23, 16⟩
/-- `FLD_ID.ENGINES`, bits [15:8], R166. -/
abbrev fldIdEngines : Field := ⟨80, 15, 8⟩
/-- `FLD_ID.SPARES`, bits [7:0], R166. -/
abbrev fldIdSpares : Field := ⟨80, 7, 0⟩
/-- `FLD_PART_CFG.PART_15`, bits [63:60], R167. -/
abbrev fldPartCfgPart15 : Field := ⟨81, 63, 60⟩
/-- `FLD_PART_CFG.PART_14`, bits [59:56], R167. -/
abbrev fldPartCfgPart14 : Field := ⟨81, 59, 56⟩
/-- `FLD_PART_CFG.PART_13`, bits [55:52], R167. -/
abbrev fldPartCfgPart13 : Field := ⟨81, 55, 52⟩
/-- `FLD_PART_CFG.PART_12`, bits [51:48], R167. -/
abbrev fldPartCfgPart12 : Field := ⟨81, 51, 48⟩
/-- `FLD_PART_CFG.PART_11`, bits [47:44], R167. -/
abbrev fldPartCfgPart11 : Field := ⟨81, 47, 44⟩
/-- `FLD_PART_CFG.PART_10`, bits [43:40], R167. -/
abbrev fldPartCfgPart10 : Field := ⟨81, 43, 40⟩
/-- `FLD_PART_CFG.PART_9`, bits [39:36], R167. -/
abbrev fldPartCfgPart9 : Field := ⟨81, 39, 36⟩
/-- `FLD_PART_CFG.PART_8`, bits [35:32], R167. -/
abbrev fldPartCfgPart8 : Field := ⟨81, 35, 32⟩
/-- `FLD_PART_CFG.PART_7`, bits [31:28], R167. -/
abbrev fldPartCfgPart7 : Field := ⟨81, 31, 28⟩
/-- `FLD_PART_CFG.PART_6`, bits [27:24], R167. -/
abbrev fldPartCfgPart6 : Field := ⟨81, 27, 24⟩
/-- `FLD_PART_CFG.PART_5`, bits [23:20], R167. -/
abbrev fldPartCfgPart5 : Field := ⟨81, 23, 20⟩
/-- `FLD_PART_CFG.PART_4`, bits [19:16], R167. -/
abbrev fldPartCfgPart4 : Field := ⟨81, 19, 16⟩
/-- `FLD_PART_CFG.PART_3`, bits [15:12], R167. -/
abbrev fldPartCfgPart3 : Field := ⟨81, 15, 12⟩
/-- `FLD_PART_CFG.PART_2`, bits [11:8], R167. -/
abbrev fldPartCfgPart2 : Field := ⟨81, 11, 8⟩
/-- `FLD_PART_CFG.PART_1`, bits [7:4], R167. -/
abbrev fldPartCfgPart1 : Field := ⟨81, 7, 4⟩
/-- `FLD_PART_CFG.PART_0`, bits [3:0], R167. -/
abbrev fldPartCfgPart0 : Field := ⟨81, 3, 0⟩
/-- `FLD_PART_VALID.COURT_IN`, bits [15:0], R168. -/
abbrev fldPartValidCourtIn : Field := ⟨82, 15, 0⟩
/-- `FLD_SCRUB_CFG.LOCK`, bits [31:31], R169. -/
abbrev fldScrubCfgLock : Field := ⟨83, 31, 31⟩
/-- `FLD_SCRUB_CFG.MODE`, bits [1:0], R169. -/
abbrev fldScrubCfgMode : Field := ⟨83, 1, 0⟩
/-- `FLD_FMT_DEFAULT.OVF_NAN`, bits [0:0], R93. -/
abbrev fldFmtDefaultOvfNan : Field := ⟨84, 0, 0⟩
/-- `FLD_COURT_STATUS_n.CTX_INDEX`, bits [31:20], R171. -/
abbrev fldCourtStatusCtxIndex : Field := ⟨85, 31, 20⟩
/-- `FLD_COURT_STATUS_n.SPARES_USED`, bits [19:16], R171. -/
abbrev fldCourtStatusSparesUsed : Field := ⟨85, 19, 16⟩
/-- `FLD_COURT_STATUS_n.PARTITION`, bits [15:12], R171. -/
abbrev fldCourtStatusPartition : Field := ⟨85, 15, 12⟩
/-- `FLD_COURT_STATUS_n.RETIRED`, bits [6:6], R171. -/
abbrev fldCourtStatusRetired : Field := ⟨85, 6, 6⟩
/-- `FLD_COURT_STATUS_n.INSPECTING`, bits [5:5], R171. -/
abbrev fldCourtStatusInspecting : Field := ⟨85, 5, 5⟩
/-- `FLD_COURT_STATUS_n.REMAP_PENDING`, bits [4:4], R171. -/
abbrev fldCourtStatusRemapPending : Field := ⟨85, 4, 4⟩
/-- `FLD_COURT_STATUS_n.SCRUBBING`, bits [3:3], R171. -/
abbrev fldCourtStatusScrubbing : Field := ⟨85, 3, 3⟩
/-- `FLD_COURT_STATUS_n.BUSY`, bits [2:2], R171. -/
abbrev fldCourtStatusBusy : Field := ⟨85, 2, 2⟩
/-- `FLD_COURT_STATUS_n.IN_PARTITION`, bits [1:1], R171. -/
abbrev fldCourtStatusInPartition : Field := ⟨85, 1, 1⟩
/-- `FLD_COURT_STATUS_n.DOMAIN_ON`, bits [0:0], R171. -/
abbrev fldCourtStatusDomainOn : Field := ⟨85, 0, 0⟩
/-- `FLD_SPARE_MAP_n.SPARE_BAD_7`, bits [61:61], R172. -/
abbrev fldSpareMapSpareBad7 : Field := ⟨86, 61, 61⟩
/-- `FLD_SPARE_MAP_n.USED_7`, bits [60:60], R172. -/
abbrev fldSpareMapUsed7 : Field := ⟨86, 60, 60⟩
/-- `FLD_SPARE_MAP_n.ENGINE_7`, bits [59:56], R172. -/
abbrev fldSpareMapEngine7 : Field := ⟨86, 59, 56⟩
/-- `FLD_SPARE_MAP_n.SPARE_BAD_6`, bits [53:53], R172. -/
abbrev fldSpareMapSpareBad6 : Field := ⟨86, 53, 53⟩
/-- `FLD_SPARE_MAP_n.USED_6`, bits [52:52], R172. -/
abbrev fldSpareMapUsed6 : Field := ⟨86, 52, 52⟩
/-- `FLD_SPARE_MAP_n.ENGINE_6`, bits [51:48], R172. -/
abbrev fldSpareMapEngine6 : Field := ⟨86, 51, 48⟩
/-- `FLD_SPARE_MAP_n.SPARE_BAD_5`, bits [45:45], R172. -/
abbrev fldSpareMapSpareBad5 : Field := ⟨86, 45, 45⟩
/-- `FLD_SPARE_MAP_n.USED_5`, bits [44:44], R172. -/
abbrev fldSpareMapUsed5 : Field := ⟨86, 44, 44⟩
/-- `FLD_SPARE_MAP_n.ENGINE_5`, bits [43:40], R172. -/
abbrev fldSpareMapEngine5 : Field := ⟨86, 43, 40⟩
/-- `FLD_SPARE_MAP_n.SPARE_BAD_4`, bits [37:37], R172. -/
abbrev fldSpareMapSpareBad4 : Field := ⟨86, 37, 37⟩
/-- `FLD_SPARE_MAP_n.USED_4`, bits [36:36], R172. -/
abbrev fldSpareMapUsed4 : Field := ⟨86, 36, 36⟩
/-- `FLD_SPARE_MAP_n.ENGINE_4`, bits [35:32], R172. -/
abbrev fldSpareMapEngine4 : Field := ⟨86, 35, 32⟩
/-- `FLD_SPARE_MAP_n.SPARE_BAD_3`, bits [29:29], R172. -/
abbrev fldSpareMapSpareBad3 : Field := ⟨86, 29, 29⟩
/-- `FLD_SPARE_MAP_n.USED_3`, bits [28:28], R172. -/
abbrev fldSpareMapUsed3 : Field := ⟨86, 28, 28⟩
/-- `FLD_SPARE_MAP_n.ENGINE_3`, bits [27:24], R172. -/
abbrev fldSpareMapEngine3 : Field := ⟨86, 27, 24⟩
/-- `FLD_SPARE_MAP_n.SPARE_BAD_2`, bits [21:21], R172. -/
abbrev fldSpareMapSpareBad2 : Field := ⟨86, 21, 21⟩
/-- `FLD_SPARE_MAP_n.USED_2`, bits [20:20], R172. -/
abbrev fldSpareMapUsed2 : Field := ⟨86, 20, 20⟩
/-- `FLD_SPARE_MAP_n.ENGINE_2`, bits [19:16], R172. -/
abbrev fldSpareMapEngine2 : Field := ⟨86, 19, 16⟩
/-- `FLD_SPARE_MAP_n.SPARE_BAD_1`, bits [13:13], R172. -/
abbrev fldSpareMapSpareBad1 : Field := ⟨86, 13, 13⟩
/-- `FLD_SPARE_MAP_n.USED_1`, bits [12:12], R172. -/
abbrev fldSpareMapUsed1 : Field := ⟨86, 12, 12⟩
/-- `FLD_SPARE_MAP_n.ENGINE_1`, bits [11:8], R172. -/
abbrev fldSpareMapEngine1 : Field := ⟨86, 11, 8⟩
/-- `FLD_SPARE_MAP_n.SPARE_BAD_0`, bits [5:5], R172. -/
abbrev fldSpareMapSpareBad0 : Field := ⟨86, 5, 5⟩
/-- `FLD_SPARE_MAP_n.USED_0`, bits [4:4], R172. -/
abbrev fldSpareMapUsed0 : Field := ⟨86, 4, 4⟩
/-- `FLD_SPARE_MAP_n.ENGINE_0`, bits [3:0], R172. -/
abbrev fldSpareMapEngine0 : Field := ⟨86, 3, 0⟩
/-- `FLD_PART_STALL_LATE_p.CYCLES`, bits [63:0], R174. -/
abbrev fldPartStallLateCycles : Field := ⟨87, 63, 0⟩
/-- `FLD_PART_STALL_THROTTLE_p.CYCLES`, bits [63:0], R174. -/
abbrev fldPartStallThrottleCycles : Field := ⟨88, 63, 0⟩
/-- `FLD_PART_STALL_CONFLICT_p.CYCLES`, bits [63:0], R174. -/
abbrev fldPartStallConflictCycles : Field := ⟨89, 63, 0⟩
/-- `FLD_PART_STALL_STRETCH_p.CYCLES`, bits [63:0], R174. -/
abbrev fldPartStallStretchCycles : Field := ⟨90, 63, 0⟩
/-- `SHA_ID.QUARTERS`, bits [31:24], R313. -/
abbrev shaIdQuarters : Field := ⟨91, 31, 24⟩
/-- `SHA_ID.CORES`, bits [23:16], R313. -/
abbrev shaIdCores : Field := ⟨91, 23, 16⟩
/-- `SHA_ID.SPARES`, bits [15:8], R313. -/
abbrev shaIdSpares : Field := ⟨91, 15, 8⟩
/-- `SHA_ID.LANES`, bits [7:0], R313. -/
abbrev shaIdLanes : Field := ⟨91, 7, 0⟩
/-- `SHA_QUARTER_STATUS_q.PARTITION`, bits [31:28], R314. -/
abbrev shaQuarterStatusPartition : Field := ⟨92, 31, 28⟩
/-- `SHA_QUARTER_STATUS_q.IN_PARTITION`, bits [27:27], R314. -/
abbrev shaQuarterStatusInPartition : Field := ⟨92, 27, 27⟩
/-- `SHA_QUARTER_STATUS_q.DOMAIN_ON`, bits [26:26], R314. -/
abbrev shaQuarterStatusDomainOn : Field := ⟨92, 26, 26⟩
/-- `SHA_QUARTER_STATUS_q.SCRUBBING`, bits [25:25], R314. -/
abbrev shaQuarterStatusScrubbing : Field := ⟨92, 25, 25⟩
/-- `SHA_QUARTER_STATUS_q.INSPECTING`, bits [24:24], R314. -/
abbrev shaQuarterStatusInspecting : Field := ⟨92, 24, 24⟩
/-- `SHA_QUARTER_STATUS_q.REMAP_PENDING`, bits [23:23], R314. -/
abbrev shaQuarterStatusRemapPending : Field := ⟨92, 23, 23⟩
/-- `SHA_QUARTER_STATUS_q.CORE_BUSY`, bits [16:0], R314. -/
abbrev shaQuarterStatusCoreBusy : Field := ⟨92, 16, 0⟩
/-- `SHA_SPARE_MAP_q.USED`, bits [4:4], R315. -/
abbrev shaSpareMapUsed : Field := ⟨93, 4, 4⟩
/-- `SHA_SPARE_MAP_q.CORE`, bits [3:0], R315. -/
abbrev shaSpareMapCore : Field := ⟨93, 3, 0⟩
/-- `SHA_CORE_RETIRED_q.RETIRED`, bits [16:0], R316. -/
abbrev shaCoreRetiredRetired : Field := ⟨94, 16, 0⟩
/-- `SHA_FAULT_COUNT_q.FAULTS`, bits [63:0], R317. -/
abbrev shaFaultCountFaults : Field := ⟨95, 63, 0⟩
/-- `GFX_ID.FRONT_ENDS`, bits [31:24], R372. -/
abbrev gfxIdFrontEnds : Field := ⟨96, 31, 24⟩
/-- `GFX_ID.TILE_W`, bits [23:16], R372. -/
abbrev gfxIdTileW : Field := ⟨96, 23, 16⟩
/-- `GFX_ID.TILE_H`, bits [15:8], R372. -/
abbrev gfxIdTileH : Field := ⟨96, 15, 8⟩
/-- `GFX_ID.MAX_SAMPLES`, bits [7:0], R372. -/
abbrev gfxIdMaxSamples : Field := ⟨96, 7, 0⟩
/-- `GFX_FE_STATUS_q.PARTITION`, bits [31:28], R373. -/
abbrev gfxFeStatusPartition : Field := ⟨97, 31, 28⟩
/-- `GFX_FE_STATUS_q.IN_PARTITION`, bits [27:27], R373. -/
abbrev gfxFeStatusInPartition : Field := ⟨97, 27, 27⟩
/-- `GFX_FE_STATUS_q.CLOCK_GATED`, bits [26:26], R373. -/
abbrev gfxFeStatusClockGated : Field := ⟨97, 26, 26⟩
/-- `GFX_FE_STATUS_q.BINNING`, bits [25:25], R373. -/
abbrev gfxFeStatusBinning : Field := ⟨97, 25, 25⟩
/-- `GFX_FE_STATUS_q.RENDERING`, bits [24:24], R373. -/
abbrev gfxFeStatusRendering : Field := ⟨97, 24, 24⟩
/-- `GFX_FE_STATUS_q.PARTIAL`, bits [23:23], R373. -/
abbrev gfxFeStatusPartial : Field := ⟨97, 23, 23⟩
/-- `GFX_FE_STATUS_q.TILES_IN_FLIGHT`, bits [5:0], R373. -/
abbrev gfxFeStatusTilesInFlight : Field := ⟨97, 5, 0⟩
/-- `GFX_PARTIAL_COUNT_q.COUNT`, bits [63:0], R374. -/
abbrev gfxPartialCountCount : Field := ⟨98, 63, 0⟩
/-- `GFX_TILES_q.COUNT`, bits [63:0], R374. -/
abbrev gfxTilesCount : Field := ⟨99, 63, 0⟩
/-- `GFX_PRIMS_q.COUNT`, bits [63:0], R374. -/
abbrev gfxPrimsCount : Field := ⟨100, 63, 0⟩
/-- `GFX_SPILL_BYTES_q.COUNT`, bits [63:0], R374. -/
abbrev gfxSpillBytesCount : Field := ⟨101, 63, 0⟩
/-- `GFX_FILL_q.FILL`, bits [0:0], R374. -/
abbrev gfxFillFill : Field := ⟨102, 0, 0⟩
/-- `LYR_ID.PIPES`, bits [31:24], R417. -/
abbrev lyrIdPipes : Field := ⟨103, 31, 24⟩
/-- `LYR_ID.LAYERS`, bits [23:16], R417. -/
abbrev lyrIdLayers : Field := ⟨103, 23, 16⟩
/-- `LYR_ID.REGIONS`, bits [15:8], R417. -/
abbrev lyrIdRegions : Field := ⟨103, 15, 8⟩
/-- `LYR_ID.TRANSMITTERS`, bits [7:0], R417. -/
abbrev lyrIdTransmitters : Field := ⟨103, 7, 0⟩
/-- `LYR_PIPE_CTRL_p.NO_SKIP`, bits [3:3], R418. -/
abbrev lyrPipeCtrlNoSkip : Field := ⟨104, 3, 3⟩
/-- `LYR_PIPE_CTRL_p.OUT_BPC`, bits [2:1], R418. -/
abbrev lyrPipeCtrlOutBpc : Field := ⟨104, 2, 1⟩
/-- `LYR_PIPE_CTRL_p.ENABLE`, bits [0:0], R418. -/
abbrev lyrPipeCtrlEnable : Field := ⟨104, 0, 0⟩
/-- `LYR_PIPE_STATUS_p.BLANKED`, bits [4:4], R418. -/
abbrev lyrPipeStatusBlanked : Field := ⟨105, 4, 4⟩
/-- `LYR_PIPE_STATUS_p.HOLDING`, bits [3:3], R418. -/
abbrev lyrPipeStatusHolding : Field := ⟨105, 3, 3⟩
/-- `LYR_PIPE_STATUS_p.STATE`, bits [2:0], R418. -/
abbrev lyrPipeStatusState : Field := ⟨105, 2, 0⟩
/-- `LYR_TIMING_H_p.ACTIVE_M1`, bits [63:48], R418. -/
abbrev lyrTimingHActiveM1 : Field := ⟨106, 63, 48⟩
/-- `LYR_TIMING_H_p.FRONT`, bits [47:32], R418. -/
abbrev lyrTimingHFront : Field := ⟨106, 47, 32⟩
/-- `LYR_TIMING_H_p.SYNC`, bits [31:16], R418. -/
abbrev lyrTimingHSync : Field := ⟨106, 31, 16⟩
/-- `LYR_TIMING_H_p.BACK`, bits [15:0], R418. -/
abbrev lyrTimingHBack : Field := ⟨106, 15, 0⟩
/-- `LYR_TIMING_V_p.ACTIVE_M1`, bits [63:48], R418. -/
abbrev lyrTimingVActiveM1 : Field := ⟨107, 63, 48⟩
/-- `LYR_TIMING_V_p.FRONT`, bits [47:32], R418. -/
abbrev lyrTimingVFront : Field := ⟨107, 47, 32⟩
/-- `LYR_TIMING_V_p.SYNC`, bits [31:16], R418. -/
abbrev lyrTimingVSync : Field := ⟨107, 31, 16⟩
/-- `LYR_TIMING_V_p.BACK`, bits [15:0], R418. -/
abbrev lyrTimingVBack : Field := ⟨107, 15, 0⟩
/-- `LYR_PCLK_p.KHZ`, bits [31:0], R418. -/
abbrev lyrPclkKhz : Field := ⟨108, 31, 0⟩
/-- `LYR_BG_p.R`, bits [29:20], R418. -/
abbrev lyrBgR : Field := ⟨109, 29, 20⟩
/-- `LYR_BG_p.G`, bits [19:10], R418. -/
abbrev lyrBgG : Field := ⟨109, 19, 10⟩
/-- `LYR_BG_p.B`, bits [9:0], R418. -/
abbrev lyrBgB : Field := ⟨109, 9, 0⟩
/-- `LYR_COMMIT_p.ARM`, bits [0:0], R418. -/
abbrev lyrCommitArm : Field := ⟨110, 0, 0⟩
/-- `LYR_FRAME_SEQ_p.SEQ`, bits [63:0], R418. -/
abbrev lyrFrameSeqSeq : Field := ⟨111, 63, 0⟩
/-- `LYR_LATE_COUNT_p.COUNT`, bits [63:0], R418. -/
abbrev lyrLateCountCount : Field := ⟨112, 63, 0⟩
/-- `LYR_UNDERFLOW_COUNT_p.COUNT`, bits [63:0], R418. -/
abbrev lyrUnderflowCountCount : Field := ⟨113, 63, 0⟩
/-- `LYR_SKIP_BYTES_p.COUNT`, bits [63:0], R418. -/
abbrev lyrSkipBytesCount : Field := ⟨114, 63, 0⟩
/-- `LYR_LAYER_OWNER_p_l.VALID`, bits [32:32], R418. -/
abbrev lyrLayerOwnerValid : Field := ⟨115, 32, 32⟩
/-- `LYR_LAYER_OWNER_p_l.HANDLE`, bits [31:0], R418. -/
abbrev lyrLayerOwnerHandle : Field := ⟨115, 31, 0⟩
/-- `LYR_SIG_CTRL_p.LOCK`, bits [31:31], R418. -/
abbrev lyrSigCtrlLock : Field := ⟨116, 31, 31⟩
/-- `LYR_SIG_CTRL_p.ENABLE`, bits [15:0], R418. -/
abbrev lyrSigCtrlEnable : Field := ⟨116, 15, 0⟩
/-- `LYR_SIG_STATUS_p.MISMATCH`, bits [15:0], R418. -/
abbrev lyrSigStatusMismatch : Field := ⟨117, 15, 0⟩
/-- `LYR_SIG_RECT_p_r.X`, bits [63:48], R418. -/
abbrev lyrSigRectX : Field := ⟨118, 63, 48⟩
/-- `LYR_SIG_RECT_p_r.Y`, bits [47:32], R418. -/
abbrev lyrSigRectY : Field := ⟨118, 47, 32⟩
/-- `LYR_SIG_RECT_p_r.WM1`, bits [31:16], R418. -/
abbrev lyrSigRectWm1 : Field := ⟨118, 31, 16⟩
/-- `LYR_SIG_RECT_p_r.HM1`, bits [15:0], R418. -/
abbrev lyrSigRectHm1 : Field := ⟨118, 15, 0⟩
/-- `LYR_SIG_CFG_p_r.ACTION`, bits [1:0], R418. -/
abbrev lyrSigCfgAction : Field := ⟨119, 1, 0⟩
/-- `LYR_SIG_EXPECT_p_r.CRC`, bits [31:0], R418. -/
abbrev lyrSigExpectCrc : Field := ⟨120, 31, 0⟩
/-- `LYR_SIG_LAST_p_r.CRC`, bits [31:0], R418. -/
abbrev lyrSigLastCrc : Field := ⟨121, 31, 0⟩
/-- `LYR_SIG_MISS_p_r.COUNT`, bits [31:0], R418. -/
abbrev lyrSigMissCount : Field := ⟨122, 31, 0⟩
/-- `LYR_WB_CTRL_p.FORMAT`, bits [7:4], R418. -/
abbrev lyrWbCtrlFormat : Field := ⟨123, 7, 4⟩
/-- `LYR_WB_CTRL_p.NBUF_M1`, bits [3:1], R418. -/
abbrev lyrWbCtrlNbufM1 : Field := ⟨123, 3, 1⟩
/-- `LYR_WB_CTRL_p.EN`, bits [0:0], R418. -/
abbrev lyrWbCtrlEn : Field := ⟨123, 0, 0⟩
/-- `LYR_WB_BASE_p.ADDR`, bits [63:16], R418. -/
abbrev lyrWbBaseAddr : Field := ⟨124, 63, 16⟩
/-- `LYR_WB_GEOM_p.PITCH`, bits [63:40], R418. -/
abbrev lyrWbGeomPitch : Field := ⟨125, 63, 40⟩
/-- `LYR_WB_GEOM_p.SLOT_STRIDE`, bits [39:0], R418. -/
abbrev lyrWbGeomSlotStride : Field := ⟨125, 39, 0⟩
/-- `LYR_WB_FENCE_p.ADDR`, bits [63:16], R418. -/
abbrev lyrWbFenceAddr : Field := ⟨126, 63, 16⟩
/-- `LYR_WB_RECORD_p.ADDR`, bits [63:16], R418. -/
abbrev lyrWbRecordAddr : Field := ⟨127, 63, 16⟩
/-- `LYR_WB_OWNER_p.VALID`, bits [32:32], R418. -/
abbrev lyrWbOwnerValid : Field := ⟨128, 32, 32⟩
/-- `LYR_WB_OWNER_p.HANDLE`, bits [31:0], R418. -/
abbrev lyrWbOwnerHandle : Field := ⟨128, 31, 0⟩
/-- `DPX_LINK_CTRL_t.MAX_RATE`, bits [15:12], R420. -/
abbrev dpxLinkCtrlMaxRate : Field := ⟨129, 15, 12⟩
/-- `DPX_LINK_CTRL_t.MAX_LANES`, bits [11:10], R420. -/
abbrev dpxLinkCtrlMaxLanes : Field := ⟨129, 11, 10⟩
/-- `DPX_LINK_CTRL_t.MST`, bits [1:1], R420. -/
abbrev dpxLinkCtrlMst : Field := ⟨129, 1, 1⟩
/-- `DPX_LINK_CTRL_t.EN`, bits [0:0], R420. -/
abbrev dpxLinkCtrlEn : Field := ⟨129, 0, 0⟩
/-- `DPX_LINK_STATUS_t.RATE`, bits [31:28], R420. -/
abbrev dpxLinkStatusRate : Field := ⟨130, 31, 28⟩
/-- `DPX_LINK_STATUS_t.LANES`, bits [27:26], R420. -/
abbrev dpxLinkStatusLanes : Field := ⟨130, 27, 26⟩
/-- `DPX_LINK_STATUS_t.HPD`, bits [25:25], R420. -/
abbrev dpxLinkStatusHpd : Field := ⟨130, 25, 25⟩
/-- `DPX_LINK_STATUS_t.TRAINED`, bits [24:24], R420. -/
abbrev dpxLinkStatusTrained : Field := ⟨130, 24, 24⟩
/-- `DPX_LINK_STATUS_t.TRAIN_FAILS`, bits [15:0], R420. -/
abbrev dpxLinkStatusTrainFails : Field := ⟨130, 15, 0⟩
/-- `DPX_STREAM_p.SLOTS`, bits [37:32], R420. -/
abbrev dpxStreamSlots : Field := ⟨131, 37, 32⟩
/-- `DPX_STREAM_p.DSC`, bits [28:28], R420. -/
abbrev dpxStreamDsc : Field := ⟨131, 28, 28⟩
/-- `DPX_STREAM_p.SLICES`, bits [27:26], R420. -/
abbrev dpxStreamSlices : Field := ⟨131, 27, 26⟩
/-- `DPX_STREAM_p.BPP_X16`, bits [25:17], R420. -/
abbrev dpxStreamBppX16 : Field := ⟨131, 25, 17⟩
/-- `DPX_STREAM_p.TX`, bits [1:1], R420. -/
abbrev dpxStreamTx : Field := ⟨131, 1, 1⟩
/-- `DPX_STREAM_p.EN`, bits [0:0], R420. -/
abbrev dpxStreamEn : Field := ⟨131, 0, 0⟩
/-- `MEM_ID.SD_CHANNELS`, bits [31:24], R475. -/
abbrev memIdSdChannels : Field := ⟨132, 31, 24⟩
/-- `MEM_ID.LP_CONTROLLERS`, bits [23:16], R475. -/
abbrev memIdLpControllers : Field := ⟨132, 23, 16⟩
/-- `MEM_ID.SC_SLICES`, bits [15:8], R475. -/
abbrev memIdScSlices : Field := ⟨132, 15, 8⟩
/-- `MEM_ID.SC_WAYS`, bits [7:0], R475. -/
abbrev memIdScWays : Field := ⟨132, 7, 0⟩
/-- `MEM_CFG.INLINE_ECC`, bits [0:0], R475. -/
abbrev memCfgInlineEcc : Field := ⟨133, 0, 0⟩
/-- `MEM_SD_COMMIT.FAILED`, bits [1:1], R475. -/
abbrev memSdCommitFailed : Field := ⟨134, 1, 1⟩
/-- `MEM_SD_COMMIT.GO`, bits [0:0], R475. -/
abbrev memSdCommitGo : Field := ⟨134, 0, 0⟩
/-- `MEM_SD_RANGE_i.VALID`, bits [63:63], R475. -/
abbrev memSdRangeValid : Field := ⟨135, 63, 63⟩
/-- `MEM_SD_RANGE_i.COURTS`, bits [62:47], R475. -/
abbrev memSdRangeCourts : Field := ⟨135, 62, 47⟩
/-- `MEM_SD_RANGE_i.BASE`, bits [46:33], R475. -/
abbrev memSdRangeBase : Field := ⟨135, 46, 33⟩
/-- `MEM_SD_RANGE_i.SIZE`, bits [32:24], R475. -/
abbrev memSdRangeSize : Field := ⟨135, 32, 24⟩
/-- `MEM_SD_RANGE_i.CHOFF`, bits [23:16], R475. -/
abbrev memSdRangeChoff : Field := ⟨135, 23, 16⟩
/-- `MEM_SD_CHAN_c.TEMP`, bits [63:56], R475. -/
abbrev memSdChanTemp : Field := ⟨136, 63, 56⟩
/-- `MEM_SD_CHAN_c.REFRESH`, bits [55:54], R475. -/
abbrev memSdChanRefresh : Field := ⟨136, 55, 54⟩
/-- `MEM_SD_CHAN_c.CE_COUNT`, bits [47:16], R475. -/
abbrev memSdChanCeCount : Field := ⟨136, 47, 16⟩
/-- `MEM_SD_CHAN_c.UE_COUNT`, bits [15:0], R475. -/
abbrev memSdChanUeCount : Field := ⟨136, 15, 0⟩
/-- `MEM_LP_CHAN_c.TEMP`, bits [63:56], R475. -/
abbrev memLpChanTemp : Field := ⟨137, 63, 56⟩
/-- `MEM_LP_CHAN_c.REFRESH`, bits [55:54], R475. -/
abbrev memLpChanRefresh : Field := ⟨137, 55, 54⟩
/-- `MEM_LP_CHAN_c.CE_COUNT`, bits [47:16], R475. -/
abbrev memLpChanCeCount : Field := ⟨137, 47, 16⟩
/-- `MEM_LP_CHAN_c.UE_COUNT`, bits [15:0], R475. -/
abbrev memLpChanUeCount : Field := ⟨137, 15, 0⟩
/-- `MEM_SC_RETIRE_s.WAYS`, bits [15:0], R475. -/
abbrev memScRetireWays : Field := ⟨138, 15, 0⟩
/-- `MEM_UE_LOG_i.VALID`, bits [63:63], R475. -/
abbrev memUeLogValid : Field := ⟨139, 63, 63⟩
/-- `MEM_UE_LOG_i.SOURCE`, bits [62:60], R475. -/
abbrev memUeLogSource : Field := ⟨139, 62, 60⟩
/-- `MEM_UE_LOG_i.PATROL`, bits [59:59], R475. -/
abbrev memUeLogPatrol : Field := ⟨139, 59, 59⟩
/-- `MEM_UE_LOG_i.PA`, bits [45:0], R475. -/
abbrev memUeLogPa : Field := ⟨139, 45, 0⟩
/-- `MEM_UE_NEXT.NEXT`, bits [3:0], R475. -/
abbrev memUeNextNext : Field := ⟨140, 3, 0⟩
/-- `MEM_UE_TOTAL.COUNT`, bits [63:0], R475. -/
abbrev memUeTotalCount : Field := ⟨141, 63, 0⟩
/-- `MEM_PATROL_CFG.HOURS`, bits [7:0], R475. -/
abbrev memPatrolCfgHours : Field := ⟨142, 7, 0⟩
/-- `MEM_QOS_CFG.AGE_US`, bits [31:24], R475. -/
abbrev memQosCfgAgeUs : Field := ⟨143, 31, 24⟩
/-- `MEM_QOS_CFG.W_REALTIME`, bits [23:16], R475. -/
abbrev memQosCfgWRealtime : Field := ⟨143, 23, 16⟩
/-- `MEM_QOS_CFG.W_NORMAL`, bits [15:8], R475. -/
abbrev memQosCfgWNormal : Field := ⟨143, 15, 8⟩
/-- `MEM_QOS_CFG.W_BULK`, bits [7:0], R475. -/
abbrev memQosCfgWBulk : Field := ⟨143, 7, 0⟩
/-- `MMU_ID.LEVELS`, bits [31:24], R477. -/
abbrev mmuIdLevels : Field := ⟨144, 31, 24⟩
/-- `MMU_ID.VA_BITS`, bits [23:16], R477. -/
abbrev mmuIdVaBits : Field := ⟨144, 23, 16⟩
/-- `MMU_ID.PA_BITS`, bits [15:8], R477. -/
abbrev mmuIdPaBits : Field := ⟨144, 15, 8⟩
/-- `MMU_ID.PAGE_SIZES`, bits [7:0], R477. -/
abbrev mmuIdPageSizes : Field := ⟨144, 7, 0⟩
/-- `MMU_WALKS.COUNT`, bits [63:0], R477. -/
abbrev mmuWalksCount : Field := ⟨145, 63, 0⟩
/-- `MMU_WALK_FAULTS.COUNT`, bits [63:0], R477. -/
abbrev mmuWalkFaultsCount : Field := ⟨146, 63, 0⟩
/-- `MMU_XLATE_CMDS.COUNT`, bits [63:0], R477. -/
abbrev mmuXlateCmdsCount : Field := ⟨147, 63, 0⟩
/-- `MMU_LAST_FAULT.CONTEXT`, bits [63:32], R477. -/
abbrev mmuLastFaultContext : Field := ⟨148, 63, 32⟩
/-- `MMU_LAST_FAULT.LEVEL`, bits [23:22], R477. -/
abbrev mmuLastFaultLevel : Field := ⟨148, 23, 22⟩
/-- `MMU_LAST_FAULT.REASON`, bits [21:18], R477. -/
abbrev mmuLastFaultReason : Field := ⟨148, 21, 18⟩
/-- `MMU_LAST_FAULT_VA.VA`, bits [47:0], R477. -/
abbrev mmuLastFaultVaVa : Field := ⟨149, 47, 0⟩
/-- `ETH_ID.PORTS`, bits [31:24], R600. -/
abbrev ethIdPorts : Field := ⟨150, 31, 24⟩
/-- `ETH_ID.STREAMS`, bits [23:16], R600. -/
abbrev ethIdStreams : Field := ⟨150, 23, 16⟩
/-- `ETH_ID.QPS`, bits [15:0], R600. -/
abbrev ethIdQps : Field := ⟨150, 15, 0⟩
/-- `ETH_QP_TABLE_BASE.ADDR`, bits [39:16], R600. -/
abbrev ethQpTableBaseAddr : Field := ⟨151, 39, 16⟩
/-- `ETH_KEY_TABLE_BASE.ADDR`, bits [39:16], R600. -/
abbrev ethKeyTableBaseAddr : Field := ⟨152, 39, 16⟩
/-- `ETH_STREAM_TABLE_BASE.ADDR`, bits [39:16], R600. -/
abbrev ethStreamTableBaseAddr : Field := ⟨153, 39, 16⟩
/-- `ETH_OP.OP`, bits [63:60], R600. -/
abbrev ethOpOp : Field := ⟨154, 63, 60⟩
/-- `ETH_OP.ARG`, bits [31:0], R600. -/
abbrev ethOpArg : Field := ⟨154, 31, 0⟩
/-- `ETH_OP_RESULT.STATUS`, bits [63:48], R600. -/
abbrev ethOpResultStatus : Field := ⟨155, 63, 48⟩
/-- `ETH_OP_RESULT.STATE`, bits [47:44], R600. -/
abbrev ethOpResultState : Field := ⟨155, 47, 44⟩
/-- `ETH_ECN_MARKED.COUNT`, bits [63:0], R600. -/
abbrev ethEcnMarkedCount : Field := ⟨156, 63, 0⟩
/-- `ETH_EVENTS_DROPPED.COUNT`, bits [63:0], R600. -/
abbrev ethEventsDroppedCount : Field := ⟨157, 63, 0⟩
/-- `ETH_RX_REFUSED.COUNT`, bits [63:0], R600. -/
abbrev ethRxRefusedCount : Field := ⟨158, 63, 0⟩
/-- `ETH_STREAM_COUNT_i.OVERRUN`, bits [63:32], R600. -/
abbrev ethStreamCountOverrun : Field := ⟨159, 63, 32⟩
/-- `ETH_STREAM_COUNT_i.LATE`, bits [31:0], R600. -/
abbrev ethStreamCountLate : Field := ⟨159, 31, 0⟩
/-- `ETH_STREAM_GAPS_i.COUNT`, bits [63:0], R600. -/
abbrev ethStreamGapsCount : Field := ⟨160, 63, 0⟩
/-- `ETH_PORT_CTRL_n.SLEEP_OK`, bits [7:7], R600. -/
abbrev ethPortCtrlSleepOk : Field := ⟨161, 7, 7⟩
/-- `ETH_PORT_CTRL_n.ROLE`, bits [6:6], R600. -/
abbrev ethPortCtrlRole : Field := ⟨161, 6, 6⟩
/-- `ETH_PORT_CTRL_n.RATE`, bits [5:4], R600. -/
abbrev ethPortCtrlRate : Field := ⟨161, 5, 4⟩
/-- `ETH_PORT_CTRL_n.ENABLE`, bits [0:0], R600. -/
abbrev ethPortCtrlEnable : Field := ⟨161, 0, 0⟩
/-- `ETH_PORT_STATUS_n.MACSEC`, bits [7:7], R600. -/
abbrev ethPortStatusMacsec : Field := ⟨162, 7, 7⟩
/-- `ETH_PORT_STATUS_n.ASLEEP`, bits [6:6], R600. -/
abbrev ethPortStatusAsleep : Field := ⟨162, 6, 6⟩
/-- `ETH_PORT_STATUS_n.LINK_UP`, bits [5:5], R600. -/
abbrev ethPortStatusLinkUp : Field := ⟨162, 5, 5⟩
/-- `ETH_PORT_STATUS_n.STATE`, bits [2:0], R600. -/
abbrev ethPortStatusState : Field := ⟨162, 2, 0⟩
/-- `ETH_PORT_MAC_n.MAC`, bits [47:0], R600. -/
abbrev ethPortMacMac : Field := ⟨163, 47, 0⟩
/-- `ETH_PORT_IP_LO_n.ADDR`, bits [63:0], R600. -/
abbrev ethPortIpLoAddr : Field := ⟨164, 63, 0⟩
/-- `ETH_PORT_IP_HI_n.ADDR`, bits [63:0], R600. -/
abbrev ethPortIpHiAddr : Field := ⟨165, 63, 0⟩
/-- `ETH_EGRESS_n.CLASSES`, bits [18:16], R600. -/
abbrev ethEgressClasses : Field := ⟨166, 18, 16⟩
/-- `ETH_EGRESS_n.LIMIT_MBPS`, bits [13:0], R600. -/
abbrev ethEgressLimitMbps : Field := ⟨166, 13, 0⟩
/-- `ETH_RX_FRAMES_n.COUNT`, bits [63:0], R600. -/
abbrev ethRxFramesCount : Field := ⟨167, 63, 0⟩
/-- `ETH_TX_FRAMES_n.COUNT`, bits [63:0], R600. -/
abbrev ethTxFramesCount : Field := ⟨168, 63, 0⟩
/-- `ETH_RX_FCS_ERRORS_n.COUNT`, bits [63:0], R600. -/
abbrev ethRxFcsErrorsCount : Field := ⟨169, 63, 0⟩
/-- `ETH_FEC_CORRECTED_n.COUNT`, bits [63:0], R600. -/
abbrev ethFecCorrectedCount : Field := ⟨170, 63, 0⟩
/-- `ETH_FEC_UNCORRECTED_n.COUNT`, bits [63:0], R600. -/
abbrev ethFecUncorrectedCount : Field := ⟨171, 63, 0⟩
/-- `ETH_RX_UNCLASSIFIED_n.COUNT`, bits [63:0], R600. -/
abbrev ethRxUnclassifiedCount : Field := ⟨172, 63, 0⟩
/-- `ETH_TX_FILTERED_n.COUNT`, bits [63:0], R600. -/
abbrev ethTxFilteredCount : Field := ⟨173, 63, 0⟩
/-- `ETH_TX_DROPS_n.COUNT`, bits [63:0], R600. -/
abbrev ethTxDropsCount : Field := ⟨174, 63, 0⟩
/-- `ETH_MACSEC_DROPS_n.COUNT`, bits [63:0], R600. -/
abbrev ethMacsecDropsCount : Field := ⟨175, 63, 0⟩
/-- `ETH_LINK_DOWNS_n.COUNT`, bits [63:0], R600. -/
abbrev ethLinkDownsCount : Field := ⟨176, 63, 0⟩
/-- `TIM_NOW_NS.NS`, bits [63:0], R602. -/
abbrev timNowNsNs : Field := ⟨177, 63, 0⟩
/-- `TIM_CFG.HOLDOVER_S`, bits [31:20], R602. -/
abbrev timCfgHoldoverS : Field := ⟨178, 31, 20⟩
/-- `TIM_CFG.SYNC_EXP`, bits [18:16], R602. -/
abbrev timCfgSyncExp : Field := ⟨178, 18, 16⟩
/-- `TIM_CFG.MASTER_MASK`, bits [15:8], R602. -/
abbrev timCfgMasterMask : Field := ⟨178, 15, 8⟩
/-- `TIM_CFG.SLAVE_PORT`, bits [2:0], R602. -/
abbrev timCfgSlavePort : Field := ⟨178, 2, 0⟩
/-- `TIM_STATUS.EVER_STEPPED`, bits [3:3], R602. -/
abbrev timStatusEverStepped : Field := ⟨179, 3, 3⟩
/-- `TIM_STATUS.EVER_LOCKED`, bits [2:2], R602. -/
abbrev timStatusEverLocked : Field := ⟨179, 2, 2⟩
/-- `TIM_STATUS.STATE`, bits [1:0], R602. -/
abbrev timStatusState : Field := ⟨179, 1, 0⟩
/-- `TIM_OFFSET_NS.OFFSET`, bits [63:0], R602. -/
abbrev timOffsetNsOffset : Field := ⟨180, 63, 0⟩
/-- `TIM_FREQ_PPB.ADJ`, bits [31:0], R602. -/
abbrev timFreqPpbAdj : Field := ⟨181, 31, 0⟩
/-- `TIM_GM_ID.ID`, bits [63:0], R602. -/
abbrev timGmIdId : Field := ⟨182, 63, 0⟩
/-- `TIM_HOLDOVER_NS.NS`, bits [63:0], R602. -/
abbrev timHoldoverNsNs : Field := ⟨183, 63, 0⟩
/-- `TIM_IGNORED.COUNT`, bits [63:0], R602. -/
abbrev timIgnoredCount : Field := ⟨184, 63, 0⟩
/-- `IQL_ID.PORTS`, bits [31:24], R645. -/
abbrev iqlIdPorts : Field := ⟨185, 31, 24⟩
/-- `IQL_ID.LANES`, bits [23:16], R645. -/
abbrev iqlIdLanes : Field := ⟨185, 23, 16⟩
/-- `IQL_ID.DEVICES`, bits [15:8], R645. -/
abbrev iqlIdDevices : Field := ⟨185, 15, 8⟩
/-- `IQL_ID.VCS`, bits [7:0], R645. -/
abbrev iqlIdVcs : Field := ⟨185, 7, 0⟩
/-- `IQL_CFG.EPOCH`, bits [31:24], R645. -/
abbrev iqlCfgEpoch : Field := ⟨186, 31, 24⟩
/-- `IQL_CFG.TX_TIMEOUT_US`, bits [19:6], R645. -/
abbrev iqlCfgTxTimeoutUs : Field := ⟨186, 19, 6⟩
/-- `IQL_CFG.DEVICE`, bits [5:0], R645. -/
abbrev iqlCfgDevice : Field := ⟨186, 5, 0⟩
/-- `IQL_ROUTE_d.VALID`, bits [7:7], R645. -/
abbrev iqlRouteValid : Field := ⟨187, 7, 7⟩
/-- `IQL_ROUTE_d.PRIMARY`, bits [6:5], R645. -/
abbrev iqlRoutePrimary : Field := ⟨187, 6, 5⟩
/-- `IQL_ROUTE_d.ALT_VALID`, bits [4:4], R645. -/
abbrev iqlRouteAltValid : Field := ⟨187, 4, 4⟩
/-- `IQL_ROUTE_d.ALTERNATE`, bits [3:2], R645. -/
abbrev iqlRouteAlternate : Field := ⟨187, 3, 2⟩
/-- `IQL_EPOCH_d.KNOWN`, bits [8:8], R645. -/
abbrev iqlEpochKnown : Field := ⟨188, 8, 8⟩
/-- `IQL_EPOCH_d.EPOCH`, bits [7:0], R645. -/
abbrev iqlEpochEpoch : Field := ⟨188, 7, 0⟩
/-- `IQL_PORT_CTRL_p.DATELINE`, bits [3:3], R645. -/
abbrev iqlPortCtrlDateline : Field := ⟨189, 3, 3⟩
/-- `IQL_PORT_CTRL_p.ALLOW_X2`, bits [2:2], R645. -/
abbrev iqlPortCtrlAllowX2 : Field := ⟨189, 2, 2⟩
/-- `IQL_PORT_CTRL_p.ENABLE`, bits [0:0], R645. -/
abbrev iqlPortCtrlEnable : Field := ⟨189, 0, 0⟩
/-- `IQL_PORT_STATUS_p.PEER_DEVICE`, bits [31:26], R645. -/
abbrev iqlPortStatusPeerDevice : Field := ⟨190, 31, 26⟩
/-- `IQL_PORT_STATUS_p.PEER_EPOCH`, bits [25:18], R645. -/
abbrev iqlPortStatusPeerEpoch : Field := ⟨190, 25, 18⟩
/-- `IQL_PORT_STATUS_p.LANES_OK`, bits [17:14], R645. -/
abbrev iqlPortStatusLanesOk : Field := ⟨190, 17, 14⟩
/-- `IQL_PORT_STATUS_p.WIDTH`, bits [13:12], R645. -/
abbrev iqlPortStatusWidth : Field := ⟨190, 13, 12⟩
/-- `IQL_PORT_STATUS_p.KEYED`, bits [11:11], R645. -/
abbrev iqlPortStatusKeyed : Field := ⟨190, 11, 11⟩
/-- `IQL_PORT_STATUS_p.LINK_UP`, bits [10:10], R645. -/
abbrev iqlPortStatusLinkUp : Field := ⟨190, 10, 10⟩
/-- `IQL_PORT_STATUS_p.STATE`, bits [2:0], R645. -/
abbrev iqlPortStatusState : Field := ⟨190, 2, 0⟩
/-- `IQL_TX_PACKETS_p.COUNT`, bits [63:0], R645. -/
abbrev iqlTxPacketsCount : Field := ⟨191, 63, 0⟩
/-- `IQL_RX_PACKETS_p.COUNT`, bits [63:0], R645. -/
abbrev iqlRxPacketsCount : Field := ⟨192, 63, 0⟩
/-- `IQL_FEC_CORRECTED_p.COUNT`, bits [63:0], R645. -/
abbrev iqlFecCorrectedCount : Field := ⟨193, 63, 0⟩
/-- `IQL_FEC_UNCORRECTED_p.COUNT`, bits [63:0], R645. -/
abbrev iqlFecUncorrectedCount : Field := ⟨194, 63, 0⟩
/-- `IQL_LINK_RETRIES_p.COUNT`, bits [63:0], R645. -/
abbrev iqlLinkRetriesCount : Field := ⟨195, 63, 0⟩
/-- `IQL_AUTH_FAILS_p.COUNT`, bits [63:0], R645. -/
abbrev iqlAuthFailsCount : Field := ⟨196, 63, 0⟩
/-- `IQL_STALE_DROPS_p.COUNT`, bits [63:0], R645. -/
abbrev iqlStaleDropsCount : Field := ⟨197, 63, 0⟩
/-- `IQL_NO_ROUTE_p.COUNT`, bits [63:0], R645. -/
abbrev iqlNoRouteCount : Field := ⟨198, 63, 0⟩
/-- `IQL_RETRAINS_p.COUNT`, bits [63:0], R645. -/
abbrev iqlRetrainsCount : Field := ⟨199, 63, 0⟩
/-- `CDE_ID.CHANNELS`, bits [31:24], R674. -/
abbrev cdeIdChannels : Field := ⟨200, 31, 24⟩
/-- `CDE_ID.MAX_WLOG`, bits [23:16], R674. -/
abbrev cdeIdMaxWlog : Field := ⟨200, 23, 16⟩
/-- `CDE_ID.FORMATS`, bits [15:8], R674. -/
abbrev cdeIdFormats : Field := ⟨200, 15, 8⟩
/-- `CDE_ID.LEVELS`, bits [7:0], R674. -/
abbrev cdeIdLevels : Field := ⟨200, 7, 0⟩
/-- `CDE_CHAN_CTRL_c.ENABLE`, bits [0:0], R674. -/
abbrev cdeChanCtrlEnable : Field := ⟨201, 0, 0⟩
/-- `CDE_CHAN_STATUS_c.CTX_INDEX`, bits [31:20], R674. -/
abbrev cdeChanStatusCtxIndex : Field := ⟨202, 31, 20⟩
/-- `CDE_CHAN_STATUS_c.BUSY`, bits [3:3], R674. -/
abbrev cdeChanStatusBusy : Field := ⟨202, 3, 3⟩
/-- `CDE_CHAN_STATUS_c.STATE`, bits [2:0], R674. -/
abbrev cdeChanStatusState : Field := ⟨202, 2, 0⟩
/-- `CDE_IN_BYTES_c.COUNT`, bits [63:0], R674. -/
abbrev cdeInBytesCount : Field := ⟨203, 63, 0⟩
/-- `CDE_OUT_BYTES_c.COUNT`, bits [63:0], R674. -/
abbrev cdeOutBytesCount : Field := ⟨204, 63, 0⟩
/-- `CDE_COMMANDS_c.COUNT`, bits [63:0], R674. -/
abbrev cdeCommandsCount : Field := ⟨205, 63, 0⟩
/-- `CDE_STOPS_c.COUNT`, bits [63:0], R674. -/
abbrev cdeStopsCount : Field := ⟨206, 63, 0⟩
/-- `CDE_ERRORS_c.COUNT`, bits [63:0], R674. -/
abbrev cdeErrorsCount : Field := ⟨207, 63, 0⟩
/-- `CDE_CHECK_FAILS_c.COUNT`, bits [63:0], R674. -/
abbrev cdeCheckFailsCount : Field := ⟨208, 63, 0⟩
/-- `CDE_SKIPPED_c.COUNT`, bits [63:0], R674. -/
abbrev cdeSkippedCount : Field := ⟨209, 63, 0⟩
/-- `REF_ID.LEVELS`, bits [31:24], R772. -/
abbrev refIdLevels : Field := ⟨210, 31, 24⟩
/-- `REF_BUDGET_MARGIN.NS`, bits [31:0], R772. -/
abbrev refBudgetMarginNs : Field := ⟨211, 31, 0⟩
/-- `REF_FAULT_RING.ADDR`, bits [39:12], R772. -/
abbrev refFaultRingAddr : Field := ⟨212, 39, 12⟩
/-- `REF_FAULT_RING.LOG2`, bits [3:0], R772. -/
abbrev refFaultRingLog2 : Field := ⟨212, 3, 0⟩
/-- `REF_FAULT_COUNT.COUNT`, bits [63:0], R772. -/
abbrev refFaultCountCount : Field := ⟨213, 63, 0⟩
/-- `REF_STATUS.TRAY_PENDING`, bits [7:7], R772. -/
abbrev refStatusTrayPending : Field := ⟨214, 7, 7⟩
/-- `REF_STATUS.TRAY_ASSERTED`, bits [6:6], R772. -/
abbrev refStatusTrayAsserted : Field := ⟨214, 6, 6⟩
/-- `REF_STATUS.REPLAYING`, bits [5:5], R772. -/
abbrev refStatusReplaying : Field := ⟨214, 5, 5⟩
/-- `REF_STATUS.RECOVERING`, bits [4:4], R772. -/
abbrev refStatusRecovering : Field := ⟨214, 4, 4⟩
/-- `REF_STATUS.LEVEL`, bits [2:0], R772. -/
abbrev refStatusLevel : Field := ⟨214, 2, 0⟩
/-- `REF_CONTEXT_STOPS.COUNT`, bits [63:0], R772. -/
abbrev refContextStopsCount : Field := ⟨215, 63, 0⟩
/-- `REF_ENGINE_RESETS.COUNT`, bits [63:0], R772. -/
abbrev refEngineResetsCount : Field := ⟨216, 63, 0⟩
/-- `REF_PARTITION_RESETS.COUNT`, bits [63:0], R772. -/
abbrev refPartitionResetsCount : Field := ⟨217, 63, 0⟩
/-- `REF_CHIP_RESETS.COUNT`, bits [63:0], R772. -/
abbrev refChipResetsCount : Field := ⟨218, 63, 0⟩
/-- `REF_TRANSIENTS.COUNT`, bits [63:0], R772. -/
abbrev refTransientsCount : Field := ⟨219, 63, 0⟩
/-- `REF_GUILTY.COUNT`, bits [63:0], R772. -/
abbrev refGuiltyCount : Field := ⟨220, 63, 0⟩
/-- `REF_VICTIMS.COUNT`, bits [63:0], R772. -/
abbrev refVictimsCount : Field := ⟨221, 63, 0⟩
/-- `REF_WRITES_DROPPED.COUNT`, bits [63:0], R772. -/
abbrev refWritesDroppedCount : Field := ⟨222, 63, 0⟩
/-- `REF_TRAY_LAST.NS`, bits [63:0], R772. -/
abbrev refTrayLastNs : Field := ⟨223, 63, 0⟩
/-- `REF_CHIP_LAST.NS`, bits [63:0], R772. -/
abbrev refChipLastNs : Field := ⟨224, 63, 0⟩
/-- `EVR_ID.RECORDS`, bits [31:16], R809. -/
abbrev evrIdRecords : Field := ⟨225, 31, 16⟩
/-- `EVR_ID.RECORD_BYTES`, bits [15:8], R809. -/
abbrev evrIdRecordBytes : Field := ⟨225, 15, 8⟩
/-- `EVR_CFG.RATE`, bits [31:16], R809. -/
abbrev evrCfgRate : Field := ⟨226, 31, 16⟩
/-- `EVR_CFG.BURST`, bits [15:0], R809. -/
abbrev evrCfgBurst : Field := ⟨226, 15, 0⟩
/-- `EVR_FREEZE.FROZEN`, bits [31:31], R809. -/
abbrev evrFreezeFrozen : Field := ⟨227, 31, 31⟩
/-- `EVR_FREEZE.FREEZE_MAX_MS`, bits [23:8], R809. -/
abbrev evrFreezeFreezeMaxMs : Field := ⟨227, 23, 8⟩
/-- `EVR_FREEZE.THAW`, bits [1:1], R809. -/
abbrev evrFreezeThaw : Field := ⟨227, 1, 1⟩
/-- `EVR_FREEZE.FREEZE`, bits [0:0], R809. -/
abbrev evrFreezeFreeze : Field := ⟨227, 0, 0⟩
/-- `EVR_HEAD.COUNT`, bits [63:0], R809. -/
abbrev evrHeadCount : Field := ⟨228, 63, 0⟩
/-- `EVR_LOST.COUNT`, bits [63:0], R809. -/
abbrev evrLostCount : Field := ⟨229, 63, 0⟩
/-- `EVR_SUPPRESSED.COUNT`, bits [63:0], R809. -/
abbrev evrSuppressedCount : Field := ⟨230, 63, 0⟩
/-- `EVR_FLUSH_STATUS.PREV_VALID`, bits [17:17], R809. -/
abbrev evrFlushStatusPrevValid : Field := ⟨231, 17, 17⟩
/-- `EVR_FLUSH_STATUS.LAST`, bits [16:16], R809. -/
abbrev evrFlushStatusLast : Field := ⟨231, 16, 16⟩
/-- `EVR_FLUSH_STATUS.FLUSH_SKIPS`, bits [15:0], R809. -/
abbrev evrFlushStatusFlushSkips : Field := ⟨231, 15, 0⟩
/-- `EVR_RING.WORD`, bits [63:0], R809. -/
abbrev evrRingWord : Field := ⟨232, 63, 0⟩
/-- `EVR_PREV.WORD`, bits [63:0], R809. -/
abbrev evrPrevWord : Field := ⟨233, 63, 0⟩

end Sys2Proof.Machine.F
end

