-- ==== Sys2Proof/Machine/RegTable.lean ====
section
/-! DEFINITION. The register table: one row for each register family of the spec, in ascending address order. A row gives
the name, the local address of instance 0, the width, the counts and strides of its instances, the access masks of R14 and
the reset value. `loaded` marks the fields whose reset the spec gives as a dash: the steward loads them at boot (R16). -/

namespace Sys2Proof.Machine

/-- One register family. An instance `i` is `i / n2` along the first stride and `i % n2` along the second. -/
structure RegDesc where
  name : String
  addr : Nat
  width : Nat
  n1 : Nat
  st1 : Nat
  n2 : Nat
  st2 : Nat
  rw : BitVec 64
  wo : BitVec 64
  w1c : BitVec 64
  w1s : BitVec 64
  rwl : BitVec 64
  loaded : BitVec 64
  reset : BitVec 64
deriving DecidableEq, Repr

/-- Register families 0 to 25. -/
def regTable0 : List RegDesc :=
  [ { name := "STW_ID", addr := 0x7F00000000, width := 32, n1 := 1, st1 := 0x0, n2 := 1, st2 := 0x0, rw := 0x0, wo := 0x0, w1c := 0x0, w1s := 0x0, rwl := 0x0, loaded := 0x0, reset := 0x20480001 },
    { name := "STW_SERIAL", addr := 0x7F00000008, width := 64, n1 := 1, st1 := 0x0, n2 := 1, st2 := 0x0, rw := 0x0, wo := 0x0, w1c := 0x0, w1s := 0x0, rwl := 0x0, loaded := 0x0, reset := 0x0 },
    { name := "STW_BOOT_STATUS", addr := 0x7F00000010, width := 64, n1 := 1, st1 := 0x0, n2 := 1, st2 := 0x0, rw := 0x0, wo := 0x0, w1c := 0x0, w1s := 0x0, rwl := 0x0, loaded := 0x0, reset := 0x0 },
    { name := "STW_IMAGE", addr := 0x7F00000018, width := 64, n1 := 1, st1 := 0x0, n2 := 1, st2 := 0x0, rw := 0x0, wo := 0x0, w1c := 0x0, w1s := 0x0, rwl := 0x0, loaded := 0x0, reset := 0x0 },
    { name := "STW_IMAGE_HASH", addr := 0x7F00000020, width := 64, n1 := 4, st1 := 0x8, n2 := 1, st2 := 0x0, rw := 0x0, wo := 0x0, w1c := 0x0, w1s := 0x0, rwl := 0x0, loaded := 0x0, reset := 0x0 },
    { name := "STW_CFG_SEQ", addr := 0x7F00000040, width := 64, n1 := 1, st1 := 0x0, n2 := 1, st2 := 0x0, rw := 0x0, wo := 0x0, w1c := 0x0, w1s := 0x0, rwl := 0x0, loaded := 0x0, reset := 0x0 },
    { name := "STW_OP", addr := 0x7F00000048, width := 64, n1 := 1, st1 := 0x0, n2 := 1, st2 := 0x0, rw := 0x0, wo := 0xFF000000FFFFFFFF, w1c := 0x0, w1s := 0x0, rwl := 0x0, loaded := 0x0, reset := 0x0 },
    { name := "STW_OP_ARG", addr := 0x7F00000050, width := 64, n1 := 1, st1 := 0x0, n2 := 1, st2 := 0x0, rw := 0xFFFFFFFFFF, wo := 0x0, w1c := 0x0, w1s := 0x0, rwl := 0x0, loaded := 0x0, reset := 0x0 },
    { name := "STW_OP_RESULT", addr := 0x7F00000058, width := 64, n1 := 1, st1 := 0x0, n2 := 1, st2 := 0x0, rw := 0x0, wo := 0x0, w1c := 0x0, w1s := 0x0, rwl := 0x0, loaded := 0x0, reset := 0x0 },
    { name := "STW_KEY_DATA", addr := 0x7F00000060, width := 64, n1 := 7, st1 := 0x8, n2 := 1, st2 := 0x0, rw := 0x0, wo := 0xFFFFFFFFFFFFFFFF, w1c := 0x0, w1s := 0x0, rwl := 0x0, loaded := 0x0, reset := 0x0 },
    { name := "STW_CLAIM", addr := 0x7F00000100, width := 32, n1 := 22, st1 := 0x4, n2 := 1, st2 := 0x0, rw := 0x0, wo := 0x0, w1c := 0x0, w1s := 0x0, rwl := 0x0, loaded := 0xFFFF, reset := 0x0 },
    { name := "STW_GPIO", addr := 0x7F00000180, width := 32, n1 := 1, st1 := 0x0, n2 := 1, st2 := 0x0, rw := 0xFFFF0000, wo := 0x0, w1c := 0x0, w1s := 0x0, rwl := 0x0, loaded := 0x0, reset := 0x0 },
    { name := "STW_TIMER", addr := 0x7F00000188, width := 64, n1 := 4, st1 := 0x8, n2 := 1, st2 := 0x0, rw := 0xFFFFFFFFFFFFFFFF, wo := 0x0, w1c := 0x0, w1s := 0x0, rwl := 0x0, loaded := 0x0, reset := 0x0 },
    { name := "STW_IRQ_EN", addr := 0x7F000001A8, width := 32, n1 := 1, st1 := 0x0, n2 := 1, st2 := 0x0, rw := 0xF, wo := 0x0, w1c := 0x0, w1s := 0x0, rwl := 0x0, loaded := 0x0, reset := 0x1 },
    { name := "STW_IRQ_CAUSE", addr := 0x7F000001AC, width := 32, n1 := 1, st1 := 0x0, n2 := 1, st2 := 0x0, rw := 0x0, wo := 0x0, w1c := 0xF, w1s := 0x0, rwl := 0x0, loaded := 0x0, reset := 0x0 },
    { name := "STW_INSPECT_CFG", addr := 0x7F00000400, width := 32, n1 := 1, st1 := 0x0, n2 := 1, st2 := 0x0, rw := 0xFF00FFFF, wo := 0x0, w1c := 0x0, w1s := 0x0, rwl := 0x0, loaded := 0xFF00FFFF, reset := 0x0 },
    { name := "STW_INSPECT_REQ", addr := 0x7F00000408, width := 32, n1 := 1, st1 := 0x0, n2 := 1, st2 := 0x0, rw := 0x0, wo := 0xC000FFF0, w1c := 0x0, w1s := 0x0, rwl := 0x0, loaded := 0x0, reset := 0x0 },
    { name := "STW_INSPECT_STATUS", addr := 0x7F00000410, width := 64, n1 := 1, st1 := 0x0, n2 := 1, st2 := 0x0, rw := 0x0, wo := 0x0, w1c := 0x0, w1s := 0x0, rwl := 0x0, loaded := 0x0, reset := 0x0 },
    { name := "STW_INSPECT_TIME", addr := 0x7F00000418, width := 64, n1 := 1, st1 := 0x0, n2 := 1, st2 := 0x0, rw := 0x0, wo := 0x0, w1c := 0x0, w1s := 0x0, rwl := 0x0, loaded := 0x0, reset := 0x0 },
    { name := "STW_REPAIR_JOURNAL", addr := 0x7F00000420, width := 32, n1 := 1, st1 := 0x0, n2 := 1, st2 := 0x0, rw := 0x0, wo := 0x0, w1c := 0x0, w1s := 0x0, rwl := 0x0, loaded := 0x1FFFF, reset := 0x0 },
    { name := "STW_CAPTURE_STATUS", addr := 0x7F00000428, width := 32, n1 := 1, st1 := 0x0, n2 := 1, st2 := 0x0, rw := 0x0, wo := 0x0, w1c := 0x3, w1s := 0x0, rwl := 0x0, loaded := 0x0, reset := 0x0 },
    { name := "STW_INSPECTIONS", addr := 0x7F00000440, width := 64, n1 := 1, st1 := 0x0, n2 := 1, st2 := 0x0, rw := 0x0, wo := 0x0, w1c := 0x0, w1s := 0x0, rwl := 0x0, loaded := 0x0, reset := 0x0 },
    { name := "STW_INSPECT_FAILS", addr := 0x7F00000448, width := 64, n1 := 1, st1 := 0x0, n2 := 1, st2 := 0x0, rw := 0x0, wo := 0x0, w1c := 0x0, w1s := 0x0, rwl := 0x0, loaded := 0x0, reset := 0x0 },
    { name := "STW_ENGINE_REMAPS", addr := 0x7F00000450, width := 64, n1 := 1, st1 := 0x0, n2 := 1, st2 := 0x0, rw := 0x0, wo := 0x0, w1c := 0x0, w1s := 0x0, rwl := 0x0, loaded := 0x0, reset := 0x0 },
    { name := "STW_COURTS_RETIRED", addr := 0x7F00000458, width := 64, n1 := 1, st1 := 0x0, n2 := 1, st2 := 0x0, rw := 0x0, wo := 0x0, w1c := 0x0, w1s := 0x0, rwl := 0x0, loaded := 0x0, reset := 0x0 },
    { name := "STW_CORE_REMAPS", addr := 0x7F00000460, width := 64, n1 := 1, st1 := 0x0, n2 := 1, st2 := 0x0, rw := 0x0, wo := 0x0, w1c := 0x0, w1s := 0x0, rwl := 0x0, loaded := 0x0, reset := 0x0 } ]

/-- Register families 26 to 51. -/
def regTable1 : List RegDesc :=
  [ { name := "STW_CORES_RETIRED", addr := 0x7F00000468, width := 64, n1 := 1, st1 := 0x0, n2 := 1, st2 := 0x0, rw := 0x0, wo := 0x0, w1c := 0x0, w1s := 0x0, rwl := 0x0, loaded := 0x0, reset := 0x0 },
    { name := "STW_WAYS_RETIRED", addr := 0x7F00000470, width := 64, n1 := 1, st1 := 0x0, n2 := 1, st2 := 0x0, rw := 0x0, wo := 0x0, w1c := 0x0, w1s := 0x0, rwl := 0x0, loaded := 0x0, reset := 0x0 },
    { name := "STW_SD_ROW_REMAPS", addr := 0x7F00000478, width := 64, n1 := 1, st1 := 0x0, n2 := 1, st2 := 0x0, rw := 0x0, wo := 0x0, w1c := 0x0, w1s := 0x0, rwl := 0x0, loaded := 0x0, reset := 0x0 },
    { name := "STW_LP_ROW_REPAIRS", addr := 0x7F00000480, width := 64, n1 := 1, st1 := 0x0, n2 := 1, st2 := 0x0, rw := 0x0, wo := 0x0, w1c := 0x0, w1s := 0x0, rwl := 0x0, loaded := 0x0, reset := 0x0 },
    { name := "STW_SBUF", addr := 0x7F00010000, width := 64, n1 := 4096, st1 := 0x8, n2 := 1, st2 := 0x0, rw := 0xFFFFFFFFFFFFFFFF, wo := 0x0, w1c := 0x0, w1s := 0x0, rwl := 0x0, loaded := 0x0, reset := 0x0 },
    { name := "PWR_ID", addr := 0x7F01000000, width := 32, n1 := 1, st1 := 0x0, n2 := 1, st2 := 0x0, rw := 0x0, wo := 0x0, w1c := 0x0, w1s := 0x0, rwl := 0x0, loaded := 0x0, reset := 0x1D420B20 },
    { name := "PWR_STATE_REQ", addr := 0x7F01000008, width := 32, n1 := 1, st1 := 0x0, n2 := 1, st2 := 0x0, rw := 0x0, wo := 0x7, w1c := 0x0, w1s := 0x0, rwl := 0x0, loaded := 0x0, reset := 0x0 },
    { name := "PWR_STATE_STATUS", addr := 0x7F0100000C, width := 32, n1 := 1, st1 := 0x0, n2 := 1, st2 := 0x0, rw := 0x0, wo := 0x0, w1c := 0x0, w1s := 0x0, rwl := 0x0, loaded := 0x0, reset := 0x0 },
    { name := "PWR_IDLE_CFG", addr := 0x7F01000010, width := 32, n1 := 1, st1 := 0x0, n2 := 1, st2 := 0x0, rw := 0x8000FFFF, wo := 0x0, w1c := 0x0, w1s := 0x0, rwl := 0x0, loaded := 0x0, reset := 0x80000064 },
    { name := "PWR_CAP_MW", addr := 0x7F01000018, width := 32, n1 := 1, st1 := 0x0, n2 := 1, st2 := 0x0, rw := 0x3FFFF, wo := 0x0, w1c := 0x0, w1s := 0x0, rwl := 0x0, loaded := 0x3FFFF, reset := 0x0 },
    { name := "PWR_WINDOW_MS", addr := 0x7F0100001C, width := 32, n1 := 1, st1 := 0x0, n2 := 1, st2 := 0x0, rw := 0x7FFF, wo := 0x0, w1c := 0x0, w1s := 0x0, rwl := 0x0, loaded := 0x7FFF, reset := 0x0 },
    { name := "PWR_FIXED_MODE", addr := 0x7F01000020, width := 32, n1 := 1, st1 := 0x0, n2 := 1, st2 := 0x0, rw := 0x1, wo := 0x0, w1c := 0x80000000, w1s := 0x0, rwl := 0x0, loaded := 0x1, reset := 0x0 },
    { name := "PWR_ISSUE_LIMIT", addr := 0x7F01000024, width := 32, n1 := 1, st1 := 0x0, n2 := 1, st2 := 0x0, rw := 0x7F, wo := 0x0, w1c := 0x0, w1s := 0x0, rwl := 0x0, loaded := 0x0, reset := 0x40 },
    { name := "PWR_BOOST_CFG", addr := 0x7F01000028, width := 32, n1 := 1, st1 := 0x0, n2 := 1, st2 := 0x0, rw := 0x1, wo := 0x0, w1c := 0x0, w1s := 0x2, rwl := 0x0, loaded := 0x1, reset := 0x0 },
    { name := "PWR_STATUS", addr := 0x7F01000030, width := 64, n1 := 1, st1 := 0x0, n2 := 1, st2 := 0x0, rw := 0x0, wo := 0x0, w1c := 0x0, w1s := 0x0, rwl := 0x0, loaded := 0x0, reset := 0x4E2400000000000 },
    { name := "PWR_MEASURED_MW", addr := 0x7F01000038, width := 32, n1 := 1, st1 := 0x0, n2 := 1, st2 := 0x0, rw := 0x0, wo := 0x0, w1c := 0x0, w1s := 0x0, rwl := 0x0, loaded := 0x0, reset := 0x0 },
    { name := "PWR_ESTIMATE_MW", addr := 0x7F0100003C, width := 32, n1 := 1, st1 := 0x0, n2 := 1, st2 := 0x0, rw := 0x0, wo := 0x0, w1c := 0x0, w1s := 0x0, rwl := 0x0, loaded := 0x0, reset := 0x0 },
    { name := "PWR_AVERAGE_MW", addr := 0x7F01000040, width := 32, n1 := 1, st1 := 0x0, n2 := 1, st2 := 0x0, rw := 0x0, wo := 0x0, w1c := 0x0, w1s := 0x0, rwl := 0x0, loaded := 0x0, reset := 0x0 },
    { name := "PWR_DOMAIN_PERMIT", addr := 0x7F01000048, width := 32, n1 := 1, st1 := 0x0, n2 := 1, st2 := 0x0, rw := 0x3FFFFFF, wo := 0x0, w1c := 0x0, w1s := 0x0, rwl := 0x0, loaded := 0x3FFFFFF, reset := 0x1C000000 },
    { name := "PWR_FLOOR_MW", addr := 0x7F0100004C, width := 32, n1 := 1, st1 := 0x0, n2 := 1, st2 := 0x0, rw := 0x0, wo := 0x0, w1c := 0x0, w1s := 0x0, rwl := 0x0, loaded := 0xFFFFFFFF, reset := 0x0 },
    { name := "PWR_DOMAIN_REQ", addr := 0x7F01000050, width := 32, n1 := 1, st1 := 0x0, n2 := 1, st2 := 0x0, rw := 0x0, wo := 0x8000001F, w1c := 0x0, w1s := 0x0, rwl := 0x0, loaded := 0x0, reset := 0x0 },
    { name := "PWR_DOMAIN_STATUS", addr := 0x7F01000100, width := 32, n1 := 29, st1 := 0x4, n2 := 1, st2 := 0x0, rw := 0x0, wo := 0x0, w1c := 0x0, w1s := 0x0, rwl := 0x0, loaded := 0x8, reset := 0x0 },
    { name := "PAD_RELEASE", addr := 0x7F01000180, width := 32, n1 := 1, st1 := 0x0, n2 := 1, st2 := 0x0, rw := 0x0, wo := 0x1FFFFFFF, w1c := 0x0, w1s := 0x0, rwl := 0x0, loaded := 0x0, reset := 0x0 },
    { name := "PWR_VOLT_CFG", addr := 0x7F01000188, width := 32, n1 := 1, st1 := 0x0, n2 := 1, st2 := 0x0, rw := 0xFFFFFFFF, wo := 0x0, w1c := 0x0, w1s := 0x0, rwl := 0x0, loaded := 0x0, reset := 0x280F3220 },
    { name := "PWR_KICK_CFG", addr := 0x7F0100018C, width := 32, n1 := 1, st1 := 0x0, n2 := 1, st2 := 0x0, rw := 0x1FFF, wo := 0x0, w1c := 0x0, w1s := 0x0, rwl := 0x0, loaded := 0x0, reset := 0x400 },
    { name := "PWR_DROOP_COUNT", addr := 0x7F01000190, width := 64, n1 := 1, st1 := 0x0, n2 := 1, st2 := 0x0, rw := 0x0, wo := 0x0, w1c := 0x0, w1s := 0x0, rwl := 0x0, loaded := 0x0, reset := 0x0 } ]

/-- Register families 52 to 77. -/
def regTable2 : List RegDesc :=
  [ { name := "PWR_THROTTLE_COUNT", addr := 0x7F01000198, width := 64, n1 := 1, st1 := 0x0, n2 := 1, st2 := 0x0, rw := 0x0, wo := 0x0, w1c := 0x0, w1s := 0x0, rwl := 0x0, loaded := 0x0, reset := 0x0 },
    { name := "PWR_WATCH_CFG", addr := 0x7F01000200, width := 32, n1 := 1, st1 := 0x0, n2 := 1, st2 := 0x0, rw := 0xFFFFFFF8, wo := 0x0, w1c := 0x0, w1s := 0x0, rwl := 0x0, loaded := 0xFFFFFFF8, reset := 0x0 },
    { name := "PWR_WATCH_AUDIO", addr := 0x7F01000204, width := 32, n1 := 1, st1 := 0x0, n2 := 1, st2 := 0x0, rw := 0xFFFFFFFF, wo := 0x0, w1c := 0x0, w1s := 0x0, rwl := 0x0, loaded := 0xFFFFFFFF, reset := 0x0 },
    { name := "PWR_WATCH_SENSOR", addr := 0x7F01000208, width := 32, n1 := 1, st1 := 0x0, n2 := 1, st2 := 0x0, rw := 0xFFFEFFFF, wo := 0x0, w1c := 0x0, w1s := 0x0, rwl := 0x0, loaded := 0xFFFEFFFF, reset := 0x0 },
    { name := "PWR_WATCH_SAVE", addr := 0x7F01000210, width := 64, n1 := 1, st1 := 0x0, n2 := 1, st2 := 0x0, rw := 0xFFC0000001, wo := 0x0, w1c := 0x0, w1s := 0x0, rwl := 0x0, loaded := 0xFFC0000001, reset := 0x0 },
    { name := "PWR_WAKE_CAUSE", addr := 0x7F01000218, width := 32, n1 := 1, st1 := 0x0, n2 := 1, st2 := 0x0, rw := 0x0, wo := 0x0, w1c := 0xFF00000F, w1s := 0x0, rwl := 0x0, loaded := 0x0, reset := 0x0 },
    { name := "PWR_WATCH_LAST", addr := 0x7F01000220, width := 64, n1 := 1, st1 := 0x0, n2 := 1, st2 := 0x0, rw := 0x0, wo := 0x0, w1c := 0x0, w1s := 0x0, rwl := 0x0, loaded := 0x0, reset := 0x0 },
    { name := "PWR_TEMP_MAX", addr := 0x7F01000300, width := 32, n1 := 1, st1 := 0x0, n2 := 1, st2 := 0x0, rw := 0x0, wo := 0x0, w1c := 0x0, w1s := 0x0, rwl := 0x0, loaded := 0x0, reset := 0x0 },
    { name := "PWR_TEMP", addr := 0x7F01000400, width := 32, n1 := 32, st1 := 0x4, n2 := 1, st2 := 0x0, rw := 0x0, wo := 0x0, w1c := 0x0, w1s := 0x0, rwl := 0x0, loaded := 0x0, reset := 0x0 },
    { name := "WHISTLE_EPOCH", addr := 0x7F01000500, width := 64, n1 := 1, st1 := 0x0, n2 := 1, st2 := 0x0, rw := 0x0, wo := 0x0, w1c := 0x0, w1s := 0x0, rwl := 0x0, loaded := 0x0, reset := 0x0 },
    { name := "WHISTLE_STATUS", addr := 0x7F01000508, width := 32, n1 := 1, st1 := 0x0, n2 := 1, st2 := 0x0, rw := 0x0, wo := 0x0, w1c := 0x0, w1s := 0x0, rwl := 0x0, loaded := 0x0, reset := 0xFF00 },
    { name := "FE_ID", addr := 0x7F02000000, width := 32, n1 := 1, st1 := 0x0, n2 := 1, st2 := 0x0, rw := 0x0, wo := 0x0, w1c := 0x0, w1s := 0x0, rwl := 0x0, loaded := 0x0, reset := 0x80080410 },
    { name := "FE_SCHED_CFG", addr := 0x7F02000008, width := 32, n1 := 1, st1 := 0x0, n2 := 1, st2 := 0x0, rw := 0xFFFFFF01, wo := 0x0, w1c := 0x2, w1s := 0x0, rwl := 0x0, loaded := 0x0, reset := 0xC803E800 },
    { name := "FE_SECURITY", addr := 0x7F02000010, width := 32, n1 := 1, st1 := 0x0, n2 := 1, st2 := 0x0, rw := 0x0, wo := 0x0, w1c := 0x0, w1s := 0x80000000, rwl := 0x1, loaded := 0x80000001, reset := 0x0 },
    { name := "FE_CTX_TABLE_BASE", addr := 0x7F02000018, width := 64, n1 := 1, st1 := 0x0, n2 := 1, st2 := 0x0, rw := 0xFFFFFF0000, wo := 0x0, w1c := 0x0, w1s := 0x0, rwl := 0x0, loaded := 0xFFFFFF0000, reset := 0x0 },
    { name := "FE_QUEUE_TABLE_BASE", addr := 0x7F02000020, width := 64, n1 := 1, st1 := 0x0, n2 := 1, st2 := 0x0, rw := 0xFFFFFF0000, wo := 0x0, w1c := 0x0, w1s := 0x0, rwl := 0x0, loaded := 0xFFFFFF0000, reset := 0x0 },
    { name := "FE_DOORBELL_BASE", addr := 0x7F02000028, width := 64, n1 := 1, st1 := 0x0, n2 := 1, st2 := 0x0, rw := 0xFFFFFFF80F, wo := 0x0, w1c := 0x0, w1s := 0x0, rwl := 0x0, loaded := 0xFFFFFFF80F, reset := 0x0 },
    { name := "FE_SCORE_BASE", addr := 0x7F02000030, width := 64, n1 := 1, st1 := 0x0, n2 := 1, st2 := 0x0, rw := 0xFFFFFF0000, wo := 0x0, w1c := 0x0, w1s := 0x0, rwl := 0x0, loaded := 0xFFFFFF0000, reset := 0x0 },
    { name := "FE_OP", addr := 0x7F02000040, width := 64, n1 := 1, st1 := 0x0, n2 := 1, st2 := 0x0, rw := 0x0, wo := 0xF0000000FFFFFFFF, w1c := 0x0, w1s := 0x0, rwl := 0x0, loaded := 0x0, reset := 0x0 },
    { name := "FE_OP_RESULT", addr := 0x7F02000048, width := 64, n1 := 1, st1 := 0x0, n2 := 1, st2 := 0x0, rw := 0x0, wo := 0x0, w1c := 0x0, w1s := 0x0, rwl := 0x0, loaded := 0x0, reset := 0x0 },
    { name := "FE_PART_CFG", addr := 0x7F02000100, width := 32, n1 := 16, st1 := 0x8, n2 := 1, st2 := 0x0, rw := 0xFF, wo := 0x0, w1c := 0x0, w1s := 0x0, rwl := 0x0, loaded := 0x0, reset := 0x0 },
    { name := "FE_PART_UNITS", addr := 0x7F02000180, width := 32, n1 := 1, st1 := 0x0, n2 := 1, st2 := 0x0, rw := 0xFFFFFF, wo := 0x0, w1c := 0x0, w1s := 0x0, rwl := 0x0, loaded := 0x0, reset := 0x0 },
    { name := "FE_PART_COMMIT", addr := 0x7F02000188, width := 32, n1 := 1, st1 := 0x0, n2 := 1, st2 := 0x0, rw := 0x0, wo := 0x0, w1c := 0x0, w1s := 0x1, rwl := 0x0, loaded := 0x0, reset := 0x0 },
    { name := "FE_STALE_COUNT", addr := 0x7F02000200, width := 64, n1 := 1, st1 := 0x0, n2 := 1, st2 := 0x0, rw := 0x0, wo := 0x0, w1c := 0x0, w1s := 0x0, rwl := 0x0, loaded := 0x0, reset := 0x0 },
    { name := "FE_DOORBELL_BAD", addr := 0x7F02000208, width := 64, n1 := 1, st1 := 0x0, n2 := 1, st2 := 0x0, rw := 0x0, wo := 0x0, w1c := 0x0, w1s := 0x0, rwl := 0x0, loaded := 0x0, reset := 0x0 },
    { name := "FE_SWAP_COUNT", addr := 0x7F02000210, width := 64, n1 := 1, st1 := 0x0, n2 := 1, st2 := 0x0, rw := 0x0, wo := 0x0, w1c := 0x0, w1s := 0x0, rwl := 0x0, loaded := 0x0, reset := 0x0 } ]

/-- Register families 78 to 103. -/
def regTable3 : List RegDesc :=
  [ { name := "FE_DEADLOCK_COUNT", addr := 0x7F02000218, width := 64, n1 := 1, st1 := 0x0, n2 := 1, st2 := 0x0, rw := 0x0, wo := 0x0, w1c := 0x0, w1s := 0x0, rwl := 0x0, loaded := 0x0, reset := 0x0 },
    { name := "FE_WAIT_TIMEOUTS", addr := 0x7F02000220, width := 64, n1 := 1, st1 := 0x0, n2 := 1, st2 := 0x0, rw := 0x0, wo := 0x0, w1c := 0x0, w1s := 0x0, rwl := 0x0, loaded := 0x0, reset := 0x0 },
    { name := "FLD_ID", addr := 0x7F03000000, width := 32, n1 := 1, st1 := 0x0, n2 := 1, st2 := 0x0, rw := 0x0, wo := 0x0, w1c := 0x0, w1s := 0x0, rwl := 0x0, loaded := 0x0, reset := 0x10081001 },
    { name := "FLD_PART_CFG", addr := 0x7F03000010, width := 64, n1 := 1, st1 := 0x0, n2 := 1, st2 := 0x0, rw := 0xFFFFFFFFFFFFFFFF, wo := 0x0, w1c := 0x0, w1s := 0x0, rwl := 0x0, loaded := 0x0, reset := 0x0 },
    { name := "FLD_PART_VALID", addr := 0x7F03000018, width := 32, n1 := 1, st1 := 0x0, n2 := 1, st2 := 0x0, rw := 0xFFFF, wo := 0x0, w1c := 0x0, w1s := 0x0, rwl := 0x0, loaded := 0x0, reset := 0x0 },
    { name := "FLD_SCRUB_CFG", addr := 0x7F03000020, width := 32, n1 := 1, st1 := 0x0, n2 := 1, st2 := 0x0, rw := 0x0, wo := 0x0, w1c := 0x0, w1s := 0x80000000, rwl := 0x3, loaded := 0x80000003, reset := 0x0 },
    { name := "FLD_FMT_DEFAULT", addr := 0x7F03000100, width := 32, n1 := 1, st1 := 0x0, n2 := 1, st2 := 0x0, rw := 0x1, wo := 0x0, w1c := 0x0, w1s := 0x0, rwl := 0x0, loaded := 0x0, reset := 0x0 },
    { name := "FLD_COURT_STATUS", addr := 0x7F03001000, width := 32, n1 := 16, st1 := 0x40, n2 := 1, st2 := 0x0, rw := 0x0, wo := 0x0, w1c := 0x0, w1s := 0x0, rwl := 0x0, loaded := 0x40, reset := 0x0 },
    { name := "FLD_SPARE_MAP", addr := 0x7F03001008, width := 64, n1 := 16, st1 := 0x40, n2 := 1, st2 := 0x0, rw := 0x3F3F3F3F3F3F3F3F, wo := 0x0, w1c := 0x0, w1s := 0x0, rwl := 0x0, loaded := 0x3F3F3F3F3F3F3F3F, reset := 0x0 },
    { name := "FLD_PART_STALL_LATE", addr := 0x7F03002000, width := 64, n1 := 16, st1 := 0x20, n2 := 1, st2 := 0x0, rw := 0x0, wo := 0x0, w1c := 0x0, w1s := 0x0, rwl := 0x0, loaded := 0x0, reset := 0x0 },
    { name := "FLD_PART_STALL_THROTTLE", addr := 0x7F03002008, width := 64, n1 := 16, st1 := 0x20, n2 := 1, st2 := 0x0, rw := 0x0, wo := 0x0, w1c := 0x0, w1s := 0x0, rwl := 0x0, loaded := 0x0, reset := 0x0 },
    { name := "FLD_PART_STALL_CONFLICT", addr := 0x7F03002010, width := 64, n1 := 16, st1 := 0x20, n2 := 1, st2 := 0x0, rw := 0x0, wo := 0x0, w1c := 0x0, w1s := 0x0, rwl := 0x0, loaded := 0x0, reset := 0x0 },
    { name := "FLD_PART_STALL_STRETCH", addr := 0x7F03002018, width := 64, n1 := 16, st1 := 0x20, n2 := 1, st2 := 0x0, rw := 0x0, wo := 0x0, w1c := 0x0, w1s := 0x0, rwl := 0x0, loaded := 0x0, reset := 0x0 },
    { name := "SHA_ID", addr := 0x7F04000000, width := 32, n1 := 1, st1 := 0x0, n2 := 1, st2 := 0x0, rw := 0x0, wo := 0x0, w1c := 0x0, w1s := 0x0, rwl := 0x0, loaded := 0x0, reset := 0x4100180 },
    { name := "SHA_QUARTER_STATUS", addr := 0x7F04001000, width := 32, n1 := 4, st1 := 0x40, n2 := 1, st2 := 0x0, rw := 0x0, wo := 0x0, w1c := 0x0, w1s := 0x0, rwl := 0x0, loaded := 0x0, reset := 0x0 },
    { name := "SHA_SPARE_MAP", addr := 0x7F04001008, width := 32, n1 := 4, st1 := 0x40, n2 := 1, st2 := 0x0, rw := 0x1F, wo := 0x0, w1c := 0x0, w1s := 0x0, rwl := 0x0, loaded := 0x1F, reset := 0x0 },
    { name := "SHA_CORE_RETIRED", addr := 0x7F04001010, width := 32, n1 := 4, st1 := 0x40, n2 := 1, st2 := 0x0, rw := 0x0, wo := 0x0, w1c := 0x0, w1s := 0x0, rwl := 0x0, loaded := 0x1FFFF, reset := 0x0 },
    { name := "SHA_FAULT_COUNT", addr := 0x7F04001018, width := 64, n1 := 4, st1 := 0x40, n2 := 1, st2 := 0x0, rw := 0x0, wo := 0x0, w1c := 0x0, w1s := 0x0, rwl := 0x0, loaded := 0x0, reset := 0x0 },
    { name := "GFX_ID", addr := 0x7F05000000, width := 32, n1 := 1, st1 := 0x0, n2 := 1, st2 := 0x0, rw := 0x0, wo := 0x0, w1c := 0x0, w1s := 0x0, rwl := 0x0, loaded := 0x0, reset := 0x4202004 },
    { name := "GFX_FE_STATUS", addr := 0x7F05001000, width := 32, n1 := 4, st1 := 0x40, n2 := 1, st2 := 0x0, rw := 0x0, wo := 0x0, w1c := 0x0, w1s := 0x0, rwl := 0x0, loaded := 0x0, reset := 0x0 },
    { name := "GFX_PARTIAL_COUNT", addr := 0x7F05001008, width := 64, n1 := 4, st1 := 0x40, n2 := 1, st2 := 0x0, rw := 0x0, wo := 0x0, w1c := 0x0, w1s := 0x0, rwl := 0x0, loaded := 0x0, reset := 0x0 },
    { name := "GFX_TILES", addr := 0x7F05001010, width := 64, n1 := 4, st1 := 0x40, n2 := 1, st2 := 0x0, rw := 0x0, wo := 0x0, w1c := 0x0, w1s := 0x0, rwl := 0x0, loaded := 0x0, reset := 0x0 },
    { name := "GFX_PRIMS", addr := 0x7F05001018, width := 64, n1 := 4, st1 := 0x40, n2 := 1, st2 := 0x0, rw := 0x0, wo := 0x0, w1c := 0x0, w1s := 0x0, rwl := 0x0, loaded := 0x0, reset := 0x0 },
    { name := "GFX_SPILL_BYTES", addr := 0x7F05001020, width := 64, n1 := 4, st1 := 0x40, n2 := 1, st2 := 0x0, rw := 0x0, wo := 0x0, w1c := 0x0, w1s := 0x0, rwl := 0x0, loaded := 0x0, reset := 0x0 },
    { name := "GFX_FILL", addr := 0x7F05001028, width := 32, n1 := 4, st1 := 0x40, n2 := 1, st2 := 0x0, rw := 0x1, wo := 0x0, w1c := 0x0, w1s := 0x0, rwl := 0x0, loaded := 0x0, reset := 0x1 },
    { name := "LYR_ID", addr := 0x7F06000000, width := 32, n1 := 1, st1 := 0x0, n2 := 1, st2 := 0x0, rw := 0x0, wo := 0x0, w1c := 0x0, w1s := 0x0, rwl := 0x0, loaded := 0x0, reset := 0x4081002 } ]

/-- Register families 104 to 129. -/
def regTable4 : List RegDesc :=
  [ { name := "LYR_PIPE_CTRL", addr := 0x7F06001000, width := 32, n1 := 4, st1 := 0x1000, n2 := 1, st2 := 0x0, rw := 0xF, wo := 0x0, w1c := 0x0, w1s := 0x0, rwl := 0x0, loaded := 0x0, reset := 0x0 },
    { name := "LYR_PIPE_STATUS", addr := 0x7F06001004, width := 32, n1 := 4, st1 := 0x1000, n2 := 1, st2 := 0x0, rw := 0x0, wo := 0x0, w1c := 0x0, w1s := 0x0, rwl := 0x0, loaded := 0x0, reset := 0x0 },
    { name := "LYR_TIMING_H", addr := 0x7F06001008, width := 64, n1 := 4, st1 := 0x1000, n2 := 1, st2 := 0x0, rw := 0xFFFFFFFFFFFFFFFF, wo := 0x0, w1c := 0x0, w1s := 0x0, rwl := 0x0, loaded := 0x0, reset := 0x0 },
    { name := "LYR_TIMING_V", addr := 0x7F06001010, width := 64, n1 := 4, st1 := 0x1000, n2 := 1, st2 := 0x0, rw := 0xFFFFFFFFFFFFFFFF, wo := 0x0, w1c := 0x0, w1s := 0x0, rwl := 0x0, loaded := 0x0, reset := 0x0 },
    { name := "LYR_PCLK", addr := 0x7F06001018, width := 32, n1 := 4, st1 := 0x1000, n2 := 1, st2 := 0x0, rw := 0xFFFFFFFF, wo := 0x0, w1c := 0x0, w1s := 0x0, rwl := 0x0, loaded := 0x0, reset := 0x0 },
    { name := "LYR_BG", addr := 0x7F0600101C, width := 32, n1 := 4, st1 := 0x1000, n2 := 1, st2 := 0x0, rw := 0x3FFFFFFF, wo := 0x0, w1c := 0x0, w1s := 0x0, rwl := 0x0, loaded := 0x0, reset := 0x0 },
    { name := "LYR_COMMIT", addr := 0x7F06001020, width := 32, n1 := 4, st1 := 0x1000, n2 := 1, st2 := 0x0, rw := 0x0, wo := 0x0, w1c := 0x0, w1s := 0x1, rwl := 0x0, loaded := 0x0, reset := 0x0 },
    { name := "LYR_FRAME_SEQ", addr := 0x7F06001028, width := 64, n1 := 4, st1 := 0x1000, n2 := 1, st2 := 0x0, rw := 0x0, wo := 0x0, w1c := 0x0, w1s := 0x0, rwl := 0x0, loaded := 0x0, reset := 0x0 },
    { name := "LYR_LATE_COUNT", addr := 0x7F06001030, width := 64, n1 := 4, st1 := 0x1000, n2 := 1, st2 := 0x0, rw := 0x0, wo := 0x0, w1c := 0x0, w1s := 0x0, rwl := 0x0, loaded := 0x0, reset := 0x0 },
    { name := "LYR_UNDERFLOW_COUNT", addr := 0x7F06001038, width := 64, n1 := 4, st1 := 0x1000, n2 := 1, st2 := 0x0, rw := 0x0, wo := 0x0, w1c := 0x0, w1s := 0x0, rwl := 0x0, loaded := 0x0, reset := 0x0 },
    { name := "LYR_SKIP_BYTES", addr := 0x7F06001040, width := 64, n1 := 4, st1 := 0x1000, n2 := 1, st2 := 0x0, rw := 0x0, wo := 0x0, w1c := 0x0, w1s := 0x0, rwl := 0x0, loaded := 0x0, reset := 0x0 },
    { name := "LYR_LAYER_OWNER", addr := 0x7F06001080, width := 64, n1 := 4, st1 := 0x1000, n2 := 8, st2 := 0x8, rw := 0x1FFFFFFFF, wo := 0x0, w1c := 0x0, w1s := 0x0, rwl := 0x0, loaded := 0x0, reset := 0x0 },
    { name := "LYR_SIG_CTRL", addr := 0x7F060010C0, width := 32, n1 := 4, st1 := 0x1000, n2 := 1, st2 := 0x0, rw := 0x0, wo := 0x0, w1c := 0x0, w1s := 0x80000000, rwl := 0xFFFF, loaded := 0x0, reset := 0x0 },
    { name := "LYR_SIG_STATUS", addr := 0x7F060010C4, width := 32, n1 := 4, st1 := 0x1000, n2 := 1, st2 := 0x0, rw := 0x0, wo := 0x0, w1c := 0xFFFF, w1s := 0x0, rwl := 0x0, loaded := 0x0, reset := 0x0 },
    { name := "LYR_SIG_RECT", addr := 0x7F06001100, width := 64, n1 := 4, st1 := 0x1000, n2 := 16, st2 := 0x20, rw := 0x0, wo := 0x0, w1c := 0x0, w1s := 0x0, rwl := 0xFFFFFFFFFFFFFFFF, loaded := 0x0, reset := 0x0 },
    { name := "LYR_SIG_CFG", addr := 0x7F06001108, width := 32, n1 := 4, st1 := 0x1000, n2 := 16, st2 := 0x20, rw := 0x0, wo := 0x0, w1c := 0x0, w1s := 0x0, rwl := 0x3, loaded := 0x0, reset := 0x0 },
    { name := "LYR_SIG_EXPECT", addr := 0x7F0600110C, width := 32, n1 := 4, st1 := 0x1000, n2 := 16, st2 := 0x20, rw := 0x0, wo := 0x0, w1c := 0x0, w1s := 0x0, rwl := 0xFFFFFFFF, loaded := 0x0, reset := 0x0 },
    { name := "LYR_SIG_LAST", addr := 0x7F06001110, width := 32, n1 := 4, st1 := 0x1000, n2 := 16, st2 := 0x20, rw := 0x0, wo := 0x0, w1c := 0x0, w1s := 0x0, rwl := 0x0, loaded := 0x0, reset := 0x0 },
    { name := "LYR_SIG_MISS", addr := 0x7F06001114, width := 32, n1 := 4, st1 := 0x1000, n2 := 16, st2 := 0x20, rw := 0x0, wo := 0x0, w1c := 0x0, w1s := 0x0, rwl := 0x0, loaded := 0x0, reset := 0x0 },
    { name := "LYR_WB_CTRL", addr := 0x7F06001300, width := 32, n1 := 4, st1 := 0x1000, n2 := 1, st2 := 0x0, rw := 0xFF, wo := 0x0, w1c := 0x0, w1s := 0x0, rwl := 0x0, loaded := 0x0, reset := 0x0 },
    { name := "LYR_WB_BASE", addr := 0x7F06001308, width := 64, n1 := 4, st1 := 0x1000, n2 := 1, st2 := 0x0, rw := 0xFFFFFFFFFFFF0000, wo := 0x0, w1c := 0x0, w1s := 0x0, rwl := 0x0, loaded := 0x0, reset := 0x0 },
    { name := "LYR_WB_GEOM", addr := 0x7F06001310, width := 64, n1 := 4, st1 := 0x1000, n2 := 1, st2 := 0x0, rw := 0xFFFFFFFFFFFFFFFF, wo := 0x0, w1c := 0x0, w1s := 0x0, rwl := 0x0, loaded := 0x0, reset := 0x0 },
    { name := "LYR_WB_FENCE", addr := 0x7F06001318, width := 64, n1 := 4, st1 := 0x1000, n2 := 1, st2 := 0x0, rw := 0xFFFFFFFFFFFF0000, wo := 0x0, w1c := 0x0, w1s := 0x0, rwl := 0x0, loaded := 0x0, reset := 0x0 },
    { name := "LYR_WB_RECORD", addr := 0x7F06001320, width := 64, n1 := 4, st1 := 0x1000, n2 := 1, st2 := 0x0, rw := 0xFFFFFFFFFFFF0000, wo := 0x0, w1c := 0x0, w1s := 0x0, rwl := 0x0, loaded := 0x0, reset := 0x0 },
    { name := "LYR_WB_OWNER", addr := 0x7F06001328, width := 64, n1 := 4, st1 := 0x1000, n2 := 1, st2 := 0x0, rw := 0x1FFFFFFFF, wo := 0x0, w1c := 0x0, w1s := 0x0, rwl := 0x0, loaded := 0x0, reset := 0x0 },
    { name := "DPX_LINK_CTRL", addr := 0x7F07001000, width := 32, n1 := 2, st1 := 0x100, n2 := 1, st2 := 0x0, rw := 0xFC03, wo := 0x0, w1c := 0x0, w1s := 0x0, rwl := 0x0, loaded := 0x0, reset := 0x6800 } ]

/-- Register families 130 to 155. -/
def regTable5 : List RegDesc :=
  [ { name := "DPX_LINK_STATUS", addr := 0x7F07001004, width := 32, n1 := 2, st1 := 0x100, n2 := 1, st2 := 0x0, rw := 0x0, wo := 0x0, w1c := 0x0, w1s := 0x0, rwl := 0x0, loaded := 0x0, reset := 0x0 },
    { name := "DPX_STREAM", addr := 0x7F07002000, width := 64, n1 := 4, st1 := 0x40, n2 := 1, st2 := 0x0, rw := 0x1FFE0003, wo := 0x0, w1c := 0x0, w1s := 0x0, rwl := 0x0, loaded := 0x0, reset := 0x0 },
    { name := "MEM_ID", addr := 0x7F08000000, width := 32, n1 := 1, st1 := 0x0, n2 := 1, st2 := 0x0, rw := 0x0, wo := 0x0, w1c := 0x0, w1s := 0x0, rwl := 0x0, loaded := 0x0, reset := 0x40081010 },
    { name := "MEM_CFG", addr := 0x7F08000008, width := 32, n1 := 1, st1 := 0x0, n2 := 1, st2 := 0x0, rw := 0x0, wo := 0x0, w1c := 0x0, w1s := 0x0, rwl := 0x0, loaded := 0x1, reset := 0x0 },
    { name := "MEM_SD_COMMIT", addr := 0x7F08000010, width := 32, n1 := 1, st1 := 0x0, n2 := 1, st2 := 0x0, rw := 0x0, wo := 0x0, w1c := 0x0, w1s := 0x1, rwl := 0x0, loaded := 0x0, reset := 0x0 },
    { name := "MEM_SD_RANGE", addr := 0x7F08001000, width := 64, n1 := 32, st1 := 0x8, n2 := 1, st2 := 0x0, rw := 0xFFFFFFFFFFFF0000, wo := 0x0, w1c := 0x0, w1s := 0x0, rwl := 0x0, loaded := 0xFFFFFFFFFFFF0000, reset := 0x0 },
    { name := "MEM_SD_CHAN", addr := 0x7F08002000, width := 64, n1 := 64, st1 := 0x8, n2 := 1, st2 := 0x0, rw := 0x0, wo := 0x0, w1c := 0x0, w1s := 0x0, rwl := 0x0, loaded := 0x0, reset := 0x0 },
    { name := "MEM_LP_CHAN", addr := 0x7F08002400, width := 64, n1 := 8, st1 := 0x8, n2 := 1, st2 := 0x0, rw := 0x0, wo := 0x0, w1c := 0x0, w1s := 0x0, rwl := 0x0, loaded := 0x0, reset := 0x0 },
    { name := "MEM_SC_RETIRE", addr := 0x7F08003000, width := 32, n1 := 16, st1 := 0x8, n2 := 1, st2 := 0x0, rw := 0xFFFF, wo := 0x0, w1c := 0x0, w1s := 0x0, rwl := 0x0, loaded := 0xFFFF, reset := 0x0 },
    { name := "MEM_UE_LOG", addr := 0x7F08004000, width := 64, n1 := 16, st1 := 0x8, n2 := 1, st2 := 0x0, rw := 0x0, wo := 0x0, w1c := 0x8000000000000000, w1s := 0x0, rwl := 0x0, loaded := 0x0, reset := 0x0 },
    { name := "MEM_UE_NEXT", addr := 0x7F08004080, width := 32, n1 := 1, st1 := 0x0, n2 := 1, st2 := 0x0, rw := 0x0, wo := 0x0, w1c := 0x0, w1s := 0x0, rwl := 0x0, loaded := 0x0, reset := 0x0 },
    { name := "MEM_UE_TOTAL", addr := 0x7F08004088, width := 64, n1 := 1, st1 := 0x0, n2 := 1, st2 := 0x0, rw := 0x0, wo := 0x0, w1c := 0x0, w1s := 0x0, rwl := 0x0, loaded := 0x0, reset := 0x0 },
    { name := "MEM_PATROL_CFG", addr := 0x7F08004100, width := 32, n1 := 1, st1 := 0x0, n2 := 1, st2 := 0x0, rw := 0xFF, wo := 0x0, w1c := 0x0, w1s := 0x0, rwl := 0x0, loaded := 0x0, reset := 0x18 },
    { name := "MEM_QOS_CFG", addr := 0x7F08004200, width := 32, n1 := 1, st1 := 0x0, n2 := 1, st2 := 0x0, rw := 0xFFFFFFFF, wo := 0x0, w1c := 0x0, w1s := 0x0, rwl := 0x0, loaded := 0x0, reset := 0xA080401 },
    { name := "MMU_ID", addr := 0x7F09000000, width := 32, n1 := 1, st1 := 0x0, n2 := 1, st2 := 0x0, rw := 0x0, wo := 0x0, w1c := 0x0, w1s := 0x0, rwl := 0x0, loaded := 0x0, reset := 0x4302E0F },
    { name := "MMU_WALKS", addr := 0x7F09000008, width := 64, n1 := 1, st1 := 0x0, n2 := 1, st2 := 0x0, rw := 0x0, wo := 0x0, w1c := 0x0, w1s := 0x0, rwl := 0x0, loaded := 0x0, reset := 0x0 },
    { name := "MMU_WALK_FAULTS", addr := 0x7F09000010, width := 64, n1 := 1, st1 := 0x0, n2 := 1, st2 := 0x0, rw := 0x0, wo := 0x0, w1c := 0x0, w1s := 0x0, rwl := 0x0, loaded := 0x0, reset := 0x0 },
    { name := "MMU_XLATE_CMDS", addr := 0x7F09000018, width := 64, n1 := 1, st1 := 0x0, n2 := 1, st2 := 0x0, rw := 0x0, wo := 0x0, w1c := 0x0, w1s := 0x0, rwl := 0x0, loaded := 0x0, reset := 0x0 },
    { name := "MMU_LAST_FAULT", addr := 0x7F09000020, width := 64, n1 := 1, st1 := 0x0, n2 := 1, st2 := 0x0, rw := 0x0, wo := 0x0, w1c := 0x0, w1s := 0x0, rwl := 0x0, loaded := 0x0, reset := 0x0 },
    { name := "MMU_LAST_FAULT_VA", addr := 0x7F09000028, width := 64, n1 := 1, st1 := 0x0, n2 := 1, st2 := 0x0, rw := 0x0, wo := 0x0, w1c := 0x0, w1s := 0x0, rwl := 0x0, loaded := 0x0, reset := 0x0 },
    { name := "ETH_ID", addr := 0x7F0A000000, width := 32, n1 := 1, st1 := 0x0, n2 := 1, st2 := 0x0, rw := 0x0, wo := 0x0, w1c := 0x0, w1s := 0x0, rwl := 0x0, loaded := 0x0, reset := 0x8400400 },
    { name := "ETH_QP_TABLE_BASE", addr := 0x7F0A000008, width := 64, n1 := 1, st1 := 0x0, n2 := 1, st2 := 0x0, rw := 0xFFFFFF0000, wo := 0x0, w1c := 0x0, w1s := 0x0, rwl := 0x0, loaded := 0xFFFFFF0000, reset := 0x0 },
    { name := "ETH_KEY_TABLE_BASE", addr := 0x7F0A000010, width := 64, n1 := 1, st1 := 0x0, n2 := 1, st2 := 0x0, rw := 0xFFFFFF0000, wo := 0x0, w1c := 0x0, w1s := 0x0, rwl := 0x0, loaded := 0xFFFFFF0000, reset := 0x0 },
    { name := "ETH_STREAM_TABLE_BASE", addr := 0x7F0A000018, width := 64, n1 := 1, st1 := 0x0, n2 := 1, st2 := 0x0, rw := 0xFFFFFF0000, wo := 0x0, w1c := 0x0, w1s := 0x0, rwl := 0x0, loaded := 0xFFFFFF0000, reset := 0x0 },
    { name := "ETH_OP", addr := 0x7F0A000020, width := 64, n1 := 1, st1 := 0x0, n2 := 1, st2 := 0x0, rw := 0x0, wo := 0xF0000000FFFFFFFF, w1c := 0x0, w1s := 0x0, rwl := 0x0, loaded := 0x0, reset := 0x0 },
    { name := "ETH_OP_RESULT", addr := 0x7F0A000028, width := 64, n1 := 1, st1 := 0x0, n2 := 1, st2 := 0x0, rw := 0x0, wo := 0x0, w1c := 0x0, w1s := 0x0, rwl := 0x0, loaded := 0x0, reset := 0x0 } ]

/-- Register families 156 to 181. -/
def regTable6 : List RegDesc :=
  [ { name := "ETH_ECN_MARKED", addr := 0x7F0A000030, width := 64, n1 := 1, st1 := 0x0, n2 := 1, st2 := 0x0, rw := 0x0, wo := 0x0, w1c := 0x0, w1s := 0x0, rwl := 0x0, loaded := 0x0, reset := 0x0 },
    { name := "ETH_EVENTS_DROPPED", addr := 0x7F0A000038, width := 64, n1 := 1, st1 := 0x0, n2 := 1, st2 := 0x0, rw := 0x0, wo := 0x0, w1c := 0x0, w1s := 0x0, rwl := 0x0, loaded := 0x0, reset := 0x0 },
    { name := "ETH_RX_REFUSED", addr := 0x7F0A000040, width := 64, n1 := 1, st1 := 0x0, n2 := 1, st2 := 0x0, rw := 0x0, wo := 0x0, w1c := 0x0, w1s := 0x0, rwl := 0x0, loaded := 0x0, reset := 0x0 },
    { name := "ETH_STREAM_COUNT", addr := 0x7F0A000800, width := 64, n1 := 64, st1 := 0x10, n2 := 1, st2 := 0x0, rw := 0x0, wo := 0x0, w1c := 0x0, w1s := 0x0, rwl := 0x0, loaded := 0x0, reset := 0x0 },
    { name := "ETH_STREAM_GAPS", addr := 0x7F0A000808, width := 64, n1 := 64, st1 := 0x10, n2 := 1, st2 := 0x0, rw := 0x0, wo := 0x0, w1c := 0x0, w1s := 0x0, rwl := 0x0, loaded := 0x0, reset := 0x0 },
    { name := "ETH_PORT_CTRL", addr := 0x7F0A001000, width := 32, n1 := 8, st1 := 0x100, n2 := 1, st2 := 0x0, rw := 0xF1, wo := 0x0, w1c := 0x0, w1s := 0x0, rwl := 0x0, loaded := 0xF1, reset := 0x0 },
    { name := "ETH_PORT_STATUS", addr := 0x7F0A001004, width := 32, n1 := 8, st1 := 0x100, n2 := 1, st2 := 0x0, rw := 0x0, wo := 0x0, w1c := 0x0, w1s := 0x0, rwl := 0x0, loaded := 0x80, reset := 0x0 },
    { name := "ETH_PORT_MAC", addr := 0x7F0A001008, width := 64, n1 := 8, st1 := 0x100, n2 := 1, st2 := 0x0, rw := 0xFFFFFFFFFFFF, wo := 0x0, w1c := 0x0, w1s := 0x0, rwl := 0x0, loaded := 0xFFFFFFFFFFFF, reset := 0x0 },
    { name := "ETH_PORT_IP_LO", addr := 0x7F0A001010, width := 64, n1 := 8, st1 := 0x100, n2 := 1, st2 := 0x0, rw := 0xFFFFFFFFFFFFFFFF, wo := 0x0, w1c := 0x0, w1s := 0x0, rwl := 0x0, loaded := 0xFFFFFFFFFFFFFFFF, reset := 0x0 },
    { name := "ETH_PORT_IP_HI", addr := 0x7F0A001018, width := 64, n1 := 8, st1 := 0x100, n2 := 1, st2 := 0x0, rw := 0xFFFFFFFFFFFFFFFF, wo := 0x0, w1c := 0x0, w1s := 0x0, rwl := 0x0, loaded := 0xFFFFFFFFFFFFFFFF, reset := 0x0 },
    { name := "ETH_EGRESS", addr := 0x7F0A001020, width := 32, n1 := 8, st1 := 0x100, n2 := 1, st2 := 0x0, rw := 0x0, wo := 0x0, w1c := 0x0, w1s := 0x0, rwl := 0x0, loaded := 0x73FFF, reset := 0x0 },
    { name := "ETH_RX_FRAMES", addr := 0x7F0A001040, width := 64, n1 := 8, st1 := 0x100, n2 := 1, st2 := 0x0, rw := 0x0, wo := 0x0, w1c := 0x0, w1s := 0x0, rwl := 0x0, loaded := 0x0, reset := 0x0 },
    { name := "ETH_TX_FRAMES", addr := 0x7F0A001048, width := 64, n1 := 8, st1 := 0x100, n2 := 1, st2 := 0x0, rw := 0x0, wo := 0x0, w1c := 0x0, w1s := 0x0, rwl := 0x0, loaded := 0x0, reset := 0x0 },
    { name := "ETH_RX_FCS_ERRORS", addr := 0x7F0A001050, width := 64, n1 := 8, st1 := 0x100, n2 := 1, st2 := 0x0, rw := 0x0, wo := 0x0, w1c := 0x0, w1s := 0x0, rwl := 0x0, loaded := 0x0, reset := 0x0 },
    { name := "ETH_FEC_CORRECTED", addr := 0x7F0A001058, width := 64, n1 := 8, st1 := 0x100, n2 := 1, st2 := 0x0, rw := 0x0, wo := 0x0, w1c := 0x0, w1s := 0x0, rwl := 0x0, loaded := 0x0, reset := 0x0 },
    { name := "ETH_FEC_UNCORRECTED", addr := 0x7F0A001060, width := 64, n1 := 8, st1 := 0x100, n2 := 1, st2 := 0x0, rw := 0x0, wo := 0x0, w1c := 0x0, w1s := 0x0, rwl := 0x0, loaded := 0x0, reset := 0x0 },
    { name := "ETH_RX_UNCLASSIFIED", addr := 0x7F0A001068, width := 64, n1 := 8, st1 := 0x100, n2 := 1, st2 := 0x0, rw := 0x0, wo := 0x0, w1c := 0x0, w1s := 0x0, rwl := 0x0, loaded := 0x0, reset := 0x0 },
    { name := "ETH_TX_FILTERED", addr := 0x7F0A001070, width := 64, n1 := 8, st1 := 0x100, n2 := 1, st2 := 0x0, rw := 0x0, wo := 0x0, w1c := 0x0, w1s := 0x0, rwl := 0x0, loaded := 0x0, reset := 0x0 },
    { name := "ETH_TX_DROPS", addr := 0x7F0A001078, width := 64, n1 := 8, st1 := 0x100, n2 := 1, st2 := 0x0, rw := 0x0, wo := 0x0, w1c := 0x0, w1s := 0x0, rwl := 0x0, loaded := 0x0, reset := 0x0 },
    { name := "ETH_MACSEC_DROPS", addr := 0x7F0A001080, width := 64, n1 := 8, st1 := 0x100, n2 := 1, st2 := 0x0, rw := 0x0, wo := 0x0, w1c := 0x0, w1s := 0x0, rwl := 0x0, loaded := 0x0, reset := 0x0 },
    { name := "ETH_LINK_DOWNS", addr := 0x7F0A001088, width := 64, n1 := 8, st1 := 0x100, n2 := 1, st2 := 0x0, rw := 0x0, wo := 0x0, w1c := 0x0, w1s := 0x0, rwl := 0x0, loaded := 0x0, reset := 0x0 },
    { name := "TIM_NOW_NS", addr := 0x7F0B000000, width := 64, n1 := 1, st1 := 0x0, n2 := 1, st2 := 0x0, rw := 0x0, wo := 0x0, w1c := 0x0, w1s := 0x0, rwl := 0x0, loaded := 0x0, reset := 0x0 },
    { name := "TIM_CFG", addr := 0x7F0B000008, width := 32, n1 := 1, st1 := 0x0, n2 := 1, st2 := 0x0, rw := 0xFFF7FF07, wo := 0x0, w1c := 0x0, w1s := 0x0, rwl := 0x0, loaded := 0xFFF7FF07, reset := 0x0 },
    { name := "TIM_STATUS", addr := 0x7F0B000010, width := 32, n1 := 1, st1 := 0x0, n2 := 1, st2 := 0x0, rw := 0x0, wo := 0x0, w1c := 0x0, w1s := 0x0, rwl := 0x0, loaded := 0x0, reset := 0x0 },
    { name := "TIM_OFFSET_NS", addr := 0x7F0B000018, width := 64, n1 := 1, st1 := 0x0, n2 := 1, st2 := 0x0, rw := 0x0, wo := 0x0, w1c := 0x0, w1s := 0x0, rwl := 0x0, loaded := 0x0, reset := 0x0 },
    { name := "TIM_FREQ_PPB", addr := 0x7F0B000020, width := 32, n1 := 1, st1 := 0x0, n2 := 1, st2 := 0x0, rw := 0x0, wo := 0x0, w1c := 0x0, w1s := 0x0, rwl := 0x0, loaded := 0x0, reset := 0x0 } ]

/-- Register families 182 to 207. -/
def regTable7 : List RegDesc :=
  [ { name := "TIM_GM_ID", addr := 0x7F0B000028, width := 64, n1 := 1, st1 := 0x0, n2 := 1, st2 := 0x0, rw := 0x0, wo := 0x0, w1c := 0x0, w1s := 0x0, rwl := 0x0, loaded := 0x0, reset := 0x0 },
    { name := "TIM_HOLDOVER_NS", addr := 0x7F0B000030, width := 64, n1 := 1, st1 := 0x0, n2 := 1, st2 := 0x0, rw := 0x0, wo := 0x0, w1c := 0x0, w1s := 0x0, rwl := 0x0, loaded := 0x0, reset := 0x0 },
    { name := "TIM_IGNORED", addr := 0x7F0B000038, width := 64, n1 := 1, st1 := 0x0, n2 := 1, st2 := 0x0, rw := 0x0, wo := 0x0, w1c := 0x0, w1s := 0x0, rwl := 0x0, loaded := 0x0, reset := 0x0 },
    { name := "IQL_ID", addr := 0x7F0C000000, width := 32, n1 := 1, st1 := 0x0, n2 := 1, st2 := 0x0, rw := 0x0, wo := 0x0, w1c := 0x0, w1s := 0x0, rwl := 0x0, loaded := 0x0, reset := 0x4044008 },
    { name := "IQL_CFG", addr := 0x7F0C000008, width := 32, n1 := 1, st1 := 0x0, n2 := 1, st2 := 0x0, rw := 0xFFFC0, wo := 0x0, w1c := 0x0, w1s := 0x0, rwl := 0x0, loaded := 0xFF00003F, reset := 0xFA00 },
    { name := "IQL_ROUTE", addr := 0x7F0C000100, width := 32, n1 := 64, st1 := 0x8, n2 := 1, st2 := 0x0, rw := 0xFC, wo := 0x0, w1c := 0x0, w1s := 0x0, rwl := 0x0, loaded := 0xFC, reset := 0x0 },
    { name := "IQL_EPOCH", addr := 0x7F0C000400, width := 32, n1 := 64, st1 := 0x8, n2 := 1, st2 := 0x0, rw := 0x0, wo := 0x0, w1c := 0x0, w1s := 0x0, rwl := 0x0, loaded := 0x0, reset := 0x0 },
    { name := "IQL_PORT_CTRL", addr := 0x7F0C001000, width := 32, n1 := 4, st1 := 0x100, n2 := 1, st2 := 0x0, rw := 0xD, wo := 0x0, w1c := 0x0, w1s := 0x0, rwl := 0x0, loaded := 0xD, reset := 0x0 },
    { name := "IQL_PORT_STATUS", addr := 0x7F0C001004, width := 32, n1 := 4, st1 := 0x100, n2 := 1, st2 := 0x0, rw := 0x0, wo := 0x0, w1c := 0x0, w1s := 0x0, rwl := 0x0, loaded := 0x0, reset := 0x0 },
    { name := "IQL_TX_PACKETS", addr := 0x7F0C001008, width := 64, n1 := 4, st1 := 0x100, n2 := 1, st2 := 0x0, rw := 0x0, wo := 0x0, w1c := 0x0, w1s := 0x0, rwl := 0x0, loaded := 0x0, reset := 0x0 },
    { name := "IQL_RX_PACKETS", addr := 0x7F0C001010, width := 64, n1 := 4, st1 := 0x100, n2 := 1, st2 := 0x0, rw := 0x0, wo := 0x0, w1c := 0x0, w1s := 0x0, rwl := 0x0, loaded := 0x0, reset := 0x0 },
    { name := "IQL_FEC_CORRECTED", addr := 0x7F0C001018, width := 64, n1 := 4, st1 := 0x100, n2 := 1, st2 := 0x0, rw := 0x0, wo := 0x0, w1c := 0x0, w1s := 0x0, rwl := 0x0, loaded := 0x0, reset := 0x0 },
    { name := "IQL_FEC_UNCORRECTED", addr := 0x7F0C001020, width := 64, n1 := 4, st1 := 0x100, n2 := 1, st2 := 0x0, rw := 0x0, wo := 0x0, w1c := 0x0, w1s := 0x0, rwl := 0x0, loaded := 0x0, reset := 0x0 },
    { name := "IQL_LINK_RETRIES", addr := 0x7F0C001028, width := 64, n1 := 4, st1 := 0x100, n2 := 1, st2 := 0x0, rw := 0x0, wo := 0x0, w1c := 0x0, w1s := 0x0, rwl := 0x0, loaded := 0x0, reset := 0x0 },
    { name := "IQL_AUTH_FAILS", addr := 0x7F0C001030, width := 64, n1 := 4, st1 := 0x100, n2 := 1, st2 := 0x0, rw := 0x0, wo := 0x0, w1c := 0x0, w1s := 0x0, rwl := 0x0, loaded := 0x0, reset := 0x0 },
    { name := "IQL_STALE_DROPS", addr := 0x7F0C001038, width := 64, n1 := 4, st1 := 0x100, n2 := 1, st2 := 0x0, rw := 0x0, wo := 0x0, w1c := 0x0, w1s := 0x0, rwl := 0x0, loaded := 0x0, reset := 0x0 },
    { name := "IQL_NO_ROUTE", addr := 0x7F0C001040, width := 64, n1 := 4, st1 := 0x100, n2 := 1, st2 := 0x0, rw := 0x0, wo := 0x0, w1c := 0x0, w1s := 0x0, rwl := 0x0, loaded := 0x0, reset := 0x0 },
    { name := "IQL_RETRAINS", addr := 0x7F0C001048, width := 64, n1 := 4, st1 := 0x100, n2 := 1, st2 := 0x0, rw := 0x0, wo := 0x0, w1c := 0x0, w1s := 0x0, rwl := 0x0, loaded := 0x0, reset := 0x0 },
    { name := "CDE_ID", addr := 0x7F0D000000, width := 32, n1 := 1, st1 := 0x0, n2 := 1, st2 := 0x0, rw := 0x0, wo := 0x0, w1c := 0x0, w1s := 0x0, rwl := 0x0, loaded := 0x0, reset := 0x4170F04 },
    { name := "CDE_CHAN_CTRL", addr := 0x7F0D001000, width := 32, n1 := 4, st1 := 0x100, n2 := 1, st2 := 0x0, rw := 0x1, wo := 0x0, w1c := 0x0, w1s := 0x0, rwl := 0x0, loaded := 0x0, reset := 0x0 },
    { name := "CDE_CHAN_STATUS", addr := 0x7F0D001004, width := 32, n1 := 4, st1 := 0x100, n2 := 1, st2 := 0x0, rw := 0x0, wo := 0x0, w1c := 0x0, w1s := 0x0, rwl := 0x0, loaded := 0x0, reset := 0x0 },
    { name := "CDE_IN_BYTES", addr := 0x7F0D001008, width := 64, n1 := 4, st1 := 0x100, n2 := 1, st2 := 0x0, rw := 0x0, wo := 0x0, w1c := 0x0, w1s := 0x0, rwl := 0x0, loaded := 0x0, reset := 0x0 },
    { name := "CDE_OUT_BYTES", addr := 0x7F0D001010, width := 64, n1 := 4, st1 := 0x100, n2 := 1, st2 := 0x0, rw := 0x0, wo := 0x0, w1c := 0x0, w1s := 0x0, rwl := 0x0, loaded := 0x0, reset := 0x0 },
    { name := "CDE_COMMANDS", addr := 0x7F0D001018, width := 64, n1 := 4, st1 := 0x100, n2 := 1, st2 := 0x0, rw := 0x0, wo := 0x0, w1c := 0x0, w1s := 0x0, rwl := 0x0, loaded := 0x0, reset := 0x0 },
    { name := "CDE_STOPS", addr := 0x7F0D001020, width := 64, n1 := 4, st1 := 0x100, n2 := 1, st2 := 0x0, rw := 0x0, wo := 0x0, w1c := 0x0, w1s := 0x0, rwl := 0x0, loaded := 0x0, reset := 0x0 },
    { name := "CDE_ERRORS", addr := 0x7F0D001028, width := 64, n1 := 4, st1 := 0x100, n2 := 1, st2 := 0x0, rw := 0x0, wo := 0x0, w1c := 0x0, w1s := 0x0, rwl := 0x0, loaded := 0x0, reset := 0x0 } ]

/-- Register families 208 to 233. -/
def regTable8 : List RegDesc :=
  [ { name := "CDE_CHECK_FAILS", addr := 0x7F0D001030, width := 64, n1 := 4, st1 := 0x100, n2 := 1, st2 := 0x0, rw := 0x0, wo := 0x0, w1c := 0x0, w1s := 0x0, rwl := 0x0, loaded := 0x0, reset := 0x0 },
    { name := "CDE_SKIPPED", addr := 0x7F0D001038, width := 64, n1 := 4, st1 := 0x100, n2 := 1, st2 := 0x0, rw := 0x0, wo := 0x0, w1c := 0x0, w1s := 0x0, rwl := 0x0, loaded := 0x0, reset := 0x0 },
    { name := "REF_ID", addr := 0x7F0E000000, width := 32, n1 := 1, st1 := 0x0, n2 := 1, st2 := 0x0, rw := 0x0, wo := 0x0, w1c := 0x0, w1s := 0x0, rwl := 0x0, loaded := 0x0, reset := 0x5000000 },
    { name := "REF_BUDGET_MARGIN", addr := 0x7F0E000008, width := 32, n1 := 1, st1 := 0x0, n2 := 1, st2 := 0x0, rw := 0xFFFFFFFF, wo := 0x0, w1c := 0x0, w1s := 0x0, rwl := 0x0, loaded := 0x0, reset := 0xC350 },
    { name := "REF_FAULT_RING", addr := 0x7F0E000010, width := 64, n1 := 1, st1 := 0x0, n2 := 1, st2 := 0x0, rw := 0xFFFFFFF00F, wo := 0x0, w1c := 0x0, w1s := 0x0, rwl := 0x0, loaded := 0xFFFFFFF00F, reset := 0x0 },
    { name := "REF_FAULT_COUNT", addr := 0x7F0E000018, width := 64, n1 := 1, st1 := 0x0, n2 := 1, st2 := 0x0, rw := 0x0, wo := 0x0, w1c := 0x0, w1s := 0x0, rwl := 0x0, loaded := 0x0, reset := 0x0 },
    { name := "REF_STATUS", addr := 0x7F0E000020, width := 32, n1 := 1, st1 := 0x0, n2 := 1, st2 := 0x0, rw := 0x0, wo := 0x0, w1c := 0x0, w1s := 0x0, rwl := 0x0, loaded := 0x0, reset := 0x0 },
    { name := "REF_CONTEXT_STOPS", addr := 0x7F0E000040, width := 64, n1 := 1, st1 := 0x0, n2 := 1, st2 := 0x0, rw := 0x0, wo := 0x0, w1c := 0x0, w1s := 0x0, rwl := 0x0, loaded := 0x0, reset := 0x0 },
    { name := "REF_ENGINE_RESETS", addr := 0x7F0E000048, width := 64, n1 := 1, st1 := 0x0, n2 := 1, st2 := 0x0, rw := 0x0, wo := 0x0, w1c := 0x0, w1s := 0x0, rwl := 0x0, loaded := 0x0, reset := 0x0 },
    { name := "REF_PARTITION_RESETS", addr := 0x7F0E000050, width := 64, n1 := 1, st1 := 0x0, n2 := 1, st2 := 0x0, rw := 0x0, wo := 0x0, w1c := 0x0, w1s := 0x0, rwl := 0x0, loaded := 0x0, reset := 0x0 },
    { name := "REF_CHIP_RESETS", addr := 0x7F0E000058, width := 64, n1 := 1, st1 := 0x0, n2 := 1, st2 := 0x0, rw := 0x0, wo := 0x0, w1c := 0x0, w1s := 0x0, rwl := 0x0, loaded := 0x0, reset := 0x0 },
    { name := "REF_TRANSIENTS", addr := 0x7F0E000060, width := 64, n1 := 1, st1 := 0x0, n2 := 1, st2 := 0x0, rw := 0x0, wo := 0x0, w1c := 0x0, w1s := 0x0, rwl := 0x0, loaded := 0x0, reset := 0x0 },
    { name := "REF_GUILTY", addr := 0x7F0E000068, width := 64, n1 := 1, st1 := 0x0, n2 := 1, st2 := 0x0, rw := 0x0, wo := 0x0, w1c := 0x0, w1s := 0x0, rwl := 0x0, loaded := 0x0, reset := 0x0 },
    { name := "REF_VICTIMS", addr := 0x7F0E000070, width := 64, n1 := 1, st1 := 0x0, n2 := 1, st2 := 0x0, rw := 0x0, wo := 0x0, w1c := 0x0, w1s := 0x0, rwl := 0x0, loaded := 0x0, reset := 0x0 },
    { name := "REF_WRITES_DROPPED", addr := 0x7F0E000078, width := 64, n1 := 1, st1 := 0x0, n2 := 1, st2 := 0x0, rw := 0x0, wo := 0x0, w1c := 0x0, w1s := 0x0, rwl := 0x0, loaded := 0x0, reset := 0x0 },
    { name := "REF_TRAY_LAST", addr := 0x7F0E000080, width := 64, n1 := 1, st1 := 0x0, n2 := 1, st2 := 0x0, rw := 0x0, wo := 0x0, w1c := 0x0, w1s := 0x0, rwl := 0x0, loaded := 0x0, reset := 0x0 },
    { name := "REF_CHIP_LAST", addr := 0x7F0E000088, width := 64, n1 := 1, st1 := 0x0, n2 := 1, st2 := 0x0, rw := 0x0, wo := 0x0, w1c := 0x0, w1s := 0x0, rwl := 0x0, loaded := 0x0, reset := 0x0 },
    { name := "EVR_ID", addr := 0x7F0F000000, width := 32, n1 := 1, st1 := 0x0, n2 := 1, st2 := 0x0, rw := 0x0, wo := 0x0, w1c := 0x0, w1s := 0x0, rwl := 0x0, loaded := 0x0, reset := 0x4002000 },
    { name := "EVR_CFG", addr := 0x7F0F000008, width := 32, n1 := 1, st1 := 0x0, n2 := 1, st2 := 0x0, rw := 0xFFFFFFFF, wo := 0x0, w1c := 0x0, w1s := 0x0, rwl := 0x0, loaded := 0x0, reset := 0x100020 },
    { name := "EVR_FREEZE", addr := 0x7F0F000010, width := 32, n1 := 1, st1 := 0x0, n2 := 1, st2 := 0x0, rw := 0xFFFF00, wo := 0x3, w1c := 0x0, w1s := 0x0, rwl := 0x0, loaded := 0x0, reset := 0x3E800 },
    { name := "EVR_HEAD", addr := 0x7F0F000018, width := 64, n1 := 1, st1 := 0x0, n2 := 1, st2 := 0x0, rw := 0x0, wo := 0x0, w1c := 0x0, w1s := 0x0, rwl := 0x0, loaded := 0x0, reset := 0x0 },
    { name := "EVR_LOST", addr := 0x7F0F000020, width := 64, n1 := 1, st1 := 0x0, n2 := 1, st2 := 0x0, rw := 0x0, wo := 0x0, w1c := 0x0, w1s := 0x0, rwl := 0x0, loaded := 0x0, reset := 0x0 },
    { name := "EVR_SUPPRESSED", addr := 0x7F0F000028, width := 64, n1 := 1, st1 := 0x0, n2 := 1, st2 := 0x0, rw := 0x0, wo := 0x0, w1c := 0x0, w1s := 0x0, rwl := 0x0, loaded := 0x0, reset := 0x0 },
    { name := "EVR_FLUSH_STATUS", addr := 0x7F0F000030, width := 32, n1 := 1, st1 := 0x0, n2 := 1, st2 := 0x0, rw := 0x0, wo := 0x0, w1c := 0x0, w1s := 0x0, rwl := 0x0, loaded := 0x30000, reset := 0x0 },
    { name := "EVR_RING", addr := 0x7F0F008000, width := 64, n1 := 4096, st1 := 0x8, n2 := 1, st2 := 0x0, rw := 0x0, wo := 0x0, w1c := 0x0, w1s := 0x0, rwl := 0x0, loaded := 0x0, reset := 0x0 },
    { name := "EVR_PREV", addr := 0x7F0F010000, width := 64, n1 := 4096, st1 := 0x8, n2 := 1, st2 := 0x0, rw := 0x0, wo := 0x0, w1c := 0x0, w1s := 0x0, rwl := 0x0, loaded := 0x0, reset := 0x0 } ]

/-- Every register family, in ascending address order; the position of a row is its family number. -/
def regTable : List RegDesc :=
  regTable0 ++ regTable1 ++ regTable2 ++ regTable3 ++ regTable4 ++ regTable5 ++ regTable6 ++ regTable7 ++ regTable8

end Sys2Proof.Machine
end

