-- ==== Sys2Proof/Machine/Sparse.lean ====
section
/-! DEFINITION. A sparse map from numbers to values: the one container that memory, registers and every numbered
family of units use. A key that is not listed reads the default, and a write of the default removes its key, so that
maps with the same contents that were built by writes from the empty map are the same list. -/

namespace Sys2Proof.Machine

/-- A sparse map, kept in rising order of its keys, without an entry that equals the default. -/
abbrev SMap (α : Type) := List (Nat × α)

/-- What the map holds at `k`, or the default `d`. -/
def SMap.get {α : Type} (d : α) : SMap α → Nat → α
  | [], _ => d
  | (k, v) :: m, j => if j = k then v else SMap.get d m j

/-- The map without its entries at `k`. -/
def SMap.erase {α : Type} : SMap α → Nat → SMap α
  | [], _ => []
  | (k, v) :: m, j => if j = k then SMap.erase m j else (k, v) :: SMap.erase m j

/-- The map with `(k, v)` before its first larger key. -/
def SMap.insert {α : Type} : SMap α → Nat → α → SMap α
  | [], j, w => [(j, w)]
  | (k, v) :: m, j, w => if j < k then (j, w) :: (k, v) :: m else (k, v) :: SMap.insert m j w

/-- The map with `k` set to `v`: a default value is not listed. -/
def SMap.set {α : Type} [DecidableEq α] (d : α) (m : SMap α) (k : Nat) (v : α) : SMap α :=
  if v = d then SMap.erase m k else SMap.insert (SMap.erase m k) k v

/-- The map with every key in `[lo, hi)` back at the default. -/
def SMap.clear {α : Type} : SMap α → Nat → Nat → SMap α
  | [], _, _ => []
  | (k, v) :: m, lo, hi =>
    if lo ≤ k ∧ k < hi then SMap.clear m lo hi else (k, v) :: SMap.clear m lo hi

/-- Whether every key of the map is above `b`, the keys rise, and no entry equals the default. -/
def SMap.wfAbove {α : Type} [DecidableEq α] (d : α) : Option Nat → SMap α → Bool
  | _, [] => true
  | b, (k, v) :: m =>
    (match b with
     | none => true
     | some j => decide (j < k)) && decide (v ≠ d) && SMap.wfAbove d (some k) m

/-- The canonical form: keys strictly rising, no entry equal to the default. -/
def SMap.wf {α : Type} [DecidableEq α] (d : α) (m : SMap α) : Bool := SMap.wfAbove d none m

end Sys2Proof.Machine
end

