-- ==== Sys2Proof/Machine/Parts.lean ====
section
/-! DEFINITION. The parts that the state is made of: plain data, one structure for each thing that the spec numbers or
names. `State.lean` puts them together. -/

namespace Sys2Proof.Machine

/-! ### Memory and translation (spec/09) -/

/-- The kinds of access that R461 tells apart. -/
inductive Access where
  | load | store | atomic | fetch
deriving DecidableEq, Repr

/-- The holders of cached translations (R466); `walker` holds the walk cache. -/
inductive Holder where
  | court (n : Nat)
  | core (n : Nat)
  /-- what backs the cores of a quarter -/
  | quarter (q : Nat)
  | raster (q : Nat)
  | pipe (p : Nat)
  | channel (c : Nat)
  | net
  | walker
deriving DecidableEq, Repr

/-- One cached translation: the context's handle, the first address and size of its page, its level and entry. -/
structure TlbEntry where
  holder : Holder
  handle : W32
  base : Nat
  log2 : Nat
  level : Nat
  pte : W64
deriving DecidableEq, Repr

/-- One entry of the walk cache: the table that entry `index` of a level points to. -/
structure WalkEntry where
  handle : W32
  level : Nat
  index : Nat
  table : Nat
deriving DecidableEq, Repr

/-- One entry of a core's merging buffer (R452): its line, the bytes written and when its first byte was written. -/
structure MergeEntry where
  core : Nat
  line : Nat
  bytes : List (Nat × Byte)
  since : Nat
  /-- the queues whose commands wrote to it -/
  queues : List Nat := []
deriving DecidableEq, Repr

/-- Where an address leads (R462 to R464). -/
inductive Target where
  | mem (a : Nat)
  | remote (dev a : Nat)
  | host (key off : Nat)
deriving DecidableEq, Repr

/-! ### Contexts and queues (spec/10) -/

/-- The states of a context (R487). -/
inductive CtxState where
  | free | active | hostlost | lost | destroying
deriving DecidableEq, Repr

/-- One completion record of 32 bytes, with its status apart (R500). -/
structure Completion where
  status : W16
  flags : W16
  tag : W32
  queue : W32
  entry : W32
  start : W64
  stop : W64
deriving DecidableEq, Repr

/-- A context: its state, the generation in force at its index, what CREATE and SET read, and its scoreboard counts. -/
structure Ctx where
  state : CtxState := .free
  gen : Nat := 0
  root0 : Nat := 0
  root1 : Nat := 0
  sel : Bool := false
  part : Nat := 0
  newPart : Option Nat := none
  waitMs : Nat := 10000
  shaderMs : Nat := 2000
  fbBase : Nat := 0
  fbLog2 : Nat := 6
  fbCount : Nat := 0
  useFb : Bool := false
  held : List Completion := []
  fenceCount : Nat := 0
  fenceList : Nat := 0
  courtCycles : Nat := 0
  coreCycles : Nat := 0
  rasterCycles : Nat := 0
  sdBytes : Nat := 0
  lpBytes : Nat := 0
  cdeBytes : Nat := 0
  /-- the energy of its work, in picojoules, and its weighted cycles and bytes at the last estimate (R545) -/
  energyPj : Nat := 0
  weighed : Nat := 0
  destroyAt : Nat := 0
  destroyStep : Nat := 0
  /-- while LOST: the submission number from which commands complete with CONTEXT_LOST (R20) -/
  lostAt : Nat := 0
deriving DecidableEq, Repr

/-- What an engine-level reset resets (R57). -/
inductive ResetUnit where
  | court (n : Nat)
  | quarter (q : Nat)
  | raster (q : Nat)
  | pipe (p : Nat)
  | channel (c : Nat)
  | port (p : Nat)
deriving DecidableEq, Repr

/-- The states of a queue (R493). -/
inductive QState where
  | free | active | stopping
deriving DecidableEq, Repr

/-- Where a queue stands with the command at its head. -/
inductive Phase where
  | empty
  | fetching
  | waiting
  | ready
  | running
  | draining (status flags : W16)
  | signalling (status flags : W16)
  /-- stopped by the referee: it is completed or replayed when its recovery says so (R746, R753) -/
  | halted
deriving DecidableEq, Repr

/-- A command as fetched: the eight words of its descriptor, and the HEAD value at which it was fetched (R495, R500). -/
structure Cmd where
  words : List W64
  entry : W32
deriving DecidableEq, Repr

/-- A queue: its record (R488), its slot or none while benched, and its head command. -/
structure Queue where
  state : QState := .free
  gen : Nat := 0
  owner : W32 := 0
  priority : Nat := 0
  ondeck : Bool := false
  remoteDb : Bool := false
  ringLog2 : Nat := 0
  cqLog2 : Nat := 0
  ring : Nat := 0
  cq : Nat := 0
  tail : W32 := 0
  head : W32 := 0
  cqHead : W32 := 0
  cqTail : W32 := 0
  slot : Option Nat := none
  /-- Batches of submitted entries, oldest first: the TAIL after the batch and its submission number (R533). -/
  subs : List (W32 × Nat) := []
  cmd : Option Cmd := none
  phase : Phase := .empty
  since : Nat := 0
  aged : Bool := false
  on : Option UnitRef := none
  begun : Bool := false
  startTime : Nat := 0
  startSeq : Nat := 0
  /-- while it is replayed: the start of its first run (R758) -/
  firstStart : Option Nat := none
  deadline : Option Nat := none
  /-- The status that a stop asked for: destruction, a fault, a budget (R536, R308, R743). -/
  stopReq : Option W16 := none
  flags : W16 := 0
  preloaded : Bool := false
  replaying : Bool := false
  /-- the wait timeout in force when the wait began (R486) -/
  waitMs : Nat := 0
  /-- for how many nanoseconds its wait alone has kept the head command from starting (R515; log 106) -/
  waited : Nat := 0
  /-- for how many nanoseconds the head command has been ready without a break (R519) -/
  readyFor : Nat := 0
  /-- the partition's units that the running command may use: those of the layout at its start (R52) -/
  units : List ResetUnit := []
  /-- the courts, quarters and front end that the command has been active on (R751) -/
  used : List ResetUnit := []
  /-- whether it may be replayed, and what it read that a replay reads no more (R753, R755) -/
  replaySafe : Bool := false
  read : List W64 := []
deriving DecidableEq, Repr

/-! ### Units that are scrubbed, remapped and inspected -/

/-- Where a unit stands with a scrub (R162, R301). -/
inductive Scrub where
  | clean | due | running
deriving DecidableEq, Repr

/-! ### The field's courts and commands (spec/03, spec/04) -/

/-- A court: its memories and what its scrubs and layouts need. A scratchpad byte is keyed by
`(row * 17 + physical engine) * 65536 + address`, an accumulator value by `((row * 17 + physical engine) * 2 + T) * 256 + i`, a vector
lane by `(row * 16 + v) * 64 + lane`. `accD` holds the accumulators as the row output path sees them (R109). -/
structure Court where
  /-- the context of the last command since the last scrub (R160) -/
  lastCtx : Option W32 := none
  /-- the partition whose commands the court last ran (R161) -/
  lastPart : Option Nat := none
  scrub : Scrub := .clean
  /-- a layout has left the court in no partition and its domain stops once it is idle (R51) -/
  leaving : Bool := false
  buf : SMap Byte := []
  pads : SMap Byte := []
  acc : SMap W32 := []
  accD : SMap W32 := []
  vregs : SMap W32 := []
  amax : SMap W64 := []
  /-- the playbook cache (R101, R144, R180): the row-operation table of the command that runs, and the bundle slots held, each with its
  place in the bundle stream -/
  cacheTable : List Nat := []
  cacheSlots : List (Nat × W64 × W64) := []
deriving DecidableEq, Repr

/-- A reduction segment of a row in progress (R199). The bytes taken so far in the block are kept for each of the 16 logical
engines. -/
structure Seg where
  acc : Nat
  fa : Nat
  fb : Nat
  fresh : Bool
  any : Bool := false
  cyc : Nat := 0
  klast : Nat := 0
  xs : List (List Byte) := []
  ys : List (List Byte) := []
  sx : List (List Byte) := []
  sy : List (List Byte) := []
  /-- where the streams of its last cycle stand: address register and address -/
  went : List (Nat × Nat) := []
deriving DecidableEq, Repr

/-- A row of a placed court while a command runs: its address registers, segment, LOADC position and drain walk. -/
structure RowSt where
  ars : List Nat := [0, 0, 0, 0, 0, 0, 0, 0]
  seg : Option Seg := none
  loading : Bool := false
  loadPos : Nat := 0
  drainAcc : Nat := 0
  drainPos : Nat := 0
deriving DecidableEq, Repr

/-- What a schedule cycle leaves for a later one: the result of an operation on court `c`, row `r`. -/
inductive Late where
  /-- block sums, or single products, enter accumulator `t` of every engine: for each engine and output, the addends in order -/
  | sums (c r t : Nat) (fresh : Bool) (vals : List (List (List W32)))
  /-- the row output path sees accumulator `t` of every engine with these values, but for outputs that LOADC has loaded since: the
  first of each 32 -/
  | seen (c r t : Nat) (vals : List (List W32)) (loaded : List Nat)
  /-- LOADC's values enter accumulator `t` of every engine from output `pos` -/
  | loaded (c r t pos : Nat) (vals : List (List W32))
  | vreg (c r v : Nat) (vals : List W32)
  /-- bytes of vector register `v` from byte 0 -/
  | vbytes (c r v : Nat) (bytes : List Byte)
  | amax (c r : Nat) (rec : W64)
  /-- bytes land in the court buffer -/
  | buf (c addr : Nat) (bytes : List Byte)
  /-- bytes land in the scratchpad of engine `e` -/
  | pad (c r e addr : Nat) (bytes : List Byte)
deriving DecidableEq, Repr

/-- A DMA slot issued and not yet complete (R187): its physical court, the schedule cycle of its issue and of its consume point,
whether its bytes have been asked for, and the answers it awaits. -/
structure DmaSlot where
  id : Nat
  court : Nat
  stream : Nat
  w0 : W64
  w1 : W64
  issued : Nat
  consume : Option Nat
  sent : Bool := false
  left : Nat := 0
deriving DecidableEq, Repr

/-- A field network transfer in flight (R127, R184), with the flits read and not yet landed: landing cycle and bytes. -/
structure NetXfer where
  src : Nat
  dst : Nat
  srcAddr : Nat
  dstAddr : Nat
  flits : Nat
  hops : Nat
  issued : Nat
  /-- the route's links, each a pair of courts -/
  links : List (Nat × Nat) := []
  read : Nat := 0
  air : List (Nat × Nat × List Byte) := []
deriving DecidableEq, Repr

/-- A decoded bundle (R181, R182, R187). -/
structure Bundle where
  trips : Nat
  slots : List (Nat × W64 × W64)
  dmas : List (W64 × W64)
  last : Bool
  sync : Bool
  heavy : Bool
deriving DecidableEq, Repr

/-- The field command of a partition while it runs. -/
structure FieldRun where
  q : Nat
  handle : W32
  playbook : Nat
  params : List W64
  /-- parameter bounds -/
  bounds : List W64
  regions : List W64
  foot : Nat
  /-- the courts of its partition at its start -/
  courts : List Nat
  /-- physical court number less logical court number (R214) -/
  shift : Nat
  bundleOff : Nat
  bundleBytes : Nat
  decl : Nat
  replaySafe : Bool
  /-- the default overflow mode at its start, which it keeps (R94) -/
  nonSat : Bool := false
  pos : Nat := 0
  bun : Option Bundle := none
  /-- where the bundle stands in the stream -/
  bunPos : Nat := 0
  /-- schedule cycles of the bundle still to issue, and whether the next is its first -/
  left : Nat := 0
  first : Bool := false
  syncWait : Bool := false
  /-- DMA slots of the bundle not yet issued, and whether the bundle has tried to issue them (R221) -/
  toIssue : List (W64 × W64) := []
  tried : Bool := false
  cycle : Nat := 0
  rows : SMap RowSt := []
  late : List (Nat × Late) := []
  dma : List DmaSlot := []
  nextId : Nat := 0
  net : List NetXfer := []
  heavy : Bool := false
  /-- stagger cycles still to wait (R148) -/
  stagger : Nat := 0
  /-- the ramp: its cycle k and length, none after it (R691) -/
  ramp : Option (Nat × Nat) := none
  /-- court-clock cycles since the start, for R692, and schedule cycles with the conflict cycles, which DECL_CYCLES counts (R225) -/
  clk : Nat := 0
  spent : Nat := 0
  ended : Bool := false
  failed : Option W16 := none
  /-- issue fraction in 1/64 and clock in MHz that the deadline allows for (R224) -/
  budgetFrac : Nat := 64
  budgetMhz : Nat := 1250
deriving DecidableEq, Repr

/-- What a partition's field keeps between commands: the command it runs, and when the last one ended (R691). -/
structure FieldPart where
  run : Option FieldRun := none
  idleSince : Option Nat := none
  /-- when a field command was last seen ready or running, for R777 -/
  readyAt : Option Nat := none
  stretched : Bool := false
deriving DecidableEq, Repr

/-! ### Shader cores and quarters (spec/06) -/

/-- The interval for which a core has held work of a context (R544): the context, how many blocks and tile buffers, since
when. -/
structure Hold where
  ctx : Nat
  count : Nat
  since : Nat
deriving DecidableEq, Repr

/-- An async matrix operation: its group, token, descriptor words, the first byte and length of its block's local memory, and
whether its footprint has been touched meanwhile (R290 to R297). -/
structure Amma where
  group : Nat
  token : Nat
  words : List W64
  base : Nat
  len : Nat
  spoiled : Bool := false
  /-- the default overflow mode that its command keeps (R94) -/
  nonSat : Bool := false
deriving DecidableEq, Repr

/-- An issue unit of a core (R247): the group slot and the pipe that it last issued from and to, the shader-clock cycles for which P0 and
P1 are still held, and the slot that has issued in the cycle in progress. -/
structure IssueUnit where
  last : Nat := 31
  pipe : Nat := 0
  p0 : Nat := 0
  p1 : Nat := 0
  mate : Option Nat := none
deriving DecidableEq, Repr

/-- A physical core, keyed by `quarter * 17 + core`: the context of its last work since the last scrub (R302), its scrub, its
local memory, its async matrix operations in issue order, and what it holds. -/
structure Core where
  lastCtx : Option W32 := none
  scrub : Scrub := .clean
  mem : SMap Byte := []
  ammas : List Amma := []
  holds : List Hold := []
  unit0 : IssueUnit := {}
  unit1 : IssueUnit := {}
deriving DecidableEq, Repr

/-- A program as a group runs it: the address of its code, its length, its registers per thread and its launch constants. -/
structure Prog where
  code : Nat := 0
  codeBytes : Nat := 0
  entry : Nat := 0
  regs : Nat := 0
  consts : List W32 := []
  /-- local memory in bytes -/
  localLen : Nat := 0
  /-- the default overflow mode at the start of its command, which keeps it (R94) -/
  nonSat : Bool := false
deriving DecidableEq, Repr

/-- What a thread waits for (R246). -/
inductive TWait where
  | ready
  /-- at a lane instruction, with its word -/
  | lane (op : LaneFn) (word : Nat)
  | amma (word : Nat)
  | group
  | block
  | tokens (mask : Nat)
  /-- an access of another device or of host memory that the next instruction cannot go before -/
  | answers
deriving DecidableEq, Repr

/-- An access of a thread that another device or the host has not answered: the registers that it will write (none for a store), the
address of its instruction, whether it has ORDER acquire, and its address. -/
structure Owed where
  reg : Nat
  regs : Nat
  pc : Nat
  acquire : Bool
  va : Nat
deriving DecidableEq, Repr

/-- A thread: its address as an offset from CODE_OFF, what it waits for, its predicates p0 to p6, its team, the group's issue
count when it last issued or became ready, the CONVERGEs it has executed and not reached (site and target), and the accesses that
have not been answered. -/
structure Thread where
  pc : Nat := 0
  wait : TWait := .ready
  preds : Nat := 0
  team : Nat := 0
  exited : Bool := false
  since : Nat := 0
  convs : List (Nat × Nat) := []
  /-- held where CONVERGEs led: their sites, and the group's issue count when it arrived (R251) -/
  hold : Option (List Nat × Nat) := none
  owed : List Owed := []
deriving DecidableEq, Repr

/-- A fragment: its pixel, the samples it covers, and the triangle. -/
structure Frag where
  x : Nat
  y : Nat
  mask : Nat
  tri : Nat
deriving DecidableEq, Repr

/-- What a group of a render pass has besides: its front end, NATTR and NCOLOR, its vertices or its fragments with their tile,
what it has written, and which of it (R340, R341). -/
structure Gfx where
  fe : Nat
  fragment : Bool
  nattr : Nat
  ncolor : Nat
  verts : List (W32 × W32) := []
  frags : List Frag := []
  tile : Nat := 0
  /-- by `lane * 64 + vector * 4 + component`; a depth at vector 15 -/
  out : SMap W32 := []
  /-- by lane: bit v: vector v written; bit 15: depth written; bit 16: discarded -/
  did : SMap Nat := []
deriving DecidableEq, Repr

/-- A thread group. Registers are keyed by `lane * 256 + register`. -/
structure Group where
  q : Nat := 0
  core : Nat := 0
  /-- its group slot on its issue unit (R237) -/
  slot : Nat := 0
  /-- an instruction of it has faulted (R308) -/
  faulted : Bool := false
  prog : Prog := {}
  base : Nat := 0
  len : Nat := 0
  threads : List Thread := []
  regs : SMap W32 := []
  issues : Nat := 0
  /-- pending tokens -/
  tokens : Nat := 0
  gfx : Option Gfx := none
deriving DecidableEq, Repr

/-- A block on a core: its core, groups, registers per thread and local memory. -/
structure Block where
  core : Nat
  groups : Nat
  regs : Nat
  base : Nat
  len : Nat
deriving DecidableEq, Repr

/-- A fault record that waits for the completion it concerns (R769). -/
structure FaultRec where
  status : W16
  kind : Nat
  time : Nat
  addr : Nat := 0
  pc : Nat := 0
  lanes : Nat := 0
  block : Nat := 0
  place : Nat := 0
  suppressed : Nat := 0
  /-- quarter, physical core, issue unit and group slot as one number (R309) -/
  order : Nat := 0
deriving DecidableEq, Repr

/-- A LAUNCH while it runs: its program, groups per block, local memory per block in bytes, grid, next block, whether an
instruction has issued, the cores that it ran on, and its first fault. -/
structure Launch where
  prog : Prog
  groups : Nat
  localBytes : Nat
  replaySafe : Bool
  grid : Nat × Nat × Nat
  next : Nat := 0
  issued : Bool := false
  cores : List Nat := []
  fault : Option FaultRec := none
deriving DecidableEq, Repr

/-- A quarter: the partition whose commands it last ran (R303), whether a layout has left it (R51), and its clock stretch (R690). -/
structure Quarter where
  lastPart : Option Nat := none
  leaving : Bool := false
  stretched : Bool := false
  /-- the cores retired otherwise than by the spare map, a bit each (R307, R316) -/
  retired : Nat := 0
deriving DecidableEq, Repr

/-! ### Render passes (spec/07) -/

/-- A draw of a pass: its record's words and the programs of its stages, launch constants included (R328). -/
structure Draw where
  words : List W64
  vs : Prog
  fs : Option Prog
deriving DecidableEq, Repr

/-- A triangle that the tiler has taken: its draw, the vectors of its three vertices (position, then attributes), its corners
on the 1/256 grid, and whether it faces front. -/
structure Tri where
  draw : Nat
  vecs : List (List W32)
  xy : List (Int × Int)
deriving DecidableEq, Repr

/-- The states of a tile (R353). -/
inductive TileSt where
  | idle | binned | waitMem | loading | shading | spilling | storing | done | faulted
deriving DecidableEq, Repr

/-- A tile: its state, its flag S, its list, its tile buffer's core and first byte, how far its list has been shaded, and the
fragments of the triangle in progress that no group has taken. -/
structure Tile where
  st : TileSt := .idle
  spilled : Bool := false
  list : List Nat := []
  core : Nat := 0
  base : Nat := 0
  pos : Nat := 0
  frags : List Frag := []
  /-- the list chunk in use, and whether a fragment group of the tile runs -/
  chunk : Nat := 0
  busy : Bool := false
deriving DecidableEq, Repr

/-- A render pass on a front end: its command, the 24 words of its descriptor, its heap's bounds, its draws, and where it
stands. -/
structure Pass where
  q : Nat
  words : List W64
  heapVa : Nat
  heapBase : Nat
  heapSize : Nat
  spillBase : Nat
  draws : List Draw
  /-- the draw, instance and vertex of that instance that the vertex stage runs next -/
  draw : Nat := 0
  inst : Nat := 0
  vert : Nat := 0
  /-- vertices of the instance that have been shaded: their vectors -/
  verts : SMap (List W32) := []
  /-- the next triangle of the instance -/
  tri : Nat := 0
  tris : SMap (Option Tri) := []
  nextTri : Nat := 0
  /-- heap bytes in use: bytes of records taken, and list chunks -/
  records : Nat := 0
  chunks : Nat := 0
  high : Nat := 0
  partials : Nat := 0
  /-- a partial render is in progress; binning has ended -/
  partialOn : Bool := false
  binned : Bool := false
  tiles : SMap Tile := []
  /-- groups started so far, and those that run -/
  serial : Nat := 0
  vgroup : Bool := false
  /-- a vertex group that finds no room on any core -/
  waiting : Bool := false
  /-- FILL as it was at the start (R369) -/
  fill : Bool := true
  /-- cores on which local memory is held, each with its first byte, none until there is room (R357) -/
  reserve : List (Nat × Option Nat) := []
  /-- cores that the pass has used -/
  cores : List Nat := []
  replaySafe : Bool := false
  began : Nat := 0
  /-- up to when its raster cycles are counted (R544) -/
  counted : Nat := 0
  fault : Option FaultRec := none
deriving DecidableEq, Repr

/-! ### Composer pipes and DisplayPort transmitters (spec/08) -/

/-- A present whose checks have passed: its queue, TARGET, context and layer records (R384, R385). -/
structure Present where
  q : Nat
  target : Nat
  handle : W32
  layers : List (Nat × List W64)
deriving DecidableEq, Repr

/-- A writeback slot that has been written and whose frame record is due (R412). -/
structure WbFrame where
  owner : W32
  recordAt : Nat
  fence : Nat
  slot : Nat
  seq : Nat
  time : Nat
  under : Bool
  shown : Bool
  mismatch : Nat
  /-- where the slot lies, its pitch, and the bytes and number of its lines -/
  base : Nat
  pitch : Nat
  width : Nat
  lines : Nat
  /-- the record has been stored too: only the signal is left (R412) -/
  recorded : Bool := false
deriving DecidableEq, Repr

/-- A composer pipe: its active layers by number (context and record), the presents held for their target and those applied to
the shadow state, and the frame in progress: when its boundary was, which pixel runs found no data (x, y, length), which layers
have faulted and from which line; the next writeback slot, the last good one, the one that a hold shows, and records due. -/
structure Pipe where
  layers : SMap (Option (W32 × List W64)) := []
  held : List Present := []
  applied : List Present := []
  began : Option Nat := none
  under : List (Nat × Nat × Nat) := []
  faulted : List (Nat × Nat) := []
  slot : Nat := 0
  good : Option Nat := none
  holdSlot : Option Nat := none
  recs : List WbFrame := []
  resetting : Bool := false
  /-- a reset has cut a frame off: no video is sent until the next boundary (R379) -/
  restarting : Bool := false
  /-- an access for a frame's record failed after its boundary: writeback stops at the next (R411) -/
  wbLost : Bool := false
  /-- the pixels of the frame last shown, line by line; none while no video is sent (R405) -/
  display : List (List (List Nat)) := []
  /-- the owner of the writeback has been destroyed: it ends at the next frame boundary (R539) -/
  wbStop : Bool := false
  /-- the lines of the frame in progress that are composed already, and the layers disabled within the frame, each with the line from which
  its rectangle shows the background (R539) -/
  rows : List (List (List Nat)) := []
  gone : List (Nat × List W64) := []
deriving DecidableEq, Repr

/-- A DisplayPort transmitter: whether it trains its link, and when training last failed at every rate. -/
structure DpTx where
  training : Bool := false
  failedAt : Option Nat := none
deriving DecidableEq, Repr

/-! ### Compression (spec/13) -/

/-- What a stream hands from one command to the next (R659, R664): its input so far, the offsets of its BLOCK flushes, whether FINAL has
been given, how much of its output has been written, and the dictionary it began with. -/
structure Coder where
  input : List Byte := []
  flushes : List Nat := []
  final : Bool := false
  sent : Nat := 0
  dict : Option (List Byte) := none
deriving DecidableEq, Repr

/-- A state record that the device wrote with REASON 1 or 2: its bytes, the parameters of its stream (R666), and what it stands for. -/
structure StreamState where
  bytes : List Byte
  params : List Nat
  coder : Coder
deriving DecidableEq, Repr

/-! ### Inspection (spec/16) -/

/-- An inspection that is queued or runs: KIND and unit as in STW_INSPECT_REQ (R776, R807). -/
structure Inspect where
  kind : Nat
  unit : Nat
  way : Nat := 0
  routine : Bool := false
  running : Bool := false
deriving DecidableEq, Repr

/-- A repair: TYPE, UNIT, SUB and ADDR of its journal entry, and when it was made (R792). -/
structure Repair where
  typ : Nat
  unit : Nat
  sub : Nat := 0
  addr : Nat := 0
  time : Nat
deriving DecidableEq, Repr

/-! ### Network ports (spec/11) -/

/-- What an answer to a request of this device is for. -/
inductive Purpose where
  /-- nothing waits on it -/
  | none
  /-- a store of the command of queue `q` -/
  | store (q : Nat)
  /-- a store of lane `lane` of thread group `g` at `va`, by the instruction at `pc` -/
  | stored (q g lane va pc : Nat) (acquire : Bool)
  /-- the fence signal of the completing command of queue `q` -/
  | signal (q : Nat)
  /-- the completion record `c` of the context with handle `owner` -/
  | completion (owner : W32) (c : Completion)
  /-- an event record on an EVENT queue pair -/
  | event
  /-- a read made to examine the wait of queue `q` -/
  | fence (q : Nat)
  /-- a load of lane `lane` of thread group `g` at `va` into `n` bytes of registers from `reg` -/
  | lane (q g lane reg n : Nat) (signed : Bool) (va : Nat)
  /-- an atomic of operation `op` on `w` bits at `va` for lanes of thread group `g`: each lane, its register and what is
  combined with the prior value for it -/
  | atom (q g op w va : Nat) (lanes : List (Nat × Nat × Option Nat))
  /-- a piece of DMA slot `slot` of partition `part`, from byte `off` of the transfer; a store has nothing to place -/
  | court (q part off slot : Nat)
  /-- a bulk pull into local memory at `pa` -/
  | bulk (q pa : Nat)
  /-- `n` bytes at `a` of device `dev` for a step of `unit` -/
  | far (unit dev a n : Nat)
  /-- a BUSY bit at `a` of device `dev` that nobody waits for any more: it is cleared if it was 0 (R349) -/
  | unbusy (dev a : Nat)
  /-- a ring entry of queue `q` -/
  | ring (q : Nat)
  /-- a store to the slot or the record of the frame of FRAME_SEQ `seq` of a pipe (R412) -/
  | frame (pipe seq : Nat)
  /-- a store to slot `slot` of a listener stream, or to its record (R587) -/
  | slot (stream slot : Nat)
  /-- a fence signal of a unit outside any queue (writeback, listener streams) for context `h`; 0: for none -/
  | notice (h : W32)
  /-- an access of context `h` that nothing waits for but its translation commands -/
  | held (h : W32)
deriving DecidableEq, Repr

/-- A read of another device's memory that a unit's step needs: asked for, and once `done` its status and bytes. -/
structure FarRead where
  unit : Nat
  dev : Nat
  addr : Nat
  len : Nat
  done : Bool := false
  status : W16 := 0
  bytes : List Byte := []
deriving DecidableEq, Repr

/-- The contents of an Ethernet frame of this device. -/
inductive FrameBody where
  | send (qp psn : Nat) (data : List Byte)
  | write (qp psn : Nat) (rkey : W32) (va : W64) (data : List Byte)
  | ack (qp psn : Nat)
  | nak (qp psn code : Nat)
  | readRsp (qp psn : Nat) (data : List Byte)
  | atomicRsp (qp psn : Nat) (value : W64)
  | sync (time : Nat)
  | announce (gm : W64)
  | pdelay
  | avtp (stream seq : Nat) (pt : W64) (data : List Byte)
deriving DecidableEq, Repr

/-- An Ethernet frame: its class (0 RoCEv2, 1 AVTP, 2 gPTP), tag and contents (R557 to R560). -/
structure Frame where
  cls : Nat
  pcp : Nat
  vid : Nat
  body : FrameBody
deriving DecidableEq, Repr

/-- A MACsec association: its key, whether XPN, and the next packet number (R562, R564). -/
structure Assoc where
  key : Nat := 0
  salt : Nat := 0
  ssci : Nat := 0
  xpn : Bool := false
  nextPn : Nat := 1
  noted : Bool := false
  installed : Bool := false
deriving DecidableEq, Repr

/-- An Ethernet port. -/
structure EthPort where
  egress : List Frame := []
  held : List (Nat × Frame) := []
  txAssocs : List Assoc := [{}, {}, {}, {}]
  txSel : Option Nat := none
  /-- the SCI of the transmit channel; whether the port's cipher is GCM-AES-XPN-256 -/
  txSci : W64 := 0
  xpn : Bool := false
  /-- receive channels 0 to 3: each an SCI and four associations -/
  rxScis : List W64 := [0, 0, 0, 0]
  rxAssocs : List Assoc := []
  replayWindow : Nat := 0
  /-- bytes left in the 1 ms token bucket, in bits -/
  tokens : Nat := 0
  tokensAt : Nat := 0
deriving DecidableEq, Repr

/-- The states of a queue pair (R568). -/
inductive QpState where
  | reset | rts | error | draining
deriving DecidableEq, Repr

/-- A request of this device that awaits its acknowledgement. -/
structure QpReq where
  psn : Nat
  body : FrameBody
  purpose : Purpose
  retries : Nat
  rnrRetries : Nat
deriving DecidableEq, Repr

/-- A queue pair: its record (R567) and its transport. -/
structure Qp where
  state : QpState := .reset
  role : Nat := 0
  port : Nat := 0
  pcp : Nat := 0
  vid : Nat := 0
  mtu : Nat := 0
  retry : Nat := 0
  timeout : Nat := 0
  rnrRetry : Nat := 0
  ipv6 : Bool := false
  remoteQpn : Nat := 0
  remoteMac : Nat := 0
  remoteIp : Nat := 0
  owner : W32 := 0
  spsn : Nat := 0
  rpsn : Nat := 0
  reqs : List QpReq := []
  /-- defined by the configuration record (R599) -/
  fromCfg : Bool := false
  /-- assigned to the kernel driver by the configuration record (R508) -/
  kernel : Bool := false
  /-- the last atomics performed for the host, newest first: sequence number and old value, for duplicates (log 17) -/
  atomics : List (Nat × W64) := []
deriving DecidableEq, Repr

/-- A key entry (R571). -/
structure Key where
  loaded : Bool := false
  revoking : Bool := false
  /-- a KEY_REVOKE waits for the accesses that use the entry -/
  asked : Bool := false
  device : Bool := false
  write : Bool := false
  read : Bool := false
  atomic : Bool := false
  qp : Nat := 0
  owner : W32 := 0
  rkey : W32 := 0
  base : Nat := 0
  length : Nat := 0
deriving DecidableEq, Repr

/-- A frame that a talker has to send (R590): the owner of its writeback slot, where it lies, its pitch, the bytes and number of its
lines, and its TIME. -/
structure TalkFrame where
  owner : W32
  base : Nat
  pitch : Nat
  width : Nat
  lines : Nat
  time : Nat
deriving DecidableEq, Repr

/-- A media stream (R582 to R591). -/
structure Stream where
  running : Bool := false
  stopping : Bool := false
  talker : Bool := false
  rvf : Bool := false
  port : Nat := 0
  pcp : Nat := 0
  vid : Nat := 0
  nslots : Nat := 1
  pipe : Nat := 0
  streamId : W64 := 0
  ring : Nat := 0
  owner : W32 := 0
  slotBytes : Nat := 0
  records : Nat := 0
  fence : Nat := 0
  consumed : Nat := 0
  ptOffset : Nat := 0
  rateMbps : Nat := 0
  /-- the slot being written or sent, and the bytes of it done -/
  slot : Nat := 0
  done : Nat := 0
  gap : Bool := false
  discard : Bool := false
  slotPt : Nat := 0
  lastSeq : Option Nat := none
  nextPt : Option Nat := none
  /-- a talker's frames still to send, and when its pacing lets the next packet go -/
  frames : List TalkFrame := []
  nextAt : Nat := 0
  /-- a listener's written slots that are not signalled yet; whether the stream takes nothing more -/
  unsignalled : List Nat := []
  ended : Bool := false
deriving DecidableEq, Repr

/-- The discipline of the time counter beyond its registers (R594, R595): Syncs in a row within 100 ns, when the last Sync
came, when holdover began, and whether the first ACQUIRING has been entered and left. -/
structure TimeSt where
  run : Nat := 0
  lastSync : Nat := 0
  holdSince : Nat := 0
  entered : Bool := false
  left : Bool := false
deriving DecidableEq, Repr

/-! ### Ihlique links (spec/12) -/

/-- An Ihlique port beyond its registers (R607 to R616). -/
structure IqlPort where
  /-- the credit held for each virtual channel, and that owed to the peer, in 64-byte units (R615) -/
  credit : List Nat := []
  owed : List Nat := []
  txSeq : Nat := 0
  rxSeq : Nat := 0
  replay : List (Nat × Nat × Packet) := []
  traffic : List (Nat × Packet) := []
  retraining : Bool := false
  keyPhase : Bool := false
  key : Nat := 0
  oldKey : Option Nat := none
  /-- when the key last changed (R612) -/
  rekeyAt : Nat := 0
  frames : Nat := 0
  /-- frames received since the keys were established or last changed (R612) -/
  rxFrames : Nat := 0
  failRun : Nat := 0
  expectDevice : Option Nat := none
  /-- the lane pair that has failed (R791) -/
  pairBad : Option Nat := none
deriving DecidableEq, Repr

/-- A transaction index (R629, R630). -/
structure Txn where
  busy : Bool := false
  gen : Nat := 0
  dst : Nat := 0
  port : Nat := 0
  sentAt : Nat := 0
  purpose : Purpose := .none
  typ : Nat := 0
  laddr : Nat := 0
deriving DecidableEq, Repr

/-- What leaves the device. -/
inductive Msg where
  /-- a frame, and the AN, packet number and SCI of its SecTAG where MACsec protects it (R561, R562) -/
  | eth (port : Nat) (f : Frame) (sec : Option (Nat × Nat × W64))
  | wakePulse (port : Nat)
  | iql (port vc seq : Nat) (keyPhase : Bool) (p : Packet)
  | iqlReplayReq (port seq : Nat)
  | recovery (data : List Byte)
  | tray (data : List Byte)
  /-- an in-band interrupt for a bit of TRAY_IBI_CAUSE -/
  | ibi (bit : Nat)
  /-- an AVSBus command that sets the arithmetic rail, in mV (R687, R688) -/
  | avs (mv : Nat)
deriving DecidableEq, Repr

/-! ### The whistle (spec/14) -/

/-- A change that takes effect through the whistle (R729). -/
inductive Change where
  | layout | fmtDefault | scrubMode | sdMap | fixedMode | issueLimit | rampCycles
deriving DecidableEq, Repr

/-- A write that waits for a whistle: what it changes, the register values it brings, by `Reg.key`, and whether it locks MODE of
FLD_SCRUB_CFG once they are taken (R15). -/
structure Pending where
  change : Change
  vals : List (Nat × W64)
  lock : Bool := false
deriving DecidableEq, Repr

/-- The whistle: the writes it carries, the participants that have not reported, the partitions whose layout it changes, when
it began, and the writes for the next one (R729 to R731). -/
structure Whistle where
  active : Bool := false
  carries : List Pending := []
  waiting : List Nat := []
  parts : List Nat := []
  began : Nat := 0
  next : List Pending := []
deriving DecidableEq, Repr

/-! ### Power (spec/14) -/

/-- A huddle (R696, R697): TARGET, the agents yet to answer and those that delay, by block index, and each agent's DELAYs. -/
structure Huddle where
  target : Nat
  asked : List Nat
  delayed : List Nat := []
  delays : SMap Nat := []
deriving DecidableEq, Repr

/-- The power controller beyond its registers. -/
structure Power where
  /-- the always-on domain runs: the device is not OFF -/
  on : Bool := false
  /-- ceilings of the domains and of the always-on domain, and the courts' field issue shares, in mW (R676, R839) -/
  ceilings : List Nat := (List.replicate 16 7625) ++ (List.replicate 4 10250) ++
    [6500, 3250, 2250, 9500, 3750, 3750, 7500, 23000, 17500, 2000]
  shares : List Nat := List.replicate 16 6875
  /-- the clock that boost asks for, and when the clock last stepped (R685, R723) -/
  goal : Nat := 1250
  stepAt : Option Nat := none
  /-- the arithmetic rail in mV: what its last AVSBus command asked for, and its target in force (R687, R688; R864: 0.75 V at first) -/
  railAsked : Nat := 750
  railMv : Nat := 750
  /-- since when nothing has kept the device out of IDLE (R695) -/
  idleSince : Option Nat := none
  huddle : Option Huddle := none
  /-- the state being entered, and whether the copy of R702 is still to be made -/
  entering : Option Nat := none
  saving : Bool := false
  /-- domains ON before an entry, those that STANDBY keeps, and those whose pads an entry latched (R679, R694, R704) -/
  before : List Nat := []
  kept : List Nat := []
  /-- domains 24 and 25 where they held a port that was ON before the entry (R680) -/
  portDoms : List Nat := []
  padsLow : List Nat := []
  /-- the bits of PWR_WAKE_CAUSE that a wake event has asked for; a wake in progress; the save area is copied back -/
  wake : Nat := 0
  waking : Bool := false
  /-- the STW_CLAIM registers that the watch state took at its entry (R708) -/
  watchClaims : List Nat := []
  /-- PWR_WATCH_CFG, _AUDIO and _SENSOR at entry, and the run of hits (R705) -/
  watch : List W64 := []
  watchRun : Nat := 0
  /-- the estimates of the running millisecond, their number, and how many samples in a row diverged (R710) -/
  estSum : Nat := 0
  estCount : Nat := 0
  diverge : Nat := 0
  /-- failed reads in a row of each regulator, and samples in a row without one (R711) -/
  fails : SMap Nat := []
  good : Nat := 0
  /-- the last 100 samples: M in mW and the mean estimate in µW (R712), newest first -/
  ratios : List (Nat × Nat) := []
  /-- control ticks, newest first: end, length in ns, trusted power in mW (R713) -/
  hist : List (Nat × Nat × Nat) := []
  /-- when the last fit began, whether it runs, and its samples in a row within 5 % (R719) -/
  fitAt : Nat := 0
  fitting : Bool := false
  fitRun : Nat := 0
  /-- since when a reading has been hot, and since when all have been cool (R725) -/
  hotSince : Option Nat := none
  coolSince : Option Nat := none
  /-- fixed-frequency mode: the number of the last window that held an excess (R722) -/
  winHit : Option Nat := none
  /-- CLK_REQ_N is high; THERMTRIP_N is asserted; PWR_FAIL_N is low -/
  clkReqHigh : Bool := false
  thermtrip : Bool := false
  failLow : Bool := false
deriving DecidableEq, Repr

/-! ### The steward (spec/17, spec/16) -/

/-- The tray controller's registers beyond what other registers give (R852). -/
structure Tray where
  ibiEn : Nat := 0
  ibiCause : Nat := 0
  keyData : List W64 := [0, 0, 0, 0, 0, 0]
  keyStatus : W16 := 0
  /-- the dynamic address, once assigned -/
  dynAddr : Option Nat := none
deriving DecidableEq, Repr

/-- The states of a test access port (IEEE 1149.1). -/
inductive TapState where
  | reset | idle
  | selectDr | captureDr | shiftDr | exit1Dr | pauseDr | exit2Dr | updateDr
  | selectIr | captureIr | shiftIr | exit1Ir | pauseIr | exit2Ir | updateIr
deriving DecidableEq, Repr

/-- The test access port (R877): its state, instruction, shift register, boundary register in force, and TDO, none at high-Z. -/
structure Tap where
  st : TapState := .reset
  ir : Nat := 2
  shift : List Bool := []
  boundary : List Bool := []
  tdo : Option Bool := none
deriving DecidableEq, Repr

/-- A claim: the STW_CLAIM register, FUNCTION and OWNER (R834). -/
structure ClaimRec where
  k : Nat
  fn : Nat
  owner : Nat
deriving DecidableEq, Repr

/-- An UPDATE whose image has passed verification: the image, and the nanoseconds until it has been programmed (R824). -/
structure FlashUpdate where
  image : List Byte
  left : Nat
deriving DecidableEq, Repr

/-- The steward: flash, fuses, what the data region keeps (its layout is not stated), straps, the records in force, and the
recovery service. -/
structure Steward where
  /-- flash bytes by offset; unlisted: 0xFF, erased -/
  flash : SMap Byte := []
  /-- anti-rollback fuses blown (R816) -/
  fuses : Nat := 0
  /-- EPOCH (R640) and the boots in a row that the watchdog ended (R818) -/
  epoch : Nat := 0
  misses : Nat := 0
  /-- the two flush regions, none while erased, and the region flushed last (R802) -/
  flushed : List (Option (SMap W64)) := [none, none]
  lastFlush : Option Nat := none
  /-- straps as sampled (R861) -/
  force : Bool := false
  role : Bool := false
  addr : Nat := 0
  /-- the records in force (R826, R840), and the registers as the configuration record set them (R761) -/
  cfg : List Byte := []
  cal : List Byte := []
  bootRegs : SMap W64 := []
  claims : List ClaimRec := []
  /-- the regulators of the record: bus, address, page, rail (R828) -/
  regulators : List Nat := []
  /-- a chip-level recovery has occurred since boot -/
  recovered : Bool := false
  /-- the recovery service: the last request's SEQ and its response (R823) -/
  lastSeq : Option Nat := none
  lastRsp : List Byte := []
  /-- when the freeze began; the flush in progress: its region (R800, R801) -/
  frozenAt : Nat := 0
  flushRegion : Option Nat := none
  /-- a cause of R801 whose flush has not begun -/
  flushDue : Option Nat := none
  /-- the capture slot written last (R804) -/
  newer : Nat := 0
  /-- the queue pairs of the configuration record (R599, R831), and the Ihlique peers that it expects (R832) -/
  cfgQps : List (Nat × Qp) := []
  /-- STW_KEY_DATA, which reads 0 (R853) -/
  keyData : List W64 := [0, 0, 0, 0, 0, 0, 0]
  /-- the host timers whose alarm has been reached (R834) -/
  alarmed : List Nat := []
  /-- the UPDATE that runs (R824, R825) -/
  update : Option FlashUpdate := none
  /-- the boot restarts without a power-on reset (R822) -/
  restart : Bool := false
  tray : Tray := {}
  tap : Tap := {}
deriving DecidableEq, Repr

/-! ### Recovery (spec/15) -/

/-- A suspect (R751): its queue, whether its budget ran out, its first start, the end of its budget, whether it has been judged,
and what its first run read that a replay reads no more (R755). -/
structure Suspect where
  q : Nat
  overran : Bool
  began : Nat
  budgetEnd : Nat
  judged : Bool := false
  replaySafe : Bool := true
  words : List W64 := []
  units : List ResetUnit := []
deriving DecidableEq, Repr

/-- A recovery in progress: its level (0 context, 1 engine, 2 partition, 3 chip), when the level began, the units that it resets,
its suspects in submission order, the other commands in flight, the writes dropped at each unit (R747), the suspect being replayed
and when a replay's stop began. -/
structure Recovery where
  id : Nat
  level : Nat
  since : Nat
  units : List ResetUnit := []
  /-- the units whose failure started it (R752) -/
  first : List ResetUnit := []
  suspects : List Suspect := []
  others : List Nat := []
  drained : Bool := false
  ended : Bool := false
  replay : Option Nat := none
  guilty : Bool := false
  dropped : List (ResetUnit × Nat) := []
  stopAt : Nat := 0
  cause : Nat := 0
deriving DecidableEq, Repr

/-- What the referee keeps beyond recoveries: the next recovery's number, transients with their units and time, the starts of
chip-level recoveries, their number, whether the front end ran round-robin at the last one, and a power cycle: its case once
asked for, and whether the device has stopped for it. -/
structure Referee where
  nextId : Nat := 0
  transients : List (Nat × List ResetUnit) := []
  chipTimes : List Nat := []
  chipSeq : Nat := 0
  modeBefore : Nat := 0
  cycleDue : Option Nat := none
  cycling : Bool := false
deriving DecidableEq, Repr

/-- What a management command that has not completed waits for (R576, R696, R824). -/
inductive MgmtWait where
  | huddle
  | update
  | revoke (key : Nat)
  | answered (status : W16)
deriving DecidableEq, Repr

/-- A SEND of management requests in progress: its queue pair, the bytes of the requests not yet answered, the responses so far,
and what the first of those requests waits for (R577). -/
structure MgmtJob where
  qp : Nat
  todo : List Byte
  done : List Byte := []
  wait : Option MgmtWait := none
deriving DecidableEq, Repr

/-! ### The event recorder (spec/16) -/

/-- The token bucket of a limited code (R798): the tokens taken from it, since when those return, the part of a token that had returned
by then, and what it has suppressed since the time `first`. -/
structure Bucket where
  used : Nat := 0
  suppressed : Nat := 0
  first : Nat := 0
  since : Nat := 0
  part : Nat := 0
deriving DecidableEq, Repr

/-- A bucket at `now`, with the tokens back that RATE per second gives (R798). -/
def Bucket.back (b : Bucket) (now rate : Nat) : Bucket :=
  let k := (now - b.since) * rate + b.part
  if b.used ≤ k / 1000000000 then { b with used := 0, since := 0, part := 0 }
  else { b with used := b.used - k / 1000000000, since := now, part := k % 1000000000 }

end Sys2Proof.Machine
end

