-- ==== Sys2Proof/Machine/State.lean ====
section
/-! DEFINITION. The state of the device, the reasons a step can stop, and the state after reset. -/

namespace Sys2Proof.Machine

/-- The state. Every map reads its default where nothing is listed. -/
structure State where
  /-- register values by `Reg.key`; unlisted: the reset value of RegTable -/
  regs : SMap W64
  /-- register values written and not yet in force, by `Reg.key` -/
  staged : SMap (Option W64)
  /-- composer register values in force at the last frame boundary, by `Reg.key` -/
  active : SMap (Option W64)
  /-- local memory (R34): unlisted bytes read 0 (log 4) -/
  mem : SMap Byte
  /-- lines of 128 bytes that hold an uncorrectable error (R437) -/
  ue : List Nat
  /-- lines of 128 bytes that hold a correctable error (R435) -/
  ce : List Nat
  /-- the wrong bytes of a line's codeword, by offset, while its error is in the DRAM array (R430, R434) -/
  altered : SMap (List Nat)
  /-- lines that the system cache holds newer than DRAM does (R446) -/
  dirty : SMap Bool
  /-- uncorrectable lines whose contents the system cache lost (R439) -/
  lost : List Nat
  /-- local addresses offered for repair (R436, R785) -/
  repairs : List Nat
  /-- lines corrected in the last 24 hours, with the time (R785) -/
  ceLog : List (Nat × Nat)
  /-- corrections in the system cache in the last 24 hours: slice and way, as 16 × slice + way, with the time (R776) -/
  scLog : List (Nat × Nat)
  /-- rows remapped by their controllers: channel, or 64 + LPDDR5X controller, and row (R785, R787) -/
  rowMaps : List (Nat × Nat)
  /-- how far the patrol has come through the lines of both DRAMs (R438) -/
  patrol : Nat
  /-- repairs made and not yet journalled (R792) -/
  journalDue : List Repair
  tlb : List TlbEntry
  walks : List WalkEntry
  merge : List MergeEntry
  ctxs : SMap Ctx
  queues : SMap Queue
  /-- submissions so far (R533) and starts so far (R518) -/
  subSeq : Nat
  startSeq : Nat
  /-- the start number last made by each slot (R518) -/
  slotLast : SMap Nat
  /-- the next slot of the doorbell ring -/
  doorSlot : Nat
  /-- round-robin: the slot visited and when its visit's first start was (R523) -/
  rrSlot : Nat
  rrSince : Option Nat
  courts : SMap Court
  /-- by partition -/
  fields : SMap FieldPart
  quarters : SMap Quarter
  cores : SMap Core
  /-- running LAUNCH commands by queue, blocks by `queue * 2^32 + block`, groups by `(queue * 2^32 + block) * 32 + group` -/
  launches : SMap (Option Launch)
  blocks : SMap (Option Block)
  groups : SMap (Option Group)
  /-- by front end -/
  passes : SMap (Option Pass)
  /-- composer pipes and DisplayPort transmitters -/
  pipes : SMap Pipe
  dp : SMap DpTx
  /-- the state records that the compression engine has written (R666; log 46) -/
  streamStates : List StreamState
  /-- the raster front ends' domain stops once they are idle (R51) -/
  rasterLeaving : Bool
  /-- when the last heavy phase ended, while its voltage offset still stands (R689) -/
  heavyEnd : Option Nat
  /-- the stacked DRAM is being zeroed under a new map (R426) -/
  zeroing : Bool
  /-- inspections queued and running, oldest first (R776) -/
  inspects : List Inspect
  /-- when a unit was last inspected, by `KIND * 65536 + unit * 16 + way` (R776) -/
  inspected : SMap (Option Nat)
  eth : SMap EthPort
  qps : SMap Qp
  keys : SMap Key
  streams : SMap Stream
  time : TimeSt
  iql : SMap IqlPort
  txns : SMap Txn
  txWait : List (Packet × Purpose)
  /-- reads of other devices' memory that steps of units wait for (log 32) -/
  far : List FarRead
  /-- during a step of a unit: the unit, what it still lacks, and whether it lacks anything -/
  farUnit : Option Nat
  farMiss : List (Nat × Nat × Nat)
  farLack : Bool
  whistle : Whistle
  buckets : SMap Bucket
  /-- records not written since the freeze or flush began (R800) -/
  unwritten : Nat
  flushing : Bool
  /-- SENDs of management requests in progress, oldest first (R577) -/
  jobs : List MgmtJob
  power : Power
  stw : Steward
  recoveries : List Recovery
  referee : Referee
  /-- what has left the device, oldest first -/
  outbox : List Msg
  /-- the model's own: the status of the last management command (log 7) -/
  mgmt : W16
  /-- the model's own: the number of free values taken (log 8) -/
  free : Nat
  /-- the commands that wait, first in, first out -/
  pending : List Instr
deriving DecidableEq, Repr

/-- Why the device stops. -/
inductive Fault where
  /-- Raised by no meaning: every fault of the spec is a completion status, a NAK, an event or a state of the device. Safe. -/
  | none
deriving DecidableEq, Repr

/-- Why a command has no meaning. -/
inductive Refusal where
  /-- Raised by a dispatch arm whose command has no meaning yet. Safe: nothing can be proved of it. -/
  | notModelled (mnemonic : String)
deriving DecidableEq, Repr

/-- The outcome of a command. -/
abbrev Out := Host.Outcome State Fault Refusal

/-- The device after a power-on reset, before BOOT. -/
def State.reset : State where
  regs := []
  staged := []
  active := []
  mem := []
  ue := []
  ce := []
  altered := []
  dirty := []
  lost := []
  repairs := []
  ceLog := []
  scLog := []
  rowMaps := []
  patrol := 0
  journalDue := []
  tlb := []
  walks := []
  merge := []
  ctxs := []
  queues := []
  subSeq := 0
  startSeq := 0
  slotLast := []
  doorSlot := 0
  rrSlot := 0
  rrSince := none
  courts := []
  fields := []
  quarters := []
  cores := []
  launches := []
  blocks := []
  groups := []
  passes := []
  pipes := []
  dp := []
  streamStates := []
  rasterLeaving := false
  heavyEnd := none
  zeroing := false
  inspects := []
  inspected := []
  eth := []
  qps := []
  keys := []
  streams := []
  time := {}
  iql := []
  txns := []
  txWait := []
  far := []
  farUnit := none
  farMiss := []
  farLack := false
  whistle := {}
  buckets := []
  unwritten := 0
  flushing := false
  jobs := []
  power := {}
  stw := {}
  recoveries := []
  referee := {}
  outbox := []
  mgmt := 0
  free := 0
  pending := []

end Sys2Proof.Machine
end

