-- ==== Sys2Proof/Machine/Ops.lean ====
section
/-! DEFINITION. The named operations over registers, memory and the numbered parts, which every meaning uses. -/

namespace Sys2Proof.Machine

open Sys2Proof.Machine.Reg (Field)

/-! ### Registers (spec/00_scope.md R12 to R16) -/

/-- The row of a register family. -/
def regDesc (fam : Nat) : RegDesc :=
  (regTable[fam]?).getD { name := "", addr := 0, width := 64, n1 := 0, st1 := 0, n2 := 0, st2 := 0, rw := 0, wo := 0,
                          w1c := 0, w1s := 0, rwl := 0, loaded := 0, reset := 0 }

/-- The reset value of a register key. -/
def regReset (key : Nat) : W64 := (regDesc (key / 65536)).reset

/-- The value of register `i` of a family. -/
def State.rd (s : State) (fam : Nat) (i : Nat := 0) : W64 :=
  SMap.get (regReset (Reg.key fam i)) s.regs (Reg.key fam i)

/-- Register `i` of a family set to a value, whatever its access codes. -/
def State.wr (s : State) (fam : Nat) (i : Nat) (v : W64) : State :=
  { s with regs := SMap.set (regReset (Reg.key fam i)) s.regs (Reg.key fam i) v }

/-- A field of register `i`. -/
def State.fld (s : State) (f : Field) (i : Nat := 0) : Nat := bitsOf (s.rd f.fam i) f.hi f.lo

/-- A field of register `i` set. -/
def State.setFld (s : State) (f : Field) (i : Nat) (x : Nat) : State :=
  s.wr f.fam i (putBits (s.rd f.fam i) f.hi f.lo x)

/-- A counter field raised by `n`; it wraps at its width. -/
def State.bump (s : State) (f : Field) (i : Nat := 0) (n : Nat := 1) : State := s.setFld f i (s.fld f i + n)

/-- A counter field raised by 1 that saturates at its largest value (R475). -/
def State.bumpSat (s : State) (f : Field) (i : Nat := 0) : State :=
  if s.fld f i + 1 < 2 ^ (f.hi + 1 - f.lo) then s.setFld f i (s.fld f i + 1) else s

/-- Network time: the value of TIM_NOW_NS, in nanoseconds (R592). -/
def State.now (s : State) : Nat := s.fld F.timNowNsNs

/-- A nanosecond passes (log 2). -/
def tick (s : State) : State := s.bump F.timNowNsNs

/-- The value staged for a register, or the one in force. -/
def State.rdStaged (s : State) (fam : Nat) (i : Nat := 0) : W64 :=
  (SMap.get none s.staged (Reg.key fam i)).getD (s.rd fam i)

/-- A value staged for a register. -/
def State.stage (s : State) (fam i : Nat) (v : W64) : State :=
  { s with staged := SMap.set none s.staged (Reg.key fam i) (some v) }

/-- A register's staged value comes into force. -/
def State.unstage (s : State) (fam i : Nat) : State :=
  let s := s.wr fam i (s.rdStaged fam i)
  { s with staged := SMap.set none s.staged (Reg.key fam i) none }

/-- A register's staged value is dropped. -/
def State.dropStaged (s : State) (fam i : Nat) : State :=
  { s with staged := SMap.set none s.staged (Reg.key fam i) none }

/-- What a write of `v` leaves in a register by its access codes (R14): RW and WO fields take the value, W1C bits clear, W1S
bits set, and RWL fields take the value unless the lock is set. RO and RSV fields keep theirs; a WO field reads 0, so it
keeps 0. -/
def applyWrite (d : RegDesc) (old v : W64) (locked : Bool) : W64 :=
  let m := if locked then d.rw else d.rw ||| d.rwl
  let x := (old &&& ~~~m) ||| (v &&& m)
  (x &&& ~~~(v &&& d.w1c)) ||| (v &&& d.w1s)

/-- A plain write of register `i` by its access codes. -/
def State.wrPlain (s : State) (fam i : Nat) (v : W64) (locked : Bool := false) : State :=
  s.wr fam i (applyWrite (regDesc fam) (s.rd fam i) v locked)

/-- Every register of a family back at its reset value. -/
def State.resetFam (s : State) (fam : Nat) : State :=
  { s with regs := SMap.clear s.regs (Reg.key fam 0) (Reg.key (fam + 1) 0) }

/-- The registers in `list` back at their reset values. -/
def State.resetFams (s : State) (fams : List Nat) : State := fams.foldl State.resetFam s

/-- The register that a local address names: its family, number and whether the access is exactly the register's width and
aligned. `none`: no register is touched. -/
def findReg (a bytes : Nat) : Option (Nat × Nat × Bool) :=
  let hit (fam : Nat) (d : RegDesc) : Option (Nat × Nat × Bool) :=
    let w := d.width / 8
    if a + bytes ≤ d.addr then none
    else
      let find (b : Nat) : Option (Nat × Nat × Bool) :=
        if b < d.addr then none
        else
          let o := b - d.addr
          let i1 := if d.st1 = 0 then 0 else min (o / d.st1) (d.n1 - 1)
          let o1 := o - i1 * d.st1
          let i2 := if d.st2 = 0 then 0 else min (o1 / d.st2) (d.n2 - 1)
          let o2 := o1 - i2 * d.st2
          if o2 < w then some (fam, i1 * d.n2 + i2, decide (b = a ∧ o2 = 0 ∧ bytes = w)) else none
      (List.range bytes).findSome? (fun k => find (a + k))
  let rec go (fam : Nat) : List RegDesc → Option (Nat × Nat × Bool)
    | [] => none
    | d :: ds => match hit fam d with
      | some r => some r
      | none => go (fam + 1) ds
  go 0 regTable

/-- The value of a composer register in force since the last frame boundary: its reset value before the first (R380). -/
def State.rdActive (s : State) (fam : Nat) (i : Nat := 0) : W64 :=
  (SMap.get none s.active (Reg.key fam i)).getD (regReset (Reg.key fam i))

/-- A field of it. -/
def State.fldActive (s : State) (f : Field) (i : Nat := 0) : Nat := bitsOf (s.rdActive f.fam i) f.hi f.lo

/-- A composer register's written value comes into force. -/
def State.latch (s : State) (fam i : Nat) : State :=
  { s with active := SMap.set none s.active (Reg.key fam i) (some (s.rd fam i)) }

/-! ### Free values -/

/-- A free value, and the state that has taken it (log 8). -/
def State.fresh (s : State) : W64 × State := (Config.freeValue s.free, { s with free := s.free + 1 })

/-! ### Local memory (R34 to R37) -/

/-- Whether inline ECC is on (R35, R475). -/
def State.eccOn (s : State) : Bool := s.fld F.memCfgInlineEcc = 1

/-- Usable LPDDR5X and stacked DRAM: the local addresses that contexts may reach (R34, R35, R37). -/
def State.usable (s : State) (a : Nat) : Bool :=
  if s.eccOn then decide (a < 0x3BC0000000 ∨ (0x4000000000 ≤ a ∧ a < 0x4800000000))
  else decide (a < 0x3FC0000000 ∨ (0x4000000000 ≤ a ∧ a < 0x4800000000))

/-- Local memory the device itself may read or write: the state capture region too (R36). -/
def State.exists? (s : State) (a : Nat) : Bool :=
  if s.eccOn then decide (a < 0x3C00000000 ∨ (0x4000000000 ≤ a ∧ a < 0x4800000000))
  else decide (a < 0x4000000000 ∨ (0x4000000000 ≤ a ∧ a < 0x4800000000))

/-- The first byte of the state capture region (R34, R35). -/
def State.captureBase (s : State) : Nat := if s.eccOn then 0x3BC0000000 else 0x3FC0000000

/-- The canonical form of memory: rising addresses, and no byte listed that reads as an unlisted one does (log 4). -/
abbrev Memory.wf (m : SMap Byte) : Bool := SMap.wf 0 m

/-- The byte at a local address. -/
def State.byte (s : State) (a : Nat) : Byte := SMap.get 0 s.mem a

/-- The `n` bytes from a local address. -/
def State.bytes (s : State) (a n : Nat) : List Byte := tabulate n (fun i => s.byte (a + i))

/-- The `n` bytes from a local address as a little-endian number (R8). -/
def State.readNat (s : State) (a n : Nat) : Nat := leNat (s.bytes a n)

/-- The 64-bit word at a local address. -/
def State.word (s : State) (a : Nat) : W64 := BitVec.ofNat 64 (s.readNat a 8)

/-- A byte stored at a local address: the system cache holds its line newer than DRAM does until it writes it back (R446; log 108). -/
def State.setByte (s : State) (a : Nat) (b : Byte) : State :=
  { s with mem := SMap.set 0 s.mem a b, dirty := SMap.set false s.dirty (a / 128) true }

/-- Bytes stored from a local address, in ascending order. -/
def State.setBytes (s : State) (a : Nat) : List Byte → State
  | [] => s
  | b :: bs => (s.setByte a b).setBytes (a + 1) bs

/-- A number stored as `n` little-endian bytes. -/
def State.setNat (s : State) (a n v : Nat) : State := s.setBytes a (leBytes n v)

/-- The 64-bit words stored from a local address. -/
def State.setWords (s : State) (a : Nat) (ws : List W64) : State :=
  s.setBytes a ((ws.map (fun w => leBytes 8 w.toNat)).flatten)

/-- The lines of 128 bytes that `n` bytes from `a` touch. -/
def linesOf (a n : Nat) : List Nat :=
  if n = 0 then [] else (List.range ((a + n - 1) / 128 - a / 128 + 1)).map (fun i => a / 128 + i)

/-- The errors of the lines that satisfy a test are gone: they have been written whole, or hold nothing any more (R437). -/
def State.mend (s : State) (p : Nat → Bool) : State :=
  { s with
    ue := s.ue.filter (fun l => !p l)
    ce := s.ce.filter (fun l => !p l)
    altered := s.altered.filter (fun kv => !p kv.1)
    lost := s.lost.filter (fun l => !p l) }

/-- Whether any line of the range holds an uncorrectable error. -/
def State.bad (s : State) (a n : Nat) : Bool := (linesOf a n).any (fun l => s.ue.contains l)

/-! ### The numbered parts -/

def State.ctx (s : State) (i : Nat) : Ctx := SMap.get {} s.ctxs i
def State.setCtx (s : State) (i : Nat) (c : Ctx) : State := { s with ctxs := SMap.set {} s.ctxs i c }
def State.queue (s : State) (i : Nat) : Queue := SMap.get {} s.queues i
def State.setQueue (s : State) (i : Nat) (q : Queue) : State := { s with queues := SMap.set {} s.queues i q }
def State.court (s : State) (i : Nat) : Court := SMap.get {} s.courts i
def State.setCourt (s : State) (i : Nat) (c : Court) : State := { s with courts := SMap.set {} s.courts i c }
def State.field (s : State) (p : Nat) : FieldPart := SMap.get {} s.fields p
def State.setField (s : State) (p : Nat) (f : FieldPart) : State := { s with fields := SMap.set {} s.fields p f }
def State.quarter (s : State) (i : Nat) : Quarter := SMap.get {} s.quarters i
def State.setQuarter (s : State) (i : Nat) (q : Quarter) : State := { s with quarters := SMap.set {} s.quarters i q }
def State.core (s : State) (i : Nat) : Core := SMap.get {} s.cores i
def State.setCore (s : State) (i : Nat) (c : Core) : State := { s with cores := SMap.set {} s.cores i c }
def State.launch (s : State) (q : Nat) : Option Launch := SMap.get none s.launches q
def State.setLaunch (s : State) (q : Nat) (l : Option Launch) : State := { s with launches := SMap.set none s.launches q l }
def State.block (s : State) (i : Nat) : Option Block := SMap.get none s.blocks i
def State.setBlock (s : State) (i : Nat) (b : Option Block) : State := { s with blocks := SMap.set none s.blocks i b }
def State.group (s : State) (i : Nat) : Option Group := SMap.get none s.groups i
def State.setGroup (s : State) (i : Nat) (g : Option Group) : State := { s with groups := SMap.set none s.groups i g }
def State.pass (s : State) (i : Nat) : Option Pass := SMap.get none s.passes i
def State.setPass (s : State) (i : Nat) (p : Option Pass) : State := { s with passes := SMap.set none s.passes i p }
def State.pipe (s : State) (i : Nat) : Pipe := SMap.get {} s.pipes i
def State.setPipe (s : State) (i : Nat) (p : Pipe) : State := { s with pipes := SMap.set {} s.pipes i p }
def State.dpTx (s : State) (i : Nat) : DpTx := SMap.get {} s.dp i
def State.setDpTx (s : State) (i : Nat) (t : DpTx) : State := { s with dp := SMap.set {} s.dp i t }
def State.ethPort (s : State) (i : Nat) : EthPort := SMap.get {} s.eth i
def State.setEthPort (s : State) (i : Nat) (p : EthPort) : State := { s with eth := SMap.set {} s.eth i p }
def State.qp (s : State) (i : Nat) : Qp := SMap.get {} s.qps i
def State.setQp (s : State) (i : Nat) (q : Qp) : State := { s with qps := SMap.set {} s.qps i q }
def State.key (s : State) (i : Nat) : Key := SMap.get {} s.keys i
def State.setKey (s : State) (i : Nat) (k : Key) : State := { s with keys := SMap.set {} s.keys i k }
def State.stream (s : State) (i : Nat) : Stream := SMap.get {} s.streams i
def State.setStream (s : State) (i : Nat) (x : Stream) : State := { s with streams := SMap.set {} s.streams i x }
def State.iqlPort (s : State) (i : Nat) : IqlPort := SMap.get {} s.iql i
def State.setIqlPort (s : State) (i : Nat) (p : IqlPort) : State := { s with iql := SMap.set {} s.iql i p }
def State.txn (s : State) (i : Nat) : Txn := SMap.get {} s.txns i
def State.setTxn (s : State) (i : Nat) (t : Txn) : State := { s with txns := SMap.set {} s.txns i t }

/-- A message leaves the device. -/
def State.emit (s : State) (m : Msg) : State := { s with outbox := s.outbox ++ [m] }

/-! ### Status codes (R17) and handles (R478) -/

/-- The status codes of R17. -/
abbrev stOk : W16 := 0x0000
abbrev stAborted : W16 := 0x0001
abbrev stTimeout : W16 := 0x0002
abbrev stContextLost : W16 := 0x0003
abbrev stXlateFault : W16 := 0x0004
abbrev stAccessFault : W16 := 0x0005
abbrev stDeadlock : W16 := 0x0006
abbrev stFenceAbandoned : W16 := 0x0007
abbrev stReplayGuilty : W16 := 0x0008
abbrev stResetVictim : W16 := 0x0009
abbrev stHostlost : W16 := 0x000A
abbrev stDataError : W16 := 0x000B
abbrev stInvalid : W16 := 0x000C
abbrev stBusy : W16 := 0x000D
abbrev stBarrierStall : W16 := 0x000E
abbrev stPartitionReset : W16 := 0x000F
abbrev stUnsupported : W16 := 0x0010
/-- What the referee asks of a command that it stops (R743, R746): no status of the device. -/
abbrev stRefStop : W16 := 0xFFFF

/-- Whether a status loses the context (R17). -/
def losesContext (st : W16) : Bool :=
  decide (st ∈ ([stTimeout, stContextLost, stXlateFault, stAccessFault, stDeadlock, stReplayGuilty, stResetVictim,
    stDataError, stBarrierStall] : List W16))

/-- The index of a context handle (R478). -/
def hIndex (h : W32) : Nat := bitsOf h 11 0
/-- The generation of a context handle (R478). -/
def hGen (h : W32) : Nat := bitsOf h 31 12
/-- The handle of a context index and generation (R478). -/
def mkHandle (idx gen : Nat) : W32 := BitVec.ofNat 32 (gen * 4096 + idx)
/-- The index of a queue handle (R478). -/
def qIndex (h : W32) : Nat := bitsOf h 13 0
/-- The generation of a queue handle (R478). -/
def qGen (h : W32) : Nat := bitsOf h 31 14
/-- The handle of a queue index and generation (R478). -/
def mkQHandle (idx gen : Nat) : W32 := BitVec.ofNat 32 (gen * 16384 + idx)

/-- The generation after `g` in a field of `w` bits: 1 after the largest (R479). -/
def nextGen (w g : Nat) : Nat := if g + 1 < 2 ^ w then g + 1 else 1

/-- Whether a context handle names nothing (R480). -/
def State.staleCtx (s : State) (h : W32) : Bool :=
  let c := s.ctx (hIndex h)
  decide (c.state = .free ∨ c.gen ≠ hGen h ∨ hGen h = 0)

/-- Whether a queue handle names nothing (R480). -/
def State.staleQueue (s : State) (h : W32) : Bool :=
  let q := s.queue (qIndex h)
  decide (q.state = .free ∨ q.gen ≠ qGen h ∨ qGen h = 0)

/-- The handle in force at a context index. -/
def State.handleOf (s : State) (i : Nat) : W32 := mkHandle i (s.ctx i).gen

end Sys2Proof.Machine
end

