-- ==== Sys2Proof/Machine/Net.lean ====
section
/-! DEFINITION. Frames and requests: what a port is offered, and what a queue pair sends and keeps (spec/11). -/

namespace Sys2Proof.Machine

/-- Port states (R375, R551, R607, R651, R677). -/
abbrev lcOff : Nat := 0
abbrev lcStarting : Nat := 1
abbrev lcOn : Nat := 2
abbrev lcStopping : Nat := 3
abbrev lcPendingOn : Nat := 4
abbrev lcPendingOff : Nat := 5

/-- A frame is offered to port `p`: dropped and counted with the link down (R553), held while the link sleeps after a TC10
wake-up (R555), else queued by its PCP (R559). A port that is not ON takes no frame (R551). -/
def offerFrame (s : State) (p : Nat) (f : Frame) : State :=
  if s.fld F.ethPortStatusState p ≠ lcOn then s
  else if s.fld F.ethPortStatusAsleep p = 1 then
    let e := s.ethPort p
    (s.setEthPort p { e with held := e.held ++ [(s.now, f)] }).emit (.wakePulse p)
  else if s.fld F.ethPortStatusLinkUp p = 0 then s.bump F.ethTxDropsCount p
  else
    let e := s.ethPort p
    s.setEthPort p { e with egress := e.egress ++ [f] }

/-- A RoCEv2 frame of queue pair `i`, tagged as its record says (R558). -/
def qpFrame (s : State) (i : Nat) (b : FrameBody) : State :=
  let q := s.qp i
  offerFrame s q.port { cls := 0, pcp := q.pcp, vid := q.vid, body := b }

/-- The path MTU of a queue pair in bytes (R567). -/
def Qp.mtuBytes (q : Qp) : Nat := 1024 * 2 ^ q.mtu

/-- A SEND of this device on queue pair `i`; it awaits its acknowledgement. -/
def qpSend (s : State) (i : Nat) (data : List Byte) (p : Purpose) : State :=
  let q := s.qp i
  let b := FrameBody.send i q.spsn data
  let s := s.setQp i { q with spsn := (q.spsn + 1) % 2 ^ 24,
                              reqs := q.reqs ++ [{ psn := q.spsn, body := b, purpose := p, retries := q.retry,
                                                   rnrRetries := q.rnrRetry }] }
  qpFrame s i b

/-- An RDMA WRITE of this device on queue pair `i`, one packet for each MTU; the last carries the purpose. `fuel` bounds the
packets. -/
def qpWrite (fuel : Nat) (s : State) (i : Nat) (rkey : W32) (va : Nat) (data : List Byte) (p : Purpose) : State :=
  match fuel with
  | 0 => s
  | fuel + 1 =>
    let q := s.qp i
    let chunk := data.take q.mtuBytes
    let rest := data.drop q.mtuBytes
    let b := FrameBody.write i q.spsn rkey (BitVec.ofNat 64 va) chunk
    let pp := if rest.isEmpty then p else Purpose.none
    let s := s.setQp i { q with spsn := (q.spsn + 1) % 2 ^ 24,
                                reqs := q.reqs ++ [{ psn := q.spsn, body := b, purpose := pp, retries := q.retry,
                                                     rnrRetries := q.rnrRetry }] }
    let s := qpFrame s i b
    if rest.isEmpty then s else qpWrite fuel s i rkey (va + chunk.length) rest p

/-- The check of R574 on a store of `n` bytes at `off` within registration `k` by the context `h` (0: the device itself). -/
def keyAllows (s : State) (k : Nat) (h : W32) (off n : Nat) : Bool :=
  let e := s.key k
  e.loaded && !e.revoking && !e.device && e.write && decide (e.owner = h) && decide (off + n ≤ e.length) &&
    decide ((s.qp e.qp).state = .rts)

/-- The queue pairs of a role that are in RTS, in ascending order. -/
def qpsOf (s : State) (role : Nat) : List Nat :=
  (s.qps.filter (fun kv => kv.2.role = role && kv.2.state = .rts)).map (·.1)

end Sys2Proof.Machine
end

