-- ==== Sys2Proof/Machine/Records.lean ====
section
/-! DEFINITION. Event records and fault records: numbered, limited, written to their ring and sent to the host
(spec/16 R796 to R801, spec/15 R769). -/

namespace Sys2Proof.Machine

/-- Whether an event code is limited by a token bucket (R797). -/
def eventLimited (code : Nat) : Bool :=
  decide (code ∈ [0x0101, 0x0102, 0x0103, 0x0104, 0x0105, 0x0109, 0x0201, 0x0202, 0x0204, 0x0601, 0x0602, 0x0701, 0x0702,
    0x0A01, 0x0A02, 0x0A03, 0x0A04, 0x0B01, 0x0B02, 0x0B03, 0x0C01, 0x0C02, 0x0E03, 0x0E10])

/-- The four words of record number `n` (R796). -/
def eventWords (n now code : Nat) (ctx : W32) (p0 p1 : Nat) : List W64 :=
  [BitVec.ofNat 64 (code * 2 ^ 48 + n % 2 ^ 16 * 2 ^ 32 + ctx.toNat), BitVec.ofNat 64 now, BitVec.ofNat 64 p0,
   BitVec.ofNat 64 p1]

/-- The record as the 32 bytes of its SEND (R580). -/
def wordsBytes (ws : List W64) : List Byte := (ws.map (fun w => leBytes 8 w.toNat)).flatten

/-- Whether records are numbered but not written: the ring is frozen or a flush runs (R800, R801). -/
def State.recorderHeld (s : State) : Bool := s.flushing || s.fld F.evrFreezeFrozen = 1

/-- The record is sent on every EVENT queue pair (R580, R799). -/
def sendEvent (s : State) (ws : List W64) : State :=
  (qpsOf s 3).foldl (fun s i => qpSend s i (wordsBytes ws) .event) s

/-- An admitted record: it takes the next number, is written unless the ring is held, with EVENT raised (R853), and is sent
(R796, R799). -/
def putRecord (s : State) (code : Nat) (ctx : W32) (p0 p1 : Nat) : State :=
  let n := s.fld F.evrHeadCount
  let ws := eventWords n s.now code ctx p0 p1
  let s := s.bump F.evrHeadCount
  let s :=
    if s.recorderHeld then { s.bump F.evrLostCount with unwritten := s.unwritten + 1 }
    else
      let at4 := n % 1024 * 4
      let s := s.setFld F.stwIrqCauseCause 0 (s.fld F.stwIrqCauseCause ||| 2)
      (((s.wr Reg.evrRing at4 (ws.getD 0 0)).wr Reg.evrRing (at4 + 1) (ws.getD 1 0)).wr Reg.evrRing (at4 + 2)
        (ws.getD 2 0)).wr Reg.evrRing (at4 + 3) (ws.getD 3 0)
  sendEvent s ws

/-- An event: admitted, preceded by a SUPPRESSED record where one is due, or suppressed and counted (R798). -/
def event (s : State) (code : Nat) (ctx : W32 := 0) (p0 : Nat := 0) (p1 : Nat := 0) : State :=
  if eventLimited code then
    let b := (SMap.get {} s.buckets code).back s.now (s.fld F.evrCfgRate)
    if s.fld F.evrCfgBurst ≤ b.used then
      let first := if b.suppressed = 0 then s.now else b.first
      { s.bump F.evrSuppressedCount with
        buckets := SMap.set {} s.buckets code { b with suppressed := b.suppressed + 1, first := first } }
    else
      let s := { s with buckets := SMap.set {} s.buckets code { b with
          used := b.used + 1, suppressed := 0, first := 0, since := if b.used = 0 then s.now else b.since } }
      let s := if b.suppressed = 0 then s
               else putRecord s 0x0F01 0 (code * 2 ^ 32 + b.suppressed) b.first
      putRecord s code ctx p0 p1
  else putRecord s code ctx p0 p1

/-- The stacked-DRAM channel of a local address by the range map in force (R422, R423); 0 where no range covers it. -/
def sdChannel (s : State) (a : Nat) : Nat :=
  let mib2 := 0x200000
  let w := a - 0x4000000000
  let hit := (List.range 32).find? (fun i =>
    let k := ((List.range 16).filter (fun n => natBit (s.fld F.memSdRangeCourts i) n)).length
    let base := s.fld F.memSdRangeBase i * mib2
    let len := 4 * k * s.fld F.memSdRangeSize i * mib2
    decide (s.fld F.memSdRangeValid i = 1 ∧ base ≤ w ∧ w < base + len))
  match hit with
  | none => 0
  | some i =>
    let courts := (List.range 16).filter (fun n => natBit (s.fld F.memSdRangeCourts i) n)
    let chans := (courts.map (fun n => [4 * n, 4 * n + 1, 4 * n + 2, 4 * n + 3])).flatten
    let o := w - s.fld F.memSdRangeBase i * mib2
    chans.getD (o / 256 % chans.length) 0

/-- The offset on its channel of a stacked-DRAM byte within range `i` (R423). -/
def sdOffset (s : State) (i a : Nat) : Nat :=
  let courts := (List.range 16).filter (fun n => natBit (s.fld F.memSdRangeCourts i) n)
  let o := a - 0x4000000000 - s.fld F.memSdRangeBase i * 0x200000
  s.fld F.memSdRangeChoff i * 0x200000 + o / 256 / (4 * courts.length) * 256 + o % 256

/-- The LPDDR5X controller of a local address (R428). -/
def lpController (a : Nat) : Nat := (natBits a 10 8) ^^^ (natBits a 18 16) ^^^ (natBits a 26 24)

/-- The system cache slice of a local line (R443). -/
def sliceOf (a : Nat) : Nat :=
  (natBits a 10 7) ^^^ (natBits a 14 11) ^^^ (natBits a 18 15) ^^^ (natBits a 22 19) ^^^ (natBits a 26 23) ^^^
    (natBits a 30 27) ^^^ (natBits a 34 31) ^^^ (natBits a 38 35) ^^^ (natBits a 39 39)

/-- Whether a local address lies in the stacked DRAM. -/
def isSd (a : Nat) : Bool := decide (0x4000000000 ≤ a ∧ a < 0x4800000000)

/-- An uncorrectable error at a line is logged, counted, recorded and offered for repair (R436, R438). `source`: 0 stacked
DRAM, 1 LPDDR5X, 2 system cache. -/
def logUe (s : State) (line : Nat) (source : Nat) (patrol : Bool) : State :=
  let a := line * 128
  let pa := s.fld F.iqlCfgDevice * 2 ^ 40 + a
  let n := s.fld F.memUeNextNext
  let s := s.wr Reg.memUeLog n
    (BitVec.ofNat 64 (2 ^ 63 + source * 2 ^ 60 + (if patrol then 2 ^ 59 else 0) + pa))
  let s := s.setFld F.memUeNextNext 0 ((n + 1) % 16)
  let s := s.bumpSat F.memUeTotalCount
  let s := if source = 0 then s.bumpSat F.memSdChanUeCount (sdChannel s a)
           else if source = 1 then s.bumpSat F.memLpChanUeCount (lpController a)
           else s
  let s := { s with repairs := if source = 2 ∨ s.repairs.contains a then s.repairs else s.repairs ++ [a] }
  event s 0x0801 0 pa (source * 2 + (if patrol then 1 else 0))

/-- Where an error of a line is found: stacked DRAM, LPDDR5X, or the system cache, which lost it (R436, R439). -/
def ueSource (s : State) (line : Nat) : Nat := if s.lost.contains line then 2 else if isSd (line * 128) then 0 else 1

/-- A correctable error of a line is corrected, written back and counted (R435); with inline ECC off LPDDR5X has no such errors
(R432). -/
def correctLine (s : State) (line : Nat) : State :=
  if s.ce.contains line && (isSd (line * 128) || s.eccOn) then
    let a := line * 128
    let day := 86400000000000
    let s := { s with ce := s.ce.filter (· ≠ line), altered := SMap.set [] s.altered line [], ceLog := s.ceLog.filter (fun (e : Nat × Nat) => decide (s.now < e.2 + day)) ++ [(line, s.now)] }
    if isSd a then s.bumpSat F.memSdChanCeCount (sdChannel s a) else s.bumpSat F.memLpChanCeCount (lpController a)
  else s

/-- A read of `n` local bytes: none of them where a line is uncorrectable, each such line logged (R435, R436). -/
def memLoad (s : State) (a n : Nat) : Option (List Byte) × State :=
  let s := (linesOf a n).foldl correctLine s
  let badLines := (linesOf a n).filter (fun l => s.ue.contains l)
  if badLines.isEmpty then (some (s.bytes a n), s)
  else (none, badLines.foldl (fun s l => logUe s l (ueSource s l) false) s)

/-- A read as a little-endian number. -/
def memLoadNat (s : State) (a n : Nat) : Option Nat × State :=
  let (r, s) := memLoad s a n
  (r.map leNat, s)

/-- What a write of `n` bytes finds in a line that has an error, `none` where the line refuses it: a full line ends its error, a
partial write to a bad LPDDR5X line under inline ECC is refused, to any other bad line leaves the error, and else reads and
corrects the line (R431, R435, R437). -/
def lineWritten (s : State) (line n : Nat) : Option State :=
  if n = 128 then some (s.mend (fun l => decide (l = line)))
  else if s.ue.contains line then (if !isSd (line * 128) && s.eccOn then none else some s)
  else some (correctLine s line)

/-- Whether a line has an error that a write to it meets. -/
def State.flawed (s : State) (line : Nat) : Bool := s.ue.contains line || s.ce.contains line

/-- A write of local bytes within one line; false where the line refuses it, which is logged (R431, R437). -/
def storeLine (s : State) (a : Nat) (bs : List Byte) : Bool × State :=
  let line := a / 128
  if s.flawed line then
    match lineWritten s line bs.length with
    | none => (false, logUe s line (ueSource s line) false)
    | some t => (true, t.setBytes a bs)
  else (true, s.setBytes a bs)

/-- A write of local bytes, line by line in ascending order; false where a line refused it. `fuel` bounds the lines. -/
def memStoreN (fuel : Nat) (s : State) (a : Nat) (bs : List Byte) : Bool × State :=
  match fuel with
  | 0 => (true, s)
  | fuel + 1 =>
    if bs.isEmpty then (true, s)
    else
      let k := 128 - a % 128
      let (ok, s) := storeLine s a (bs.take k)
      let (ok', s) := memStoreN fuel s (a + k) (bs.drop k)
      (ok && ok', s)

/-- A write of local bytes. -/
def memStore (s : State) (a : Nat) (bs : List Byte) : Bool × State := memStoreN (bs.length + 1) s a bs

/-- A write of a little-endian number. -/
def memStoreNat (s : State) (a n v : Nat) : Bool × State := memStore s a (leBytes n v)

/-- An inspection is queued once (R776). -/
def inspectQueue (s : State) (x : Inspect) : State :=
  if s.inspects.any (fun y => decide (y.kind = x.kind ∧ y.unit = x.unit ∧ y.way = x.way)) then s
  else { s with inspects := s.inspects ++ [x] }

/-- The words of a shader, field or referee record (R310, R770, R771). -/
def recordWords (status : W16) (kind : Nat) (ctx : W32) (time addr pc lanes block place suppressed : Nat) : List W64 :=
  [BitVec.ofNat 64 (status.toNat * 2 ^ 48 + kind * 2 ^ 40 + ctx.toNat), BitVec.ofNat 64 time, BitVec.ofNat 64 (addr % 2 ^ 48),
   BitVec.ofNat 64 (pc % 2 ^ 32 * 2 ^ 32 + lanes % 2 ^ 32), BitVec.ofNat 64 (block % 2 ^ 32 * 2 ^ 32 + place % 2 ^ 32),
   BitVec.ofNat 64 (suppressed % 2 ^ 32 * 2 ^ 32), 0, 0]

/-- The fault KIND of a status that an access ends with (R308, R770). -/
def accessKind (st : W16) : Nat := if st = stXlateFault then 0x01 else if st = stDataError then 0x0A else 0x02

/-- A fault record of 64 bytes in the fault ring (R769): lost where the memory refuses it, counted all the same. -/
def faultRecord (s : State) (ws : List W64) : State :=
  let n := s.fld F.refFaultCountCount
  let base := s.fld F.refFaultRingAddr * 4096
  let a := base + 64 * (n % 2 ^ s.fld F.refFaultRingLog2)
  let s := if s.exists? a then (memStore s a (wordsBytes ws)).2 else s
  s.bump F.refFaultCountCount

end Sys2Proof.Machine
end

