-- ==== Sys2Proof/Machine/Mmu.lean ====
section
/-! DEFINITION. Translation: page tables, the walk, cached translations and the checks on every access (spec/09 R457 to R472). -/

namespace Sys2Proof.Machine

/-! ### Entries (R458) -/

def pteValid (p : W64) : Bool := bitsOf p 0 0 = 1
def pteLeaf (p : W64) : Bool := bitsOf p 1 1 = 1
def pteType (p : W64) : Nat := bitsOf p 3 2
def pteAlloc (p : W64) : Nat := bitsOf p 9 8
def pteContig (p : W64) : Bool := bitsOf p 7 7 = 1
def pteRead (p : W64) : Bool := bitsOf p 4 4 = 1
def pteWrite (p : W64) : Bool := bitsOf p 5 5 = 1
def pteExec (p : W64) : Bool := bitsOf p 6 6 = 1
/-- Physical address bits [39:12] as an address. -/
def pteAddr (p : W64) : Nat := bitsOf p 39 12 * 4096

/-- The bits that a leaf entry leaves unused: reserved bits, and KEY and DEVICE where TYPE does not use them. -/
def pteUnused (p : W64) (level : Nat) : Bool :=
  decide (bitsOf p 63 58 ≠ 0 ∨ bitsOf p 11 10 ≠ 0 ∨
    (pteType p = 0 ∧ bitsOf p 57 40 ≠ 0) ∨ (pteType p = 1 ∧ bitsOf p 57 46 ≠ 0) ∨
    (level ≠ 0 ∧ pteContig p) ∨
    (level = 2 ∧ bitsOf p 29 12 ≠ 0) ∨ (level = 1 ∧ bitsOf p 20 12 ≠ 0))

/-- The bits of an entry that points to a table, other than VALID, LEAF and the address, are all 0. -/
def pteTableOk (p : W64) : Bool := decide (bitsOf p 63 40 = 0 ∧ bitsOf p 11 2 = 0)

/-- The index of a virtual address at a level (R457). -/
def vaIndex (va level : Nat) : Nat := natBits va (20 + 9 * level) (12 + 9 * level)

/-- How a walk or a check ends: an entry and its page size, or a reason of R460 and the level. -/
inductive Walk where
  | leaf (level log2 : Nat) (pte : W64)
  | fail (reason level : Nat)
deriving DecidableEq, Repr

/-- The status of a failure reason (R460). -/
def walkStatus (reason : Nat) : W16 :=
  if reason = 6 ∨ reason = 8 ∨ reason = 9 then stAccessFault
  else if reason = 7 then stDataError
  else stXlateFault

/-- Whether the 16 entries of a 64 KiB group agree (R459). -/
def groupOk (es : List W64) : Bool :=
  match es with
  | [] => false
  | e0 :: _ =>
    decide (bitsOf e0 15 12 = 0) &&
    (es.zipIdx).all (fun (e, i) => decide (e = BitVec.ofNat 64 (e0.toNat + i * 4096)) && pteContig e)

/-- A leaf entry at a level, checked (R459, R460). `tbl` is its table and `va` the address walked for. -/
def checkLeaf (s : State) (tbl va level : Nat) (p : W64) : Walk :=
  if pteType p = 3 ∨ pteAlloc p = 3 then .fail 3 level
  else if level = 0 ∧ pteContig p then
    let first := tbl + (vaIndex va 0 / 16 * 16) * 8
    if s.bad first 128 then .fail 7 level
    else
      let es := tabulate 16 (fun i => s.word (first + 8 * i))
      if pteUnused p level then .fail 3 level
      else if groupOk es then .leaf 0 16 (es.getD 0 0) else .fail 5 level
  else if pteUnused p level then .fail 3 level
  else .leaf level (12 + 9 * level) p

/-- What a walk has passed through: the tables it was led to, by level, and the lines it read. -/
structure Trail where
  tables : List (Nat × Nat) := []
  lines : List Nat := []
deriving DecidableEq, Repr

/-- The walk from a table at a level (R460). -/
def walkFrom (s : State) (h : W32) (va : Nat) : Nat → Nat → Trail → Walk × Trail
  | level, tbl, tr =>
    if !s.usable tbl then (.fail 4 level, tr)
    else
      let a := tbl + 8 * vaIndex va level
      let cached := s.walks.find? (fun (w : WalkEntry) =>
        decide (w.handle = h ∧ w.level = level ∧ w.index = va / 2 ^ (12 + 9 * level)))
      let read := { tr with lines := tr.lines ++ [a / 128] }
      match level with
      | 0 =>
        if s.bad a 8 then (.fail 7 0, read)
        else
          let p := s.word a
          if !pteValid p then (.fail 1 0, read)
          else if !pteLeaf p then (.fail 2 0, read)
          else (checkLeaf s tbl va 0 p, read)
      | level + 1 =>
        match cached with
        | some w => walkFrom s h va level w.table tr
        | none =>
          if s.bad a 8 then (.fail 7 (level + 1), read)
          else
            let p := s.word a
            if !pteValid p then (.fail 1 (level + 1), read)
            else if pteLeaf p then
              if level + 1 = 3 then (.fail 2 3, read) else (checkLeaf s tbl va (level + 1) p, read)
            else if !pteTableOk p then (.fail 3 (level + 1), read)
            else walkFrom s h va level (pteAddr p)
              (if s.usable (pteAddr p) then { read with tables := read.tables ++ [(level + 1, pteAddr p)] } else read)

/-- The permission checks of R461 and reasons 0x6, 0x8 and 0x9 of R460; `none` where the access is allowed. -/
def permit (acc : Access) (p : W64) : Option Nat :=
  match acc with
  | .load => if pteType p = 2 then some 8 else if pteRead p then none else some 6
  | .store => if pteWrite p then none else some 6
  | .atomic => if pteType p = 2 then some 8 else if pteRead p && pteWrite p then none else some 6
  | .fetch => if pteType p = 2 then some 8 else if pteType p = 1 then some 9 else if pteExec p then none else some 6

/-- How many translations a holder keeps (R466). -/
def Holder.entries : Holder → Nat
  | .court _ => 256
  | .core _ => 64
  | .quarter _ => 2048
  | .raster _ => 64
  | .pipe _ => 64
  | .channel _ => 64
  | .net => 256
  | .walker => 1024

/-- What backs a holder: the entries of a core's quarter (R466). -/
def Holder.backing : Holder → Option Holder
  | .core c => some (.quarter (c / 17))
  | _ => none

/-- A list with an entry added, the oldest dropped past `n` (log 12). -/
def addBounded {α : Type} (n : Nat) (l : List α) (x : α) : List α := (l ++ [x]).drop (l.length + 1 - n)

/-- A translation is cached by its holder. -/
def tlbAdd (s : State) (e : TlbEntry) : State :=
  let mine := s.tlb.filter (fun x => x.holder = e.holder)
  let others := s.tlb.filter (fun x => x.holder ≠ e.holder)
  { s with tlb := others ++ addBounded e.holder.entries mine e }

/-- A walk's translation is cached by its holder and by what backs it. -/
def tlbFill (s : State) (ho : Holder) (e : TlbEntry) : State :=
  (ho.backing.toList ++ [ho]).foldl (fun s b => tlbAdd s { e with holder := b }) s

/-- A holder's entry for an address. -/
def tlbFind (s : State) (ho : Holder) (h : W32) (va : Nat) : Option TlbEntry :=
  s.tlb.find? (fun (e : TlbEntry) => decide (e.holder = ho ∧ e.handle = h ∧ e.base ≤ va ∧ va < e.base + 2 ^ e.log2))

/-- The cached translation of an address, taken from what backs the holder where the holder itself has none (R466). -/
def tlbLookup (s : State) (holder : Option Holder) (h : W32) (va : Nat) : Option TlbEntry × State :=
  match holder with
  | none => (none, s)
  | some ho =>
    match tlbFind s ho h va, ho.backing.bind (fun b => tlbFind s b h va) with
    | some e, _ => (some e, s)
    | none, some e => (some e, tlbAdd s { e with holder := ho })
    | none, none => (none, s)

/-- The failure registers note the last failure (R477). -/
def noteFault (s : State) (h : W32) (va reason level : Nat) : State :=
  (s.wr Reg.mmuLastFault 0 (BitVec.ofNat 64 (h.toNat * 2 ^ 32 + level * 2 ^ 22 + reason * 2 ^ 18))).wr
    Reg.mmuLastFaultVa 0 (BitVec.ofNat 64 (va % 2 ^ 48))

/-- The walk of R460 for one access: counted, its tables and a leaf that allows the access cached, a failure counted and noted. -/
def doWalk (s : State) (holder : Option Holder) (h : W32) (chk : W64 → Option Nat) (va : Nat) : Walk × State :=
  let c := s.ctx (hIndex h)
  let root := if c.sel then c.root1 else c.root0
  let s := s.bump F.mmuWalksCount
  let (w, tr) := walkFrom s h va 3 root {}
  let s := { s with walks := tr.tables.foldl (fun ws (lvl, t) =>
    addBounded 1024 ws { handle := h, level := lvl, index := va / 2 ^ (12 + 9 * lvl), table := t }) s.walks }
  let s := tr.lines.foldl correctLine s
  match w with
  | .leaf level log2 p =>
    match (if (chk p).isSome then none else holder) with
    | none => (w, s)
    | some ho =>
      (w, tlbFill s ho
        { holder := ho, handle := h, base := va / 2 ^ log2 * 2 ^ log2, log2 := log2, level := level, pte := p })
  | .fail reason level =>
    let s := if reason = 7 then
        (tr.lines.filter (fun l => s.ue.contains l)).foldl (fun s l => logUe s l (ueSource s l) false) s
      else s
    (w, noteFault (s.bump F.mmuWalkFaultsCount) h va reason level)

/-- The physical target of an address through a leaf entry (R462 to R464). -/
def pteTarget (s : State) (p : W64) (log2 va : Nat) : Target :=
  let off := va % 2 ^ log2
  match pteType p with
  | 1 => if bitsOf p 45 40 = s.fld F.iqlCfgDevice then .mem (pteAddr p + off) else .remote (bitsOf p 45 40) (pteAddr p + off)
  | 2 => .host (bitsOf p 57 46) (bitsOf p 45 12 * 4096 + off)
  | _ => .mem (pteAddr p + off)

/-- One access of a context at an address under a check of the leaf entry: a target, or the status it fails with. A cached
translation serves it where the holder has one, else the walker (R460, R461, R466); R36 and R37 bound local addresses. -/
def xlateBy (s : State) (holder : Option Holder) (h : W32) (chk : W64 → Option Nat) (va : Nat) :
    (Except W16 Target) × State :=
  let (hit, s) := tlbLookup s holder h va
  let (w, s) := match hit with
    | some e => (Walk.leaf e.level e.log2 e.pte, s)
    | none => if 2 ^ 48 ≤ va then (Walk.fail 1 3, noteFault s h va 1 3) else doWalk s holder h chk va
  match w with
  | .fail reason _ => (.error (walkStatus reason), s)
  | .leaf level log2 p =>
    match chk p with
    | some reason =>
      let s := noteFault s h va reason level
      let s := if hit.isSome then s else s.bump F.mmuWalkFaultsCount
      (.error (walkStatus reason), s)
    | none =>
      match pteTarget s p log2 va with
      | .mem a => if s.usable a then (.ok (.mem a), s) else (.error stAccessFault, s)
      | t => (.ok t, s)

/-- One access of a context of a kind of R461. -/
def xlate (s : State) (holder : Option Holder) (h : W32) (acc : Access) (va : Nat) : (Except W16 Target) × State :=
  xlateBy s holder h (permit acc) va

/-- The access that a fence signal needs: WRITE alone for host memory, else READ and WRITE (R511). -/
def permitSignal (p : W64) : Option Nat := if pteType p = 2 then permit .store p else permit .atomic p

/-- The access that a ring fetch needs: READ, and under VALIDATE a page without WRITE (R490, R491). -/
def permitRing (validate : Bool) (p : W64) : Option Nat :=
  if validate && pteWrite p then some 6 else permit .load p

/-- Where an address leads in a context's tables, without an access: for comparing fences (R532). -/
def peek (s : State) (h : W32) (va : Nat) : Option Target :=
  match (doWalk s none h (fun _ => none) va).1 with
  | .fail .. => none
  | .leaf _ log2 p => some (pteTarget s p log2 va)

/-- Local bytes at an address in a context's tables, without an access; none where any page is not local. -/
def peekNat (s : State) (h : W32) (va n : Nat) : Nat :=
  match peek s h va with
  | some (.mem a) => s.readNat a n
  | _ => 0

/-- Every cached translation and walk-cache entry of a context is dropped (R470). -/
def dropAll (s : State) (h : W32) : State :=
  { s with tlb := s.tlb.filter (fun e => e.handle ≠ h), walks := s.walks.filter (fun e => e.handle ≠ h) }

/-- The translations of a context that map any byte of `[va, va + len)`, and its walk-cache entries on the path (R470). -/
def dropRange (s : State) (h : W32) (va len : Nat) : State :=
  { s with
    tlb := s.tlb.filter (fun e => !(decide (e.handle = h ∧ e.base < va + len ∧ va < e.base + 2 ^ e.log2)))
    walks := s.walks.filter (fun e =>
      let sz := 2 ^ (12 + 9 * e.level)
      !(decide (e.handle = h ∧ e.index * sz < va + len ∧ va < (e.index + 1) * sz))) }

/-- A local read of a context of `n` bytes that lie in one page: the bytes, or a status. A remote page answers `.error` with
the target kept apart, for the caller that may go out over the links. -/
def ctxRead (s : State) (holder : Option Holder) (h : W32) (acc : Access) (va n : Nat) :
    (Except W16 (List Byte ⊕ Target)) × State :=
  match xlate s holder h acc va with
  | (.error e, s) => (.error e, s)
  | (.ok (.mem a), s) =>
    match memLoad s a n with
    | (some bs, s) => (.ok (.inl bs), s)
    | (none, s) => (.error stDataError, s)
  | (.ok t, s) => (.ok (.inr t), s)

/-- Up to 1 KiB of another device's memory for the unit whose step this is: the answer that has come, or zeros with the lack noted,
in which case the whole step is taken back and repeated once the answer is there (R33; log 32). -/
def farPiece (s : State) (u d a n : Nat) : (Except W16 (List Byte)) × State :=
  match s.far.find? (fun (f : FarRead) => decide (f.unit = u ∧ f.dev = d ∧ f.addr = a ∧ f.len = n)) with
  | some f =>
    if f.done then ((if f.status = stOk then .ok f.bytes else .error f.status), s)
    else (.ok (List.replicate n 0), { s with farLack := true })
  | none => (.ok (List.replicate n 0), { s with farMiss := s.farMiss ++ [(d, a, n)], farLack := true })

/-- An atomic OR of 1 at another device's memory, once, for the unit whose step this is: the prior value. Such a request is kept under
the length 65536 plus its operation (R620; log 32). -/
def farSet (s : State) (d a : Nat) : (Except W16 Nat) × State :=
  match s.farUnit with
  | none => (.error stAccessFault, s)
  | some u =>
    match s.far.find? (fun (f : FarRead) => decide (f.unit = u ∧ f.dev = d ∧ f.addr = a ∧ f.len = 65536 + 134)) with
    | some f =>
      if f.done then ((if f.status = stOk then .ok (leNat f.bytes) else .error f.status), s)
      else (.ok 0, { s with farLack := true })
    | none => (.ok 0, { s with farMiss := s.farMiss ++ [(d, a, 65536 + 134)], farLack := true })

/-- `n` bytes of another device's memory within one page, in pieces that no packet exceeds (R618, R619). -/
def farBytes : Nat → State → Nat → Nat → Nat → (Except W16 (List Byte)) × State
  | 0, s, _, _, _ => (.ok [], s)
  | fuel + 1, s, d, a, n =>
    match s.farUnit with
    | none => (.error stAccessFault, s)
    | some u =>
      if n = 0 then (.ok [], s)
      else
        let k := min n (1024 - a % 1024)
        match farPiece s u d a k with
        | (.error e, s) => (.error e, s)
        | (.ok bs, s) =>
          match farBytes fuel s d (a + k) (n - k) with
          | (.error e, s) => (.error e, s)
          | (.ok rest, s) => (.ok (bs ++ rest), s)

/-- A read of `n` bytes that may cross pages; a page of another device is read through `farBytes`, a host page answers
ACCESS_FAULT (R461). `fuel` bounds the pages. -/
def ctxReadLong (fuel : Nat) (s : State) (holder : Option Holder) (h : W32) (acc : Access) (va n : Nat) :
    (Except W16 (List Byte)) × State :=
  match fuel with
  | 0 => (.ok [], s)
  | fuel + 1 =>
    if n = 0 then (.ok [], s)
    else
      let k := min n (4096 - va % 4096)
      match ctxRead s holder h acc va k with
      | (.error e, s) => (.error e, s)
      | (.ok (.inr t), s) =>
        let r : (Except W16 (List Byte)) × State := match t with
          | .remote d a => farBytes 6 s d a k
          | _ => (Except.error stAccessFault, s)
        match r with
        | (.error e, s) => (.error e, s)
        | (.ok bs, s) =>
          match ctxReadLong fuel s holder h acc (va + k) (n - k) with
          | (.error e, s) => (.error e, s)
          | (.ok rest, s) => (.ok (bs ++ rest), s)
      | (.ok (.inl bs), s) =>
        match ctxReadLong fuel s holder h acc (va + k) (n - k) with
        | (.error e, s) => (.error e, s)
        | (.ok rest, s) => (.ok (bs ++ rest), s)

/-- A read of `n` bytes of an object, as many pages as it takes. -/
def ctxReadObj (s : State) (holder : Option Holder) (h : W32) (acc : Access) (va n : Nat) :
    (Except W16 (List Byte)) × State := ctxReadLong (n / 4096 + 2) s holder h acc va n

end Sys2Proof.Machine
end

