-- ==== Sys2Proof/Machine/Links.lean ====
section
/-! DEFINITION. Ihlique: routing, virtual channels, frames on a port and transactions (spec/12 R614 to R632). -/

namespace Sys2Proof.Machine

/-- This device's number (R31). -/
def State.device (s : State) : Nat := s.fld F.iqlCfgDevice
/-- This device's EPOCH (R640). -/
def State.epoch (s : State) : Nat := s.fld F.iqlCfgEpoch

/-- Whether routing may use a port (R608). -/
def portUp (s : State) (p : Nat) : Bool :=
  decide (s.fld F.iqlPortStatusState p = lcOn ∧ s.fld F.iqlPortStatusLinkUp p = 1)

/-- The port for a packet to device `d` (R624). -/
def routeTo (s : State) (d : Nat) : Option Nat :=
  if s.fld F.iqlRouteValid d = 1 ∧ portUp s (s.fld F.iqlRoutePrimary d) then some (s.fld F.iqlRoutePrimary d)
  else if s.fld F.iqlRouteAltValid d = 1 ∧ portUp s (s.fld F.iqlRouteAlternate d) then some (s.fld F.iqlRouteAlternate d)
  else none

/-- The virtual channel of a packet that leaves by `out` (R626): `came` is the port and channel it arrived on. -/
def leavingVc (s : State) (cls out : Nat) (came : Option (Nat × Nat)) : Nat :=
  let base := match came with
    | none => 2 * cls
    | some (p, vc) => if p / 2 = out / 2 then vc else 2 * cls
  if s.fld F.iqlPortCtrlDateline out = 1 then 2 * cls + 1 else base

/-- The credit that a packet's whole frame takes, in 64-byte units: a link header of 8 bytes, a packet header and a tag of 16 (R614,
R615). -/
def frameUnits (p : Packet) : Nat := (40 + p.payload.length + 63) / 64

/-- The counts of eight virtual channels with `n` more for one of them. -/
def vcAdd (l : List Nat) (vc n : Nat) : List Nat := tabulate 8 (fun v => l.getD v 0 + if v = vc then n else 0)

/-- A port as its link comes up: it holds what the receiver grants at first, at least one whole frame on every channel (R615; log 109). -/
def IqlPort.granted (i : IqlPort) : IqlPort := { i with credit := tabulate 8 (fun v => 17 + Config.iqlCredit v), owed := [] }

/-- A frame leaves by a port: numbered, kept until acknowledged, its credit spent; its header acknowledges what has come and returns the
credit owed on one channel, the lowest-numbered (R614 to R616; log 109). -/
def portFrame (s : State) (out vc : Nat) (p : Packet) : State :=
  let i := s.iqlPort out
  let cvc := ((List.range 8).find? (fun v => decide (i.owed.getD v 0 ≠ 0))).getD 0
  let back := min 511 (i.owed.getD cvc 0)
  let p := { p with ack := (i.rxSeq + 2 ^ 24 - 1) % 2 ^ 24, cvc := cvc, credits := back }
  let s := s.setIqlPort out { i with
    txSeq := (i.txSeq + 1) % 2 ^ 24, frames := i.frames + 1, replay := i.replay ++ [(i.txSeq, vc, p)]
    credit := tabulate 8 (fun v => i.credit.getD v 0 - if v = vc then frameUnits p else 0)
    owed := tabulate 8 (fun v => i.owed.getD v 0 - if v = cvc then back else 0) }
  (s.bump F.iqlTxPacketsCount out).emit (.iql out vc i.txSeq i.keyPhase p)

/-- The packets that a port holds and may send leave, in order on each virtual channel: none while it retrains, and none whose frame the
receiver has not granted credit for (R606, R615). -/
def portGo (s : State) (out : Nat) : State :=
  if (s.iqlPort out).retraining then s
  else
    let (kept, t) := (s.iqlPort out).traffic.foldl (fun (acc : List (Nat × Packet) × State) x =>
      if acc.1.any (fun y => decide (y.1 = x.1)) || decide ((acc.2.iqlPort out).credit.getD x.1 0 < frameUnits x.2) then
        (acc.1 ++ [x], acc.2)
      else (acc.1, portFrame acc.2 out x.1 x.2)) ([], s)
    t.setIqlPort out { t.iqlPort out with traffic := kept }

/-- A packet is to leave by a port. -/
def portSend (s : State) (out vc : Nat) (p : Packet) : State :=
  portGo (s.setIqlPort out { s.iqlPort out with traffic := (s.iqlPort out).traffic ++ [(vc, p)] }) out

/-- A frame arrives intact on a port (R614 to R616): it is counted, what it acknowledges is kept no longer, the credit that it returns is
held, and what it took is owed back (log 109). -/
def IqlPort.taking (i : IqlPort) (vc : Nat) (p : Packet) : IqlPort :=
  { i with
    rxSeq := (i.rxSeq + 1) % 2 ^ 24, failRun := 0, rxFrames := i.rxFrames + 1
    replay := i.replay.filter (fun r => decide (2 ^ 23 ≤ (p.ack + 2 ^ 24 - r.1) % 2 ^ 24))
    credit := vcAdd i.credit p.cvc p.credits, owed := vcAdd i.owed vc (frameUnits p) }

/-- Whether a frame's key is one that the port accepts: the one in use, or for 1 ms after a change the one before (R611, R612). -/
def IqlPort.accepts (i : IqlPort) (now : Nat) (p : Packet) : Bool :=
  decide (p.keyPhase = i.keyPhase) || (i.oldKey.isSome && decide (now < i.rekeyAt + 1000000))

/-- A frame fails authentication (R613): it is asked for again, and the 16th failure in a row drops the keys and holds the traffic. -/
def frameFailed (s : State) (port : Nat) : State :=
  let i := s.iqlPort port
  let n := i.failRun + 1
  if 16 ≤ n then
    let s := s.setIqlPort port { i with failRun := 0, key := 0, oldKey := none, retraining := true }
    event (s.setFld F.iqlPortStatusKeyed port 0) 0x0C01 0 port
  else ((s.setIqlPort port { i with failRun := n }).bump F.iqlLinkRetriesCount port).emit (.iqlReplayReq port i.rxSeq)

/-- A frame's arrival may let held packets leave. -/
def frameIn (s : State) (port vc : Nat) (p : Packet) : State :=
  portGo (s.setIqlPort port ((s.iqlPort port).taking vc p)) port

/-- The port whose NO_ROUTE counts a packet of this device to `d`: its entry's PRIMARY (log 14). -/
def noRoutePort (s : State) (d : Nat) : Nat := s.fld F.iqlRoutePrimary d

/-- A packet of this device is sent on its first hop; false where no route exists (R624). -/
def sendPacket (s : State) (p : Packet) : Bool × State :=
  match routeTo s p.dst with
  | none => (false, s.bump F.iqlNoRouteCount (noRoutePort s p.dst))
  | some out => (true, portSend s out (leavingVc s p.cls out none) p)

/-- A free transaction index (R629). -/
def freeTxid (s : State) : Option Nat := (List.range 4096).find? (fun i => !(s.txn i).busy)

/-- A request takes a transaction index and leaves, or waits for one (R629). -/
def sendRequest (s : State) (p : Packet) (pu : Purpose) : Bool × State :=
  match routeTo s p.dst with
  | none => (false, s.bump F.iqlNoRouteCount (noRoutePort s p.dst))
  | some out =>
    match freeTxid s with
    | none => (true, { s with txWait := s.txWait ++ [(p, pu)] })
    | some t =>
      let g := ((s.txn t).gen + 1) % 4096
      let s := s.setTxn t { busy := true, gen := g, dst := p.dst, port := out, sentAt := s.now, purpose := pu, typ := p.typ,
                            laddr := p.laddr }
      (true, portSend s out (leavingVc s p.cls out none) { p with txid := t, txgen := g })

/-- A READ of `n` bytes at another device (R618). -/
def remoteRead (s : State) (dev a n cls : Nat) (pu : Purpose) : Bool × State :=
  sendRequest s { typ := 0, dst := dev, src := s.device, epoch := s.epoch, len := n, laddr := a, cls := cls } pu

/-- A WRITE of bytes at another device (R618). -/
def remoteWrite (s : State) (dev a : Nat) (bs : List Byte) (cls : Nat) (pu : Purpose) : Bool × State :=
  sendRequest s { typ := 2, dst := dev, src := s.device, epoch := s.epoch, len := bs.length, laddr := a, payload := bs,
                  cls := cls } pu

/-- An ATOMIC at another device (R618, R620). -/
def remoteAtomic (s : State) (dev a op : Nat) (bs : List Byte) (pu : Purpose) : Bool × State :=
  sendRequest s { typ := 4, dst := dev, src := s.device, epoch := s.epoch, len := bs.length, laddr := a, op := op,
                  payload := bs } pu

/-- What a step of a unit lacks is asked for: bytes, or an atomic OR of 1. -/
def farAsk (s : State) (unit d a n : Nat) : Bool × State :=
  if n < 65536 then remoteRead s d a n 0 (.far unit d a n)
  else remoteAtomic s d a (n - 65536) (leBytes 8 1) (.far unit d a n)

/-- BUSY of a heap descriptor at another device is cleared (R349). -/
def clearBusy (s : State) (d a : Nat) (pu : Purpose) : State := (remoteAtomic s d a 133 (leBytes 8 (2 ^ 64 - 2)) pu).2

/-- A command will not go on: a BUSY bit of another device that it has set, or is about to, is cleared (R349), and nothing awaits the
answers of its reads. -/
def forgetFar (s : State) (unit : Nat) : State :=
  let mine := s.far.filter (fun x => decide (x.unit = unit ∧ x.len = 65536 + 134))
  let turn (p : Purpose) : Purpose := match p with
    | .far u d a n => if u = unit ∧ n = 65536 + 134 then .unbusy d a else p
    | _ => p
  let s := { s with
    far := s.far.filter (fun x => x.unit ≠ unit)
    txns := s.txns.map (fun kv => (kv.1, { kv.2 with purpose := turn kv.2.purpose }))
    txWait := s.txWait.map (fun x => (x.1, turn x.2)) }
  mine.foldl (fun s x => if x.done && decide (x.status = stOk ∧ leNat x.bytes % 2 = 0) then clearBusy s x.dev x.addr .none else s) s

/-- A step of a unit that may need other devices' memory: it is taken where nothing is lacking; else it is taken back, and what
it lacks is asked for from a state that `mark` makes. A read that finds no route has failed (R33; log 32). -/
def withFarFrom (mark : State → State) (s : State) (unit : Nat) (f : State → State) : State :=
  let t := f { s with farUnit := some unit, farMiss := [], farLack := false }
  if t.farLack then
    t.farMiss.foldl (fun s m =>
      let (ok, s) := farAsk s unit m.1 m.2.1 m.2.2
      { s with far := s.far ++ [{ unit := unit, dev := m.1, addr := m.2.1, len := m.2.2, done := !ok,
                                  status := if ok then 0 else stAccessFault }] }) (mark s)
  else { t with farUnit := none, far := t.far.filter (fun x => x.unit ≠ unit) }

/-- The same where the unit notes nothing as it asks. -/
def withFar (s : State) (unit : Nat) (f : State → State) : State := withFarFrom id s unit f

/-- An answer for a step of a unit. -/
def farAnswered (s : State) (unit d a n : Nat) (st : W16) (bs : List Byte) : State :=
  { s with far := s.far.map (fun x =>
      if x.unit = unit ∧ x.dev = d ∧ x.addr = a ∧ x.len = n ∧ !x.done then { x with done := true, status := st, bytes := bs }
      else x) }

/-- A waiting request takes an index: one that finds no route any more leaves by none, and ends when its time is up (R631). -/
def sendWaiting (s : State) (p : Packet) (pu : Purpose) : State :=
  match routeTo s p.dst, freeTxid s with
  | none, some t =>
    (s.bump F.iqlNoRouteCount (noRoutePort s p.dst)).setTxn t
      { busy := true, gen := ((s.txn t).gen + 1) % 4096, dst := p.dst, port := 4, sentAt := s.now, purpose := pu, typ := p.typ,
        laddr := p.laddr }
  | _, _ => (sendRequest s p pu).2

/-- The waiting requests that now find a free index leave, in order (R629). `fuel` bounds them. -/
def drainTxWait (fuel : Nat) (s : State) : State :=
  match fuel, s.txWait with
  | 0, _ => s
  | _, [] => s
  | fuel + 1, (p, pu) :: rest =>
    match freeTxid s with
    | none => s
    | some _ => drainTxWait fuel (sendWaiting { s with txWait := rest } p pu)

/-- The atomic operations of R283 and R620 on values of `w` bits: OP[3:0] 0 add, 1 signed min, 2 signed max, 3 unsigned min,
4 unsigned max, 5 and, 6 or, 7 xor, 8 FP32 add, 9 exchange, 10 compare-and-swap; `none` for another code. -/
def atomicFn (op w old x cmp : Nat) : Option Nat :=
  match op with
  | 0 => some ((old + x) % 2 ^ w)
  | 1 => some (if signed w x < signed w old then x else old)
  | 2 => some (if signed w old < signed w x then x else old)
  | 3 => some (min old x)
  | 4 => some (max old x)
  | 5 => some (old &&& x)
  | 6 => some (old ||| x)
  | 7 => some (old ^^^ x)
  | 8 => if w = 32 then some (fp32Add (BitVec.ofNat 32 old) (BitVec.ofNat 32 x)).toNat else none
  | 9 => some x
  | 10 => some (if old = cmp then x else old)
  | _ => none

end Sys2Proof.Machine
end

