-- ==== Sys2Proof/Machine/Complete.lean ====
section
/-! DEFINITION. Completion: results, signal, completion record, fallback ring and what a status does to the context
(spec/10 R500 to R503, R511, R512, R541, R542). -/

namespace Sys2Proof.Machine

/-- The submission number of entry `n` of a queue (R533). -/
def seqOf (q : Queue) (n : W32) : Nat :=
  match q.subs.find? (fun b => decide (b.1 ≠ n ∧ (b.1 - n).toNat < 2 ^ 31)) with
  | none => 0
  | some b => b.2

/-- The submission number of a queue's head command (R533). -/
def headSeq (s : State) (qi : Nat) : Nat :=
  let q := s.queue qi
  seqOf q (match q.cmd with
    | none => q.head
    | some c => c.entry)

/-- The preloads of some queues are discarded (R527). -/
def noPreloads (s : State) (f : Queue → Bool) : State :=
  { s with queues := s.queues.map (fun (k, q) => (k, if q.preloaded && f q then { q with preloaded := false } else q)) }

/-- A context is lost (R17, R487); its preloads are discarded (R527). The commands submitted with number `seq` or later complete
with CONTEXT_LOST (R20). -/
def loseCtx (s : State) (i : Nat) (seq : Nat := 0) : State :=
  let c := s.ctx i
  let s := match c.state with
    | .active | .hostlost => s.setCtx i { c with state := .lost, lostAt := seq }
    | .lost => s.setCtx i { c with lostAt := min c.lostAt seq }
    | _ => s
  noPreloads s (fun q => hIndex q.owner = i)

/-- The 32 bytes of a completion record (R500). -/
def Completion.bytes (c : Completion) : List Byte :=
  leBytes 8 (c.status.toNat * 2 ^ 48 + c.flags.toNat * 2 ^ 32 + c.tag.toNat) ++
  leBytes 8 (c.queue.toNat * 2 ^ 32 + c.entry.toNat) ++ leBytes 8 c.start.toNat ++ leBytes 8 c.stop.toNat

/-- Whether the fallback ring is full (R542). -/
def Ctx.fbFull (c : Ctx) : Bool := decide (2 ^ c.fbLog2 ≤ c.fbCount)

/-- A completion goes to the fallback ring, or is held while the ring is full (R541, R542). -/
def toFallback (s : State) (i : Nat) (r : Completion) : State :=
  let c := s.ctx i
  if c.fbFull then s.setCtx i { c with held := c.held ++ [r] }
  else
    let s := s.setCtx i { c with fbCount := c.fbCount + 1 }
    (memStore s (c.fbBase + 32 * c.fbCount) r.bytes).2

/-- The submission number of the command that a completion is of. -/
def Completion.seq (s : State) (r : Completion) : Nat := seqOf (s.queue (qIndex r.queue)) r.entry

/-- A fence signal of a unit outside any queue was refused by host memory: its context is HOSTLOST (R541, R575). -/
def hostGone (s : State) (i key : Nat) : State :=
  let c := s.ctx i
  match c.state with
  | .free | .destroying => s
  | st => event (s.setCtx i { c with useFb := true, state := if st = .active then .hostlost else st }) 0x0202 (s.handleOf i) key

/-- A completion, or a signal to host memory, was refused because its registration is gone (R541). -/
def hostRefused (s : State) (i : Nat) (r : Completion) (key : Nat) : State :=
  let c := s.ctx i
  let seq := r.seq s
  match c.state with
  | .free | .destroying => s
  | _ =>
    let r := if r.status = stOk then { r with status := stHostlost } else r
    let s := s.setCtx i { c with useFb := true, state := match c.state with
      | .active => .hostlost
      | x => x }
    let s := if losesContext r.status then loseCtx s i seq else s
    let s := toFallback s i r
    event s 0x0202 (s.handleOf i) key

/-- The words of a queue's head command. -/
def Queue.word (q : Queue) (i : Nat) : W64 := match q.cmd with
  | none => 0
  | some c => c.words.getD i 0

/-- KIND of the head command (R495). -/
def Queue.kind (q : Queue) : Nat := bitsOf (q.word 0) 63 56
def Queue.hasWait (q : Queue) : Bool := bitsOf (q.word 0) 52 52 = 1
def Queue.hasSignal (q : Queue) : Bool := bitsOf (q.word 0) 51 51 = 1
def Queue.tag (q : Queue) : W32 := BitVec.ofNat 32 (bitsOf (q.word 0) 31 0)
def Queue.object (q : Queue) : Nat := bitsOf (q.word 1) 63 16
def Queue.arg (q : Queue) : W64 := q.word 2
def Queue.waitAddr (q : Queue) : Nat := bitsOf (q.word 3) 63 16
def Queue.waitValue (q : Queue) : Nat := (q.word 4).toNat
def Queue.signalAddr (q : Queue) : Nat := bitsOf (q.word 5) 63 16
def Queue.signalValue (q : Queue) : Nat := (q.word 6).toNat

/-- The handle of the queue at an index. -/
def State.queueHandle (s : State) (qi : Nat) : W32 := mkQHandle qi (s.queue qi).gen

/-- Whether a request of such a purpose is unanswered, or waits to be sent. -/
def awaits (s : State) (f : Purpose → Bool) : Bool :=
  s.txns.any (fun kv => kv.2.busy && f kv.2.purpose) || s.txWait.any (fun pp => f pp.2) ||
    s.qps.any (fun kv => kv.2.reqs.any (fun r => f r.purpose))

/-- Whether an access of the command of a queue is still unanswered. -/
def outstanding (s : State) (qi : Nat) : Bool :=
  awaits s (fun u => match u with
    | .store q => decide (q = qi)
    | .stored q .. => decide (q = qi)
    | .bulk q _ => decide (q = qi)
    | .lane q .. => decide (q = qi)
    | .atom q .. => decide (q = qi)
    | .court q .. => decide (q = qi)
    | _ => false)

/-- The completion record of the head command at this moment (R500). -/
def completionOf (s : State) (qi : Nat) (status flags : W16) : Completion :=
  let q := s.queue qi
  let stop := BitVec.ofNat 64 s.now
  { status := status, flags := flags, tag := q.tag, queue := s.queueHandle qi,
    entry := match q.cmd with
      | none => q.head
      | some c => c.entry,
    start := match q.firstStart with
      | some t => BitVec.ofNat 64 t
      | none => if q.begun then BitVec.ofNat 64 q.startTime else stop,
    stop := stop }

/-- A completion record is written as completion `n` of its ring, through the owner's translations (R489, R503). -/
def writeCompletionAt (s : State) (qi : Nat) (n : W32) (r : Completion) : State :=
  let q := s.queue qi
  let i := hIndex q.owner
  let c := s.ctx i
  let va := q.cq + 32 * (n.toNat % 2 ^ q.cqLog2)
  if c.useFb then toFallback s i r
  else
    let lost (s : State) : State :=
      if c.state = .destroying then s else toFallback (loseCtx s i (headSeq s qi)) i r
    match xlate s none q.owner .store va with
    | (.error _, s) => lost s
    | (.ok (.mem a), s) =>
      let (ok, s) := memStore s a r.bytes
      if ok then s else lost s
    | (.ok (.remote d a), s) =>
      let (ok, s) := remoteWrite s d a r.bytes 0 (.completion q.owner r)
      if ok then s else lost s
    | (.ok (.host k off), s) =>
      if keyAllows s k q.owner off 32 then
        let e := s.key k
        qpWrite 2 s e.qp e.rkey (e.base + off) r.bytes (.completion q.owner r)
      else hostRefused s i r k

/-- A completion record is written at CQ_TAIL (R501). -/
def writeCompletion (s : State) (qi : Nat) (r : Completion) : State := writeCompletionAt s qi (s.queue qi).cqTail r

/-- The record of a queue (R488). -/
def queueRecordAddr (s : State) (i : Nat) : Nat := s.fld F.feQueueTableBaseAddr * 65536 + 64 * i

/-- Words 3 and 4 of a queue's record: its pointers (R488). -/
def Queue.pointerBytes (q : Queue) : List Byte :=
  leBytes 8 (q.tail.toNat * 2 ^ 32 + q.head.toNat) ++ leBytes 8 (q.cqHead.toNat * 2 ^ 32 + q.cqTail.toNat)

/-- The pointers of a queue that holds no slot are kept in its record, as the device changes them (R488). -/
def keepRecord (s : State) (qi : Nat) : State :=
  let q := s.queue qi
  let a := queueRecordAddr s qi + 24
  if q.slot.isNone && decide (q.state ≠ .free) && s.exists? a then (memStore s a q.pointerBytes).2 else s

/-- CQ_TAIL of a queue passes the completion that was written (R501). -/
def cqStep (s : State) (qi : Nat) : State :=
  let q := s.queue qi
  keepRecord (s.setQueue qi { q with cqTail := q.cqTail + 1 }) qi

/-- Benching saves words 3 to 7 of a queue's record; what the device keeps in words 5 to 7 is its own, and free (R488, R531). -/
def saveQueue (s : State) (qi : Nat) : State :=
  let q := s.queue qi
  let a := queueRecordAddr s qi + 24
  if s.exists? a then
    let (x, s) := s.fresh
    let (y, s) := s.fresh
    let (z, s) := s.fresh
    (memStore s a (q.pointerBytes ++ leBytes 8 x.toNat ++ leBytes 8 y.toNat ++ leBytes 8 z.toNat)).2
  else s

/-- A queue gives up its slot. -/
def benchQueue (s : State) (qi : Nat) : State :=
  let s := saveQueue s qi
  s.setQueue qi { s.queue qi with slot := none, preloaded := false }

/-- Whether the resident queues of a partition are more than its quota. -/
def overQuota (s : State) (p : Nat) : Bool :=
  decide (s.fld F.fePartCfgSlots p < (s.queues.filter (fun kv => kv.2.state ≠ .free && kv.2.slot.isSome &&
    decide ((s.ctx (hIndex kv.2.owner)).part = p))).length)

/-- The slots of a partition beyond a lowered quota are benched, those that run once their commands complete; an on-deck queue keeps
its own (R522, R525). Which are the excess is a choice: the highest queue indices (log 59). -/
def trimSlots (s : State) (p quota : Nat) : State :=
  let rs := s.queues.filter (fun kv => kv.2.state ≠ .free && kv.2.slot.isSome && decide ((s.ctx (hIndex kv.2.owner)).part = p))
  let cands := rs.filter (fun kv => !kv.2.ondeck && (match kv.2.phase with
    | .running | .draining .. | .signalling .. | .halted => false
    | _ => true))
  (cands.reverse.take (rs.length - quota)).foldl (fun s kv => benchQueue s kv.1) s

/-- Whether a command of the context with handle `h` is running: started and not yet completed. -/
def ctxRunning (s : State) (h : W32) : Bool :=
  s.queues.any (fun kv => decide (kv.2.owner = h) && (match kv.2.phase with
    | .running | .draining .. | .signalling .. | .halted => true
    | _ => false))

/-- A new partition of SET takes effect once no command of the context is running; its queues then give up the slots of the
old partition's quota (R486, R517). Its on-deck queues keep theirs, and others of the new partition make room (R525; log 106). -/
def applyNewPart (s : State) (i : Nat) : State :=
  let c := s.ctx i
  match c.newPart with
  | none => s
  | some p =>
    if ctxRunning s (s.handleOf i) then s
    else
      let h := s.handleOf i
      let s := s.setCtx i { c with part := p, newPart := none }
      let s := (s.queues.filter (fun kv => decide (kv.2.owner = h) && kv.2.slot.isSome && !kv.2.ondeck)).foldl
        (fun s kv => saveQueue s kv.1) s
      let s := { s with queues := s.queues.map (fun (k, q) => (k,
        if q.owner = h then
          { q with slot := if q.ondeck then q.slot else none, since := if q.phase = .waiting then s.now else q.since }
        else q)) }
      trimSlots s p (s.fld F.fePartCfgSlots p)

/-- Whether FE_SECURITY.VALIDATE is set. -/
def State.validate (s : State) : Bool := s.fld F.feSecurityValidate = 1

/-- How many ring entries a descriptor occupies: 5 for a LAUNCH, else 1, by KIND alone (R497). -/
def occupancy (w0 : W64) : Nat := if bitsOf w0 63 56 = 2 then 5 else 1

/-- The virtual address of a queue's ring entry (R489). -/
def Queue.entryVa (q : Queue) (n : Nat) : Nat := q.ring + 64 * (n % 2 ^ q.ringLog2)

/-- The 64 bytes of a ring entry through the owner's translations, or where they lie elsewhere, or a status (R489 to R491). -/
def readEntry (s : State) (q : Queue) (n : Nat) : (Except W16 (List Byte ⊕ Target)) × State :=
  match xlateBy s none q.owner (permitRing s.validate) (q.entryVa n) with
  | (.error e, s) => (.error e, s)
  | (.ok (.mem a), s) =>
    match memLoad s a 64 with
    | (some bs, s) => (.ok (.inl bs), s)
    | (none, s) => (.error stDataError, s)
  | (.ok t, s) => (.ok (.inr t), s)

/-- The eight words of an entry's bytes. -/
def wordsOf (bs : List Byte) : List W64 :=
  tabulate (bs.length / 8) (fun i => BitVec.ofNat 64 (leNat ((bs.drop (8 * i)).take 8)))

/-- Whether a queue's completion ring is full (R502). -/
def cqFull (q : Queue) : Bool := decide ((q.cqTail - q.cqHead).toNat = 2 ^ q.cqLog2)

/-- An entry's bytes are the descriptor of the command being fetched. -/
def absorb (s : State) (qi : Nat) (bs : List Byte) : State :=
  let q := s.queue qi
  s.setQueue qi { q with cmd := some { words := wordsOf bs, entry := q.head } }

/-- Every submitted command of a queue that has not started completes with ABORTED (R493). A completion that finds no room in
its ring is discarded (log 15). An entry on another device is read over the links, and the queue goes on with its answer. `fuel` bounds
the commands. -/
def abortUnstarted (fuel : Nat) (s : State) (qi : Nat) : State :=
  match fuel with
  | 0 => s
  | fuel + 1 =>
    let q := s.queue qi
    let unread (s : State) : State := s.setQueue qi { s.queue qi with cmd := some { words := [], entry := q.head }, phase := .ready }
    match q.phase with
    | .running | .draining .. | .signalling .. | .halted | .fetching => s
    | .waiting | .ready =>
      let s := match q.cmd with
        | none => s
        | some c => s.setQueue qi { q with head := c.entry + BitVec.ofNat 32 (occupancy (c.words.getD 0 0)) }
      let q := s.queue qi
      let s := if cqFull q then s else cqStep (writeCompletion s qi (completionOf s qi stAborted 0)) qi
      let q := s.queue qi
      abortUnstarted fuel (s.setQueue qi { q with cmd := none, phase := .empty }) qi
    | .empty =>
      if q.tail = q.head then s
      else
        match readEntry s q q.head.toNat with
        | (.ok (.inl bs), s) =>
          let ws := wordsOf bs
          if (q.tail - q.head).toNat < occupancy (ws.getD 0 0) then s
          else abortUnstarted fuel
            (s.setQueue qi { s.queue qi with cmd := some { words := ws, entry := q.head }, phase := .ready }) qi
        | (.ok (.inr (.remote d a)), s) =>
          let (ok, s) := remoteRead s d a 64 0 (.ring qi)
          if ok then s.setQueue qi { s.queue qi with phase := .fetching } else abortUnstarted fuel (unread s) qi
        | (_, s) => abortUnstarted fuel (unread s) qi

/-- A STOPPING queue whose running command, if any, has completed: what it has not started completes with ABORTED, and the queue is then
FREE (R493). -/
def stopOn (s : State) (qi : Nat) : State :=
  let s := abortUnstarted (2 ^ (s.queue qi).ringLog2 + 2) s qi
  let q := s.queue qi
  match q.phase with
  | .running | .draining .. | .signalling .. | .halted | .fetching => s
  | _ => s.setQueue qi { ({} : Queue) with gen := q.gen }

/-- The descriptor of a STOPPING queue's next command has come, or cannot be read (R493). -/
def stopFetched (s : State) (qi : Nat) (bs : List Byte) : State :=
  let s := absorb s qi bs
  let q := s.queue qi
  let short := match q.cmd with
    | some c => decide ((q.tail - q.head).toNat < occupancy (c.words.getD 0 0))
    | none => true
  if short then s.setQueue qi { ({} : Queue) with gen := q.gen } else stopOn (s.setQueue qi { q with phase := .ready }) qi

/-- The head command leaves its queue; a STOPPING queue completes what it has not started and becomes FREE
(R493), and one beyond a lowered quota is benched (R522). -/
def retire (s : State) (qi : Nat) : State :=
  let q := s.queue qi
  let q' := { q with cmd := none, phase := .empty, on := none, begun := false, aged := false, deadline := none,
                     stopReq := none, flags := 0, since := s.now, preloaded := q.preloaded && q.on.isSome, replaying := false,
                     firstStart := none, units := [], used := [], replaySafe := false, read := [], waited := 0, readyFor := 0,
                     subs := q.subs.filter (fun b => decide (b.1 ≠ q.head ∧ (b.1 - q.head).toNat < 2 ^ 31)) }
  let s := match q.state with
    | .stopping => stopOn (s.setQueue qi q') qi
    | _ =>
      let s := s.setQueue qi q'
      if q.slot.isSome && !q.ondeck && overQuota s (s.ctx (hIndex q.owner)).part then benchQueue s qi else s
  applyNewPart { s with far := s.far.filter (fun x => x.unit ≠ qi) } (hIndex q.owner)

/-- The completion is written, CQ_TAIL advances, the context is lost where the status says so, and the queue goes on (R501). -/
def finishCmd (s : State) (qi : Nat) (status flags : W16) : State :=
  let r := completionOf s qi status flags
  let s := cqStep (writeCompletion s qi r) qi
  let s := if losesContext status then loseCtx s (hIndex (s.queue qi).owner) (headSeq s qi) else s
  retire s qi

/-- The atomic maximum that signals a fence, leaving ABANDONED (R511). -/
def fenceMax (old value : Nat) : Nat := old / 2 ^ 63 * 2 ^ 63 + max (old % 2 ^ 63) value

/-- A local fence word is changed; false where its line refuses it. -/
def fenceUpdate (s : State) (a : Nat) (f : Nat → Nat) : Bool × State :=
  match memLoadNat s a 8 with
  | (none, s) => (false, s)
  | (some v, s) => memStoreNat s a 8 (f v)

/-- A signal to a fence in host memory, by RDMA WRITE; one that its registration refuses is a refused completion (R511, R541). -/
def hostSignal (s : State) (qi k off value : Nat) (status flags : W16) : State :=
  let q := s.queue qi
  if keyAllows s k q.owner off 8 then
    let s := s.setQueue qi { q with phase := .signalling status flags }
    let e := s.key k
    qpWrite 1 s e.qp e.rkey (e.base + off) (leBytes 8 value) (.signal qi)
  else
    let s := hostRefused s (hIndex q.owner) (completionOf s qi status flags) k
    retire (cqStep s qi) qi

/-- The signal of a completing command, then its completion (R501, R511, R512). -/
def doSignal (s : State) (qi : Nat) (status flags : W16) : State :=
  let q := s.queue qi
  if status = stFenceAbandoned ∧ q.hasSignal then
    match xlateBy s none q.owner permitSignal q.signalAddr with
    | (.ok (.mem a), s) => finishCmd (fenceUpdate s a (fun v => v % 2 ^ 63 + 2 ^ 63)).2 qi status flags
    | (.ok (.remote d a), s) =>
      finishCmd (remoteAtomic s d a 0x86 (leBytes 8 (2 ^ 63)) (.notice q.owner)).2 qi status flags
    | (.ok (.host k off), s) =>
      let (v, s) := s.fresh
      hostSignal s qi k off (2 ^ 63 + v.toNat % 2 ^ 63) status flags
    | (_, s) => finishCmd s qi status flags
  else if (status = stOk ∨ status = stHostlost) ∧ q.hasSignal then
    let wait (s : State) : State := s.setQueue qi { s.queue qi with phase := .signalling status flags }
    match xlateBy s none q.owner permitSignal q.signalAddr with
    | (.error e, s) => finishCmd s qi e flags
    | (.ok (.mem a), s) =>
      let (ok, s) := fenceUpdate s a (fun v => fenceMax v q.signalValue)
      finishCmd s qi (if ok then status else stDataError) flags
    | (.ok (.remote d a), s) =>
      let (ok, s) := remoteAtomic s d a 0x84 (leBytes 8 q.signalValue) (.signal qi)
      if ok then wait s else finishCmd s qi stAccessFault flags
    | (.ok (.host k off), s) =>
      hostSignal s qi k off q.signalValue status flags
  else finishCmd s qi status flags

/-! ### What the referee keeps of a command that ends (spec/15 R756, R758 to R760, R771) -/

/-- REF_STATUS follows the recoveries in progress (R772). -/
def refShow (s : State) : State :=
  let level := s.recoveries.foldl (fun m r => max m (r.level + 1)) 0
  let hard : Bool := s.recoveries.any (fun r => decide (1 ≤ r.level))
  let replay : Bool := s.recoveries.any (fun r => r.replay.isSome)
  ((s.setFld F.refStatusLevel 0 level).setFld F.refStatusRecovering 0 (if hard then 1 else 0)).setFld F.refStatusReplaying 0
    (if replay then 1 else 0)

/-- The referee's record of a suspect (R771). -/
def refRecord (s : State) (r : Recovery) (x : Suspect) (st : W16) : State :=
  let q := s.queue x.q
  let entry := match q.cmd with
    | none => q.head
    | some c => c.entry
  let lost := (r.dropped.filter (fun d => x.units.contains d.1)).foldl (fun n d => n + d.2) 0
  faultRecord s (recordWords st (if x.overran then 0x20 else 0x21) q.owner r.since 0
    (min (2 ^ 32 - 1) ((x.budgetEnd - x.began) / 1000)) r.level entry.toNat 0 lost)

/-- The bit of a reset unit in the mask of RESET_TRANSIENT, by the numbers of R730 (R797). -/
def ResetUnit.mask : ResetUnit → Nat
  | .court n => 2 ^ n
  | .quarter q => 2 ^ (16 + q)
  | .raster q => 2 ^ (20 + q)
  | .pipe _ => 0
  | .channel _ => 0
  | .port _ => 0

/-- The inspections that a second transient starts (R760, R776). -/
def ResetUnit.inspections : ResetUnit → List Inspect
  | .court n => [{ kind := 0, unit := n }]
  | .quarter q => (List.range 17).map (fun c => { kind := 1, unit := 17 * q + c })
  | _ => []

/-- A recovery whose suspects all came through was a transient (R760). -/
def refTransient (s : State) (r : Recovery) : State :=
  let recent := s.referee.transients.filter (fun t => decide (s.now ≤ t.1 + 3600000000000))
  let again : Bool := recent.any (fun t => t.2.any (fun u => r.units.contains u))
  let s := event (s.bump F.refTransientsCount) 0x0E03 0 r.level (r.units.foldl (fun m u => m ||| u.mask) 0)
  let s := { s with referee := { s.referee with transients := recent ++ [(s.now, r.units)] } }
  if again then ((r.units.map ResetUnit.inspections).flatten).foldl inspectQueue s else s

/-- A recovery whose suspects have all been judged ends (R759 to R761). -/
def recoveryEnd (s : State) (r : Recovery) : State :=
  let s := { s with recoveries := s.recoveries.filter (fun x => x.id ≠ r.id) }
  let s := if 1 ≤ r.level ∧ r.guilty = false then refTransient s r else s
  let s := if r.level = 3 then
      event (s.setFld F.feSchedCfgMode 0 s.referee.modeBefore) 0x0E02 0 ((s.now - r.since) / 1000)
    else s
  refShow s

/-- A recovery as it now stands; it ends once its reset has ended and its suspects have been judged. -/
def recoveryPut (s : State) (r : Recovery) : State :=
  let s := { s with recoveries := s.recoveries.map (fun x => if x.id = r.id then r else x) }
  if r.ended && r.replay.isNone && r.suspects.all (fun x => x.judged) then recoveryEnd s r else refShow s

/-- A suspect has its final status: its record is written (R769, R771), and its recovery goes on (R756). -/
def suspectJudged (s : State) (r : Recovery) (x : Suspect) (st : W16) : State :=
  let s := refRecord s r x st
  let s := if st = stReplayGuilty then s.bump F.refGuiltyCount
           else if st = stResetVictim then s.bump F.refVictimsCount
           else s
  recoveryPut s { r with
    suspects := r.suspects.map (fun y => if y.q = x.q then { y with judged := true } else y)
    replay := if r.replay = some x.q then none else r.replay
    guilty := r.guilty || decide (st = stReplayGuilty) }

/-- A replay ends with a status (R756). -/
def replayOver (s : State) (qi : Nat) (st : W16) : State :=
  match s.recoveries.find? (fun r => r.replay = some qi) with
  | none => s
  | some r =>
    match r.suspects.find? (fun x => x.q = qi) with
    | none => s
    | some x => suspectJudged s r x st

/-- A command whose results are all visible, and whose fallback ring has room, signals and completes (R501, R542). One that the
referee has stopped is held (R743, R746); a replay that ends within its budget has REPLAYED, and one that overran again ends with
REPLAY_GUILTY (R21, R756). -/
def advance (s : State) (qi : Nat) : State :=
  let q := s.queue qi
  match q.phase with
  | .draining status flags =>
    if outstanding s qi then s
    else if q.replaying = false ∧ status = stRefStop then s.setQueue qi { q with phase := .halted }
    else
      let st := if status = stRefStop then stReplayGuilty else status
      let fl := if q.replaying ∧ status ≠ stRefStop then flags ||| 1 else flags
      let s := if q.replaying then
          (replayOver s qi st).setQueue qi { (replayOver s qi st).queue qi with phase := .draining st fl }
        else s
      let c := s.ctx (hIndex q.owner)
      if c.useFb && c.fbFull then s else doSignal s qi st fl
  | _ => s

/-- The head command of a queue completes with a status. -/
def complete (s : State) (qi : Nat) (status : W16) : State :=
  let q := s.queue qi
  advance (s.setQueue qi { q with phase := .draining status q.flags }) qi

/-- A running command must stop with a status; the first request stands. -/
def requestStop (s : State) (qi : Nat) (status : W16) : State :=
  let q := s.queue qi
  match q.stopReq with
  | some _ => s
  | none => s.setQueue qi { q with stopReq := some status }

/-- A store of a context within one page: the status it fails with, or none. A local line may refuse it (R431); a store to
another device or to the host leaves as a request for `pu` (R33, R574, R575). -/
def ctxStorePage (s : State) (holder : Option Holder) (h : W32) (va : Nat) (bs : List Byte) (pu : Purpose) :
    Option W16 × State :=
  match xlate s holder h .store va with
  | (.error e, s) => (some e, s)
  | (.ok (.mem a), s) =>
    let (ok, s) := memStore s a bs
    (if ok then none else some stDataError, s)
  | (.ok (.remote d a), s) =>
    let (ok, s) := remoteWrite s d a bs 0 pu
    (if ok then none else some stAccessFault, s)
  | (.ok (.host k off), s) =>
    if keyAllows s k h off bs.length then
      let e := s.key k
      (none, qpWrite (bs.length + 1) s e.qp e.rkey (e.base + off) bs pu)
    else (some stAccessFault, s)

/-- A store of a context, split at 1 KiB boundaries so that no packet crosses a page or passes 1,024 bytes (R618, R619). `fuel`
bounds the pieces. -/
def ctxStoreN (fuel : Nat) (s : State) (holder : Option Holder) (h : W32) (va : Nat) (bs : List Byte) (pu : Purpose) :
    Option W16 × State :=
  match fuel with
  | 0 => (none, s)
  | fuel + 1 =>
    if bs.isEmpty then (none, s)
    else
      let k := 1024 - va % 1024
      match ctxStorePage s holder h va (bs.take k) pu with
      | (some e, s) => (some e, s)
      | (none, s) => ctxStoreN fuel s holder h (va + k) (bs.drop k) pu

/-- A store of a context. -/
def ctxStore (s : State) (holder : Option Holder) (h : W32) (va : Nat) (bs : List Byte) (pu : Purpose) :
    Option W16 × State := ctxStoreN (bs.length + 1) s holder h va bs pu

/-- A fence signal by a unit that is no command's: an atomic maximum of `v` (R412, R587); the status it fails with, or none. -/
def unitSignal (s : State) (holder : Option Holder) (h : W32) (va v : Nat) : Option W16 × State :=
  match xlateBy s holder h permitSignal va with
  | (.error e, s) => (some e, s)
  | (.ok (.mem a), s) =>
    let (ok, s) := fenceUpdate s a (fun x => fenceMax x v)
    (if ok then none else some stDataError, s)
  | (.ok (.remote d a), s) =>
    let (ok, s) := remoteAtomic s d a 0x84 (leBytes 8 v) (.notice h)
    (if ok then none else some stAccessFault, s)
  | (.ok (.host k off), s) =>
    if keyAllows s k h off 8 then
      let e := s.key k
      (none, qpWrite 1 s e.qp e.rkey (e.base + off) (leBytes 8 v) (.notice h))
    else (none, hostGone s (hIndex h) k)

/-- A store or load of a command failed (R575, R631): the command ends with the status, whether it runs or only waits for its
answers. -/
def accessFailed (s : State) (qi : Nat) (st : W16) : State :=
  let q := s.queue qi
  match q.phase with
  | .running => requestStop s qi st
  | .draining old fl => s.setQueue qi { q with phase := .draining (if old = stOk then st else old) fl }
  | _ => s

/-- What is left of a completion that names a destroyed context is dropped and counted (R480). -/
def completionStale (s : State) : State := s.bump F.feStaleCountCount

/-- A completion that another device refused: the context is lost and the completion goes to the fallback ring (R503, R631). -/
def completionLost (s : State) (i : Nat) (r : Completion) : State :=
  match (s.ctx i).state with
  | .free | .destroying => s
  | _ => toFallback (loseCtx s i (r.seq s)) i r

end Sys2Proof.Machine
end

