-- ==== Sys2Proof/Machine/LifeCycle.lean ====
section
/-! DEFINITION. The one life cycle that composer pipes, Ethernet ports, Ihlique ports, compression channels and power domains
share (R375, R551, R607, R651, R677), the starting and stopping of domains, and the arithmetic rail. -/

namespace Sys2Proof.Machine

/-! ### The arithmetic rail (R687 to R689, R720) -/

/-- A signed 8-bit temperature. -/
def degrees (x : Nat) : Int := (BitVec.ofNat 8 x).toInt

/-- A little-endian number in the calibration record in force. -/
def calNat (s : State) (off n : Nat) : Nat := leNat ((s.stw.cal.drop off).take n)

/-- The band of the AVS table for a temperature (R687). -/
def avsBand (t : Int) : Nat := if t ≤ 70 then 0 else if t ≤ 85 then 1 else if t ≤ 95 then 2 else 3

/-- The AVS table's entry for a clock and a band, in mV; 0 is no entry (R687, R839; log 102). -/
def avsEntry (s : State) (mhz band : Nat) : Nat := calNat s (0x140 + 2 * (4 * ((mhz - 625) / 25) + band)) 2

/-- The entry that the rail follows: that of the clock and of the hottest junction sensor's band, or in fixed-frequency mode that of
1,250 MHz in the last band (R687, R720). -/
def avsNow (s : State) : Nat :=
  if s.fld F.pwrFixedModeEn = 1 then avsEntry s 1250 3
  else avsEntry s (s.fld F.pwrStatusArithMhz) (avsBand (degrees (s.fld F.pwrTempMaxTemp)))

/-- The AVSBus controller sets the arithmetic rail, clamped to its fused ceiling (R688). -/
def railCommand (s : State) (mv : Nat) : State :=
  let v := min mv (min 900 (Config.railCeiling 0))
  ({ s with power := { s.power with railAsked := mv, railMv := v } }).emit (.avs v)

/-- The rail's target follows the clock, the temperature and the heavy phases; without an entry it stays (R687, R689; log 102). -/
def railFollow (s : State) : State :=
  let e := avsNow s
  let mv := e + (if s.fld F.pwrStatusHeavy = 1 then s.fld F.pwrVoltCfgHeavyMv else 0)
  if e = 0 ∨ mv = s.power.railAsked then s else railCommand s mv

/-! ### Life cycles -/

/-- What a unit's life cycle reacts to. -/
inductive LcEvent where
  | enable | disable | up | down
deriving DecidableEq, Repr

/-- What a life cycle does on a transition. -/
inductive LcAct where
  | begin | run | halt | off
deriving DecidableEq, Repr

/-- The next STATE code and the actions of one event. -/
def lcNext (st : Nat) : LcEvent → Nat × List LcAct
  | .enable =>
    if st = lcOff then (lcStarting, [.begin])
    else if st = lcPendingOff then (lcStarting, [])
    else if st = lcStopping then (lcPendingOn, [])
    else (st, [])
  | .disable =>
    if st = lcStarting then (lcPendingOff, [])
    else if st = lcOn then (lcStopping, [.halt])
    else if st = lcPendingOn then (lcStopping, [])
    else (st, [])
  | .up =>
    if st = lcStarting then (lcOn, [.run])
    else if st = lcPendingOff then (lcStopping, [.run, .halt])
    else (st, [])
  | .down =>
    if st = lcStopping then (lcOff, [.off])
    else if st = lcPendingOn then (lcStarting, [.off, .begin])
    else (st, [])

/-- The domains of R676. -/
abbrev domRaster : Nat := 20
abbrev domComposer : Nat := 21
abbrev domCompression : Nat := 22
abbrev domIhlique : Nat := 23
abbrev domEth0 : Nat := 24
abbrev domEth1 : Nat := 25
abbrev domLpddr : Nat := 26
abbrev domStacked : Nat := 27
abbrev domFabric : Nat := 28

/-- Whether a domain holds its edge pads when it leaves ON (R676). -/
def domHasPads (d : Nat) : Bool := decide (d ∈ [21, 23, 24, 25, 26, 27])

/-- A domain's STATE code. -/
def State.domState (s : State) (d : Nat) : Nat := s.fld F.pwrDomainStatusState d

/-- Whether a domain is ON. -/
def State.domOn (s : State) (d : Nat) : Bool := s.domState d = lcOn

/-- Whether a domain is permitted: the fixed domains always are (R733). -/
def State.domPermitted (s : State) (d : Nat) : Bool :=
  if 26 ≤ d then true else natBit (s.fld F.pwrDomainPermitPermit) d

/-- A court's or quarter's SCRUBBING while its domain starts: the scrub of R159 and R303 is pending. -/
def scrubAhead (s : State) (d : Nat) : State :=
  if d < 16 then s.setFld F.fldCourtStatusScrubbing d 1
  else if d < 20 then s.setFld F.shaQuarterStatusScrubbing (d - 16) 1
  else s

/-- A transition of a domain: a scrub is pending where a court's or quarter's start begins, and the edge pads latch when it leaves ON
(R162, R679). -/
def domEvent (s : State) (d : Nat) (e : LcEvent) : State :=
  let (n, acts) := lcNext (s.domState d) e
  let s := s.setFld F.pwrDomainStatusState d n
  let on := if n = lcOn then 1 else 0
  let s := if d < 16 then s.setFld F.fldCourtStatusDomainOn d on
           else if d < 20 then s.setFld F.shaQuarterStatusDomainOn (d - 16) on
           else s
  let s := if acts.contains .begin then scrubAhead s d else s
  if acts.contains .halt && domHasPads d then s.setFld F.pwrDomainStatusPadsHeld d 1 else s

/-- A start of a domain: false where it is not permitted (R715). -/
def domStart (s : State) (d : Nat) : Bool × State :=
  if s.domPermitted d then (true, domEvent s d .enable) else (false, s)

/-- A stop of a domain. -/
def domStop (s : State) (d : Nat) : State := domEvent s d .disable

/-- Whether the main fabric is ON, so that every register block responds (R42). -/
def State.fabricOn (s : State) : Bool := s.domOn domFabric

/-- Whether a block lives in the always-on domain (R40, R43), and whether a register family's does. -/
def alwaysOnBlock (b : Nat) : Bool := decide (b = 0 ∨ b = 1 ∨ b = 0x0B ∨ b = 0x0F)
def alwaysOnFam (fam : Nat) : Bool := alwaysOnBlock (((regDesc fam).addr - 0x7F00000000) / 0x1000000)

/-- A management command ends with a status. -/
def State.answer (s : State) (st : W16) : State := { s with mgmt := st }

/-- Whether an engine-level or higher reset of a unit is in progress: its fence is closed (R747). -/
def unitFenced (s : State) (u : ResetUnit) : Bool :=
  s.recoveries.any (fun r => decide (1 ≤ r.level ∧ r.ended = false) && r.units.contains u)

/-! ### Power states (spec/14 R694 to R699) -/

/-- The codes of STATE in PWR_STATE_STATUS (R733). -/
abbrev pwActive : Nat := 0
abbrev pwIdle : Nat := 1
abbrev pwStandby : Nat := 2
abbrev pwWatch : Nat := 3
abbrev pwTripped : Nat := 4

/-- The device's power state. -/
def State.powerState (s : State) : Nat := s.fld F.pwrStateStatusState

/-- Whether a chip-level recovery is short of its step 8 (R761). -/
def chipRecovers (s : State) : Bool := s.recoveries.any (fun r => decide (r.level = 3 ∧ r.ended = false))

/-- Whether management requests are held: from an entry's decision to the return to ACTIVE, until step 8 of a chip-level recovery,
and for good in TRIPPED (R700, R727, R765). -/
def mgmtHeld (s : State) : Bool := s.power.entering.isSome || decide (pwStandby ≤ s.powerState) || chipRecovers s

/-- Whether the boot has reached READY: management requests arrive only then, on the queue pairs that the boot starts (R817). -/
def bootReady (s : State) : Bool := decide (s.fld F.stwBootStatusState = 1)

/-- A management write of a register of family `fam`, of unit `u` if it is one unit's: nothing while the device is OFF or stopped
for a power cycle (R767) or holds management requests (R700), refused while its block does not respond (R42) or its unit is fenced (R747), else performed. -/
def guarded (s : State) (fam : Nat) (f : State → State) (u : Option ResetUnit := none) : State :=
  let fenced : Bool := match u with
    | none => false
    | some u => unitFenced s u
  if !s.power.on || !bootReady s || s.referee.cycling || mgmtHeld s then s
  else if (alwaysOnFam fam || s.fabricOn) && !fenced then f s
  else s.answer stBusy

/-- A huddle ends without an entry: RESULT 2 REFUSED or 3 WOKEN (R696, R699). -/
def huddleOver (s : State) (result refuser reason : Nat) : State :=
  let s := (s.setFld F.pwrStateStatusHuddle 0 0).setFld F.pwrStateStatusResult 0 result
  let s := (s.setFld F.pwrStateStatusRefuser 0 refuser).setFld F.pwrStateStatusReason 0 reason
  let s := s.setFld F.pwrStateStatusState 0 pwActive
  { s with
    power := { s.power with huddle := none }
    jobs := s.jobs.map (fun j => if j.wait = some .huddle then { j with wait := some (.answered stBusy) } else j)
    mgmt := stBusy }

/-- A wake event that sets `bits` of PWR_WAKE_CAUSE (R699, R704). -/
def wakeEvent (s : State) (bits : Nat) : State :=
  if s.power.huddle.isSome then huddleOver s 3 0 0
  else if s.power.waking then s
  else if s.power.entering.isSome ∨ s.powerState = pwStandby ∨ s.powerState = pwWatch then
    { s with power := { s.power with wake := s.power.wake ||| bits } }
  else s

/-- The device leaves IDLE, and the interval before it starts again (R695). -/
def idleLeave (s : State) : State :=
  let s : State := { s with power := { s.power with idleSince := none } }
  if s.powerState = pwIdle then s.setFld F.pwrStateStatusState 0 pwActive else s

/-- A command has become ready: a wake event in ACTIVE and IDLE (R695, R699). -/
def workBegins (s : State) : State :=
  if s.power.huddle.isSome then huddleOver s 3 0 0 else idleLeave s

/-- Whether the front end works: the fabric is ON, the device is in ACTIVE or IDLE and not on its way out of it, and no chip-level
recovery is short of its step 8 (R694, R700, R704, R761). -/
def feRuns (s : State) : Bool :=
  s.fabricOn && !s.referee.cycling && decide (s.powerState ≤ pwIdle) && s.power.entering.isNone && !chipRecovers s

end Sys2Proof.Machine
end

