-- ==== Sys2Proof/Machine/Fe.lean ====
section
/-! DEFINITION. The front end's operations: context and queue records, ring entries, doorbells (spec/10 R481 to R508). -/

namespace Sys2Proof.Machine

/-- The partition of quarter `n` in force, if it belongs to one (R546). -/
def quarterPart (s : State) (n : Nat) : Option Nat :=
  let v := s.rd Reg.fePartUnits
  if natBit (bitsOf v 19 16) n then some (bitsOf v (4 * n + 3) (4 * n)) else none

/-- The partition of court `n` in force, if it belongs to one (R167, R168). -/
def courtPart (s : State) (n : Nat) : Option Nat :=
  if natBit (s.fld F.fldPartValidCourtIn) n then some (bitsOf (s.rd Reg.fldPartCfg) (4 * n + 3) (4 * n)) else none

/-- The partition of raster front end `n`: its quarter's, if RASTER_IN is set (R49). -/
def rasterPart (s : State) (n : Nat) : Option Nat :=
  if natBit (bitsOf (s.rd Reg.fePartUnits) 23 20) n then quarterPart s n else none

/-- The courts, quarters and front ends of a partition, in ascending order. -/
def partCourts (s : State) (p : Nat) : List Nat := (List.range 16).filter (fun n => courtPart s n = some p)
def partQuarters (s : State) (p : Nat) : List Nat := (List.range 4).filter (fun n => quarterPart s n = some p)
def partRasters (s : State) (p : Nat) : List Nat := (List.range 4).filter (fun n => rasterPart s n = some p)

/-- Whether a partition holds a court or a quarter in force. -/
def partHolds (s : State) (p : Nat) : Bool := !(partCourts s p).isEmpty || !(partQuarters s p).isEmpty

/-- The outcome of FE_OP, in FE_OP_RESULT and as the management status (R484). -/
def feResult (s : State) (st : W16) (state handle : Nat) : State :=
  (s.wr Reg.feOpResult 0 (BitVec.ofNat 64 (st.toNat * 2 ^ 48 + state % 16 * 2 ^ 44 + handle % 2 ^ 32))).answer st

/-- A record of a table in device memory: its 64-bit words, or the status of R881. -/
def readRecord (s : State) (a words : Nat) : (Except W16 (List W64)) × State :=
  if !s.exists? a then (.error stAccessFault, s)
  else
    match memLoad s a (8 * words) with
    | (none, s) => (.error stDataError, s)
    | (some bs, s) => (.ok (tabulate words (fun i => BitVec.ofNat 64 (leNat ((bs.drop (8 * i)).take 8)))), s)

def ctxRecordAddr (s : State) (i : Nat) : Nat := s.fld F.feCtxTableBaseAddr * 65536 + 64 * i

/-- The checks of R485 on words 2 to 4. -/
def ctxWordsOk (s : State) (w2 w3 w4 : W64) : Bool :=
  partHolds s (bitsOf w2 63 60) &&
  decide (bitsOf w2 59 40 ≤ 600000 ∧ bitsOf w2 39 24 ≤ 60000 ∧ bitsOf w2 23 0 = 0 ∧
    bitsOf w3 63 40 = 0 ∧ bitsOf w3 7 0 = 0 ∧ 6 ≤ bitsOf w3 11 8 ∧ bitsOf w3 11 8 ≤ 15 ∧
    bitsOf w4 47 40 = 0 ∧ bitsOf w4 2 0 = 0)

/-- The checks of R485 on words 0, 1 and 5 to 7. -/
def ctxRootsOk (s : State) (w : List W64) : Bool :=
  let w0 := w.getD 0 0
  let w1 := w.getD 1 0
  decide (bitsOf w0 63 40 = 0 ∧ bitsOf w0 11 0 = 0 ∧ bitsOf w1 63 40 = 0 ∧ bitsOf w1 11 1 = 0 ∧
    w.getD 5 0 = 0 ∧ w.getD 6 0 = 0 ∧ w.getD 7 0 = 0) &&
  s.usable (pteAddr w0) && s.usable (pteAddr w1)

/-- FB_LOG2 has four bits, so 15 is its largest value; words 2 to 4 as CREATE and SET apply them (R481). -/
def Ctx.limits (c : Ctx) (w2 w3 w4 : W64) : Ctx :=
  { c with
    waitMs := if bitsOf w2 59 40 = 0 then 10000 else bitsOf w2 59 40
    shaderMs := if bitsOf w2 39 24 = 0 then 2000 else bitsOf w2 39 24
    fbBase := pteAddr w3
    fbLog2 := bitsOf w3 11 8
    fenceCount := bitsOf w4 63 48
    fenceList := bitsOf w4 39 3 * 8 }

/-- CREATE (R484, R485, R487). -/
def feCreate (s : State) (arg : W32) : State :=
  let i := arg.toNat
  if 4095 < i then feResult s stInvalid 0 0
  else if (s.ctx i).state ≠ .free then feResult s stBusy 0 0
  else if s.fld F.memSdCommitGo = 1 then feResult s stBusy 0 0
  else
    match readRecord s (ctxRecordAddr s i) 8 with
    | (.error st, s) => feResult s st 0 0
    | (.ok w, s) =>
      if ctxRootsOk s w && ctxWordsOk s (w.getD 2 0) (w.getD 3 0) (w.getD 4 0) then
        let g := nextGen 20 (s.ctx i).gen
        let c : Ctx := { state := .active, gen := g, root0 := pteAddr (w.getD 0 0), root1 := pteAddr (w.getD 1 0),
                         sel := bitsOf (w.getD 1 0) 0 0 = 1, part := bitsOf (w.getD 2 0) 63 60 }
        let s := s.setCtx i (c.limits (w.getD 2 0) (w.getD 3 0) (w.getD 4 0))
        feResult s stOk 0 (mkHandle i g).toNat
      else feResult s stInvalid 0 0

/-- A stale management operation: dropped, counted, INVALID_COMMAND (R480). -/
def feStale (s : State) : State := feResult (s.bump F.feStaleCountCount) stInvalid 0 0

/-- The STATE that QUERY reports (R487). -/
def CtxState.code : CtxState → Nat
  | .free => 0
  | .active => 1
  | .hostlost => 2
  | .lost => 3
  | .destroying => 4

/-- The queues that a context owns and that are not FREE, in ascending order. -/
def queuesOf (s : State) (h : W32) : List Nat :=
  (s.queues.filter (fun kv => kv.2.state ≠ .free && kv.2.owner = h)).map (·.1)

/-- The checks of R499 on a descriptor. -/
def descriptorOk (w : List W64) : Bool :=
  let w0 := w.getD 0 0
  let kind := bitsOf w0 63 56
  let wait := bitsOf w0 52 52 = 1
  let sig := bitsOf w0 51 51 = 1
  let arg := w.getD 2 0
  decide (kind ≤ 8) &&
  decide (bitsOf w0 55 53 = (if kind = 2 then 4 else 0)) &&
  decide (¬ wait ∨ ((w.getD 4 0).toNat < 2 ^ 63 ∧ bitsOf (w.getD 3 0) 18 16 = 0)) &&
  decide (¬ sig ∨ ((w.getD 6 0).toNat < 2 ^ 63 ∧ bitsOf (w.getD 5 0) 18 16 = 0)) &&
  decide (bitsOf w0 50 32 = 0 ∧ bitsOf (w.getD 1 0) 15 0 = 0 ∧ bitsOf (w.getD 3 0) 15 0 = 0 ∧ bitsOf (w.getD 5 0) 15 0 = 0 ∧
    w.getD 7 0 = 0) &&
  (match kind with
   | 0 => decide (bitsOf (w.getD 1 0) 63 16 = 0 ∧ arg = 0)
   | 1 => decide (bitsOf arg 15 0 = 0 ∧ bitsOf arg 18 16 = 0)
   | 2 => decide (bitsOf arg 19 0 = 0)
   | 8 => decide (bitsOf (w.getD 1 0) 63 16 = 0 ∧ arg = 0)
   | _ => decide (arg = 0))

/-- A ring entry cannot be read: one completion stands in its place, with TAG 0, and the owner is lost (R490). -/
def ringFault (s : State) (qi : Nat) (st : W16) : State :=
  let q := s.queue qi
  let lost := (s.ctx (hIndex q.owner)).state = .lost
  let s := s.setQueue qi { q with head := q.head + 1, cmd := some { words := [], entry := q.head } }
  finishCmd s qi (if lost then stContextLost else st) 0

/-- Whether the head command of a queue was submitted later than one whose completion lost the context (R20). -/
def lostFor (s : State) (q : Queue) : Bool :=
  let c := s.ctx (hIndex q.owner)
  decide (c.state = .lost ∧ c.lostAt ≤ seqOf q (match q.cmd with
    | none => q.head
    | some x => x.entry))

/-- Whether a context's commands may run as far as its state goes: it is ACTIVE, or it is LOST and the command was submitted
before the one that lost it (R20). -/
def ctxRuns (s : State) (q : Queue) : Bool :=
  match (s.ctx (hIndex q.owner)).state with
  | .active => true
  | .lost => !(s.ctx (hIndex q.owner)).useFb && !lostFor s q
  | _ => false

/-- A fetched command is checked (R20, R499); what passes waits on its fence or is ready. A HOSTLOST context fetches nothing
(R541). -/
def checkCmd (s : State) (qi : Nat) : State :=
  let q := s.queue qi
  match q.cmd with
  | none => s
  | some c =>
    let ctx := s.ctx (hIndex q.owner)
    let runs := ctxRuns s q
    let late := lostFor s q
    let s1 := keepRecord (s.setQueue qi { q with head := c.entry + BitVec.ofNat 32 (occupancy (c.words.getD 0 0)), since := s.now,
                                                 phase := .ready }) qi
    if runs then
      if !descriptorOk c.words then finishCmd s1 qi stInvalid 0
      else
        let q := s1.queue qi
        if q.hasWait then s1.setQueue qi { q with phase := .waiting, waitMs := ctx.waitMs } else workBegins s1
    else if ctx.state = .destroying then finishCmd s1 qi stAborted 0
    else if late then finishCmd s1 qi stContextLost 0
    else s.setQueue qi { q with phase := .empty, cmd := none }

/-- Whether TAIL covers the entries that the fetched descriptor occupies (R497). -/
def covered (q : Queue) : Bool :=
  match q.cmd with
  | none => decide ((q.tail - q.head).toNat ≠ 0)
  | some c => decide (occupancy (c.words.getD 0 0) ≤ (q.tail - c.entry).toNat)

/-- Fetching goes on once TAIL covers the command: its descriptor is read, over the links where it lies on another device, and checked.
`fuel` bounds the reads. -/
def fetchOn (fuel : Nat) (s : State) (qi : Nat) : State :=
  match fuel with
  | 0 => s
  | fuel + 1 =>
    let q := s.queue qi
    if !covered q then s.setQueue qi { q with phase := .empty, cmd := none }
    else if q.cmd.isSome then checkCmd s qi
    else
      match readEntry s q q.head.toNat with
      | (.error e, s) => ringFault s qi e
      | (.ok (.inl bs), s) => fetchOn fuel (absorb s qi bs) qi
      | (.ok (.inr (.remote d a)), s) =>
        let (ok, s) := remoteRead s d a 64 0 (.ring qi)
        if ok then s.setQueue qi { s.queue qi with phase := .fetching } else ringFault s qi stAccessFault
      | (.ok (.inr _), s) => ringFault s qi stAccessFault

/-- Whether the device fetches for a queue: it is ACTIVE and its context is neither HOSTLOST nor DESTROYING (R487, R541). -/
def fetches (s : State) (q : Queue) : Bool :=
  decide (q.state = .active) && (match (s.ctx (hIndex q.owner)).state with
    | .active => true
    | .lost => !(s.ctx (hIndex q.owner)).useFb
    | _ => false)

/-- A queue begins to stop (R493): fetching ends, unstarted commands complete with ABORTED, and with nothing running the queue
is FREE at once. -/
def stopQueue (s : State) (qi : Nat) : State :=
  let q := s.queue qi
  stopOn (s.setQueue qi { q with state := .stopping, preloaded := false }) qi

/-- Whether a partition-level or chip-level recovery is in progress (R540): REF_STATUS says so. -/
def recovering (s : State) : Bool := decide (s.fld F.refStatusRecovering = 1 ∧ 3 ≤ s.fld F.refStatusLevel)

/-- Steps 1 and 2 of destruction: the context's queues stop and its running commands are asked to (R536). -/
def destroyBegin (s : State) (i : Nat) : State :=
  let h := s.handleOf i
  let qs := queuesOf s h
  let s := s.setCtx i { s.ctx i with destroyAt := s.now, destroyStep := 1 }
  let s := qs.foldl stopQueue s
  qs.foldl (fun s qi => if (s.queue qi).phase = .running then requestStop s qi stAborted else s) s

/-- The completions held for a full fallback ring go to their places in the completion rings of a context that is destroyed, where they
can be written (R537, R542): they are the last ones of their queues. -/
def placeHeld (s : State) (i : Nat) : State :=
  let rs := (s.ctx i).held
  rs.zipIdx.foldl (fun s x =>
    let after := ((rs.drop x.2).filter (fun r => r.queue = x.1.queue)).length
    let qi := qIndex x.1.queue
    if s.staleQueue x.1.queue then s else writeCompletionAt s qi ((s.queue qi).cqTail - BitVec.ofNat 32 after) x.1)
    (s.setCtx i { s.ctx i with held := [] })

/-- DESTROY (R484, R487, R536, R537, R540). What waited for room in the fallback ring goes on. -/
def feDestroy (s : State) (h : W32) : State :=
  let i := hIndex h
  if s.staleCtx h then feStale s
  else if (s.ctx i).state = .destroying then feResult s stOk 0 0
  else
    let s := s.setCtx i { s.ctx i with state := .destroying, destroyAt := s.now, destroyStep := 0, useFb := false }
    let s := (queuesOf s h).foldl advance (placeHeld s i)
    let s := if recovering s then s else destroyBegin s i
    feResult s stOk 0 0

/-- SET (R484, R486, R487). -/
def feSet (s : State) (h : W32) : State :=
  let i := hIndex h
  if s.staleCtx h then feStale s
  else
    match (s.ctx i).state with
    | .destroying => feResult s stBusy 0 0
    | .lost => feResult s stInvalid 0 0
    | _ =>
      match readRecord s (ctxRecordAddr s i + 16) 3 with
      | (.error st, s) => feResult s st 0 0
      | (.ok w, s) =>
        if ctxWordsOk s (w.getD 0 0) (w.getD 1 0) (w.getD 2 0) then
          let c := (s.ctx i).limits (w.getD 0 0) (w.getD 1 0) (w.getD 2 0)
          let p := bitsOf (w.getD 0 0) 63 60
          let s := s.setCtx i { c with newPart := if p = c.part then none else some p }
          feResult (applyNewPart s i) stOk 0 0
        else feResult s stInvalid 0 0

/-- The completions held while the fallback ring was full go to it, as far as it has room (R542). `fuel` bounds them. -/
def flushHeld (fuel : Nat) (s : State) (i : Nat) : State :=
  match fuel with
  | 0 => s
  | fuel + 1 =>
    let c := s.ctx i
    match c.held with
    | [] => s
    | r :: rest => flushHeld fuel (toFallback (s.setCtx i { c with held := rest }) i r) i

/-- RESUME (R487, R543): the fallback ring is empty, the held completions go out and fetching goes on. -/
def feResume (s : State) (h : W32) : State :=
  let i := hIndex h
  if s.staleCtx h then feStale s
  else
    match (s.ctx i).state with
    | .destroying => feResult s stBusy 0 0
    | .hostlost =>
      let c := s.ctx i
      let s := s.setCtx i { c with state := .active, useFb := false, fbCount := 0 }
      let s := flushHeld (c.held.length) s i
      let s := (queuesOf s h).foldl (fun s qi =>
        let q := s.queue qi
        if q.phase = .waiting then s.setQueue qi { q with since := s.now } else advance s qi) s
      feResult s stOk 0 0
    | _ => feResult s stInvalid 0 0

/-- QUERY: the context's state, and its fallback producer count in HANDLE (R487, R542). -/
def feQuery (s : State) (h : W32) : State :=
  let c := s.ctx (hIndex h)
  if s.staleCtx h then feStale s else feResult s stOk c.state.code c.fbCount

/-- The checks of R492 on a queue record's fields. -/
def queueWordsOk (w : List W64) : Bool :=
  let w0 := w.getD 0 0
  decide (6 ≤ bitsOf w0 27 23 ∧ bitsOf w0 27 23 ≤ 16 ∧ 6 ≤ bitsOf w0 22 18 ∧ bitsOf w0 22 18 ≤ 16 ∧ bitsOf w0 17 0 = 0 ∧
    bitsOf (w.getD 1 0) 27 16 = 0 ∧ bitsOf (w.getD 1 0) 15 0 = 0 ∧ bitsOf (w.getD 2 0) 27 16 = 0 ∧
    bitsOf (w.getD 2 0) 15 0 = 0) &&
  (w.drop 3).all (fun x => decide (x = 0))

/-- Queues with ONDECK that are not FREE. -/
def ondeckCount (s : State) : Nat := (s.queues.filter (fun kv => kv.2.state ≠ .free && kv.2.ondeck)).length

/-- QUEUE_CREATE (R484, R492). -/
def feQueueCreate (s : State) (arg : W32) : State :=
  let i := arg.toNat
  if 16383 < i then feResult s stInvalid 0 0
  else if (s.queue i).state ≠ .free then feResult s stBusy 0 0
  else
    match readRecord s (queueRecordAddr s i) 8 with
    | (.error st, s) => feResult s st 0 0
    | (.ok w, s) =>
      let w0 := w.getD 0 0
      let owner : W32 := BitVec.ofNat 32 (bitsOf w0 63 32)
      let c := s.ctx (hIndex owner)
      let ondeck := bitsOf w0 29 29 = 1
      if s.staleCtx owner then feResult (s.bump F.feStaleCountCount) stInvalid 0 0
      else if c.state = .destroying then feResult s stBusy 0 0
      else if c.state ≠ .active then feResult s stInvalid 0 0
      else if !queueWordsOk w then feResult s stInvalid 0 0
      else if ondeck ∧ bitsOf w0 31 30 ≠ 0 then feResult s stInvalid 0 0
      else if ondeck ∧ 8 ≤ ondeckCount s then feResult s stBusy 0 0
      else
        let g := nextGen 18 (s.queue i).gen
        let q : Queue := { state := .active, gen := g, owner := owner, priority := bitsOf w0 31 30, ondeck := ondeck,
                           remoteDb := bitsOf w0 28 28 = 1, ringLog2 := bitsOf w0 27 23, cqLog2 := bitsOf w0 22 18,
                           ring := bitsOf (w.getD 1 0) 63 16, cq := bitsOf (w.getD 2 0) 63 16, since := s.now }
        feResult (s.setQueue i q) stOk 0 (mkQHandle i g).toNat

/-- QUEUE_DESTROY (R484, R493). -/
def feQueueDestroy (s : State) (h : W32) : State :=
  if s.staleQueue h then feStale s
  else if (s.queue (qIndex h)).state = .stopping then feResult s stOk 0 0
  else feResult (stopQueue s (qIndex h)) stOk 0 0

/-- QUEUE_QUERY (R484, R493). -/
def feQueueQuery (s : State) (h : W32) : State :=
  if s.staleQueue h then feStale s
  else feResult s stOk (match (s.queue (qIndex h)).state with
    | .free => 0
    | .active => 1
    | .stopping => 2) 0

/-- One update of a doorbell record (R505 to R507): `viaIql` for one that came over Ihlique. -/
def doorUpdate (s : State) (viaIql : Bool) (typ : Nat) (h value : W32) : State :=
  let qi := qIndex h
  let q := s.queue qi
  let bad := s.bump F.feDoorbellBadCount
  if s.staleQueue h then s.bump F.feStaleCountCount
  else if q.state = .stopping ∨ (viaIql ∧ ¬ q.remoteDb) then bad
  else if typ = 0 then
    if (value - q.tail).toNat < 2 ^ 31 ∧ (value - q.head).toNat ≤ 2 ^ q.ringLog2 then
      if value = q.tail then s
      else keepRecord { s.setQueue qi { q with tail := value, subs := q.subs ++ [(value, s.subSeq)] } with subSeq := s.subSeq + 1 } qi
    else bad
  else if typ = 1 then
    if (value - q.cqHead).toNat < 2 ^ 31 ∧ (q.cqTail - value).toNat < 2 ^ 31 then
      keepRecord (s.setQueue qi { q with cqHead := value }) qi
    else bad
  else bad

/-- A doorbell record in a slot of the doorbell ring: refused whole under R506, else each update on its own. -/
def doorRecord (s : State) (viaIql : Bool) (bs : List Byte) : State :=
  let w (i : Nat) : W64 := BitVec.ofNat 64 (leNat ((bs.drop (8 * i)).take 8))
  let count := bitsOf (w 0) 6 0
  let bad := s.bump F.feDoorbellBadCount
  if count = 0 ∨ 64 < count ∨ bs.length < 16 + 16 * count then bad
  else if bitsOf (w 0) 63 7 ≠ 0 ∨ w 1 ≠ 0 then bad
  else if (List.range count).any (fun u => decide (bitsOf (w (2 + 2 * u)) 63 34 ≠ 0 ∨ bitsOf (w (3 + 2 * u)) 63 32 ≠ 0)) then bad
  else (List.range count).foldl (fun s u =>
    doorUpdate s viaIql (bitsOf (w (2 + 2 * u)) 33 32) (BitVec.ofNat 32 (bitsOf (w (2 + 2 * u)) 31 0))
      (BitVec.ofNat 32 (bitsOf (w (3 + 2 * u)) 31 0))) s

/-- A doorbell record lands in the next 2 KiB slot of the doorbell ring and is applied (R505). -/
def doorbellIn (s : State) (viaIql : Bool) (bs : List Byte) : State :=
  let base := s.fld F.feDoorbellBaseAddr * 2048
  let a := base + 2048 * s.doorSlot
  let s := idleLeave s
  let s := if s.exists? a then (memStore s a (bs.take 2048)).2 else s
  let s := { s with doorSlot := (s.doorSlot + 1) % 2 ^ s.fld F.feDoorbellBaseSlotsLog2 }
  doorRecord s viaIql bs

end Sys2Proof.Machine
end

