-- ==== Sys2Proof/Machine/Whistle.lean ====
section
/-! DEFINITION. The whistle and the partition layout that it carries (spec/14 R729 to R732, spec/10 R516, spec/01 R47 to R53). -/

namespace Sys2Proof.Machine

/-! ### Scrubs that fall due, and units that a layout leaves -/

/-- A scrub of a court falls due; SCRUBBING reads 1 while it is pending or running (R162). -/
def courtScrubDue (s : State) (n : Nat) : State :=
  (s.setCourt n { s.court n with scrub := .due }).setFld F.fldCourtStatusScrubbing n 1

/-- A scrub of a core falls due; SCRUBBING reads 1 while one of any core of the quarter is pending or running (R302). -/
def coreScrubDue (s : State) (c : Nat) : State :=
  (s.setCore c { s.core c with scrub := .due }).setFld F.shaQuarterStatusScrubbing (c / 17) 1

/-- A scrub of every core of a quarter falls due. -/
def quarterScrubDue (s : State) (q : Nat) : State := (List.range 17).foldl (fun s c => coreScrubDue s (17 * q + c)) s

/-- Whether a started command that has not left its units may use a unit (R52). -/
def unitHeld (s : State) (u : ResetUnit) : Bool :=
  s.queues.any (fun kv => decide (kv.2.phase = .running ∨ kv.2.phase = .halted) && kv.2.units.contains u)

/-- Whether a court holds no command, no scrub and no inspection; the scrub of a domain that is not ON yet is part of its start (R159). -/
def courtIdle (s : State) (n : Nat) : Bool :=
  !unitHeld s (.court n) && decide (s.fld F.fldCourtStatusBusy n = 0 ∧ (s.fld F.fldCourtStatusScrubbing n = 0 ∨ s.domOn n = false) ∧
    s.fld F.fldCourtStatusInspecting n = 0)

/-- Whether a raster front end holds no command. -/
def rasterIdle (s : State) (q : Nat) : Bool :=
  !unitHeld s (.raster q) && decide (s.fld F.gfxFeStatusBinning q = 0 ∧ s.fld F.gfxFeStatusRendering q = 0 ∧ s.fld F.gfxFeStatusTilesInFlight q = 0)

/-- Whether a quarter holds no command, no block, no tile, no scrub and no inspection. -/
def quarterIdle (s : State) (q : Nat) : Bool :=
  !unitHeld s (.quarter q) && decide (s.fld F.shaQuarterStatusCoreBusy q = 0 ∧ (s.fld F.shaQuarterStatusScrubbing q = 0 ∨ s.domOn (16 + q) = false) ∧
    s.fld F.shaQuarterStatusInspecting q = 0) && rasterIdle s q

/-- A court whose partition under the layout in force is `p` runs `p`'s commands from here, and is scrubbed first if it last ran
another's; while a command of the old layout may still use it, not yet (R52, R161). -/
def courtJoin (s : State) (n p : Nat) (was : Option Nat) : State :=
  if was = some p then s.setCourt n { s.court n with lastPart := some p }
  else if unitHeld s (.court n) then s.setCourt n { s.court n with lastPart := was }
  else
    let s := s.setCourt n { s.court n with lastPart := some p }
    if was.isSome then courtScrubDue s n else s

/-- The same for a quarter (R52, R303). -/
def quarterJoin (s : State) (q p : Nat) (was : Option Nat) : State :=
  if was = some p then s.setQuarter q { s.quarter q with lastPart := some p }
  else if unitHeld s (.quarter q) then s.setQuarter q { s.quarter q with lastPart := was }
  else
    let s := s.setQuarter q { s.quarter q with lastPart := some p }
    if was.isSome then quarterScrubDue s q else s

/-- A court that a layout left in no partition gets its domain's stop once it is idle (R51); one that a command of an old layout has
left joins its partition (R52). -/
def courtSettle (s : State) (n : Nat) : State :=
  if (s.court n).leaving then
    (if courtIdle s n then domStop (s.setCourt n { s.court n with leaving := false }) n else s)
  else
    match courtPart s n, (s.court n).lastPart with
    | some p, some o => if o = p then s else courtJoin s n p (some o)
    | _, _ => s

/-- The same for a quarter. -/
def quarterSettle (s : State) (q : Nat) : State :=
  if (s.quarter q).leaving then
    (if quarterIdle s q then domStop (s.setQuarter q { s.quarter q with leaving := false }) (16 + q) else s)
  else
    match quarterPart s q, (s.quarter q).lastPart with
    | some p, some o => if o = p then s else quarterJoin s q p (some o)
    | _, _ => s

/-- The same for the raster domain, once every front end is idle. -/
def rasterSettle (s : State) : State :=
  if s.rasterLeaving && (List.range 4).all (rasterIdle s) then domStop { s with rasterLeaving := false } domRaster else s

/-- A command leaves its units: those that a layout has given to another partition, or to none, follow it (R51, R52). -/
def settleUnits (s : State) (us : List ResetUnit) : State :=
  us.foldl (fun s u => match u with
    | .court n => courtSettle s n
    | .quarter q => quarterSettle s q
    | .raster _ => rasterSettle s
    | _ => s) s

/-- A command on its units completes with a status, and leaves them. -/
def completeOn (s : State) (qi : Nat) (st : W16) : State :=
  let us := (s.queue qi).units
  settleUnits (complete s qi st) us

/-! ### Layouts (R47 to R52, R516, R782) -/

/-- A partition layout: the four registers' values. -/
structure Layout where
  cfg : W64
  valid : W64
  units : W64
  slots : List Nat
deriving DecidableEq, Repr

/-- The layout in force. -/
def layoutNow (s : State) : Layout :=
  { cfg := s.rd Reg.fldPartCfg, valid := s.rd Reg.fldPartValid, units := s.rd Reg.fePartUnits,
    slots := tabulate 16 (fun p => s.fld F.fePartCfgSlots p) }

/-- The layout that the last writes ask for. -/
def layoutNext (s : State) : Layout :=
  { cfg := s.rdStaged Reg.fldPartCfg, valid := s.rdStaged Reg.fldPartValid, units := s.rdStaged Reg.fePartUnits,
    slots := tabulate 16 (fun p => bitsOf (s.rdStaged Reg.fePartCfg p) 7 0) }

/-- The register values that a layout brings, by `Reg.key`. -/
def layoutVals (s : State) : List (Nat × W64) :=
  [(Reg.key Reg.fldPartCfg 0, s.rdStaged Reg.fldPartCfg), (Reg.key Reg.fldPartValid 0, s.rdStaged Reg.fldPartValid),
   (Reg.key Reg.fePartUnits 0, s.rdStaged Reg.fePartUnits)] ++
  tabulate 16 (fun p => (Reg.key Reg.fePartCfg p, s.rdStaged Reg.fePartCfg p))

/-- A layout from the values that a whistle carries. -/
def layoutOf (vals : List (Nat × W64)) : Layout :=
  let at' (k : Nat) : W64 := match vals.find? (fun kv => kv.1 = k) with
    | none => 0
    | some kv => kv.2
  { cfg := at' (Reg.key Reg.fldPartCfg 0), valid := at' (Reg.key Reg.fldPartValid 0),
    units := at' (Reg.key Reg.fePartUnits 0),
    slots := tabulate 16 (fun p => bitsOf (at' (Reg.key Reg.fePartCfg p)) 7 0) }

/-- The partition of court `n`, quarter `q` and front end `q` in a layout (R49, R168). -/
def Layout.court (l : Layout) (n : Nat) : Option Nat :=
  if bitsOf l.valid n n = 1 then some (bitsOf l.cfg (4 * n + 3) (4 * n)) else none
def Layout.quarter (l : Layout) (q : Nat) : Option Nat :=
  if bitsOf l.units (16 + q) (16 + q) = 1 then some (bitsOf l.units (4 * q + 3) (4 * q)) else none
def Layout.rasterIn (l : Layout) (q : Nat) : Bool := bitsOf l.units (20 + q) (20 + q) = 1
def Layout.raster (l : Layout) (q : Nat) : Option Nat := if l.rasterIn q then l.quarter q else none

/-- Whether a partition holds a court or a quarter in a layout. -/
def Layout.holds (l : Layout) (p : Nat) : Bool :=
  (List.range 16).any (fun n => l.court n = some p) || (List.range 4).any (fun q => l.quarter q = some p)

/-- The status with which a layout is rejected, if it is (R49, R50, R516, R782). -/
def layoutReject (s : State) (l : Layout) : Option W16 :=
  if (List.range 4).any (fun q => l.rasterIn q && (l.quarter q).isNone) then some stInvalid
  else if 128 < l.slots.foldl (· + ·) 0 then some stInvalid
  else if (List.range 16).any (fun p => l.holds p && decide (l.slots.getD p 0 = 0)) then some stInvalid
  else if (List.range 16).any (fun n => (l.court n).isSome && decide (s.fld F.fldCourtStatusRetired n = 1)) then some stInvalid
  else if s.ctxs.any (fun kv => decide (kv.2.state ≠ .free) &&
      (!l.holds kv.2.part || (match kv.2.newPart with
        | none => false
        | some p => !l.holds p))) then some stBusy
  else none

/-- The partitions whose units differ between two layouts. -/
def layoutParts (a b : Layout) : List Nat :=
  let touched (x y : Option Nat) (p : Nat) : Bool := decide (x ≠ y ∧ (x = some p ∨ y = some p))
  (List.range 16).filter (fun p =>
    (List.range 16).any (fun n => touched (a.court n) (b.court n) p) ||
    (List.range 4).any (fun q => touched (a.quarter q) (b.quarter q) p || touched (a.raster q) (b.raster q) p))

/-- A court or quarter of a layout whose domain is not permitted, as its unit number (R715). -/
def layoutUnpermitted (s : State) (l : Layout) : Option Nat :=
  (List.range 20).find? (fun u =>
    (if u < 16 then (l.court u).isSome else (l.quarter (u - 16)).isSome) && !s.domPermitted u)

/-- What a layout does when it takes effect: status bits, scrubs of units that join another partition, domains started and
released, stall counters cleared, slots given up, preloads discarded (R51, R52, R150, R161, R174, R303, R527). -/
def layoutEffect (s : State) (a b : Layout) : State :=
  let s := (List.range 16).foldl (fun s n =>
    let c := s.court n
    match b.court n with
    | some p =>
      let s := (s.setFld F.fldCourtStatusInPartition n 1).setFld F.fldCourtStatusPartition n p
      let s := courtJoin (s.setCourt n { c with leaving := false }) n p (c.lastPart.orElse (fun _ => a.court n))
      domEvent s n .enable
    | none =>
      let s := s.setFld F.fldCourtStatusInPartition n 0
      if (a.court n).isSome then
        courtSettle (s.setCourt n { c with leaving := true, lastPart := c.lastPart.orElse (fun _ => a.court n) }) n
      else s) s
  let s := (List.range 4).foldl (fun s q =>
    let c := s.quarter q
    match b.quarter q with
    | some p =>
      let s := (s.setFld F.shaQuarterStatusInPartition q 1).setFld F.shaQuarterStatusPartition q p
      let s := quarterJoin (s.setQuarter q { c with leaving := false }) q p (c.lastPart.orElse (fun _ => a.quarter q))
      domEvent s (16 + q) .enable
    | none =>
      let s := s.setFld F.shaQuarterStatusInPartition q 0
      if (a.quarter q).isSome then
        quarterSettle (s.setQuarter q { c with leaving := true, lastPart := c.lastPart.orElse (fun _ => a.quarter q) }) q
      else s) s
  let s := (List.range 4).foldl (fun s q => match b.raster q with
    | some p => (s.setFld F.gfxFeStatusInPartition q 1).setFld F.gfxFeStatusPartition q p
    | none => s.setFld F.gfxFeStatusInPartition q 0) s
  let s :=
    if (List.range 4).any (fun q => (b.raster q).isSome) then (domStart { s with rasterLeaving := false } domRaster).2
    else if (List.range 4).any (fun q => (a.raster q).isSome) then rasterSettle { s with rasterLeaving := true }
    else s
  let s := (List.range 16).foldl (fun s p =>
    if (List.range 16).any (fun n => decide ((a.court n = some p) ≠ (b.court n = some p))) then
      (((s.setFld F.fldPartStallLateCycles p 0).setFld F.fldPartStallThrottleCycles p 0).setFld
        F.fldPartStallConflictCycles p 0).setFld F.fldPartStallStretchCycles p 0
    else s) s
  noPreloads ((List.range 16).foldl (fun s p => trimSlots s p (b.slots.getD p 0)) s) (fun _ => true)

/-! ### The whistle -/

/-- The bit of CHANGES for a change (R733). -/
def Change.bit : Change → Nat
  | .layout => 1
  | .fmtDefault => 2
  | .scrubMode => 4
  | .sdMap => 8
  | .fixedMode => 16
  | .issueLimit => 32
  | .rampCycles => 64

/-- CHANGES for a list of writes. -/
def changesOf (ps : List Pending) : Nat := ps.foldl (fun m p => m ||| p.change.bit) 0

/-- Whether the domain of a participant is ON (R57, R730). -/
def unitOn (s : State) (u : Nat) : Bool :=
  if u < 20 then s.domOn u
  else if u < 24 then s.domOn domRaster
  else if u < 27 then s.fabricOn
  else true

/-- Who takes part in a whistle that begins now (R731). -/
def participants (s : State) : List Nat := (List.range 28).filter (unitOn s)

/-- An inspection of a court or core that takes part in a whistle is aborted: the unit is scrubbed and inspected again later
(R780). -/
def inspectAbort (s : State) : State :=
  s.inspects.foldl (fun s x =>
    if x.running ∧ x.kind < 2 then
      let s := if x.kind = 0 then courtScrubDue (s.setFld F.fldCourtStatusInspecting x.unit 0) x.unit
               else coreScrubDue (s.setFld F.shaQuarterStatusInspecting (x.unit / 17) 0) x.unit
      let s := ((s.setFld F.stwInspectStatusKind 0 x.kind).setFld F.stwInspectStatusUnit 0 x.unit).setFld
        F.stwInspectStatusResult 0 3
      let s := s.wr Reg.stwInspectTime 0 (BitVec.ofNat 64 s.now)
      { s with inspects := s.inspects.map (fun y => if y = x then { y with running := false } else y) }
    else s) s

/-- Whether a whistle carries a change. -/
def Whistle.has (w : Whistle) (c : Change) : Bool := w.carries.any (fun p => p.change = c)

/-- LOCK of FLD_SCRUB_CFG is set where a write that a whistle carried set it: MODE has taken the written value, or kept the old one, and
is locked (R15, R165). -/
def lockScrub (s : State) (ps : List Pending) : State :=
  if ps.any (·.lock) then s.setFld F.fldScrubCfgLock 0 1 else s

/-- The whistle fails, naming a unit (R731): nothing that it carried takes effect. -/
def whistleFailed (s : State) (u : Nat) : State :=
  let w := s.whistle
  let s := lockScrub s w.carries
  let s := (s.setFld F.whistleStatusState 0 2).setFld F.whistleStatusUnit 0 u
  let s := if w.has .layout then (s.setFld F.fePartCommitFailed 0 1).setFld F.fePartCommitGo 0 0 else s
  let s := if w.has .sdMap then (s.setFld F.memSdCommitFailed 0 1).setFld F.memSdCommitGo 0 0 else s
  let s := { s with whistle := { w with active := false, carries := [], waiting := [], parts := [] } }
  event s 0x0108 0 u (s.fld F.whistleEpochEpoch)

/-- A whistle begins with every pending write (R731, R715, R780). -/
def whistleBegin (s : State) (ps : List Pending) : State :=
  let s := (idleLeave s).setFld F.whistleStatusChanges 0 (changesOf ps)
  let lay := ps.find? (fun p => p.change = .layout)
  let bad := match lay with
    | none => none
    | some p => layoutUnpermitted s (layoutOf p.vals)
  let parts := match lay with
    | none => []
    | some p => layoutParts (layoutNow s) (layoutOf p.vals)
  let s := inspectAbort s
  let s := { s with whistle := { active := true, carries := ps, waiting := participants s, parts := parts, began := s.now } }
  match bad with
  | some u => whistleFailed s u
  | none => (s.setFld F.whistleStatusState 0 1).setFld F.whistleStatusUnit 0 0xFF

/-- A write of R729 goes to the whistle: into the next one while one is in TRANSITION (R731). -/
def whistleSubmit (s : State) (p : Pending) : State :=
  if s.whistle.active then { s with whistle := { s.whistle with next := s.whistle.next ++ [p] } }
  else whistleBegin s [p]

/-- The whistle that waits begins, if one does. -/
def whistleNext (s : State) : State :=
  match s.whistle.next with
  | [] => s
  | ps => whistleBegin { s with whistle := { s.whistle with next := [] } } ps

/-- A register takes the value that a whistle brings; its one-shot bits stand. -/
def takeVal (s : State) (kv : Nat × W64) : State :=
  let d := regDesc (kv.1 / 65536)
  let keep := d.w1s ||| d.w1c
  let old := s.rd (kv.1 / 65536) (kv.1 % 65536)
  s.wr (kv.1 / 65536) (kv.1 % 65536) ((kv.2 &&& ~~~keep) ||| (old &&& keep))

/-- Every participant has reported: the changes take effect (R731). -/
def whistleDone (s : State) : State :=
  let w := s.whistle
  let old := layoutNow s
  let s := (s.bump F.whistleEpochEpoch).setFld F.whistleStatusState 0 0
  let s := s.setFld F.whistleStatusUnit 0 0xFF
  let s := lockScrub ((w.carries.map (·.vals)).flatten.foldl takeVal s) w.carries
  let s := { s with whistle := { w with active := false, carries := [], waiting := [], parts := [] } }
  let s := if w.has .layout then
      layoutEffect ((s.setFld F.fePartCommitGo 0 0).setFld F.fePartCommitFailed 0 0) old (layoutNow s)
    else s
  let s := if w.has .fixedMode then railFollow s else s
  let s := if w.has .sdMap then { s.setFld F.memSdCommitFailed 0 0 with zeroing := true } else s
  whistleNext s

/-- A participant reports the epoch; the last report ends the whistle (R731). -/
def whistleReport (s : State) (u : Nat) : State :=
  let w := s.whistle
  if w.active && w.waiting.contains u then
    let rest := w.waiting.filter (· ≠ u)
    let s := { s with whistle := { w with waiting := rest } }
    if rest.isEmpty then whistleDone s else s
  else s

/-- A participant whose domain is no longer ON is not awaited (R732). -/
def whistleUnawait (s : State) : State :=
  let w := s.whistle
  if w.active then
    let rest := w.waiting.filter (unitOn s)
    let s := { s with whistle := { w with waiting := rest } }
    if rest.isEmpty then whistleDone s else s
  else s

/-- 1 ms passes with a participant unreported (R731). -/
def whistleTimeout (s : State) : State :=
  let w := s.whistle
  match w.waiting with
  | [] => s
  | u :: us =>
    if w.active ∧ w.began + 1000000 ≤ s.now then whistleNext (whistleFailed s (us.foldl min u)) else s

/-- A write of R729 goes to the whistle, which ends at once if it awaits nobody (R731). -/
def whistleStart (s : State) (c : Change) (vals : List (Nat × W64)) (lock : Bool := false) : State :=
  whistleUnawait (whistleSubmit s { change := c, vals := vals, lock := lock })

/-- Whether MODE of FLD_SCRUB_CFG is locked, or a write that locks it rides a whistle (R15, R165). -/
def scrubLocked (s : State) : Bool :=
  decide (s.fld F.fldScrubCfgLock = 1) || (s.whistle.carries ++ s.whistle.next).any (·.lock)

/-- A write of GO to FE_PART_COMMIT (R516, R547). -/
def partCommit (s : State) (go : Bool) : State :=
  if !go then s.answer stOk
  else if s.fld F.fePartCommitGo = 1 then s.answer stBusy
  else
    match layoutReject s (layoutNext s) with
    | some st => (s.setFld F.fePartCommitFailed 0 1).answer st
    | none =>
      let s := (s.setFld F.fePartCommitGo 0 1).setFld F.fePartCommitFailed 0 0
      (whistleStart s .layout (layoutVals s)).answer stOk

end Sys2Proof.Machine
end

