-- ==== Sys2Proof/Machine/Sched.lean ====
section
/-! DEFINITION. Scheduling: waits, starts, completion flags, aging, the bench, the deadlock search, and the scoreboard
(spec/10 R509 to R535, R544, R545). -/

namespace Sys2Proof.Machine

/-- Every queue that is not FREE, with its index, in ascending order. -/
def liveQueues (s : State) : List (Nat × Queue) := s.queues.filter (fun kv => kv.2.state ≠ .free)

/-- The partition of a queue's owner. -/
def queuePart (s : State) (q : Queue) : Nat := (s.ctx (hIndex q.owner)).part

/-- The device's word on a fence value for a waiting command (R510): ready, abandoned or still blocked. -/
def examineValue (s : State) (qi : Nat) (v : Nat) : State :=
  let q := s.queue qi
  if q.waitValue ≤ v % 2 ^ 63 then workBegins (s.setQueue qi { q with phase := .ready, since := s.now })
  else if 2 ^ 63 ≤ v then complete s qi stFenceAbandoned
  else s

/-- Whether a read of the fence of this queue is under way. -/
def fenceReadOut (s : State) (qi : Nat) : Bool :=
  s.txns.any (fun kv => kv.2.busy && decide (kv.2.purpose = .fence qi)) || s.txWait.any (fun pp => decide (pp.2 = .fence qi))

/-- Whether round-robin mode is on (R523). -/
def roundRobin (s : State) : Bool := s.fld F.feSchedCfgMode = 1

/-- Whether the front end serves a queue: in round-robin mode only one in a slot (R523). -/
def served (s : State) (q : Queue) : Bool := !roundRobin s || q.slot.isSome

/-- A blocked wait is examined (R513, R514, R633): a fence on another device is read over the links, and a failure to send the
read leaves the wait. A command that the loss of its context ends is not run whatever its fence holds (R20). -/
def examineWait (s : State) (qi : Nat) : State :=
  let q := s.queue qi
  match q.phase with
  | .waiting =>
    if lostFor s q then complete s qi stContextLost
    else match xlate s none q.owner .load q.waitAddr with
    | (.error e, s) => complete s qi e
    | (.ok (.mem a), s) =>
      match memLoadNat s a 8 with
      | (none, s) => complete s qi stDataError
      | (some v, s) => examineValue s qi v
    | (.ok (.remote d a), s) => if fenceReadOut s qi then s else (remoteRead s d a 8 0 (.fence qi)).2
    | (.ok (.host ..), s) => complete s qi stAccessFault
  | _ => s

/-- The local address of a fence, where it is local. -/
def localFence (s : State) (h : W32) (va : Nat) : Option Nat :=
  match peek s h va with
  | some (.mem a) => some a
  | _ => none

/-! ### Starting commands -/

/-- Whether a whistle in TRANSITION holds the head command (R729). `ovf0`: a FIELD command whose row-operation tables hold an
entry with OVF 0. -/
def heldByWhistle (s : State) (q : Queue) (ovf0 : Bool) : Bool :=
  let w := s.whistle
  w.active &&
    (w.carries.any (fun c => match c.change with
      | .layout => decide (queuePart s q ∈ w.parts)
      | .fmtDefault => decide (q.kind = 2) || (decide (q.kind = 1) && ovf0)
      | .scrubMode => decide (q.kind = 1 ∨ q.kind = 2 ∨ q.kind = 3)
      | _ => false))

/-- Whether a FIELD command's row-operation tables hold an entry with OVF 0 (R94, R175, R179). Entry 0 is never acted on (R182). -/
def fieldUsesDefault (s : State) (q : Queue) : Bool :=
  let pb := q.object
  let tables := natBits (peekNat s q.owner (pb + 8) 8) 33 29
  let off := natBits (peekNat s q.owner (pb + 32) 8) 31 0
  (List.range (min tables 16)).any (fun t => (List.range 255).any (fun i =>
    decide (natBits (peekNat s q.owner (pb + off + 3072 * t + 12 * (i + 1)) 4) 9 8 = 0)))

/-- Whether the head command may start as far as its queue and context go (R502, R486, R517). -/
def queueReady (s : State) (q : Queue) : Bool :=
  let c := s.ctx (hIndex q.owner)
  decide (q.phase = .ready ∧ q.state = .active ∧ c.newPart = none) && ctxRuns s q && !cqFull q &&
    !heldByWhistle s q (fieldUsesDefault s q)

/-- The running commands, with their queues. -/
def runningOn (s : State) (u : UnitRef) : Nat :=
  (s.queues.filter (fun kv => decide (kv.2.on = some u ∧ (kv.2.phase = .running ∨ kv.2.phase = .halted)))).length

/-- Whether a BULK command occupies a port: until its every byte is acknowledged (R638). -/
def portBusy (s : State) (u : UnitRef) : Bool :=
  s.queues.any (fun kv => decide (kv.2.on = some u) && (match kv.2.phase with
    | .running | .halted | .draining .. => true
    | _ => false))

/-- The LAUNCH and RENDER commands that run in a partition (R521). -/
def shaderLoad (s : State) (p : Nat) : Nat :=
  (s.queues.filter (fun kv => decide ((kv.2.phase = .running ∨ kv.2.phase = .halted) ∧ (kv.2.kind = 2 ∨ kv.2.kind = 3)) &&
    decide (queuePart s kv.2 = p))).length

/-- Whether a unit runs the commands of a partition: one that a layout has moved does so once the command of the old layout has left
it (R52). -/
def ownedBy (last : Option Nat) (p : Nat) : Bool := match last with
  | none => true
  | some o => decide (o = p)

/-- Whether every court of a list is ON, holds no command, is scrubbed as its mode asks, and is free of a scrub, for a command of a
context of partition `p` (R52, R150, R160, R162). -/
def courtsReady (s : State) (courts : List Nat) (p : Nat) (h : W32) : Bool :=
  courts.all (fun n =>
    decide (s.fld F.fldCourtStatusDomainOn n = 1 ∧ s.fld F.fldCourtStatusScrubbing n = 0 ∧ s.fld F.fldCourtStatusBusy n = 0 ∧
      s.fld F.fldCourtStatusInspecting n = 0 ∧ s.fld F.fldCourtStatusRemapPending n = 0) &&
    ownedBy (s.court n).lastPart p &&
    !s.inspects.any (fun x => decide (x.kind = 0 ∧ x.unit = n) && !x.routine) &&
    (decide (s.fld F.fldScrubCfgMode ≠ 0) || (match (s.court n).lastCtx with
      | none => true
      | some c => decide (c = h))))

/-- The device that a BULK command's descriptor names, where one of its first pages is remote (R636, R638). -/
def bulkDevice (s : State) (q : Queue) : Option Nat :=
  let src := natBits (peekNat s q.owner q.object 8) 63 16
  let dst := natBits (peekNat s q.owner (q.object + 8) 8) 63 16
  match peek s q.owner src, peek s q.owner dst with
  | some (.remote d _), _ => some d
  | _, some (.remote d _) => some d
  | _, _ => none

/-- The lowest-numbered idle front end of a partition (R319). -/
def idleRaster (s : State) (p : Nat) : Option Nat :=
  (partRasters s p).find? (fun n => decide (runningOn s (.raster (Fin.ofNat 4 n)) = 0))

/-- Whether a channel takes the next COMPRESS command: the lowest-numbered idle one that is ON, or channel 0 where none is ON or
will come ON, so that the command completes with RESOURCE_BUSY (R652). -/
def channelTakes (s : State) (c : Nat) : Bool :=
  let st (i : Nat) : Nat := s.fld F.cdeChanStatusState i
  let idle := (List.range 4).find? (fun i => decide (st i = lcOn ∧ runningOn s (.channel (Fin.ofNat 4 i)) = 0))
  match idle with
  | some i => decide (i = c)
  | none => decide (c = 0) && (List.range 4).all (fun i => decide (st i = lcOff ∨ st i = lcStopping))

/-- Whether a recovery at engine level or above still keeps a unit from starting commands, its replays included (R759). -/
def unitKept (s : State) (u : ResetUnit) : Bool := s.recoveries.any (fun r => decide (1 ≤ r.level) && r.units.contains u)

/-- While a command is replayed: what its first run read (R755). -/
def replayWords (s : State) (qi : Nat) : Option (List W64) :=
  match s.recoveries.find? (fun r => r.replay = some qi) with
  | none => none
  | some r => (r.suspects.find? (fun x => decide (x.q = qi) && !x.words.isEmpty)).map (·.words)

/-- Whether the unit that a parser feeds is kept by a recovery. A LAUNCH starts while its partition has a quarter that is not. -/
def parserKept (s : State) (u : UnitRef) : Bool :=
  match u with
  | .courts p => (partCourts s p).any (fun n => unitKept s (.court n))
  | .quarters p => (partQuarters s p).all (fun q => unitKept s (.quarter q)) && !(partQuarters s p).isEmpty
  | .raster f => unitKept s (.raster f) || unitKept s (.quarter f)
  | .pipe p => unitKept s (.pipe p)
  | .channel c => unitKept s (.channel c)
  | .iqlPort p => unitKept s (.port p)
  | _ => false

/-- Whether a unit can take the head command of a queue (R496, R518, R520, R521, R759). -/
def unitTakes (s : State) (u : UnitRef) (q : Queue) : Bool :=
  if parserKept s u then false else
  let p := queuePart s q
  match u with
  | .frontEnd part => decide (part.val = p ∧ (q.kind = 0 ∨ q.kind = 8))
  | .courts part => decide (part.val = p ∧ q.kind = 1 ∧ runningOn s u = 0) && courtsReady s (partCourts s p) p q.owner
  | .quarters part => decide (part.val = p ∧ q.kind = 2 ∧ shaderLoad s p < 16)
  | .raster fe => decide (q.kind = 3 ∧ shaderLoad s p < 16) &&
      (decide (idleRaster s p = some fe.val) || ((partRasters s p).isEmpty && decide (runningOn s u = 0)))
  | .pipe i => decide (q.kind = 4) && (match peek s q.owner q.object with
      | some (.remote ..) => true
      | _ => decide (natBits (peekNat s q.owner q.object 8) 1 0 = i.val))
  | .walker => decide (q.kind = 5 ∧ runningOn s u = 0)
  | .channel c => decide (q.kind = 6) && channelTakes s c
  | .iqlPort i => decide (q.kind = 7) && !portBusy s u && (match bulkDevice s q with
      | none => true
      | some d => match routeTo s d with
        | none => true
        | some out => decide (out = i.val))

/-- The rank of a ready command: its queue's priority, or 1 once aged (R519). -/
def rankOf (q : Queue) : Nat := if q.aged ∧ 2 ≤ q.priority then 1 else q.priority

/-- The better of two candidates: the lower key first, and among equals the one found first. -/
def better (a : Option (Nat × Nat × Nat)) (b : Nat × Nat × Nat) : Option (Nat × Nat × Nat) :=
  match a with
  | none => some b
  | some x => if b.1 < x.1 ∨ (b.1 = x.1 ∧ b.2.1 < x.2.1) then some b else some x

/-- The queue whose head command a unit starts next: by rank and by the slot that started a command least recently (R518), or
in round-robin mode by the visit of the slots (R523). -/
def pick (s : State) (u : UnitRef) : Option Nat :=
  let cands := (liveQueues s).filter (fun kv => queueReady s kv.2 && unitTakes s u kv.2)
  let best := cands.foldl (fun acc kv => match kv.2.slot with
    | none => acc
    | some sl =>
      if roundRobin s then better acc ((sl + 128 - s.rrSlot) % 128, 0, kv.1)
      else better acc (rankOf kv.2, SMap.get 0 s.slotLast sl, kv.1)) none
  best.map (·.2.2)

/-- Whether the visit of the slot still has time (R523). -/
def sliceLeft (s : State) : Bool :=
  match s.rrSince with
  | none => true
  | some t => decide (s.now < t + s.fld F.feSchedCfgSliceUs * 1000)

/-- The courts, quarters and front end that a command started on a unit may use, by the layout in force (R52). -/
def startUnits (s : State) (u : UnitRef) (p : Nat) : List ResetUnit :=
  match u with
  | .courts _ => (partCourts s p).map .court
  | .quarters _ => (partQuarters s p).map .quarter
  | .raster f => if rasterPart s f = some p then [.raster f, .quarter f] else []
  | _ => []

/-- The courts and quarters of a list of units. -/
def courtsIn (us : List ResetUnit) : List Nat := us.filterMap (fun u => match u with
  | .court n => some n
  | _ => none)
def quartersIn (us : List ResetUnit) : List Nat := us.filterMap (fun u => match u with
  | .quarter n => some n
  | _ => none)

/-- A unit starts the command that it takes next (R518 to R523); a COMPRESS command that no channel can take is refused (R652). -/
def startOn (s : State) (u : UnitRef) : State :=
  match pick s u with
  | none => s
  | some qi =>
    let q := s.queue qi
    let sl := q.slot.getD 0
    if roundRobin s ∧ sl = s.rrSlot ∧ !sliceLeft s then s
    else
      let n := s.startSeq + 1
      let s := { s with startSeq := n, slotLast := SMap.set 0 s.slotLast sl n }
      let s := if roundRobin s then
          (if sl = s.rrSlot ∧ s.rrSince.isSome then s else { s with rrSlot := sl, rrSince := some s.now })
        else s
      let us := startUnits s u (queuePart s q)
      let s := s.setQueue qi { q with phase := .running, on := some u, begun := false, startTime := s.now, startSeq := n,
                                      since := s.now, preloaded := false, units := us, used := match u with
                                        | .quarters _ => []
                                        | _ => us }
      match u with
      | .channel c => if s.fld F.cdeChanStatusState c = lcOn then s else complete s qi stBusy
      | _ => s

/-- A started command that has not begun goes back to its queue, as a unit that it needs cannot take it yet. -/
def unstart (s : State) (qi : Nat) : State :=
  s.setQueue qi { s.queue qi with phase := .ready, on := none, begun := false, units := [], used := [], since := s.now }

/-- A command whose descriptor lay on another device, and so could not be seen before its start, goes to the unit that it names:
at once where that unit can take it, or else back to its queue (R33, R377, R638). -/
def retarget (s : State) (qi : Nat) (u : UnitRef) : Option State :=
  if (s.queue qi).on = some u then none
  else if parserKept s u && !(s.queue qi).replaying then some (unstart s qi)
  else
    match u with
    | .iqlPort _ => if portBusy s u then some (unstart s qi) else none
    | _ => none

/-- The head command of a queue is on a unit. -/
def setOn (s : State) (qi : Nat) (u : UnitRef) : State := s.setQueue qi { s.queue qi with on := some u }

/-- Whether the head command of a queue has been started on a unit and not yet begun there. -/
def starting (s : State) (qi kind : Nat) : Bool :=
  let q := s.queue qi
  decide (q.phase = .running ∧ q.begun = false ∧ q.kind = kind)

/-- When a command begins: now, or when it first asked for other devices' memory that it begins with (R223, R500). -/
def startOf (s : State) (qi : Nat) : Nat := if s.far.any (fun x => x.unit = qi) then (s.queue qi).startTime else s.now

/-- The command begins on its unit: its START, and its budget where it has one (R500, R735). -/
def beginCmd (s : State) (qi : Nat) (budget : Option Nat) : State :=
  s.setQueue qi { s.queue qi with begun := true, startTime := startOf s qi, deadline := budget.map (startOf s qi + ·) }

/-- A command begins with a step that may need other devices' memory: its start comes before the reads that it waits for (R223). -/
def withFarCmd (s : State) (qi : Nat) (f : State → State) : State :=
  withFarFrom (fun s => s.setQueue qi { s.queue qi with startTime := startOf s qi }) s qi f

/-! ### Flags of R21 and R717 -/

/-- Completion flags. -/
abbrev flReplayed : Nat := 1
abbrev flThrottled : Nat := 2
abbrev flPartial : Nat := 4

/-- A flag of a running command set. -/
def setFlag (s : State) (qi f : Nat) : State :=
  let q := s.queue qi
  s.setQueue qi { q with flags := q.flags ||| BitVec.ofNat 16 f }

/-- The granted issue fraction in 1/64 units (R713). -/
def granted (s : State) : Nat := s.fld F.pwrStatusGranted

/-- The limit of R717 below which a granted fraction marks a field command. -/
def fieldLimit (s : State) : Nat :=
  if s.fld F.pwrFixedModeEn = 1 then min (s.fld F.pwrIssueLimitLimit) (s.fld F.pwrFixedModeFraction)
  else s.fld F.pwrIssueLimitLimit

/-- Whether a reduction of R717 acts on a command of a kind now. -/
def throttledNow (s : State) (kind : Nat) : Bool :=
  let slow : Bool := s.fld F.pwrStatusArithMhz < 1250
  match kind with
  | 1 => slow || decide (granted s < fieldLimit s ∨ 0 < s.fld F.pwrStatusThermalStep)
  | 2 => slow
  | 3 => slow
  | _ => false

/-- The running commands on which a reduction of R717 acts are marked. -/
def markThrottled (s : State) : State :=
  s.queues.foldl (fun s kv =>
    if kv.2.phase = .running ∧ kv.2.begun ∧ throttledNow s kv.2.kind then setFlag s kv.1 flThrottled else s) s

/-! ### The bench (R517, R529 to R531) -/

/-- The conditions of R517. -/
inductive QCond where
  | running | ready | blocked | idle
deriving DecidableEq, Repr

/-- The condition of a queue; a command that only a full completion ring, SET or a layout holds counts as blocked. -/
def condOf (s : State) (q : Queue) : QCond :=
  match q.phase with
  | .running | .draining .. | .signalling .. | .halted => .running
  | .empty => if q.head = q.tail then .idle else .blocked
  | _ => if queueReady s q then .ready else .blocked

/-- The resident queues of a partition. -/
def residents (s : State) (p : Nat) : List (Nat × Queue) :=
  (liveQueues s).filter (fun kv => kv.2.slot.isSome && decide (queuePart s kv.2 = p))

/-- A free slot within the partition's quota. -/
def freeSlot (s : State) (p : Nat) : Option Nat :=
  if (residents s p).length < s.fld F.fePartCfgSlots p then
    (List.range 128).find? (fun n => (liveQueues s).all (fun kv => decide (kv.2.slot ≠ some n)))
  else none

/-- The entry of a list with the least key. -/
def leastBy (f : Nat × Queue → Nat) (l : List (Nat × Queue)) : Option (Nat × Queue) :=
  l.foldl (fun acc x => match acc with
    | none => some x
    | some y => if f x < f y then some x else some y) none

/-- The queue whose slot a ready benched queue takes: choices 2 to 4 of R529; `only3` for the check of R530. -/
def victim (s : State) (p prio : Nat) (only3 : Bool) : Option Nat :=
  let rs := (residents s p).filter (fun kv => !kv.2.ondeck)
  let all := residents s p
  let idle := leastBy (fun kv => kv.2.since) (rs.filter (fun kv => condOf s kv.2 = .idle))
  let allBlocked := (freeSlot s p).isNone && all.all (fun kv => condOf s kv.2 = .blocked)
  let blocked := if allBlocked then leastBy (fun kv => kv.2.since) rs else none
  let worse := (rs.filter (fun kv => decide (condOf s kv.2 = .ready ∧ prio < kv.2.priority)))
  let top := worse.foldl (fun m kv => max m kv.2.priority) 0
  let last := (worse.filter (fun kv => kv.2.priority = top)).foldl (fun acc x => match acc with
    | none => some x
    | some (y : Nat × Queue) => if y.2.since ≤ x.2.since then some x else some y) none
  if only3 then blocked.map (·.1)
  else ((idle.orElse (fun _ => blocked)).orElse (fun _ => last)).map (·.1)

/-- A queue's pointers as words 3 and 4 of its record give them. -/
def Queue.reloaded (q : Queue) (bs : List Byte) : Queue :=
  let w (i : Nat) : W32 := BitVec.ofNat 32 (leNat ((bs.drop (4 * i)).take 4))
  { q with head := w 0, tail := w 1, cqTail := w 2, cqHead := w 3 }

/-- Bringing a queue in reloads its pointers from its record; where the record cannot be read the device's own stand (R531; log 106). -/
def reloadQueue (s : State) (qi : Nat) : State :=
  let a := queueRecordAddr s qi + 24
  if s.exists? a then
    match memLoad s a 16 with
    | (some bs, s) => s.setQueue qi ((s.queue qi).reloaded bs)
    | (none, s) => s
  else s

/-- A queue comes into a slot (R531). -/
def placeQueue (s : State) (qi sl : Nat) : State :=
  let s := reloadQueue s qi
  (s.setQueue qi { s.queue qi with slot := some sl }).bump F.feSwapCountCount

/-- A benched queue comes into a slot, another giving it up if need be (R529, R531). -/
def swapIn (s : State) (qi : Nat) (only3 : Bool) : State :=
  let q := s.queue qi
  let p := queuePart s q
  match (if only3 then none else freeSlot s p) with
  | some sl => placeQueue s qi sl
  | none =>
    match victim s p q.priority only3 with
    | none => s
    | some vi =>
      let v := s.queue vi
      let s := saveQueue s vi
      placeQueue (s.setQueue vi { v with slot := none }) qi (v.slot.getD 0)

/-- QUEUE_CREATE: a queue with ONDECK takes a slot at once, where one is to be had (R492, R525; log 106). -/
def queueCreate (s : State) (arg : W32) : State :=
  let t := feQueueCreate s arg
  let q := t.queue arg.toNat
  if q.ondeck ∧ q.state = .active ∧ q.slot = none ∧ (s.queue arg.toNat).state = .free ∧ ¬ roundRobin t then swapIn t arg.toNat false
  else t

/-- The first ready benched queue of a partition, the lowest priority number first. -/
def benchedReady (s : State) (p : Nat) : Option Nat :=
  (leastBy (fun kv => kv.2.priority) ((liveQueues s).filter (fun kv =>
    kv.2.slot.isNone && decide (queuePart s kv.2 = p ∧ condOf s kv.2 = .ready)))).map (·.1)

/-! ### The deadlock search (R532, R533) -/

/-- The descriptors of the submitted commands of a queue that have not completed, head first, at most `fuel` of them. -/
def submitted (s : State) (q : Queue) : Nat → W32 → List (List W64)
  | 0, _ => []
  | fuel + 1, n =>
    if n = q.tail then []
    else
      let ws := tabulate 8 (fun i => BitVec.ofNat 64 (peekNat s q.owner (q.entryVa n.toNat + 8 * i) 8))
      ws :: submitted s q fuel (n + BitVec.ofNat 32 (occupancy (ws.getD 0 0)))

/-- The submitted commands of a queue, its head command first (R532: the first 1,024). -/
def commandsOf (s : State) (q : Queue) : List (List W64) :=
  match q.cmd with
  | none => submitted s q 1024 q.head
  | some c => c.words :: submitted s q 1023 q.head

/-- Whether a submitted command of queue `b` would satisfy a wait on fence `f` for `v`. -/
def wouldSatisfy (s : State) (b : Queue) (f : Target) (v : Nat) : Bool :=
  (commandsOf s b).any (fun w =>
    decide (bitsOf (w.getD 0 0) 51 51 = 1 ∧ v ≤ (w.getD 6 0).toNat ∧ peek s b.owner (bitsOf (w.getD 5 0) 63 16) = some f))

/-- Whether a queue is blocked for the deadlock search: its next command waits only on its fence, and neither SET nor a layout
nor the loss of its context holds it (R517). -/
def blockedWait (s : State) (q : Queue) : Bool :=
  decide (q.phase = .waiting ∧ (s.ctx (hIndex q.owner)).newPart = none) && ctxRuns s q &&
    !heldByWhistle s q (fieldUsesDefault s q)

/-- A partition has a field command ready or running now (R777). -/
def fieldSeen (s : State) (fs : SMap FieldPart) (q : Queue) : SMap FieldPart :=
  if q.kind = 1 ∧ (q.phase = .running ∨ q.phase = .ready ∧ queueReady s q) then
    let p := queuePart s q
    SMap.set {} fs p { SMap.get {} fs p with readyAt := some s.now }
  else fs

/-- A nanosecond passes for the queues: waits that alone hold their commands, and ready commands, count it (R515, R519, R777). -/
def queueTick (s : State) : State :=
  let runs := feRuns s
  { s with
    fields := s.queues.foldl (fun fs kv => fieldSeen s fs kv.2) s.fields
    queues := s.queues.map (fun (k, q) => (k,
      if q.phase = .waiting then (if runs && blockedWait s q then { q with waited := q.waited + 1 } else q)
      else if q.phase = .ready then { q with readyFor := if runs && queueReady s q then q.readyFor + 1 else 0 }
      else q)) }

/-- The edges from a blocked queue: the queues whose commands would satisfy its wait. -/
def edgesFrom (s : State) (q : Queue) : List Nat :=
  match blockedWait s q with
  | false => []
  | true =>
    match peek s q.owner q.waitAddr with
    | none => []
    | some f => ((liveQueues s).filter (fun kv => wouldSatisfy s kv.2 f q.waitValue)).map (·.1)

/-- What is reachable from a set of queues in `fuel` rounds. -/
def reach (es : List (Nat × List Nat)) : Nat → List Nat → List Nat
  | 0, seen => seen
  | fuel + 1, seen =>
    let more := (es.filter (fun e => seen.contains e.1)).foldl (fun acc e => e.2.foldl (fun a x =>
      if a.contains x then a else a ++ [x]) acc) seen
    reach es fuel more

/-- The queues whose waits lie on a cycle of the wait graph. -/
def onCycle (s : State) : List Nat :=
  let es := (liveQueues s).map (fun kv => (kv.1, edgesFrom s kv.2))
  (es.filter (fun e => (reach es es.length e.2).contains e.1)).map (·.1)

/-- One search, when every slot of the partition's quota is blocked: the wait on a cycle whose command was submitted latest
completes with DEADLOCK (R532, R533). -/
def deadlockSearch (s : State) (p : Nat) : State :=
  let rs := residents s p
  let stuck := !rs.isEmpty && decide (s.fld F.fePartCfgSlots p ≤ rs.length) && rs.all (fun kv => blockedWait s kv.2) &&
    (benchedReady s p).isNone
  if roundRobin s || !stuck then s
  else
    let last := (onCycle s).foldl (fun (acc : Option (Nat × Nat)) qi =>
      let n := headSeq s qi
      match acc with
      | none => some (n, qi)
      | some (m, _) => if m < n then some (n, qi) else acc) none
    match last with
    | none => s
    | some (_, qi) =>
      let h := s.queueHandle qi
      let owner := (s.queue qi).owner
      let s := complete (s.bump F.feDeadlockCountCount) qi stDeadlock
      event s 0x0204 owner h.toNat

/-! ### The scoreboard (R544, R545) -/

/-- Shader-clock cycles in a time of `ns` at the arithmetic clock in force (R238). -/
def coreCyclesIn (s : State) (ns : Nat) : Nat := ns * s.fld F.pwrStatusArithMhz / 1000

/-- The core and raster cycles of blocks, tile buffers and passes in progress are counted up to now (R544). -/
def usageSettle (s : State) : State :=
  let s := s.cores.foldl (fun s kv =>
    let s := kv.2.holds.foldl (fun s (x : Hold) =>
      let k := s.ctx x.ctx
      s.setCtx x.ctx { k with coreCycles := k.coreCycles + coreCyclesIn s (s.now - x.since) }) s
    s.setCore kv.1 { kv.2 with holds := kv.2.holds.map (fun x => { x with since := s.now }) }) s
  s.passes.foldl (fun s kv => match kv.2 with
    | none => s
    | some p =>
      let i := hIndex (s.queue p.q).owner
      let k := s.ctx i
      (s.setCtx i { k with rasterCycles := k.rasterCycles + coreCyclesIn s (s.now - p.counted) }).setPass kv.1
        (some { p with counted := s.now })) s

/-- The estimated energy of a context in millijoules (R544). -/
def Ctx.energyMj (c : Ctx) : Nat := c.energyPj / 1000000000

/-- The cycles and bytes that a context has used, weighed (R545; log 112). -/
def Ctx.usage (c : Ctx) : Nat :=
  Config.energyWeight 0 * c.courtCycles + Config.energyWeight 1 * c.coreCycles + Config.energyWeight 2 * c.rasterCycles +
    Config.energyWeight 3 * c.cdeBytes

/-- `pj` picojoules of estimated energy are divided among the contexts by what each has used since the last estimate (R545). -/
def shareEnergy (s : State) (pj : Nat) : State :=
  let total := (s.ctxs.map (fun kv => kv.2.usage - kv.2.weighed)).sum
  { s with ctxs := s.ctxs.map (fun kv =>
      let u := kv.2.usage
      (kv.1, { kv.2 with energyPj := kv.2.energyPj + (if total = 0 then 0 else pj * (u - kv.2.weighed) / total), weighed := u })) }

/-- The eight words of a context's scoreboard record (R544). -/
def scoreWords (s : State) (c : Ctx) : List W64 :=
  ([s.now, c.courtCycles, c.coreCycles, c.rasterCycles, c.sdBytes, c.lpBytes, c.cdeBytes, c.energyMj]).map (BitVec.ofNat 64)

/-- A context's scoreboard record is written. -/
def writeScore (s : State) (i : Nat) : State :=
  let a := s.fld F.feScoreBaseAddr * 65536 + 64 * i
  if s.exists? a then (memStore s a (wordsBytes (scoreWords s (s.ctx i)))).2 else s

/-- The bytes of stacked DRAM and of LPDDR5X that the valid leaf entries below a table map (R544, R545). -/
def mappedBytes (s : State) : Nat → Nat → Nat × Nat
  | level, tbl =>
    if !s.usable tbl then (0, 0)
    else
      (List.range 512).foldl (fun acc i =>
        let p := s.word (tbl + 8 * i)
        if !pteValid p then acc
        else if pteLeaf p then
          let local' := pteType p = 0 ∨ (pteType p = 1 ∧ bitsOf p 45 40 = s.device)
          let n := 2 ^ (12 + 9 * level)
          if ¬ local' then acc
          else if isSd (pteAddr p) then (acc.1 + n, acc.2)
          else (acc.1, acc.2 + n)
        else
          match level with
          | 0 => acc
          | l + 1 =>
            let r := mappedBytes s l (pteAddr p)
            (acc.1 + r.1, acc.2 + r.2)) (0, 0)

/-- The contexts that are not FREE, in ascending order. -/
def liveCtxs (s : State) : List Nat := (s.ctxs.filter (fun kv => kv.2.state ≠ .free)).map (·.1)

end Sys2Proof.Machine
end

