-- ==== Sys2Proof/Machine/Compress.lean ====
section
/-! DEFINITION. The compression engine: channels, descriptors, streams and state records (spec/13). A command whose enabling
condition does not hold leaves the state as it is (log 1). -/

namespace Sys2Proof.Machine

open Sys2Proof

/-! ### Channels (R651, R652) -/

/-- A transition of a channel, with its actions (R651). -/
def channelEvent (s : State) (c : Nat) (e : LcEvent) : State :=
  let (n, acts) := lcNext (s.fld F.cdeChanStatusState c) e
  let s := s.setFld F.cdeChanStatusState c n
  if acts.contains .off ∧ (List.range 4).all (fun i => decide (s.fld F.cdeChanStatusState i = lcOff)) then
    domStop s domCompression
  else s

/-- Whether a command runs on a channel. -/
def channelBusy (s : State) (c : Nat) : Bool := decide (runningOn s (.channel (Fin.ofNat 4 c)) ≠ 0)

/-- A channel that is STOPPING stops once its running command, if any, has completed (R651). -/
def channelSettle (s : State) (c : Nat) : State :=
  let st := s.fld F.cdeChanStatusState c
  if (st = lcStopping ∨ st = lcPendingOn) ∧ ¬ channelBusy s c then channelEvent s c .down else s

/-- An enable request (R651): a domain that is not permitted refuses it (R715). -/
def channelEnable (s : State) (c : Nat) : State :=
  let (n, acts) := lcNext (s.fld F.cdeChanStatusState c) .enable
  let set (s : State) : State := ((s.setFld F.cdeChanStatusState c n).setFld F.cdeChanCtrlEnable c 1).answer stOk
  if acts.contains .begin then
    let (ok, s) := domStart s domCompression
    if ok then set s else s.answer stBusy
  else set s

/-- A disable request (R651). -/
def channelDisable (s : State) (c : Nat) : State :=
  channelSettle (((channelEvent s c .disable).setFld F.cdeChanCtrlEnable c 0).answer stOk) c

/-- An enable request to a channel (R651). -/
def execChannelEnable (channel : Fin 4) (s : State) : Out :=
  .next (guarded s Reg.cdeChanCtrl (fun s => channelEnable s channel) (some (.channel channel)))

/-- A disable request to a channel (R651). -/
def execChannelDisable (channel : Fin 4) (s : State) : Out :=
  .next (guarded s Reg.cdeChanCtrl (fun s => channelDisable s channel) (some (.channel channel)))

/-- A starting channel is powered (R651): its domain must be ON. -/
def execChannelPowered (channel : Fin 4) (s : State) : Out :=
  .next (if s.domOn domCompression then channelSettle (channelEvent s channel .up) channel else s)

/-! ### Descriptors (R653 to R656) -/

/-- A compression descriptor. -/
structure Cde where
  w : List W64
  dst : List (Nat × Nat)
deriving DecidableEq, Repr

def Cde.bits (d : Cde) (i hi lo : Nat) : Nat := bitsOf (d.w.getD i 0) hi lo
def Cde.op (d : Cde) : Nat := d.bits 0 63 62
def Cde.format (d : Cde) : Nat := d.bits 0 61 59
def Cde.level (d : Cde) : Nat := d.bits 0 58 57
def Cde.wlog (d : Cde) : Nat := d.bits 0 56 52
def Cde.flush (d : Cde) : Nat := d.bits 0 51 50
def Cde.resume (d : Cde) : Bool := d.bits 0 49 49 = 1
def Cde.zcheck (d : Cde) : Nat := d.bits 0 48 48
def Cde.expect (d : Cde) : Bool := d.bits 0 47 47 = 1
def Cde.ndst (d : Cde) : Nat := d.bits 0 46 40
def Cde.expectCrc (d : Cde) : Nat := d.bits 0 31 0
def Cde.src (d : Cde) : Nat := d.bits 1 63 16
def Cde.srcLen (d : Cde) : Nat := d.bits 2 63 0
def Cde.dstList (d : Cde) : Nat := d.bits 3 63 16
def Cde.stateIn (d : Cde) : Nat := d.bits 4 63 16
def Cde.stateOut (d : Cde) : Nat := d.bits 5 63 16
def Cde.dict (d : Cde) : Nat := d.bits 6 63 16
def Cde.dictLen (d : Cde) : Nat := d.bits 7 63 40
def Cde.dictId (d : Cde) : Nat := d.bits 7 31 0

/-- Room for a state record (R655). -/
def Cde.stateRoom (d : Cde) : Nat := 64 + 262144 + 2 ^ d.wlog

/-- The bytes that the destinations hold. -/
def Cde.room (d : Cde) : Nat := d.dst.foldl (fun n e => n + e.2) 0

/-- Whether two ranges, each a start and a length, share a byte. -/
def overlap (a b : Nat × Nat) : Bool := decide (a.1 < b.1 + b.2 ∧ b.1 < a.1 + a.2 ∧ a.2 ≠ 0 ∧ b.2 ≠ 0)

/-- What a command reads and what it writes (R656). -/
def Cde.reads (d : Cde) : List (Nat × Nat) :=
  [(d.src, d.srcLen), (d.dstList, 16 * d.ndst), (d.stateIn, if d.resume then d.stateRoom else 0), (d.dict, d.dictLen)]
def Cde.writes (d : Cde) : List (Nat × Nat) := (d.stateOut, d.stateRoom) :: d.dst

/-- The checks of R656 on the descriptor itself. -/
def Cde.headOk (d : Cde) : Bool :=
  decide (d.op < 2 ∧ d.format < 4 ∧ d.flush < 3 ∧ (d.op = 1 → d.level = 0 ∧ d.flush ≠ 1 ∧ d.zcheck = 0) ∧
    (d.format ≠ 3 → d.wlog = 15 ∧ d.zcheck = 0 ∧ d.dictId = 0) ∧ (d.format = 3 → 10 ≤ d.wlog ∧ d.wlog ≤ 23) ∧
    1 ≤ d.ndst ∧ d.ndst ≤ 64 ∧ d.dictLen ≤ 8388608 ∧ (d.format = 2 → d.dictLen = 0) ∧ d.srcLen ≤ 2 ^ 40 ∧
    d.dstList % 16 = 0 ∧ (d.resume → d.stateIn % 64 = 0) ∧ d.stateOut % 64 = 0 ∧ d.bits 0 39 32 = 0 ∧ d.bits 1 15 0 = 0 ∧
    d.bits 3 15 0 = 0 ∧ d.bits 4 15 0 = 0 ∧ d.bits 5 15 0 = 0 ∧ d.bits 6 15 0 = 0 ∧ d.bits 7 39 32 = 0)

/-- The destination entries of a list's words; the reserved bits apart (R654). -/
def dstEntries : List W64 → List (Nat × Nat)
  | a :: n :: rest => (bitsOf a 63 16, n.toNat) :: dstEntries rest
  | _ => []

/-- Whether the words of a destination list pass R654 and R656. -/
def dstOk : List W64 → Bool
  | a :: n :: rest => decide (bitsOf a 15 0 = 0 ∧ 1 ≤ n.toNat ∧ n.toNat ≤ 2 ^ 40) && dstOk rest
  | _ => true

/-- Whether nothing is read that is written (R656). -/
def Cde.apart (d : Cde) : Bool := !(d.reads.any (fun a => d.writes.any (fun b => overlap a b)))

/-- The parameters that every command of a stream repeats (R665). -/
def Cde.params (d : Cde) : List Nat :=
  [d.op, d.format, d.level, d.wlog, d.zcheck, if d.expect then 1 else 0, d.expectCrc, d.dictLen, d.dictId]

/-- The budget of R672. -/
def Cde.budget (d : Cde) : Nat :=
  let k := if d.op = 1 ∨ d.level < 2 then 2 else if d.level = 2 then 6 else 16
  k * d.srcLen + d.dictLen + d.room + 1000000

/-! ### Running a command (R659 to R670) -/

/-- What a command takes over from the state record it resumes from: STREAM_IN, STREAM_OUT, both CRCs, FRAMES, SKIPPED, and
where the stream stands. -/
structure Resumed where
  streamIn : Nat := 0
  streamOut : Nat := 0
  plain : W32 := 0
  packed : W32 := 0
  frames : Nat := 0
  skipped : Nat := 0
  dictSeen : Nat := 0
  coder : Coder := {}
deriving DecidableEq, Repr

/-- What a state record's bytes hold (R664), for the stream that they stand for. -/
def resumedOf (bs : List Byte) (coder : Coder) : Resumed :=
  let ws := wordsOf (bs.take 64)
  let w (i : Nat) : W64 := ws.getD i 0
  { streamIn := (w 3).toNat, streamOut := (w 4).toNat, plain := BitVec.ofNat 32 (bitsOf (w 5) 63 32),
    packed := BitVec.ofNat 32 (bitsOf (w 5) 31 0), frames := bitsOf (w 6) 63 48, skipped := bitsOf (w 6) 47 32,
    dictSeen := bitsOf (w 6) 31 0, coder := coder }

/-- How a command ends: REASON, ERROR, its output, and the state record's contents with its private bytes. -/
structure CdeEnd where
  reason : Nat
  error : Nat
  used : Nat
  out : List Byte
  skipped : Nat := 0
  next : Resumed
  kept : List Byte := []
deriving DecidableEq, Repr

/-- The status of an ERROR code (R669). -/
def cdeStatus (error : Nat) : W16 := if error = 0 then stOk else if error = 6 then stUnsupported else stInvalid

/-- The bytes of a state record (R664). -/
def stateBytes (e : CdeEnd) : List Byte :=
  let n := e.next
  wordsBytes ([e.reason * 2 ^ 56 + e.error * 2 ^ 48, e.used, e.out.length, n.streamIn, n.streamOut,
    n.plain.toNat * 2 ^ 32 + n.packed.toNat, n.frames % 65536 * 2 ^ 48 + n.skipped % 65536 * 2 ^ 32 + n.dictSeen % 2 ^ 32,
    64 + e.kept.length].map (BitVec.ofNat 64)) ++ e.kept

/-- What fixes the bytes of a descriptor's stream beside its input and flushes (R659). -/
def Cde.pack (d : Cde) (dict : List Byte) : PackParams :=
  { format := d.format, level := d.level, wlog := d.wlog, zcheck := d.zcheck, dictId := d.dictId, dict := dict }

/-- Where a COMPRESS stream stands once it has taken the first `k` bytes of a command's input: with the last one it takes the command's
flush (R660). A stream that has been given FINAL takes nothing more. -/
def Coder.pack (k : Coder) (d : Cde) (dict input : List Byte) (n : Nat) : Coder :=
  let all := k.input ++ input.take n
  let last := decide (input.length ≤ n)
  { input := all, flushes := if last ∧ d.flush = 1 then k.flushes ++ [all.length] else k.flushes,
    final := last && decide (d.flush = 2), sent := k.sent, dict := some (k.dict.getD dict) }

/-- All that a COMPRESS stream has packed so far. With another dictionary than it began with, nothing is known of it (R666). -/
def Coder.packed (k : Coder) (d : Cde) (dict : List Byte) : List Byte :=
  if (k.dict.getD dict) = dict then Sys2Proof.Machine.packed (d.pack dict) k.input k.flushes k.final
  else (Config.cdeMixed d.params (k.dict.getD dict) dict k.input).1

/-- All that a DECOMPRESS stream has unpacked so far. With another dictionary than it began with, nothing is known of it (R666). -/
def Coder.unpacked (k : Coder) (d : Cde) (dict : List Byte) : Unpacked :=
  let u := Sys2Proof.Machine.unpacked (d.pack dict) k.input
  if (k.dict.getD dict) = dict then u
  else
    let x := Config.cdeMixed d.params (k.dict.getD dict) dict k.input
    { u with out := x.1, stop := x.2.elim u.stop .bad }

/-- How much input a command takes whose output, `made` of it by input bytes taken, fills its destinations: as much as it needs, and what
it reads ahead (R663; log 111). -/
def takenFull (d : Cde) (room len : Nat) (made : Nat → Nat) : Nat :=
  let least := ((List.range len).find? (fun n => decide (room ≤ made n))).getD len
  min len (least + Config.cdeAhead d.params len)

/-- A command's end: what it took and gave, and where its stream stands (R663, R664, R668). `frames`, `skipped` and `seen` are the
stream's counts so far. -/
def cdeEndOf (d : Cde) (r : Resumed) (k : Coder) (reason error : Nat) (taken out : List Byte) (frames skipped seen : Nat) : CdeEnd :=
  let plain := crc32cFrom r.plain (if d.op = 0 then taken else out)
  let error := if error = 0 ∧ reason = 0 ∧ d.expect ∧ plain.toNat ≠ d.expectCrc then 5 else error
  let reason := if error ≠ 0 then 3 else reason
  let out := if error ≠ 0 then (Config.cdeWreck d.params out).take d.room else out
  let k := { k with sent := k.sent + out.length }
  { reason := reason, error := error, used := taken.length, out := out, skipped := skipped - r.skipped,
    next := { streamIn := r.streamIn + taken.length, streamOut := r.streamOut + out.length,
              plain := crc32cFrom r.plain (if d.op = 0 then taken else out),
              packed := crc32cFrom r.packed (if d.op = 0 then out else taken),
              frames := frames, skipped := skipped, dictSeen := seen, coder := k },
    kept := (Config.statePrivate d.params k.input k.flushes k.sent).take (d.stateRoom - 64) }

/-- COMPRESS: the stream's packed bytes beyond those written go out as far as there is room (R657 to R663, R667). -/
def cdeCompress (d : Cde) (r : Resumed) (dict input : List Byte) : CdeEnd :=
  let input := if r.coder.final then [] else input
  let at' (n : Nat) : Coder := if r.coder.final then r.coder else r.coder.pack d dict input n
  let avail (n : Nat) : List Byte := ((at' n).packed d dict).drop r.coder.sent
  let whole := avail input.length
  let full := decide (d.room < whole.length)
  let n := if full then takenFull d d.room input.length (fun n => (avail n).length) else input.length
  let ended := !full && (at' n).final
  cdeEndOf d r (at' n) (if full then 2 else if ended then 0 else 1) 0 (input.take n) (whole.take d.room)
    (if ended ∧ 2 ≤ d.format then 1 else 0) 0 0

/-- The ERROR of a DECOMPRESS command that has taken all its input and given all its output; 0 for none (R669). -/
def unpackError (d : Cde) (u : Unpacked) : Nat :=
  match u.stop with
  | .bad e => e
  | .done => if u.rest.isEmpty then 0 else 9
  | .more => if d.flush = 2 ∧ !u.edge then 8 else 0

/-- DECOMPRESS: the stream's plain bytes beyond those written go out as far as there is room (R649, R650, R663, R667, R669). -/
def cdeDecompress (d : Cde) (r : Resumed) (dict input : List Byte) : CdeEnd :=
  let at' (n : Nat) : Coder := { r.coder with input := r.coder.input ++ input.take n, dict := some (r.coder.dict.getD dict) }
  let made (n : Nat) : Unpacked := (at' n).unpacked d dict
  let avail (n : Nat) : List Byte := (made n).out.drop r.coder.sent
  let u := made input.length
  let whole := avail input.length
  let full := decide (d.room < whole.length)
  let error := if full then 0 else unpackError d u
  let n := if full then takenFull d d.room input.length (fun n => (avail n).length)
           else if error = 0 ∨ error = 8 then input.length else input.length - u.rest.length
  let v := made n
  cdeEndOf d r (at' n) (if full then 2 else if d.flush = 2 then 0 else 1) error (input.take n) (whole.take d.room)
    v.frames v.skipped v.dictSeen

/-- The work of a checked command (R659 to R669). -/
def cdeRun (d : Cde) (r : Resumed) (dict input : List Byte) : CdeEnd :=
  if d.op = 0 then cdeCompress d r dict input else cdeDecompress d r dict input

/-- Output goes to the destination entries in order (R654). -/
def scatter (s : State) (qi c : Nat) (h : W32) : List (Nat × Nat) → List Byte → Option W16 × State
  | [], _ => (none, s)
  | (a, n) :: rest, bs =>
    if bs.isEmpty then (none, s)
    else
      match ctxStore s (some (.channel c)) h a (bs.take n) (.store qi) with
      | (some e, s) => (some e, s)
      | (none, s) => scatter s qi c h rest (bs.drop n)

/-- A command ends on its channel: the counters, then its completion; the channel may then stop (R651, R674). -/
def cdeFinish (s : State) (qi c : Nat) (st : W16) : State :=
  channelSettle (complete (s.bump F.cdeCommandsCount c) qi st) c

/-- A command's output and state record are written and counted, and it completes (R664, R669, R674). -/
def cdeEnd (s : State) (qi c : Nat) (d : Cde) (e : CdeEnd) : State :=
  let h := (s.queue qi).owner
  match scatter s qi c h d.dst e.out with
  | (some st, s) => cdeFinish s qi c st
  | (none, s) =>
    let rec' := stateBytes e
    match ctxStore s (some (.channel c)) h d.stateOut rec' (.store qi) with
    | (some st, s) => cdeFinish s qi c st
    | (none, s) =>
      let s := if e.reason = 1 ∨ e.reason = 2 then
          { s with streamStates := s.streamStates ++ [{ bytes := rec', params := d.params, coder := e.next.coder }] }
        else s
      let s := (s.bump F.cdeInBytesCount c e.used).bump F.cdeOutBytesCount c e.out.length
      let s := if e.reason = 2 then s.bump F.cdeStopsCount c else s
      let s := if e.reason = 3 then s.bump F.cdeErrorsCount c else s
      let s := if e.error = 4 ∨ e.error = 5 then s.bump F.cdeCheckFailsCount c else s
      let s := s.bump F.cdeSkippedCount c e.skipped
      let i := hIndex h
      let x := s.ctx i
      let s := s.setCtx i { x with cdeBytes := x.cdeBytes + e.used + e.out.length }
      cdeFinish s qi c (cdeStatus e.error)

/-- What a command resumes from: nothing, or the record at STATE_IN; `.ok none` where R666 refuses it. -/
def cdeResume (s : State) (c : Nat) (h : W32) (d : Cde) : (Except W16 (Option Resumed)) × State :=
  if !d.resume then (.ok (some {}), s)
  else
    match ctxReadObj s (some (.channel c)) h .load d.stateIn 64 with
    | (.error e, s) => (.error e, s)
    | (.ok head, s) =>
      let n := min ((wordsOf head).getD 7 0).toNat d.stateRoom
      match ctxReadObj s (some (.channel c)) h .load (d.stateIn + 64) (n - 64) with
      | (.error e, s) => (.error e, s)
      | (.ok rest, s) =>
        let bs := head ++ rest
        match (s.streamStates.filter (fun x => decide (x.bytes = bs ∧ x.params = d.params))).getLast? with
        | some x => (.ok (some (resumedOf bs x.coder)), s)
        | none => (.ok none, s)

/-- A checked command runs on its channel (R659 to R670). -/
def cdeWork (s : State) (qi c : Nat) (d : Cde) : State :=
  let h := (s.queue qi).owner
  let s := (beginCmd s qi (some d.budget)).setFld F.cdeChanStatusCtxIndex c (hIndex h)
  match cdeResume s c h d with
  | (.error e, s) => cdeFinish s qi c e
  | (.ok none, s) => cdeEnd s qi c d { reason := 3, error := 10, used := 0, out := [], next := {} }
  | (.ok (some r), s) =>
    match ctxReadObj s (some (.channel c)) h .load d.dict d.dictLen with
    | (.error e, s) => cdeFinish s qi c e
    | (.ok dict, s) =>
      match ctxReadObj s (some (.channel c)) h .load d.src d.srcLen with
      | (.error e, s) => cdeFinish s qi c e
      | (.ok input, s) =>
        cdeEnd s qi c d (cdeRun d r dict input)

/-- The descriptor and destination list are read and checked (R653 to R656); the work follows for operation `op`. -/
def cdeCommand (s : State) (qi c op : Nat) : State :=
  let q := s.queue qi
  match ctxReadObj s (some (.channel c)) q.owner .load q.object 64 with
  | (.error e, s) => cdeFinish (beginCmd s qi none) qi c e
  | (.ok bs, t) =>
    let d : Cde := { w := wordsOf bs, dst := [] }
    if !d.headOk then cdeFinish t qi c stInvalid
    else if d.op ≠ op then { s with farUnit := t.farUnit, farMiss := t.farMiss, farLack := t.farLack, far := t.far }
    else
      match ctxReadObj t (some (.channel c)) q.owner .load d.dstList (16 * d.ndst) with
      | (.error e, t) => cdeFinish (beginCmd t qi none) qi c e
      | (.ok ls, t) =>
        let ws := wordsOf ls
        let d : Cde := { d with dst := dstEntries ws }
        if !dstOk ws || !d.apart then cdeFinish t qi c stInvalid
        else cdeWork t qi c d

/-- The channel that a queue's command was started on. -/
def channelOf (s : State) (qi : Nat) : Nat :=
  match (s.queue qi).on with
  | some (.channel c) => c
  | _ => 0

/-- A COMPRESS command of operation `op` that has started: stopped, or run. -/
def cdeStep (s : State) (qi op : Nat) : State :=
  let c := channelOf s qi
  match (s.queue qi).stopReq with
  | some st => if st = stRefStop then channelSettle (complete s qi st) c else cdeFinish s qi c st
  | none => withFarCmd s qi (fun s => cdeCommand s qi c op)

/-- COMPRESS (R659). -/
def execCompress (q : Fin 16384) (s : State) : Out := if starting s q 6 then .next (cdeStep s q 0) else .next s

/-- DECOMPRESS (R667). -/
def execDecompress (q : Fin 16384) (s : State) : Out := if starting s q 6 then .next (cdeStep s q 1) else .next s

end Sys2Proof.Machine
end

