-- ==== Sys2Proof/Machine/Pixels.lean ====
section
/-! DEFINITION. Pixel formats: components to FP32 and back (spec/07 R325, R336, R337). -/

namespace Sys2Proof.Machine

/-- 1.0 in FP32. -/
abbrev oneF : W32 := 0x3F800000#32

/-- `num / den`, rounded once to FP32. -/
def ratFp32 (num den : Nat) : W32 :=
  let t := num * 2 ^ 100 / den
  (Num.fin false (2 * t + (if num * 2 ^ 100 % den = 0 then 0 else 1)) (-101)).toFp32

/-- An unsigned normalised component of `n` bits (R337). -/
def unormDecode (n v : Nat) : W32 := ratFp32 (v % 2 ^ n) (2 ^ n - 1)

/-- A value as an unsigned normalised component of `n` bits (R337). -/
def unormEncode (n : Nat) (x : W32) : Nat :=
  let top := 2 ^ n - 1
  match Num.ofFp32 x with
  | .nan => 0
  | .inf neg => if neg then 0 else top
  | .fin neg m q => if neg then 0 else min top (onGrid (m * top) q 0)

/-- A number of 2^-46 units rounded down or up to FP32. -/
def gridFp32 (up : Bool) (m : Nat) : W32 :=
  let k := 2 ^ (Nat.log2 m - 23)
  (Num.fin false ((m / k + (if up && decide (m % k ≠ 0) then 1 else 0)) * k) (-46)).toFp32

/-- The largest number of 2^-46 units whose fifth power is at most `(num / den)^12`: `bits` bits of it are found from the top. -/
def root125 (num den : Nat) : Nat → Nat → Nat
  | 0, y => y
  | bits + 1, y =>
    let z := y + 2 ^ bits
    root125 num den bits (if z ^ 5 * den ^ 12 ≤ num ^ 12 * 2 ^ 230 then z else y)

/-- An sRGB component of 8 bits as a linear value, by the IEC 61966-2-1 transfer function in exact arithmetic: `c / 12.92` up to
0.04045, above it `((c + 0.055) / 1.055)^2.4`. Whether the device's table holds the FP32 value below or above it is not stated; 0 and
255 are exact (R337; log 23). -/
def srgbDecode (v : Nat) : W32 :=
  let v := v % 256
  let up : Bool := Config.unstated 20 [BitVec.ofNat 32 v] = 1
  if v = 0 then 0
  else if v = 255 then oneF
  else if v ≤ 10 then gridFp32 up (v * 100 * 2 ^ 46 / (255 * 1292) + (if up then 1 else 0))
  else gridFp32 up (root125 (v * 1000 + 14025) 269025 47 0 + (if up then 1 else 0))

/-- Whether `255 * e` is at least `n`, and more than it, for the encoding `e` of the linear value `m * 2^q` in (0, 1): `12.92 x` up to
0.0031308, above it `1.055 x^(1/2.4) - 0.055`. -/
def srgbReaches (m : Nat) (q : Int) (n : Nat) : Bool × Bool :=
  let d := 2 ^ (-q).toNat
  if m * 10000000 ≤ 31308 * d then (decide (n * d * 100 ≤ 255 * 1292 * m), decide (n * d * 100 < 255 * 1292 * m))
  else
    let a := (n * 1000 + 14025) ^ 12 * d ^ 5
    let b := 269025 ^ 12 * m ^ 5
    (decide (a ≤ b), decide (a < b))

/-- A linear value as an sRGB component of 8 bits. Whether the device's table rounds it down or up is not stated; one that the transfer
function gives exactly is exact (R337; log 23). -/
def srgbEncode (x : W32) : Nat :=
  match Num.ofFp32 x with
  | .nan => 0
  | .inf neg => if neg then 0 else 255
  | .fin neg m q =>
    if neg || decide (m = 0) then 0
    else if 0 ≤ q ∨ 2 ^ (-q).toNat ≤ m then 255
    else
      let n := ((List.range 255).filter (fun i => (srgbReaches m q (i + 1)).1)).length
      if (srgbReaches m q n).2 && decide (Config.unstated 21 [x] = 1) then n + 1 else n

/-- FP16 to FP32 and back (R90, R91). -/
def f16Decode (v : Nat) : W32 := (Num.decode .fp16 (v % 65536)).toFp32
def f16Encode (x : W32) : Nat := ((Num.ofFp32 x).convert .fp16 false).bits

/-- Components of a format (R325). -/
def fmtComps (f : Nat) : Nat :=
  if f = 0 ∨ f = 8 then 1 else if f = 1 ∨ f = 6 then 2 else 4

/-- Red, green, blue and alpha of a pixel's bits; missing components read 0, alpha 1.0 (R325, R344). -/
def pixelDecode (f bits : Nat) : List W32 :=
  let c8 (i : Nat) : W32 := unormDecode 8 (natBits bits (8 * i + 7) (8 * i))
  let h (i : Nat) : W32 := f16Decode (natBits bits (16 * i + 15) (16 * i))
  match f with
  | 0 => [c8 0, 0, 0, oneF]
  | 1 => [c8 0, c8 1, 0, oneF]
  | 2 => [c8 0, c8 1, c8 2, c8 3]
  | 3 => [srgbDecode (natBits bits 7 0), srgbDecode (natBits bits 15 8), srgbDecode (natBits bits 23 16), c8 3]
  | 4 => [c8 2, c8 1, c8 0, c8 3]
  | 5 => [unormDecode 10 (natBits bits 9 0), unormDecode 10 (natBits bits 19 10), unormDecode 10 (natBits bits 29 20),
          unormDecode 2 (natBits bits 31 30)]
  | 6 => [h 0, h 1, 0, oneF]
  | 7 => [h 0, h 1, h 2, h 3]
  | 8 => [BitVec.ofNat 32 bits, 0, 0, oneF]
  | _ => [0, 0, 0, oneF]

/-- The bits of one component of red, green, blue and alpha, its width and its place in the pixel. -/
def compEncode (f c : Nat) (x : W32) : Nat × Nat × Nat :=
  match f with
  | 3 => if c = 3 then (unormEncode 8 x, 8, 24) else (srgbEncode x, 8, 8 * c)
  | 4 => (unormEncode 8 x, 8, if c = 3 then 24 else 8 * (2 - c))
  | 5 => if c = 3 then (unormEncode 2 x, 2, 30) else (unormEncode 10 x, 10, 10 * c)
  | 6 | 7 => (f16Encode x, 16, 16 * c)
  | 8 => (x.toNat, 32, 0)
  | _ => (unormEncode 8 x, 8, 8 * c)

/-- Which of red, green, blue and alpha a format has, by component number: component 0 of BGRA8 is blue. -/
def fmtHas (f c : Nat) : Bool := decide (c < fmtComps f)

/-- A pixel with the components of `mask` replaced; bit `i` of the mask is component `i` of the format (R335). -/
def pixelWrite (f mask old : Nat) (rgba : List W32) : Nat :=
  (List.range 4).foldl (fun acc c =>
    let bit := if f = 4 ∧ c < 3 then 2 - c else c
    if fmtHas f c && natBit mask bit then
      let (v, w, lo) := compEncode f c (rgba.getD c 0)
      acc - natBits acc (lo + w - 1) lo * 2 ^ lo + v % 2 ^ w * 2 ^ lo
    else acc) old

end Sys2Proof.Machine
end

