-- ==== Sys2Proof/Machine/Compose.lean ====
section
/-! DEFINITION. The frame that a composer pipe builds: what it fetches, how a pixel is composed, signatures and writeback pixels
(spec/08 R385, R386, R393 to R405, R410). -/

namespace Sys2Proof.Machine

/-! ### Layer records (R385) -/

def lrBase (w : List W64) : Nat := bitsOf (w.getD 0 0) 63 16
def lrFormat (w : List W64) : Nat := bitsOf (w.getD 0 0) 15 12
def lrMode (w : List W64) : Nat := bitsOf (w.getD 0 0) 11 10
def lrEnable (w : List W64) : Bool := bitsOf (w.getD 0 0) 9 9 = 1
def lrPitch (w : List W64) : Nat := bitsOf (w.getD 1 0) 63 40
def lrAlpha (w : List W64) : Nat := bitsOf (w.getD 1 0) 39 32
def lrSrcX (w : List W64) : Nat := bitsOf (w.getD 2 0) 63 48
def lrSrcY (w : List W64) : Nat := bitsOf (w.getD 2 0) 47 32
def lrWm1 (w : List W64) : Nat := bitsOf (w.getD 2 0) 31 16
def lrHm1 (w : List W64) : Nat := bitsOf (w.getD 2 0) 15 0
def lrDstX (w : List W64) : Nat := bitsOf (w.getD 3 0) 63 48
def lrDstY (w : List W64) : Nat := bitsOf (w.getD 3 0) 47 32

/-- Bytes per pixel of a composer format (R386). -/
def lrBpp (w : List W64) : Nat := if lrFormat w = 7 then 8 else if lrFormat w = 9 then 2 else 4

/-- Whether a layer's rectangle holds an output pixel (R386). -/
def lrCovers (w : List W64) (x y : Nat) : Bool :=
  decide (lrDstX w ≤ x ∧ x ≤ lrDstX w + lrWm1 w ∧ lrDstY w ≤ y ∧ y ≤ lrDstY w + lrHm1 w)

/-- Whether a layer occludes (R396). -/
def lrOccludes (w : List W64) : Bool := decide (lrMode w = 0 ∧ lrAlpha w = 255)

/-- The address and length of the bytes that hold the source pixel of an output pixel: for YUYV8, those of its pair (R386). -/
def lrPixelAt (w : List W64) (x y : Nat) : Nat × Nat :=
  let sx := lrSrcX w + (x - lrDstX w)
  let row := lrBase w + (lrSrcY w + (y - lrDstY w)) * lrPitch w
  if lrFormat w = 9 then (row + sx / 2 * 4, 4) else (row + sx * lrBpp w, lrBpp w)

/-! ### Arithmetic of the composer -/

/-- `num / den`, rounded once to FP32, for a signed numerator. -/
def ratFp32Int (num : Int) (den : Nat) : W32 :=
  let m := ratFp32 num.natAbs den
  if num < 0 then m ^^^ 0x80000000#32 else m

/-- The FP32 quotient of finite values with a divisor other than zero, rounded once. -/
def fp32Quot (a b : W32) : W32 :=
  match Num.ofFp32 a, Num.ofFp32 b with
  | .fin n m q, .fin n' m' q' =>
    let t := m * 2 ^ 80 / m'
    (Num.fin (n != n') (2 * t + (if m * 2 ^ 80 % m' = 0 then 0 else 1)) (q - q' - 81)).toFp32
  | _, _ => a

/-- A value clamped to [0, 1]; a NaN becomes 0 (R393). -/
def clamp01 (x : W32) : W32 :=
  match Num.ofFp32 x with
  | .nan => 0
  | .inf neg => if neg then 0 else oneF
  | .fin neg m q => if neg then 0 else if (Num.fin false 1 0).lt (Num.fin neg m q) then oneF else x

/-- The decimal constant `num / den` in FP32. -/
abbrev constF (num den : Nat) : W32 := ratFp32 num den

/-- Red, green, blue and alpha of a layer pixel (R393); `odd`: the second pixel of a YUYV8 pair. -/
def layerDecode (format bits : Nat) (odd : Bool) : List W32 :=
  if format = 9 then
    let y := ratFp32Int ((natBits bits (if odd then 23 else 7) (if odd then 16 else 0) : Nat) - 16 : Int) 219
    let cb := ratFp32Int ((natBits bits 15 8 : Nat) - 128 : Int) 224
    let cr := ratFp32Int ((natBits bits 31 24 : Nat) - 128 : Int) 224
    let r := fp32Add y (fp32Mul (constF 15748 10000) cr)
    let g := fp32Sub (fp32Sub y (fp32Mul (constF 18732 100000) cb)) (fp32Mul (constF 46812 100000) cr)
    let b := fp32Add y (fp32Mul (constF 18556 10000) cb)
    [clamp01 r, clamp01 g, clamp01 b, oneF]
  else if format = 7 then (pixelDecode 7 bits).map clamp01
  else if format = 3 then pixelDecode 2 bits
  else pixelDecode format bits

/-- One layer over what lies below (R394). -/
def blendLayer (mode alpha : Nat) (src : List W32) (d : List W32) : List W32 :=
  let pa := unormDecode 8 alpha
  let a := if mode = 0 then oneF else src.getD 3 0
  let e := fp32Mul a pa
  let k := fp32Sub oneF e
  (List.range 3).map (fun c =>
    let t := if mode = 1 then fp32Mul (src.getD c 0) pa else fp32Mul (src.getD c 0) e
    fp32Add t (fp32Mul (d.getD c 0) k))

/-! ### Fetch (R386, R396 to R400) -/

/-- The number under which a pipe's reads of other devices' memory are kept (log 32). -/
def pipeUnit (p : Nat) : Nat := 2 ^ 60 + p

/-- The bytes of a source pixel: a status where the access fails, none where they have not come (R399, R400). -/
def fetchPixel (s : State) (p : Nat) (h : W32) (va n : Nat) : (Except W16 (Option Nat)) × State :=
  match xlate s (some (.pipe p)) h .load va with
  | (.error e, s) => (.error e, s)
  | (.ok (.mem a), s) =>
    match memLoadNat s a n with
    | (none, s) => (.error stDataError, s)
    | (some v, s) => (.ok (some v), s)
  | (.ok (.remote d a), s) =>
    match s.far.find? (fun (f : FarRead) => decide (f.unit = pipeUnit p ∧ f.dev = d ∧ f.addr ≤ a ∧ a + n ≤ f.addr + f.len)) with
    | some f =>
      if !f.done then (.ok none, s)
      else if f.status = stOk then (.ok (some (leNat ((f.bytes.drop (a - f.addr)).take n))), s)
      else (.error f.status, s)
    | none => (.ok none, s)
  | (.ok (.host ..), s) => (.error stAccessFault, s)

/-- A layer's fetch fails: its owner is lost, a fault record is written, and from this line its rectangle shows background
(R400). -/
def layerFault (s : State) (p l y : Nat) (h : W32) (va : Nat) (st : W16) : State :=
  let s := if s.staleCtx h then s else loseCtx s (hIndex h)
  let s := faultRecord s (recordWords st 0x18 h s.now va 0 0 (p * 8 + l) 0 0)
  let x := s.pipe p
  s.setPipe p { x with faulted := x.faulted ++ [(l, y)] }

/-- The active layers of a pipe that are enabled and cover a pixel, lowest first. -/
def coveringLayers (x : Pipe) (px py : Nat) : List (Nat × W32 × List W64) :=
  (List.range 8).filterMap (fun l => match SMap.get none x.layers l with
    | some (h, w) => if lrEnable w && lrCovers w px py then some (l, h, w) else none
    | none => none)

/-- Whether a pixel lies in the rectangle of a layer that has faulted at or above its line (R400). -/
def inFaulted (x : Pipe) (px py : Nat) : Bool :=
  x.faulted.any (fun f => decide (f.2 ≤ py) && (match SMap.get none x.layers f.1 with
    | some (_, w) => lrCovers w px py
    | none => false))

/-- Whether a pixel lies in the rectangle of a layer that was disabled within the frame, at or above its line (R539). -/
def inGone (x : Pipe) (px py : Nat) : Bool := x.gone.any (fun g => decide (g.1 ≤ py) && lrCovers g.2 px py)

/-- Whether a pixel has found no data in time (R399). -/
def inUnder (x : Pipe) (px py : Nat) : Bool :=
  x.under.any (fun u => decide (u.2.1 = py ∧ u.1 ≤ px ∧ px < u.1 + u.2.2))

/-- The layers that a pixel needs: none below the highest that occludes, unless NO_SKIP is set (R396). -/
def neededLayers (noSkip : Bool) (ls : List (Nat × W32 × List W64)) : List (Nat × W32 × List W64) :=
  if noSkip then ls
  else
    match ((ls.reverse).find? (fun l => lrOccludes l.2.2)).map (·.1) with
    | none => ls
    | some top => ls.filter (fun l => decide (top ≤ l.1))

/-- The background of a pipe, as its frame's boundary took it (R394, R395; log 107). -/
def background (s : State) (p : Nat) : List W32 :=
  [unormDecode 10 (s.fldActive F.lyrBgR p), unormDecode 10 (s.fldActive F.lyrBgG p), unormDecode 10 (s.fldActive F.lyrBgB p)]

/-- A pixel becomes background because data is late: counted and recorded once for the frame (R399). -/
def underflow (s : State) (p px py n : Nat) : State :=
  let x := s.pipe p
  let s := if x.under.isEmpty then
      event (s.bump F.lyrUnderflowCountCount p) 0x0602 0 p (s.fld F.lyrFrameSeqSeq p)
    else s
  s.setPipe p { s.pipe p with under := (s.pipe p).under ++ [(px, py, n)] }

/-- The layers of a pixel composed in order; none where a fetch of it failed or is late. -/
def composeLayers (s : State) (p px py : Nat) (noSkip : Bool) :
    List (Nat × W32 × List W64) → List W32 → (Option (List W32)) × State
  | [], d => (some d, s)
  | (l, h, w) :: rest, d =>
    let (va, n) := lrPixelAt w px py
    match fetchPixel s p h va n with
    | (.error e, s) => (none, layerFault s p l py h va e)
    | (.ok none, s) => (none, underflow s p px py 1)
    | (.ok (some bits), s) =>
      composeLayers s p px py noSkip rest
        (blendLayer (lrMode w) (lrAlpha w) (layerDecode (lrFormat w) bits ((lrSrcX w + (px - lrDstX w)) % 2 = 1)) d)

/-- Bits per component of a pipe's output. -/
def outBits (s : State) (p : Nat) : Nat := if s.fld F.lyrPipeCtrlOutBpc p = 1 then 10 else 8

/-- One pixel of the frame (R394, R396, R399, R400). -/
def composePixel (s : State) (p px py : Nat) : List Nat × State :=
  let enc (d : List W32) : List Nat := d.map (unormEncode (outBits s p))
  let x := s.pipe p
  if inFaulted x px py || inGone x px py then (enc (background s p), s)
  else
    let noSkip := s.fld F.lyrPipeCtrlNoSkip p = 1
    let ls := coveringLayers x px py
    let need := neededLayers noSkip ls
    let skipped := (ls.filter (fun l => !need.any (fun m => decide (m.1 = l.1)))).foldl (fun n l => n + lrBpp l.2.2) 0
    let s := s.bump F.lyrSkipBytesCount p skipped
    if inUnder x px py then (enc (background s p), s)
    else match composeLayers s p px py noSkip need (background s p) with
    | (some d, s) => (enc d, s)
    | (none, s) => (enc (background s p), s)

/-- Active pixels and lines of a pipe. -/
def hActive (s : State) (p : Nat) : Nat := s.fld F.lyrTimingHActiveM1 p + 1
def vActive (s : State) (p : Nat) : Nat := s.fld F.lyrTimingVActiveM1 p + 1

/-- A line of the frame. A layer that faults shows background on the whole of the faulting line (R400). -/
def composeLine (s : State) (p py : Nat) : List (List Nat) × State :=
  let (row, t) := (List.range (hActive s p)).foldl (fun (acc : List (List Nat) × State) px =>
    let (v, t) := composePixel acc.2 p px py
    (acc.1 ++ [v], t)) ([], s)
  let x := t.pipe p
  (if x.faulted.any (fun f => decide (f.2 = py)) then
    row.mapIdx (fun px v => if inFaulted x px py then (background t p).map (unormEncode (outBits t p)) else v)
   else row, t)

/-- The lines of the frame before line `n`: those composed already, and those that follow them. -/
def composeTo (s : State) (p n : Nat) : List (List (List Nat)) × State :=
  let done := (s.pipe p).rows
  (List.range' done.length (n - done.length)).foldl (fun acc py =>
    let (row, t) := composeLine acc.2 p py
    (acc.1 ++ [row], t)) (done, s)

/-- The frame, line by line. -/
def composeFrame (s : State) (p : Nat) : List (List (List Nat)) × State := composeTo s p (vActive s p)

/-! ### What the display shows (R405 to R407) -/

/-- The layer record of a full-screen opaque layer. -/
def fullScreen (s : State) (p base pitch format : Nat) : List W64 :=
  [BitVec.ofNat 64 (base * 2 ^ 16 + format * 2 ^ 12 + 2 ^ 9), BitVec.ofNat 64 (pitch * 2 ^ 40 + 255 * 2 ^ 32),
   BitVec.ofNat 64 (s.fld F.lyrTimingHActiveM1 p * 2 ^ 16 + s.fld F.lyrTimingVActiveM1 p), 0]

/-- Where writeback slot `k` lies (R409). -/
def wbSlotAt (s : State) (p k : Nat) : Nat := s.fldActive F.lyrWbBaseAddr p + k * s.fldActive F.lyrWbGeomSlotStride p

/-- A pixel of a held writeback slot, scanned out as one full-screen layer in the writeback format (R405); background where its
data cannot be read (log 107). -/
def heldPixel (s : State) (p k px py : Nat) : List Nat × State :=
  let w := fullScreen s p (wbSlotAt s p k) (s.fldActive F.lyrWbGeomPitch p) (s.fldActive F.lyrWbCtrlFormat p)
  let (va, n) := lrPixelAt w px py
  let enc (d : List W32) : List Nat := d.map (unormEncode (outBits s p))
  match fetchPixel s p (BitVec.ofNat 32 (s.fldActive F.lyrWbOwnerHandle p)) va n with
  | (.ok (some bits), s) =>
    (enc (blendLayer (lrMode w) (lrAlpha w) (layerDecode (lrFormat w) bits (px % 2 = 1)) (background s p)), s)
  | (_, s) => (enc (background s p), s)

/-- The frame that a hold shows, line by line. -/
def heldFrame (s : State) (p k : Nat) : List (List (List Nat)) × State :=
  (List.range (vActive s p)).foldl (fun acc py =>
    let (row, t) := (List.range (hActive s p)).foldl (fun (acc : List (List Nat) × State) px =>
      let (v, t) := heldPixel acc.2 p k px py
      (acc.1 ++ [v], t)) ([], acc.2)
    (acc.1 ++ [row], t)) ([], s)

/-- The frame that the display has shown: all 0 under a blank, the held slot under a hold, else the composed frame (R405). -/
def showFrame (s : State) (p : Nat) (frame : List (List (List Nat))) : State :=
  let put (s : State) (d : List (List (List Nat))) : State := s.setPipe p { s.pipe p with display := d }
  if s.fld F.lyrPipeStatusBlanked p = 1 then put s (frame.map (fun row => row.map (fun v => v.map (fun _ => 0))))
  else match (if s.fld F.lyrPipeStatusHolding p = 1 then (s.pipe p).holdSlot else none) with
    | some k => let (d, s) := heldFrame s p k; put s d
    | none => put s frame

/-! ### Signatures (R401 to R404) -/

/-- Whether a rectangle lies wholly within the active area. -/
def rectInside (s : State) (p : Nat) (r : W64) : Bool :=
  decide (bitsOf r 63 48 + bitsOf r 31 16 < hActive s p ∧ bitsOf r 47 32 + bitsOf r 15 0 < vActive s p)

/-- The CRC-32C of a region of a frame (R401). -/
def regionCrc (bits : Nat) (frame : List (List (List Nat))) (r : W64) : W32 :=
  let rows := (frame.drop (bitsOf r 47 32)).take (bitsOf r 15 0 + 1)
  let pix := (rows.map (fun row => (row.drop (bitsOf r 63 48)).take (bitsOf r 31 16 + 1))).flatten
  crc32c ((pix.flatten.map (fun c => leBytes (if bits = 10 then 2 else 1) c)).flatten)

/-- A region of the ended frame is judged: whether it mismatched (R402, R404). -/
def judgeRegion (s : State) (p r : Nat) (frame : List (List (List Nat))) : Bool × State :=
  let i := 16 * p + r
  let rect := s.rdActive Reg.lyrSigRect i
  let crc := if rectInside s p rect then regionCrc (outBits s p) frame rect else 0
  let expect := s.fldActive F.lyrSigExpectCrc i
  let bad := !rectInside s p rect || decide (crc.toNat ≠ expect)
  let s := s.setFld F.lyrSigLastCrc i crc.toNat
  if bad then
    let s := s.setFld F.lyrSigStatusMismatch p (s.fld F.lyrSigStatusMismatch p ||| 2 ^ r)
    (true, event (s.bump F.lyrSigMissCount i) 0x0603 0 (p * 256 + r) (crc.toNat * 2 ^ 32 + expect))
  else (false, s)

/-- Every enabled region of the ended frame is judged: the mask of those that mismatched. -/
def judgeFrame (s : State) (p : Nat) (frame : List (List (List Nat))) : Nat × State :=
  (List.range 16).foldl (fun (acc : Nat × State) r =>
    if natBit (acc.2.fldActive F.lyrSigCtrlEnable p) r then
      let (bad, t) := judgeRegion acc.2 p r frame
      (if bad then acc.1 ||| 2 ^ r else acc.1, t)
    else acc) (0, s)

/-- The enabled regions of a mask whose ACTION is `a`. -/
def actionMask (s : State) (p m a : Nat) : Bool :=
  (List.range 16).any (fun r => natBit m r && decide (s.fldActive F.lyrSigCfgAction (16 * p + r) = a))

/-! ### Writeback pixels (R409, R410) -/

/-- The bytes of a pair of pixels in YUYV8 (R410). -/
def yuyvPair (a b : List W32) : List Byte :=
  let luma (c : List W32) : W32 :=
    fp32Add (fp32Add (fp32Mul (constF 2126 10000) (c.getD 0 0)) (fp32Mul (constF 7152 10000) (c.getD 1 0)))
      (fp32Mul (constF 722 10000) (c.getD 2 0))
  let mean := (List.range 3).map (fun i => fp32Mul (fp32Add (a.getD i 0) (b.getD i 0)) 0x3F000000#32)
  let byte (x : W32) : Byte := BitVec.ofNat 8 ((Num.ofFp32 x).toIntClamp 0 255).toNat
  let y (c : List W32) : Byte := byte (fp32Add (constF 16 1) (fp32Mul (constF 219 1) (luma c)))
  let chroma (i den : Nat) : Byte :=
    byte (fp32Add (constF 128 1)
      (fp32Quot (fp32Mul (constF 224 1) (fp32Sub (mean.getD i 0) (luma mean))) (constF den 10000)))
  [y a, chroma 2 18556, y b, chroma 0 15748]

/-- A line of a frame in a writeback format (R409, R410). -/
def wbLine (format bits : Nat) (row : List (List Nat)) : List Byte :=
  let rgb (v : List Nat) : List W32 := v.map (unormDecode bits)
  if format = 9 then
    ((List.range (row.length / 2)).map (fun i => yuyvPair (rgb (row.getD (2 * i) [])) (rgb (row.getD (2 * i + 1) [])))).flatten
  else (row.map (fun v => leBytes 4 (pixelWrite format 15 0 (rgb v ++ [oneF])))).flatten

end Sys2Proof.Machine
end

