-- ==== Sys2Proof/Machine/Display.lean ====
section
/-! DEFINITION. DisplayPort outputs: links, streams and the composer domain (spec/08 R413 to R421). -/

namespace Sys2Proof.Machine

/-- The composer domain stops when its last unit is OFF: every pipe, and every transmitter (R677). -/
def composerSettle (s : State) : State :=
  if (List.range 4).all (fun p => decide (s.fld F.lyrPipeStatusState p = lcOff)) &&
     (List.range 2).all (fun t => decide (s.fld F.dpxLinkCtrlEn t = 0)) then domStop s domComposer
  else s

/-- The rate of one lane in kb/s, and whether it codes 8b/10b, by the code of MAX_RATE (R413, R420). -/
def laneRate (code : Nat) : Nat × Bool :=
  match code with
  | 0 => (1620000, true)
  | 1 => (2700000, true)
  | 2 => (5400000, true)
  | 3 => (8100000, true)
  | 4 => (10000000, false)
  | 5 => (13500000, false)
  | _ => (20000000, false)

/-- The payload rate of a trained link as a fraction of kb/s (R415). -/
def payloadRate (s : State) (t : Nat) : Nat × Nat :=
  let (r, old) := laneRate (s.fld F.dpxLinkStatusRate t)
  let lanes := 2 ^ s.fld F.dpxLinkStatusLanes t
  if old then (lanes * r * 8, 10) else (lanes * r * 128, 132)

/-- A stream's rate as a fraction of kb/s (R415). -/
def streamRate (s : State) (p : Nat) : Nat × Nat :=
  if s.fld F.dpxStreamDsc p = 1 then (s.fld F.lyrPclkKhz p * s.fld F.dpxStreamBppX16 p, 16)
  else (s.fld F.lyrPclkKhz p * 3 * outBits s p, 1)

/-- Whether a pipe's stream is one that transmitter `t` is to send now (R375, R379, R415). -/
def streamWanted (s : State) (t p : Nat) : Bool :=
  decide (s.fld F.dpxStreamEn p = 1 ∧ s.fld F.dpxStreamTx p = t ∧ (s.pipe p).restarting = false ∧
    (s.fld F.lyrPipeStatusState p = lcOn ∨ s.fld F.lyrPipeStatusState p = lcStopping ∨
      s.fld F.lyrPipeStatusState p = lcPendingOn))

/-- A stream is allocated slots of its transmitter, or is not sent (R415). In SST the one stream is sent if it fits; SLOTS then
reads a free number from 1 to 63 (log 42). -/
def allocStream (s : State) (p : Nat) : State :=
  let t := s.fld F.dpxStreamTx p
  if !(streamWanted s t p) || decide (s.fld F.dpxLinkStatusTrained t = 0) then s.setFld F.dpxStreamSlots p 0
  else
    let (rn, rd) := streamRate s p
    let (pn, pd) := payloadRate s t
    let others := (List.range 4).filter (fun i => decide (i ≠ p ∧ s.fld F.dpxStreamTx i = t))
    let used := others.foldl (fun n i => n + s.fld F.dpxStreamSlots i) 0
    let unsent (s : State) : State := event (s.setFld F.dpxStreamSlots p 0) 0x0702 0 p
    if s.fld F.dpxLinkCtrlMst t = 1 then
      let need := (64 * rn * pd + rd * pn - 1) / (rd * pn)
      if used + need ≤ 63 ∧ pn ≠ 0 then s.setFld F.dpxStreamSlots p need else unsent s
    else if used = 0 ∧ rn * pd ≤ pn * rd then
      let (v, s) := s.fresh
      s.setFld F.dpxStreamSlots p (1 + v.toNat % 63)
    else unsent s

/-- Every stream of a transmitter is allocated afresh, in ascending pipe order (R415). -/
def allocLink (s : State) (t : Nat) : State :=
  let mine := (List.range 4).filter (fun p => decide (s.fld F.dpxStreamTx p = t))
  let s := mine.foldl (fun s p => s.setFld F.dpxStreamSlots p 0) s
  (mine.filter (fun p => streamWanted s t p)).foldl allocStream s

/-- A link is no longer trained: none of its streams is sent (R414, R416). -/
def linkLost (s : State) (t : Nat) : State := allocLink (s.setFld F.dpxLinkStatusTrained t 0) t

/-- A transmitter trains its link, if it is enabled and its sink asserts hot-plug detect (R414). -/
def trainStart (s : State) (t : Nat) : State :=
  if s.fld F.dpxLinkCtrlEn t = 1 ∧ s.fld F.dpxLinkStatusHpd t = 1 then
    linkLost (s.setDpTx t { training := true, failedAt := none }) t
  else s

/-- The sink asserts hot-plug detect, interrupts, or lets it go (R414). -/
def execHotPlug (tx : Fin 2) (ev : HpdEvent) (s : State) : Out :=
  if s.power.on then
    match ev with
    | .assert => .next (trainStart (s.setFld F.dpxLinkStatusHpd tx 1) tx)
    | .interrupt => .next (trainStart s tx)
    | .deassert => .next (linkLost ((s.setFld F.dpxLinkStatusHpd tx 0).setDpTx tx {}) tx)
  else .next s

/-- Training ends: at a rate and lane count within DPX_LINK_CTRL, or in failure at every rate. Nothing can succeed while the
composer domain is not ON or its pads are held (R414, R415, R681). -/
def execLinkTrainingEnd (tx : Fin 2) (result : Option (Fin 7 × Fin 3)) (s : State) : Out :=
  if (s.dpTx tx).training then
    match result with
    | some (r, l) =>
      if s.domOn domComposer ∧ s.fld F.pwrDomainStatusPadsHeld domComposer = 0 ∧ r.val ≤ s.fld F.dpxLinkCtrlMaxRate tx ∧
         l.val ≤ s.fld F.dpxLinkCtrlMaxLanes tx then
        let s := ((s.setFld F.dpxLinkStatusRate tx r).setFld F.dpxLinkStatusLanes tx l).setFld F.dpxLinkStatusTrained tx 1
        .next (allocLink (s.setDpTx tx {}) tx)
      else .next s
    | none =>
      let s := s.setDpTx tx { training := false, failedAt := some s.now }
      .next (event (s.bump F.dpxLinkStatusTrainFails tx) 0x0701 0 tx)
  else .next s

/-- A second after training failed at every rate it is tried again (R414). -/
def execTrainRetry (tx : Fin 2) (s : State) : Out :=
  match (s.dpTx tx).failedAt with
  | none => .next s
  | some t => if t + 1000000000 ≤ s.now then .next (trainStart s tx) else .next s

/-- A trained link loses lock and is trained again (R414). -/
def execLossOfLock (tx : Fin 2) (s : State) : Out :=
  if s.fld F.dpxLinkStatusTrained tx = 1 then .next (trainStart (linkLost s tx) tx) else .next s

/-- A write of DPX_LINK_CTRL (R414, R420): reserved codes are refused, and an enable needs a permitted domain (R715). -/
def linkCtrlWrite (s : State) (t : Nat) (v : W32) : State :=
  if 7 ≤ bitsOf v 15 12 ∨ bitsOf v 11 10 = 3 then s.answer stInvalid
  else
    let was := s.fld F.dpxLinkCtrlEn t = 1
    let set (s : State) : State := s.wrPlain Reg.dpxLinkCtrl t (v.setWidth 64)
    if natBit v.toNat 0 then
      if was then (set s).answer stOk
      else
        let (ok, s) := domStart s domComposer
        if ok then (trainStart (set s) t).answer stOk else s.answer stBusy
    else if was then
      (composerSettle (linkLost ((set s).setDpTx t {}) t)).answer stOk
    else (set s).answer stOk

/-- A write to a transmitter's link control (R414, R420). -/
def execDpxLinkCtrl (tx : Fin 2) (v : W32) (s : State) : Out :=
  .next (guarded s Reg.dpxLinkCtrl (fun s => linkCtrlWrite s tx v))

/-- A write of DPX_STREAM (R378, R421). -/
def streamWrite (s : State) (p : Nat) (v : W64) : State :=
  if s.fld F.lyrPipeStatusState p ≠ lcOff then s.answer stBusy
  else if bitsOf v 28 28 = 1 ∧ (bitsOf v 25 17 < 128 ∨ 384 < bitsOf v 25 17) then s.answer stInvalid
  else (s.wrPlain Reg.dpxStream p v).answer stOk

/-- A write to a DisplayPort stream register (R421). -/
def execDpxStream (pipe : Fin 4) (v : W64) (s : State) : Out :=
  .next (guarded s Reg.dpxStream (fun s => streamWrite s pipe v))

end Sys2Proof.Machine
end

