-- ==== Sys2Proof/Machine/Composer.lean ====
section
/-! DEFINITION. Composer pipes: life cycle, frames, presents, signatures, writeback and their registers (spec/08). A command
whose enabling condition does not hold leaves the state as it is (log 1). -/

namespace Sys2Proof.Machine

open Sys2Proof

/-! ### Presents (R384 to R392) -/

/-- The FRAME_SEQ that the next boundary gives, as TARGET counts it (R390). -/
def nextSeq (s : State) (p : Nat) : Nat := (s.fld F.lyrFrameSeqSeq p + 1) % 2 ^ 32

/-- How far TARGET lies ahead of the next frame: 2^31 or more means that it has passed (R390). -/
def targetAhead (s : State) (p target : Nat) : Nat := (target + 2 ^ 32 - nextSeq s p) % 2 ^ 32

/-- The frame period of a pipe in nanoseconds. -/
def framePeriod (s : State) (p : Nat) : Nat :=
  let total (a b c d : Nat) : Nat := a + 1 + b + c + d
  total (s.fld F.lyrTimingHActiveM1 p) (s.fld F.lyrTimingHFront p) (s.fld F.lyrTimingHSync p) (s.fld F.lyrTimingHBack p) *
    total (s.fld F.lyrTimingVActiveM1 p) (s.fld F.lyrTimingVFront p) (s.fld F.lyrTimingVSync p) (s.fld F.lyrTimingVBack p) *
    1000000 / s.fld F.lyrPclkKhz p

/-- A present is applied to the shadow state; a late one is counted and recorded (R381, R390, R391). Its budget ends three frame
periods after the later of its application and its target boundary (R392). -/
def applyPresent (s : State) (p : Nat) (r : Present) : State :=
  let late := r.target ≠ 0 ∧ 2 ^ 31 ≤ targetAhead s p r.target
  let s := if late then event (s.bump F.lyrLateCountCount p) 0x0601 r.handle p r.target else s
  let x := s.pipe p
  let period := framePeriod s p
  let boundary := if late then s.now else x.began.getD s.now + period
  let q := s.queue r.q
  let s := s.setQueue r.q { q with deadline := some (max s.now boundary + 3 * period) }
  s.setPipe p { x with applied := x.applied ++ [r] }

/-- A checked present on a pipe that is ON: applied, or held for its target (R390). -/
def takePresent (s : State) (p : Nat) (r : Present) : State :=
  if r.target ≠ 0 ∧ 1 ≤ targetAhead s p r.target ∧ targetAhead s p r.target < 2 ^ 31 then
    let x := s.pipe p
    s.setPipe p { x with held := x.held ++ [r] }
  else applyPresent s p r

/-- The status with which a layer record is refused, if it is, apart from ownership (R388). -/
def layerRefused (w : List W64) : Option W16 :=
  let f := lrFormat w
  if ¬ (f ∈ [2, 3, 4, 5, 7, 9]) then some stUnsupported
  else if lrMode w = 3 ∨ lrBase w % 64 ≠ 0 ∨ lrPitch w % 64 ≠ 0 ∨ lrPitch w < (lrWm1 w + 1) * lrBpp w ∨ 8191 < lrWm1 w ∨
      8191 < lrHm1 w ∨ (f = 9 ∧ (lrSrcX w % 2 = 1 ∨ (lrWm1 w + 1) % 2 = 1)) ∨ bitsOf (w.getD 0 0) 8 0 ≠ 0 ∨
      bitsOf (w.getD 1 0) 31 0 ≠ 0 ∨ bitsOf (w.getD 3 0) 31 0 ≠ 0 then some stInvalid
  else none

/-- Whether a context owns a layer now (R387). -/
def ownsLayer (s : State) (p l : Nat) (h : W32) : Bool :=
  let v := s.rdActive Reg.lyrLayerOwner (8 * p + l)
  decide (bitsOf v 32 32 = 1 ∧ bitsOf v 31 0 = h.toNat)

/-- The status with which a present is refused, if it is (R388). -/
def presentRefused (s : State) (p : Nat) (h : W32) (head : W64) (ls : List (Nat × List W64)) : Option W16 :=
  if ls.any (fun l => !ownsLayer s p l.1 h) then some stAccessFault
  else if ls.any (fun l => layerRefused l.2 = some stUnsupported) then some stUnsupported
  else if ls.isEmpty || ls.any (fun l => (layerRefused l.2).isSome) || decide (bitsOf head 23 2 ≠ 0) then some stInvalid
  else none

/-- The layer records that follow a present's first word (R384). -/
def presentLayers (mask : Nat) (ws : List W64) : List (Nat × List W64) :=
  (((List.range 8).filter (natBit mask)).zipIdx).map (fun l => (l.1, (ws.drop (4 * l.2)).take 4))

/-- A PRESENT begins: its record is read and checked, and the present is applied, held or aborted (R377, R388, R390). -/
def presentBegin (s : State) (qi : Nat) : State :=
  let q := s.queue qi
  match ctxReadObj s none q.owner .load q.object 8 with
  | (.error e, s) => complete (beginCmd s qi none) qi e
  | (.ok b0, s) =>
    let head := (wordsOf b0).getD 0 0
    let mask := bitsOf head 31 24
    let p := bitsOf head 1 0
    let n := ((List.range 8).filter (natBit mask)).length
    match retarget s qi (.pipe (Fin.ofNat 4 p)) with
    | some s => s
    | none =>
    let s := setOn s qi (.pipe (Fin.ofNat 4 p))
    match ctxReadObj s (some (.pipe p)) q.owner .load (q.object + 8) (32 * n) with
    | (.error e, s) => complete (beginCmd s qi none) qi e
    | (.ok bs, s) =>
      let ls := presentLayers mask (wordsOf bs)
      match presentRefused s p q.owner head ls with
      | some st => complete s qi st
      | none =>
        let s := beginCmd s qi none
        let r : Present := { q := qi, target := bitsOf head 63 32, handle := q.owner, layers := ls }
        let st := s.fld F.lyrPipeStatusState p
        if st = lcOff ∨ st = lcStopping ∨ st = lcPendingOn then complete s qi stAborted
        else if st = lcOn then takePresent s p r
        else s.setPipe p { s.pipe p with held := (s.pipe p).held ++ [r] }

/-- A present is withdrawn from its pipe, so far as it has not taken effect (R743). -/
def presentDrop (s : State) (qi : Nat) : State :=
  (List.range 4).foldl (fun s p =>
    let x := s.pipe p
    s.setPipe p { x with
      held := x.held.filter (fun r => r.q ≠ qi)
      applied := x.applied.filter (fun r => r.q ≠ qi) }) s

/-- PRESENT (R388). -/
def execPresent (q : Fin 16384) (s : State) : Out :=
  let x := s.queue q
  if x.phase = .running ∧ x.kind = 4 then
    match x.stopReq with
    | some st => .next (complete (presentDrop s q) q st)
    | none => if x.begun then .next s else .next (withFarCmd s q (fun s => presentBegin s q))
  else .next s

/-! ### Life cycle (R375 to R378, R419) -/

/-- Whether a pipe's timing could be used (R413, R419). -/
def timingHOk (v : W64) : Bool :=
  decide (640 ≤ bitsOf v 63 48 + 1 ∧ bitsOf v 63 48 + 1 ≤ 7680 ∧ bitsOf v 47 32 ≠ 0 ∧ bitsOf v 31 16 ≠ 0 ∧ bitsOf v 15 0 ≠ 0)
def timingVOk (v : W64) : Bool :=
  decide (480 ≤ bitsOf v 63 48 + 1 ∧ bitsOf v 63 48 + 1 ≤ 4320 ∧ bitsOf v 47 32 ≠ 0 ∧ bitsOf v 31 16 ≠ 0 ∧ bitsOf v 15 0 ≠ 0)
def pclkOk (khz : Nat) : Bool := decide (25000 ≤ khz ∧ khz ≤ 2400000)

/-- A write of LYR_PIPE_CTRL (R375, R419, R715). OUT_BPC keeps its value unless the pipe is OFF (log 40). -/
def pipeCtrlWrite (s : State) (p : Nat) (enable noSkip : Bool) (bpc : Nat) : State :=
  let st := s.fld F.lyrPipeStatusState p
  let fields (s : State) : State :=
    let s := s.setFld F.lyrPipeCtrlNoSkip p (if noSkip then 1 else 0)
    let s := if st = lcOff then s.setFld F.lyrPipeCtrlOutBpc p bpc else s
    s.setFld F.lyrPipeCtrlEnable p (if enable then 1 else 0)
  if 2 ≤ bpc then s.answer stInvalid
  else
    let (n, acts) := lcNext st (if enable then .enable else .disable)
    if acts.contains .begin then
      if !(timingHOk (s.rd Reg.lyrTimingH p) && timingVOk (s.rd Reg.lyrTimingV p) && pclkOk (s.fld F.lyrPclkKhz p)) then
        s.answer stInvalid
      else
        let (ok, s) := domStart s domComposer
        if ok then ((fields s).setFld F.lyrPipeStatusState p n).answer stOk else s.answer stBusy
    else ((fields s).setFld F.lyrPipeStatusState p n).answer stOk

/-- An enable request (R375). -/
def execPipeEnable (pipe : Fin 4) (noSkip : Bool) (bpc : Fin 4) (s : State) : Out :=
  .next (guarded s Reg.lyrPipeCtrl (fun s => pipeCtrlWrite s pipe true noSkip bpc) (some (.pipe pipe)))

/-- A disable request (R375). -/
def execPipeDisable (pipe : Fin 4) (noSkip : Bool) (bpc : Fin 4) (s : State) : Out :=
  .next (guarded s Reg.lyrPipeCtrl (fun s => pipeCtrlWrite s pipe false noSkip bpc) (some (.pipe pipe)))

/-! ### Frame boundaries (R380 to R383, R402 to R407, R409, R411) -/

/-- The registers of a pipe's signatures and writeback that are shadowed (R382). -/
def shadowKeys (p : Nat) : List (Nat × Nat) :=
  (Reg.lyrSigCtrl, p) :: ((List.range 16).map (fun r =>
    [(Reg.lyrSigRect, 16 * p + r), (Reg.lyrSigCfg, 16 * p + r), (Reg.lyrSigExpect, 16 * p + r)])).flatten ++
  [(Reg.lyrWbCtrl, p), (Reg.lyrWbBase, p), (Reg.lyrWbGeom, p), (Reg.lyrWbFence, p), (Reg.lyrWbRecord, p), (Reg.lyrWbOwner, p)]

/-- Writeback stops: EN reads 0, and a hold becomes a blank (R411). -/
def wbOff (s : State) (p : Nat) : State :=
  let s := (s.setFld F.lyrWbCtrlEn p 0).latch Reg.lyrWbCtrl p
  let x := s.pipe p
  if s.fld F.lyrPipeStatusHolding p = 1 then
    ((s.setPipe p { x with holdSlot := none, good := none }).setFld F.lyrPipeStatusHolding p 0).setFld F.lyrPipeStatusBlanked p 1
  else s.setPipe p { x with good := none }

/-- The writeback owner's context is lost (R411). -/
def wbFault (s : State) (p : Nat) (h : W32) : State := wbOff (if s.staleCtx h then s else loseCtx s (hIndex h)) p

/-- Whether every page of `n` bytes can be stored to; the context's translations are used (R411). `fuel` bounds the pages. -/
def wbPagesOk (fuel : Nat) (s : State) (p : Nat) (h : W32) (va n : Nat) : Bool × State :=
  match fuel with
  | 0 => (true, s)
  | fuel + 1 =>
    if n = 0 then (true, s)
    else
      match xlate s (some (.pipe p)) h .store va with
      | (.error _, s) => (false, s)
      | (.ok _, s) =>
        let k := min n (4096 - va % 4096)
        wbPagesOk fuel s p h (va + k) (n - k)

/-- The ended frame is written to the next slot, every page of the slot's rows and what lies between them translated first (R409,
R411); its record is then due (R412). -/
def writeback (s : State) (p : Nat) (frame : List (List (List Nat))) (mism : Nat) : State :=
  if s.fldActive F.lyrWbCtrlEn p = 0 then s
  else
    let h := BitVec.ofNat 32 (s.fldActive F.lyrWbOwnerHandle p)
    let n := s.fldActive F.lyrWbCtrlNbufM1 p + 1
    let x := s.pipe p
    let k := if x.holdSlot = some (x.slot % n) then (x.slot + 1) % n else x.slot % n
    let base := wbSlotAt s p k
    let pitch := s.fldActive F.lyrWbGeomPitch p
    let rec' := s.fldActive F.lyrWbRecordAddr p + 32 * k
    let lines := frame.map (wbLine (s.fldActive F.lyrWbCtrlFormat p) (outBits s p))
    if s.fldActive F.lyrWbOwnerValid p = 0 ∨ s.staleCtx h then wbFault s p h
    else
      let size := (lines.length - 1) * pitch + (lines.headD []).length
      let (ok, s) := wbPagesOk (size / 4096 + 2) s p h base size
      let (ok', s) := if ok then wbPagesOk 2 s p h rec' 32 else (false, s)
      if !ok' then wbFault s p h
      else
        let seq := s.fld F.lyrFrameSeqSeq p
        let s := lines.zipIdx.foldl (fun s l => (ctxStore s (some (.pipe p)) h (base + l.2 * pitch) l.1 (.frame p seq)).2) s
        let x := s.pipe p
        let shown := s.fld F.lyrPipeStatusHolding p = 0 ∧ s.fld F.lyrPipeStatusBlanked p = 0
        let good := !actionMask s p mism 1 && !actionMask s p mism 2
        s.setPipe p { x with
          slot := (k + 1) % n
          good := if good then some k else if x.good = some k then none else x.good
          recs := x.recs ++ [{ owner := h, recordAt := rec', fence := s.fldActive F.lyrWbFenceAddr p, slot := k,
                               seq := seq, time := x.began.getD 0, under := !x.under.isEmpty,
                               shown := shown, mismatch := mism, base := base, pitch := pitch,
                               width := (lines.headD []).length, lines := lines.length }] }

/-- What the display shows from this boundary (R405 to R407). -/
def judgeDisplay (s : State) (p mism : Nat) : State :=
  let x := s.pipe p
  let set (s : State) (hold blank : Bool) (k : Option Nat) : State :=
    ((s.setPipe p { s.pipe p with holdSlot := k }).setFld F.lyrPipeStatusHolding p (if hold then 1 else 0)).setFld
      F.lyrPipeStatusBlanked p (if blank then 1 else 0)
  let was := s.fld F.lyrPipeStatusHolding p = 1 ∨ s.fld F.lyrPipeStatusBlanked p = 1
  if actionMask s p mism 2 then set s false true none
  else if actionMask s p mism 1 then
    match (if s.fldActive F.lyrWbCtrlEn p = 1 then x.good else none) with
    | some k => set s true false (some k)
    | none => set s false true none
  else if was then event (set s false false none) 0x0604 0 p (s.fld F.lyrFrameSeqSeq p)
  else s

/-- The presents applied so far enter the active state, as does every owner that was written; signature and writeback registers
do so with a present, under ARM, or when the pipe starts (R380, R382, R387, R389). Layers that faulted are disabled (R400). -/
def latchPipe (s : State) (p : Nat) (starting : Bool) : State :=
  let x := s.pipe p
  let layers := x.applied.foldl (fun m r => r.layers.foldl (fun m l => SMap.set none m l.1 (some (r.handle, l.2))) m) x.layers
  let layers := x.faulted.foldl (fun m f => SMap.set none m f.1 none) layers
  let (layers, s) := (List.range 8).foldl (fun (acc : SMap (Option (W32 × List W64)) × State) l =>
    if acc.2.rd Reg.lyrLayerOwner (8 * p + l) = acc.2.rdActive Reg.lyrLayerOwner (8 * p + l) then acc
    else (SMap.set none acc.1 l none, acc.2.latch Reg.lyrLayerOwner (8 * p + l))) (layers, s)
  let all := starting || decide (s.fld F.lyrCommitArm p = 1) || !x.applied.isEmpty
  let s := if all then (shadowKeys p).foldl (fun s k => s.latch k.1 k.2) s else s
  let s := s.latch Reg.lyrBg p
  let s := s.setFld F.lyrCommitArm p 0
  s.setPipe p { s.pipe p with layers := layers, applied := [], faulted := [] }

/-- Held presents whose time has come are applied; the others stay held (R377, R390). -/
def releaseHeld (s : State) (p : Nat) : State :=
  let hs := (s.pipe p).held
  hs.foldl (fun s r => takePresent s p r) (s.setPipe p { s.pipe p with held := [] })

/-- A writeback whose owner is destroyed ends (R539). -/
def wbEnd (s : State) (p : Nat) : State :=
  let s := wbOff s p
  let s := (s.setFld F.lyrWbOwnerValid p 0).latch Reg.lyrWbOwner p
  s.setPipe p { s.pipe p with wbStop := false }

/-- A pipe reaches OFF: its presents complete with ABORTED and nothing is shown (R376). -/
def pipeOff (s : State) (p : Nat) : State :=
  let x := s.pipe p
  let rs := x.held ++ x.applied
  let s := s.setPipe p { x with
    held := [], applied := [], began := none, under := [], rows := [], gone := [], good := none, holdSlot := none, restarting := false, display := [] }
  let s := (s.setFld F.lyrPipeStatusHolding p 0).setFld F.lyrPipeStatusBlanked p 0
  let s := s.setFld F.dpxStreamSlots p 0
  rs.foldl (fun s r => complete s r.q stAborted) s

/-- The frame in progress ends: composed, shown, judged and written back. -/
def frameEnd (s : State) (p : Nat) : Nat × State :=
  match (s.pipe p).began with
  | none => (0, s)
  | some _ =>
    let (frame, s) := composeFrame s p
    let s := showFrame s p frame
    let (mism, s) := judgeFrame s p frame
    (mism, writeback s p frame mism)

/-- A frame boundary (R375, R380 to R383, R390, R402 to R407). -/
def frameBoundary (s : State) (p : Nat) : State :=
  let ended := (s.pipe p).began.isSome
  let (mism, s) := frameEnd s p
  let s := s.bump F.lyrFrameSeqSeq p
  let s := { s with far := s.far.filter (fun f => f.unit ≠ pipeUnit p) }
  let st := s.fld F.lyrPipeStatusState p
  let from' := st = lcStarting ∨ st = lcPendingOff
  let (n, acts) := lcNext st (if from' then .up else .down)
  let s := s.setFld F.lyrPipeStatusState p n
  if acts.contains .off then
    let s := pipeOff s p
    if n = lcOff then composerSettle s else s
  else
    let taken := (s.pipe p).applied
    let s := if ended then judgeDisplay s p mism else s
    let s := latchPipe s p (from' && !(s.pipe p).restarting)
    let s := if (s.pipe p).wbLost ∨ s.fld F.lyrPipeStatusHolding p = 1 ∧ s.fldActive F.lyrWbCtrlEn p = 0 then wbOff s p else s
    let s := if (s.pipe p).wbStop then wbEnd s p else s
    let s := s.setPipe p { s.pipe p with began := some s.now, under := [], rows := [], gone := [], restarting := false, wbLost := false }
    let s := taken.foldl (fun s r => complete s r.q stOk) s
    let s := if from' then allocStream s p else s
    if n = lcOn then releaseHeld s p else s

/-- A pipe reaches a frame boundary (R380). -/
def execFrameBoundary (pipe : Fin 4) (s : State) : Out :=
  if s.fld F.lyrPipeStatusState pipe ≠ lcOff ∧ s.domOn domComposer ∧ (s.pipe pipe).resetting = false then
    .next (frameBoundary s pipe)
  else .next s

/-- A run of pixels of the frame in progress finds no data in time (R399). -/
def execFetchUnderflow (pipe : Fin 4) (x y n : W16) (s : State) : Out :=
  if (s.pipe pipe).began.isSome ∧ 0 < n.toNat ∧ x.toNat + n.toNat ≤ hActive s pipe ∧ y.toNat < vActive s pipe then
    .next (underflow s pipe x.toNat y.toNat n.toNat)
  else .next s

/-- The pixels of an output line that a layer is fetched for (R386, R396, R400). -/
def layerPixels (s : State) (p l py : Nat) : List Nat :=
  let x := s.pipe p
  let noSkip := s.fld F.lyrPipeCtrlNoSkip p = 1
  (List.range (hActive s p)).filter (fun px =>
    !inFaulted x px py && (neededLayers noSkip (coveringLayers x px py)).any (fun m => decide (m.1 = l)))

/-- A layer's pixels on one line are fetched: the first that fails ends it with the fault of R400; what another device holds is
asked for (R33, R400). -/
def fetchLine (s : State) (p l py : Nat) (h : W32) (w : List W64) : List Nat → State
  | [] => s
  | px :: rest =>
    let (va, n) := lrPixelAt w px py
    match xlate s (some (.pipe p)) h .load va with
    | (.error e, s) => layerFault s p l py h va e
    | (.ok (.mem a), s) =>
      match memLoad s a n with
      | (none, s) => layerFault s p l py h va stDataError
      | (some _, s) => fetchLine s p l py h w rest
    | (.ok (.remote d a), s) =>
      match s.far.find? (fun (f : FarRead) =>
          decide (f.unit = pipeUnit p ∧ f.dev = d ∧ f.addr ≤ a ∧ a + n ≤ f.addr + f.len)) with
      | some f => if f.done ∧ f.status ≠ stOk then layerFault s p l py h va f.status else fetchLine s p l py h w rest
      | none =>
        let a0 := a / 256 * 256
        let (ok, s) := remoteRead s d a0 256 0 (.far (pipeUnit p) d a0 256)
        if ok then
          fetchLine { s with far := s.far ++ [{ unit := pipeUnit p, dev := d, addr := a0, len := 256 }] } p l py h w rest
        else layerFault s p l py h va stAccessFault
    | (.ok (.host ..), s) => layerFault s p l py h va stAccessFault

/-- A pipe fetches a line of a layer (R400). -/
def execLayerFetch (pipe : Fin 4) (layer : Fin 8) (line : W16) (s : State) : Out :=
  if (s.pipe pipe).began.isSome ∧ line.toNat < vActive s pipe then
    match SMap.get none (s.pipe pipe).layers layer with
    | none => .next s
    | some (h, w) => .next (fetchLine s pipe layer line.toNat h w (layerPixels s pipe layer line.toNat))
  else .next s

/-- The frame record of R412. -/
def frameRecordBytes (r : WbFrame) : List Byte :=
  wordsBytes [BitVec.ofNat 64 r.seq, BitVec.ofNat 64 r.time,
    BitVec.ofNat 64 ((if r.under then 2 ^ 17 else 0) + (if r.shown then 2 ^ 16 else 0) + r.mismatch), 0]

/-- The talkers of a pipe have a frame to send (R590). -/
def talkersFrame (s : State) (p : Nat) (r : WbFrame) : State :=
  let f : TalkFrame := { owner := r.owner, base := r.base, pitch := r.pitch, width := r.width, lines := r.lines, time := r.time }
  { s with streams := s.streams.map (fun kv =>
      if kv.2.running ∧ kv.2.talker ∧ kv.2.pipe = p then (kv.1, { kv.2 with frames := kv.2.frames ++ [f] }) else kv) }

/-- An access for a written frame fails after its boundary: the owner is lost, and writeback stops at the next boundary (R411). -/
def wbLate (s : State) (p : Nat) (h : W32) : State :=
  let s := if s.staleCtx h then s else loseCtx s (hIndex h)
  s.setPipe p { s.pipe p with wbLost := true }

/-- Slot and record of a frame are visible: its fence is signalled, and the talkers may send it (R412, R590). -/
def frameSignal (s : State) (p : Nat) (r : WbFrame) : State :=
  match unitSignal s (some (.pipe p)) r.owner r.fence r.seq with
  | (some _, s) => wbLate s p r.owner
  | (none, s) => talkersFrame s p r

/-- Whether a store to a frame's slot or record is unanswered: it is not yet visible at system scope (R412). -/
def frameOpen (s : State) (p seq : Nat) : Bool := awaits s (fun u => decide (u = .frame p seq))

/-- The record of the oldest written slot follows once the slot is visible, and the signal once the record is (R412). -/
def frameRecord (s : State) (p : Nat) : State :=
  match (s.pipe p).recs with
  | [] => s
  | r :: rest =>
    if frameOpen s p r.seq then s
    else
      let s := s.setPipe p { s.pipe p with recs := rest }
      if s.staleCtx r.owner then s
      else if r.recorded then frameSignal s p r
      else
        match ctxStore s (some (.pipe p)) r.owner r.recordAt (frameRecordBytes r) (.frame p r.seq) with
        | (some _, s) => wbLate s p r.owner
        | (none, s) =>
          if frameOpen s p r.seq then s.setPipe p { s.pipe p with recs := { r with recorded := true } :: (s.pipe p).recs }
          else frameSignal s p r

/-- A store to a frame's slot or record is answered: the signal of a recorded frame follows; a frame of which a store failed gets
no record and no signal, and its owner is lost (R411, R412). -/
def frameStored (s : State) (p seq : Nat) (ok : Bool) : State :=
  match (s.pipe p).recs.find? (fun r => decide (r.seq = seq)) with
  | none => s
  | some r =>
    if !ok then wbLate (s.setPipe p { s.pipe p with recs := (s.pipe p).recs.filter (fun x => decide (x.seq ≠ seq)) }) p r.owner
    else if r.recorded then frameRecord s p
    else s

/-- A frame's slot has been written: its record and fence signal follow (R412). -/
def execFrameRecord (pipe : Fin 4) (s : State) : Out := .next (frameRecord s pipe)

/-! ### Registers (R382, R387, R403, R404, R408, R419) -/

/-- A write of ARM (R382). -/
def execLyrCommit (pipe : Fin 4) (v : W32) (s : State) : Out :=
  .next (guarded s Reg.lyrCommit (fun s => (s.wrPlain Reg.lyrCommit pipe (v.setWidth 64)).answer stOk) (some (.pipe pipe)))

/-- A layer's owner is written; it takes effect at the next boundary (R387). -/
def execLyrLayerOwner (pipe : Fin 4) (layer : Fin 8) (v : W64) (s : State) : Out :=
  .next (guarded s Reg.lyrLayerOwner (fun s => (s.wrPlain Reg.lyrLayerOwner (8 * pipe.val + layer.val) v).answer stOk)
    (some (.pipe pipe)))

/-- Whether a pipe's signature registers are locked (R408). -/
def sigLocked (s : State) (p : Nat) : Bool := s.fld F.lyrSigCtrlLock p = 1

/-- A write of a signature region register (R403, R408). -/
def sigRegionWrite (s : State) (p r : Nat) (reg : SigReg) (v : W64) : State :=
  let i := 16 * p + r
  let locked := sigLocked s p
  match reg with
  | .rect =>
    if !locked && !rectInside s p v then s.answer stInvalid else (s.wrPlain Reg.lyrSigRect i v locked).answer stOk
  | .cfg =>
    if !locked && decide (bitsOf v 1 0 = 3) then s.answer stInvalid else (s.wrPlain Reg.lyrSigCfg i v locked).answer stOk
  | .expect => (s.wrPlain Reg.lyrSigExpect i v locked).answer stOk

/-- A write to a signature region register (R403). -/
def execLyrSigRegion (pipe : Fin 4) (region : Fin 16) (reg : SigReg) (v : W64) (s : State) : Out :=
  .next (guarded s Reg.lyrSigRect (fun s => sigRegionWrite s pipe region reg v) (some (.pipe pipe)))

/-- A write to LYR_SIG_CTRL enables regions or sets LOCK (R408). -/
def execLyrSigCtrl (pipe : Fin 4) (v : W32) (s : State) : Out :=
  .next (guarded s Reg.lyrSigCtrl (fun s => (s.wrPlain Reg.lyrSigCtrl pipe (v.setWidth 64) (sigLocked s pipe)).answer stOk)
    (some (.pipe pipe)))

/-- Whether a change of timing would leave an enabled region outside the active area while LOCK is set (R404). -/
def lockForbids (s t : State) (p : Nat) : Bool :=
  sigLocked s p && (List.range 16).any (fun r =>
    natBit (s.fld F.lyrSigCtrlEnable p) r && !rectInside t p (s.rd Reg.lyrSigRect (16 * p + r)))

/-- A write of a timing or pixel clock register: refused unless the pipe is OFF and the values are allowed (R378, R404, R419). -/
def timingWrite (s : State) (p : Nat) (reg : TimingReg) (v : W64) : State :=
  if s.fld F.lyrPipeStatusState p ≠ lcOff then s.answer stBusy
  else
    match reg with
    | .h =>
      let t := s.wrPlain Reg.lyrTimingH p v
      if timingHOk v && !lockForbids s t p then t.answer stOk else s.answer stInvalid
    | .v =>
      let t := s.wrPlain Reg.lyrTimingV p v
      if timingVOk v && !lockForbids s t p then t.answer stOk else s.answer stInvalid
    | .pclk => if pclkOk (bitsOf v 31 0) then (s.wrPlain Reg.lyrPclk p v).answer stOk else s.answer stInvalid

/-- A write to a pipe's timing or pixel clock register (R404). -/
def execLyrTiming (pipe : Fin 4) (reg : TimingReg) (v : W64) (s : State) : Out :=
  .next (guarded s Reg.lyrTimingH (fun s => timingWrite s pipe reg v) (some (.pipe pipe)))

/-- A write of LYR_WB_CTRL (R419). -/
def wbCtrlWrite (s : State) (p : Nat) (v : W32) : State :=
  if ¬ (bitsOf v 7 4 ∈ [2, 4, 5, 9]) ∨ bitsOf v 3 1 = 0 then s.answer stInvalid
  else (s.wrPlain Reg.lyrWbCtrl p (v.setWidth 64)).answer stOk

/-- A write to a pipe's writeback control (R419). -/
def execLyrWbCtrl (pipe : Fin 4) (v : W32) (s : State) : Out :=
  .next (guarded s Reg.lyrWbCtrl (fun s => wbCtrlWrite s pipe v) (some (.pipe pipe)))

end Sys2Proof.Machine
end

