-- ==== Sys2Proof/Machine/Eth.lean ====
section
/-! DEFINITION. Ethernet: queue pairs, keys, streams, ports and network time (spec/11). -/

namespace Sys2Proof.Machine

/-! ### Queue pairs and keys -/

/-- The outcome of ETH_OP, in ETH_OP_RESULT and as the management status (R601). -/
def ethResult (s : State) (st : W16) (state : Nat) : State :=
  (s.wr Reg.ethOpResult 0 (BitVec.ofNat 64 (st.toNat * 2 ^ 48 + state % 16 * 2 ^ 44))).answer st

/-- The STATE that QP_QUERY reports (R568). -/
def QpState.code : QpState → Nat
  | .reset => 0
  | .rts => 1
  | .error => 2
  | .draining => 3

/-- A queue pair as a record's words name it (R567). -/
def qpOfWords (w : List W64) : Qp :=
  let w0 := w.getD 0 0
  { role := bitsOf w0 63 60, port := bitsOf w0 59 57, pcp := bitsOf w0 56 54, vid := bitsOf w0 53 42, mtu := bitsOf w0 41 40,
    retry := bitsOf w0 39 37, timeout := bitsOf w0 36 32, rnrRetry := bitsOf w0 31 29, ipv6 := bitsOf w0 28 28 = 1,
    remoteQpn := bitsOf w0 23 0, remoteMac := bitsOf (w.getD 1 0) 47 0,
    remoteIp := (w.getD 3 0).toNat * 2 ^ 64 + (w.getD 2 0).toNat,
    owner := BitVec.ofNat 32 (bitsOf (w.getD 4 0) 63 32), spsn := bitsOf (w.getD 4 0) 23 0, rpsn := bitsOf (w.getD 5 0) 23 0 }

/-- No reserved value, no reserved bit and no TIMEOUT of 0 in a queue-pair record (R569). -/
def qpShapeOk (w : List W64) : Bool :=
  let q := qpOfWords w
  let w0 := w.getD 0 0
  decide (q.role ≤ 3 ∧ q.mtu ≠ 3 ∧ q.timeout ≠ 0 ∧ bitsOf w0 27 24 = 0 ∧ bitsOf (w.getD 1 0) 63 48 = 0 ∧
    bitsOf (w.getD 4 0) 31 24 = 0 ∧ bitsOf (w.getD 5 0) 63 24 = 0 ∧ w.getD 6 0 = 0 ∧ w.getD 7 0 = 0)

/-- The checks of R569 on a queue-pair record. -/
def qpWordsOk (s : State) (w : List W64) : Bool :=
  let q := qpOfWords w
  qpShapeOk w && decide (s.fld F.ethPortStatusState q.port = lcOn) &&
  (if q.role = 0 then !s.staleCtx q.owner else decide (q.owner = 0))

/-- QP_START (R568, R569). -/
def opQpStart (s : State) (i : Nat) : State :=
  if 1023 < i then ethResult s stInvalid 0
  else if (s.qp i).state ≠ .reset then ethResult s stBusy 0
  else
    match readRecord s (s.fld F.ethQpTableBaseAddr * 65536 + 64 * i) 8 with
    | (.error st, s) => ethResult s st 0
    | (.ok w, s) =>
      if qpWordsOk s w then
        let q := qpOfWords w
        ethResult (s.setQp i { q with state := .rts, kernel := (s.qp i).kernel, fromCfg := (s.qp i).fromCfg }) stOk 0
      else ethResult s stInvalid 0

/-- QP_STOP (R568). -/
def opQpStop (s : State) (i : Nat) : State :=
  if 1023 < i then ethResult s stInvalid 0
  else
    let q := s.qp i
    match q.state with
    | .reset | .draining => ethResult s stOk 0
    | .error => ethResult (s.setQp i { q with state := .reset, reqs := [] }) stOk 0
    | .rts => ethResult (s.setQp i { q with state := if q.reqs.isEmpty then .reset else .draining }) stOk 0

/-- QP_QUERY (R568). -/
def opQpQuery (s : State) (i : Nat) : State :=
  if 1023 < i then ethResult s stInvalid 0 else ethResult s stOk (s.qp i).state.code

/-- A key entry as its words name it (R571). -/
def keyOfWords (w : List W64) : Key :=
  let w0 := w.getD 0 0
  { loaded := true, device := bitsOf w0 62 62 = 1, write := bitsOf w0 61 61 = 1, read := bitsOf w0 60 60 = 1,
    atomic := bitsOf w0 59 59 = 1, qp := bitsOf w0 57 48, owner := BitVec.ofNat 32 (bitsOf w0 31 0),
    rkey := BitVec.ofNat 32 (bitsOf (w.getD 1 0) 63 32), base := (w.getD 2 0).toNat, length := (w.getD 3 0).toNat }

/-- The checks on a key entry (R571, R573). A stale OWNER is refused like a reserved bit (log 16). -/
def keyWordsOk (s : State) (i : Nat) (w : List W64) : Bool :=
  let k := keyOfWords w
  let w0 := w.getD 0 0
  decide (bitsOf w0 63 63 = 0 ∧ bitsOf w0 58 58 = 0 ∧ bitsOf w0 47 32 = 0 ∧ bitsOf (w.getD 1 0) 31 0 = 0 ∧
    1 ≤ k.length ∧ k.length ≤ 2 ^ 46) &&
  (!k.device || decide (k.rkey.toNat % 4096 = i)) &&
  (decide (k.owner = 0) || !s.staleCtx k.owner) &&
  !(k.device && decide (k.owner = 0 ∧ (s.qp k.qp).state ≠ .reset ∧ (s.qp k.qp).role = 0))

/-- KEY_LOAD (R571, R573). -/
def opKeyLoad (s : State) (i : Nat) : State :=
  if 4095 < i then ethResult s stInvalid 0
  else
    match readRecord s (s.fld F.ethKeyTableBaseAddr * 65536 + 32 * i) 4 with
    | (.error st, s) => ethResult s st 0
    | (.ok w, s) => if keyWordsOk s i w then ethResult (s.setKey i (keyOfWords w)) stOk 0 else ethResult s stInvalid 0

/-- Whether an access of this device that used a host registration is still unanswered (R576). -/
def keyBusy (s : State) (k : Key) : Bool :=
  (s.qp k.qp).reqs.any (fun r => match r.body with
    | .write _ _ rk .. => decide (rk = k.rkey)
    | _ => false)

/-- A key entry that is being revoked is dropped once its accesses are answered, and a KEY_REVOKE of it completes (R576). -/
def finishRevoke (s : State) (i : Nat) : State :=
  let k := s.key i
  if k.revoking ∧ ¬ keyBusy s k then
    let s := s.setKey i {}
    if k.asked then ethResult s stOk 0 else s
  else s

/-- KEY_REVOKE (R576). -/
def opKeyRevoke (s : State) (i : Nat) : State :=
  if 4095 < i then ethResult s stInvalid 0
  else
    let k := s.key i
    if k.loaded then finishRevoke (s.setKey i { k with revoking := true, asked := true }) i else ethResult s stOk 0

/-- Every entry of a context is revoked (R536, R576). -/
def revokeOwned (s : State) (h : W32) : State :=
  let s : State := { s with keys := s.keys.map (fun kv => if kv.2.owner = h ∧ kv.2.loaded then (kv.1, { kv.2 with revoking := true }) else kv) }
  (s.keys.map (·.1)).foldl finishRevoke s

/-- The key index of a registration's rkey on a queue pair. -/
def keyIndexOf (s : State) (qp : Nat) (rkey : W32) : Nat :=
  match s.keys.find? (fun kv => kv.2.loaded && !kv.2.device && decide (kv.2.qp = qp ∧ kv.2.rkey = rkey)) with
  | none => 0
  | some kv => kv.1

/-! ### Requests of the host (R565 to R573) -/

/-- NAK codes of the InfiniBand reliable connected service. -/
abbrev nakSequence : Nat := 0
abbrev nakInvalid : Nat := 1
abbrev nakAccess : Nat := 2
abbrev nakOperational : Nat := 3
/-- Receiver not ready, which is no NAK code: the model's number for it. -/
abbrev nakNotReady : Nat := 32

/-- What the responder does with a packet's sequence number: take it, answer a duplicate, or refuse a gap. -/
inductive PsnCase where
  | next | duplicate | gap
deriving DecidableEq, Repr

def psnCase (q : Qp) (psn : Nat) : PsnCase :=
  let d := (psn + 2 ^ 24 - q.rpsn) % 2 ^ 24
  if d = 0 then .next else if 2 ^ 23 ≤ d then .duplicate else .gap

/-- The responder refuses a request with a NAK. -/
def nak (s : State) (i psn code : Nat) : State := qpFrame s i (.nak i psn code)

/-- The expected sequence number moves on by `n` packets. -/
def takePsn (s : State) (i n : Nat) : State :=
  let q := s.qp i
  s.setQp i { q with rpsn := (q.rpsn + n) % 2 ^ 24 }

/-- A request arrives on a queue pair (R550, R557, R566): counted, and an ECN mark counted. -/
def received (s : State) (i : Nat) (ecn : Bool) : State :=
  let s := s.bump F.ethRxFramesCount (s.qp i).port
  if ecn then s.bump F.ethEcnMarkedCount else s

/-- Whether the queue pair takes a packet at all. -/
def qpTakes (s : State) (i : Nat) : Bool := decide ((s.qp i).state = .rts)

/-- A request in sequence is performed by `f`; a duplicate is answered by `dup`, acknowledged again where that is none; a gap is
refused (R565, R570). -/
def inSequence (s : State) (i psn : Nat) (f : State → State) (dup : Option (State → State) := none) : State :=
  if qpTakes s i then
    match psnCase (s.qp i) psn with
    | .next => f s
    | .duplicate => match dup with
      | none => qpFrame s i (.ack i psn)
      | some g => g s
    | .gap => nak s i (s.qp i).rpsn nakSequence
  else s

/-- The permission that a request needs of its key (R572). -/
inductive KeyUse where
  | write | read | atomic
deriving DecidableEq, Repr

/-- The key entry that a request may use, or none (R572, R573, R576). -/
def keyFor (s : State) (i : Nat) (rkey : W32) (u : KeyUse) (off n : Nat) : Option Key :=
  let k := s.key (rkey.toNat % 4096)
  let ok := match u with
    | .write => k.write
    | .read => k.read
    | .atomic => k.atomic
  if k.loaded && k.device && !k.revoking && decide (k.rkey.toNat / 4096 = rkey.toNat / 4096) && decide (k.qp = i) && ok &&
     decide (off + n ≤ k.length) && (decide (k.owner ≠ 0) || decide ((s.qp i).role = 1 ∨ (s.qp i).role = 2)) then some k else none

/-- Where an address of a window lies for an access: a local address, or none where translation fails or the page is not local
(R571, R572). -/
def windowTarget (s : State) (k : Key) (acc : Access) (off : Nat) : Option Nat × State :=
  if k.owner = 0 then (if s.exists? (k.base + off) then some (k.base + off) else none, s)
  else
    match xlate s (some .net) k.owner acc (k.base + off) with
    | (.ok (.mem a), s) => (some a, s)
    | (_, s) => (none, s)

/-- A request is refused with a NAK for a remote access error (R572). -/
def refuseAccess (s : State) (i psn : Nat) : State := nak (s.bump F.ethRxRefusedCount) i psn nakAccess

/-- Bytes of an RDMA WRITE stored page by page: the NAK code it is refused with, or none. `fuel` bounds the pages. -/
def windowWrite (fuel : Nat) (s : State) (k : Key) (off : Nat) (bs : List Byte) : Option Nat × State :=
  match fuel with
  | 0 => (none, s)
  | fuel + 1 =>
    if bs.isEmpty then (none, s)
    else
      let n := 4096 - (k.base + off) % 4096
      match windowTarget s k .store off with
      | (none, s) => (some nakAccess, s)
      | (some a, s) =>
        let (ok, s) := memStore s a (bs.take n)
        if ok then windowWrite fuel s k (off + n) (bs.drop n) else (some nakOperational, s)

/-- Bytes of an RDMA READ gathered page by page, or the NAK code it is refused with. `fuel` bounds the pages. -/
def windowRead (fuel : Nat) (s : State) (k : Key) (off n : Nat) : (Except Nat (List Byte)) × State :=
  match fuel with
  | 0 => (.ok [], s)
  | fuel + 1 =>
    if n = 0 then (.ok [], s)
    else
      let m := min n (4096 - (k.base + off) % 4096)
      match windowTarget s k .load off with
      | (none, s) => (.error nakAccess, s)
      | (some a, s) =>
        match memLoad s a m with
        | (none, s) => (.error nakOperational, s)
        | (some bs, s) =>
          match windowRead fuel s k (off + m) (n - m) with
          | (.error e, s) => (.error e, s)
          | (.ok rest, s) => (.ok (bs ++ rest), s)

/-- The packets that `n` bytes take on a queue pair. -/
def packets (s : State) (i n : Nat) : Nat :=
  let m := (s.qp i).mtuBytes
  max 1 ((n + m - 1) / m)

/-- A request of `n` packets from `psn` on is acknowledged by its last. -/
def ackRequest (s : State) (i psn n : Nat) : State := qpFrame (takePsn s i n) i (.ack i ((psn + n - 1) % 2 ^ 24))

/-- An RDMA WRITE (R570, R572). A bad line that refuses a partial write is a remote operational error (log 17). -/
def rdmaWriteIn (s : State) (i psn : Nat) (rkey : W32) (va : W64) (bs : List Byte) : State :=
  let k := s.key (rkey.toNat % 4096)
  let off := va.toNat - k.base
  if va.toNat < k.base then refuseAccess s i psn
  else
    match keyFor s i rkey .write off bs.length with
    | none => refuseAccess s i psn
    | some k =>
      match windowWrite (bs.length / 4096 + 2) s k off bs with
      | (none, s) => ackRequest s i psn (packets s i bs.length)
      | (some code, s) => if code = nakAccess then refuseAccess s i psn else nak s i psn code

/-- An RDMA READ (R572). Its response takes one sequence number for each MTU of data; that of a duplicate, `again`, takes none. -/
def rdmaReadIn (s : State) (i psn : Nat) (rkey : W32) (va : W64) (n : Nat) (again : Bool := false) : State :=
  let k := s.key (rkey.toNat % 4096)
  let off := va.toNat - k.base
  if va.toNat < k.base then refuseAccess s i psn
  else
    match keyFor s i rkey .read off n with
    | none => refuseAccess s i psn
    | some k =>
      match windowRead (n / 4096 + 2) s k off n with
      | (.ok bs, s) => qpFrame (if again then s else takePsn s i (packets s i n)) i (.readRsp i psn bs)
      | (.error code, s) => if code = nakAccess then refuseAccess s i psn else nak s i psn code

/-- A 64-bit atomic of the host (R565, R572); one that is not aligned is an invalid request (log 17). -/
def hostAtomic (s : State) (i psn : Nat) (rkey : W32) (va : W64) (f : W64 → W64) : State :=
  let k := s.key (rkey.toNat % 4096)
  let off := va.toNat - k.base
  if va.toNat < k.base then refuseAccess s i psn
  else if va.toNat % 8 ≠ 0 then nak s i psn nakInvalid
  else
    match keyFor s i rkey .atomic off 8 with
    | none => refuseAccess s i psn
    | some k =>
      match windowTarget s k .atomic off with
      | (none, s) => refuseAccess s i psn
      | (some a, s) =>
        match memLoadNat s a 8 with
        | (none, s) => nak s i psn nakOperational
        | (some old, s) =>
          let s := (memStoreNat s a 8 (f (BitVec.ofNat 64 old)).toNat).2
          let s := takePsn s i 1
          let q := s.qp i
          let s := s.setQp i { q with atomics := ((psn, BitVec.ofNat 64 old) :: q.atomics).take 16 }
          qpFrame s i (.atomicRsp i psn (BitVec.ofNat 64 old))

/-- A duplicate atomic is answered with the old value that the first one read, while the device keeps it (log 17). -/
def atomicAgain (s : State) (i psn : Nat) : State :=
  match (s.qp i).atomics.find? (fun a => a.1 = psn) with
  | none => s
  | some a => qpFrame s i (.atomicRsp i psn a.2)

/-! ### Streams (R581 to R591) -/

/-- A stream as its record's words name it (R582). -/
def streamOfWords (w : List W64) : Stream :=
  let w0 := w.getD 0 0
  { running := true, talker := bitsOf w0 63 63 = 1, rvf := bitsOf w0 62 62 = 1, port := bitsOf w0 61 59, pcp := bitsOf w0 58 56,
    vid := bitsOf w0 55 44, nslots := bitsOf w0 43 40 + 1, pipe := bitsOf w0 39 38, streamId := w.getD 1 0,
    ring := bitsOf (w.getD 2 0) 63 16, owner := BitVec.ofNat 32 (bitsOf (w.getD 3 0) 63 32),
    slotBytes := bitsOf (w.getD 3 0) 31 0, records := bitsOf (w.getD 4 0) 63 16, fence := bitsOf (w.getD 5 0) 63 16,
    consumed := bitsOf (w.getD 6 0) 63 16, ptOffset := bitsOf (w.getD 7 0) 63 32, rateMbps := bitsOf (w.getD 7 0) 31 0 }

/-- The running streams. -/
def runningStreams (s : State) : List (Nat × Stream) := s.streams.filter (fun kv => kv.2.running)

/-- The checks of R581 to R583 on a stream record; UNSUPPORTED for a talker of another writeback format. -/
def streamCheck (s : State) (w : List W64) : W16 :=
  let x := streamOfWords w
  let w0 := w.getD 0 0
  let bad := bitsOf w0 37 0 ≠ 0 ∨ bitsOf (w.getD 2 0) 15 0 ≠ 0 ∨ bitsOf (w.getD 4 0) 15 0 ≠ 0 ∨
    bitsOf (w.getD 5 0) 15 0 ≠ 0 ∨ bitsOf (w.getD 6 0) 15 0 ≠ 0
  let range :=
    if x.talker then !x.rvf || decide (x.rateMbps = 0)
    else decide (x.nslots < 2 ∨ x.ring % 4096 ≠ 0 ∨ x.slotBytes % 64 ≠ 0 ∨ x.slotBytes = 0 ∨ x.records % 32 ≠ 0 ∨
      x.fence % 8 ≠ 0 ∨ x.consumed % 8 ≠ 0)
  let talkers := (runningStreams s).filter (fun kv => kv.2.talker)
  let dup := (runningStreams s).any (fun kv => decide (kv.2.streamId = x.streamId ∧ kv.2.port = x.port))
  let full := x.talker ∧ (4 ≤ talkers.length ∨ talkers.any (fun kv => decide (kv.2.pipe = x.pipe)))
  if bad ∨ range ∨ full ∨ dup ∨ s.staleCtx x.owner ∨ s.fld F.ethPortStatusState x.port ≠ lcOn then stInvalid
  else if x.talker ∧ ¬ (s.fld F.lyrWbCtrlFormat x.pipe ∈ [2, 9]) then stUnsupported
  else stOk

/-- The reader of a stream's consumer fence on another device, as the reads over the links name it. -/
def streamUnit (i : Nat) : Nat := 2 ^ 60 + 8 + i

/-- The reader of a talker's frames on another device (log 32). -/
def talkUnit (i : Nat) : Nat := 2 ^ 60 + 72 + i

/-- STREAM_START (R583). A stream that runs is not started again (log 18). -/
def opStreamStart (s : State) (i : Nat) : State :=
  if 63 < i then ethResult s stInvalid 0
  else if (s.stream i).running then ethResult s stBusy 0
  else
    match readRecord s (s.fld F.ethStreamTableBaseAddr * 65536 + 64 * i) 8 with
    | (.error st, s) => ethResult s st 0
    | (.ok w, s) =>
      let st := streamCheck s w
      let s := { s with far := s.far.filter (fun x => decide (x.unit ≠ streamUnit i)) }
      if st = stOk then ethResult (s.setStream i (streamOfWords w)) stOk 0 else ethResult s st 0

/-- A stream takes nothing more: it is over, but for the signals of slots that are written (R583, R587). -/
def endStream (s : State) (i : Nat) : State :=
  let x := s.stream i
  s.setStream i (if x.unsignalled.isEmpty then {} else { x with stopping := true, ended := true })

/-- A stream stops: at once between slots, else after the slot in progress (R583). -/
def stopStream (s : State) (i : Nat) : State :=
  let x := s.stream i
  if x.running then
    if x.done = 0 ∧ ¬ x.discard ∧ x.frames.isEmpty then endStream s i else s.setStream i { x with stopping := true }
  else s

/-- STREAM_STOP (R583). -/
def opStreamStop (s : State) (i : Nat) : State :=
  if 63 < i then ethResult s stInvalid 0 else ethResult (stopStream s i) stOk 0

/-- A listener's access failed: the stream stops and its owner is lost (R589). -/
def streamFault (s : State) (i : Nat) : State :=
  let x := s.stream i
  loseCtx (s.setStream i {}) (hIndex x.owner)

/-- The 64-bit time nearest `now` that ends in a 32-bit AVTP timestamp (R586). -/
def extendTs (now : Nat) (t : W32) : Nat :=
  let base := now / 2 ^ 32 * 2 ^ 32
  let v := base + t.toNat
  if v + 2 ^ 31 < now then v + 2 ^ 32
  else if now + 2 ^ 31 ≤ v then (if 2 ^ 32 ≤ v then v - 2 ^ 32 else v)
  else v

/-- The value of a consumer fence on another device as the last read found it; a fence never falls, so it is a lower bound, 0
before the first answer. The fence is read again unless a read is under way (R588, R631). -/
def farConsumed (s : State) (i d a : Nat) : Nat × State :=
  let mine := s.far.filter (fun x => decide (x.unit = streamUnit i))
  let last := (mine.filter (fun x => x.done && decide (x.status = stOk ∧ x.dev = d ∧ x.addr = a))).reverse.head?
  let v := match last with
    | none => 0
    | some x => leNat x.bytes
  if mine.any (fun x => !x.done) then (v, s)
  else
    let (ok, s) := remoteRead s d a 8 0 (.far (streamUnit i) d a 8)
    (v, if ok then
      { s with far := s.far.filter (fun x => decide (x.unit ≠ streamUnit i)) ++ last.toList ++
          [{ unit := streamUnit i, dev := d, addr := a, len := 8 }] }
    else s)

/-- Whether a store to a slot or its record is unanswered: it is not yet visible at system scope (R587). -/
def slotOpen (s : State) (i slot : Nat) : Bool := awaits s (fun u => decide (u = .slot i slot))

/-- The fence is signalled for the oldest written slots whose bytes and records are visible (R587). `fuel` bounds them. -/
def signalSlots : Nat → State → Nat → State
  | 0, s, _ => s
  | fuel + 1, s, i =>
    match (s.stream i).unsignalled with
    | [] => s
    | n :: rest =>
      if slotOpen s i n then s
      else
        let x := s.stream i
        match unitSignal s (some .net) x.owner x.fence (n + 1) with
        | (some _, s) => streamFault s i
        | (none, s) =>
          let s := s.setStream i { s.stream i with unsignalled := rest }
          signalSlots fuel (if x.ended then endStream s i else s) i

/-- A store to a slot or its record is answered (R587, R589). -/
def slotStored (s : State) (i slot : Nat) (ok : Bool) : State :=
  let x := s.stream i
  if !x.running ∨ ¬ (x.slot = slot ∨ slot ∈ x.unsignalled) then s
  else if ok then signalSlots (x.unsignalled.length + 1) s i
  else streamFault s i

/-- The slot in progress is finished: its record is written, its number raised, and its fence signalled once both are visible (R587). -/
def finishSlot (s : State) (i : Nat) : State :=
  let x := s.stream i
  let late := decide (x.slotPt < s.now)
  let rec' := leBytes 8 x.slot ++ leBytes 8 x.slotPt ++ leBytes 8 s.now ++
    leBytes 8 (x.done * 2 ^ 32 + (if late then 2 else 0) + (if x.gap then 1 else 0))
  match ctxStore s (some .net) x.owner (x.records + 32 * (x.slot % x.nslots)) rec' (.slot i x.slot) with
  | (some _, s) => streamFault s i
  | (none, s) =>
    let s := if x.gap then s.bump F.ethStreamGapsCount i else s
    let s := s.setStream i { x with slot := x.slot + 1, done := 0, gap := false, ended := x.stopping,
                                    unsignalled := x.unsignalled ++ [x.slot] }
    signalSlots (x.unsignalled.length + 1) s i

/-- Whether the consumer has freed the slot about to be written (R588); a failed read is a stream fault. -/
def slotFree (s : State) (i : Nat) : Option Bool × State :=
  let x := s.stream i
  match xlate s (some .net) x.owner .load x.consumed with
  | (.ok (.mem a), s) =>
    match memLoadNat s a 8 with
    | (some v, s) => (some (decide (x.slot ≤ v % 2 ^ 63 + (x.nslots - 1))), s)
    | (none, s) => (none, s)
  | (.ok (.remote d a), s) =>
    let (v, s) := farConsumed s i d a
    (some (decide (x.slot ≤ v % 2 ^ 63 + (x.nslots - 1))), s)
  | (_, s) => (none, s)

/-- Bytes go into a listener's slots from where it stands; `pt` is the time of the first of them. An AAF slot that fills is
finished and the rest goes on; RVF bytes past the slot's end are dropped (log 19). `fuel` bounds the slots. -/
def putStream (fuel : Nat) (s : State) (i : Nat) (bs : List Byte) (pt : Nat) (frameBytes rate : Nat) : State :=
  match fuel with
  | 0 => s
  | fuel + 1 =>
    let x := s.stream i
    if bs.isEmpty ∨ ¬ x.running ∨ x.ended then s
    else
      let (ok, s) := if x.done = 0 ∧ ¬ x.discard then slotFree s i else (some true, s)
      match ok with
      | none => streamFault s i
      | some free =>
        let x := if free then x else { x with discard := true }
        let s := if free then s
                 else event (s.bump F.ethStreamCountOverrun i) 0x0A04 x.owner i x.slot
        let room := x.slotBytes - x.done
        let part := bs.take room
        let x := if x.done = 0 then { x with slotPt := pt } else x
        let r := if x.discard then (none, s)
                 else ctxStore s (some .net) x.owner (x.ring + x.slot % x.nslots * x.slotBytes + x.done) part (.slot i x.slot)
        match r with
        | (some _, s) => streamFault s i
        | (none, s) =>
          let x := { x with done := x.done + part.length }
          let s := s.setStream i x
          if x.rvf then s
          else if x.slotBytes ≤ x.done then
            let s := if x.discard then s.setStream i { x with done := 0, discard := false, gap := false } else finishSlot s i
            let adv := if frameBytes = 0 ∨ rate = 0 then 0 else part.length / frameBytes * 1000000000 / rate
            putStream fuel s i (bs.drop room) (pt + adv) frameBytes rate
          else s

/-- A frame of an RVF listener ends (R584). -/
def endFrame (s : State) (i : Nat) : State :=
  let x := s.stream i
  if x.discard then
    (if x.stopping then endStream s i else s.setStream i { x with done := 0, discard := false, gap := false })
  else if x.done = 0 then s
  else finishSlot s i

/-- Audio samples as a slot holds them, each in a container of 32 bits (R581), `w` bytes being carried for each. `fuel` bounds them. -/
def containers (w : Nat) : Nat → List Byte → List Byte
  | 0, _ => []
  | fuel + 1, bs =>
    if bs.isEmpty then []
    else tabulate 4 (fun i => (Config.aafContainer w (bs.take w)).getD i 0) ++ containers w fuel (bs.drop w)

/-- A packet's payload as a slot holds it (R581): video as it comes, audio in containers. -/
def payloadOf (rvf : Bool) (width : Nat) (bs : List Byte) : List Byte :=
  if rvf ∨ 2 ≤ width then bs else containers (width + 2) bs.length bs

/-- An AVTP packet of a running listener (R584 to R589): the packets missing before it by sequence number, and for audio by its
time, leave zero bytes, each as long as this one (log 19). -/
def avtpIn (s : State) (i : Nat) (seq : Nat) (ts : W32) (first last : Bool) (width frameBytes rate : Nat) (bs : List Byte) :
    State :=
  let x := s.stream i
  let bs := payloadOf x.rvf width bs
  if x.running ∧ ¬ x.talker ∧ ¬ x.ended then
    let s := s.bump F.ethRxFramesCount x.port
    let missSeq := match x.lastSeq with
      | none => 0
      | some l => (seq + 256 - l - 1) % 256
    let tail := if x.rvf ∧ first ∧ (x.done ≠ 0 ∨ x.discard) then List.replicate (missSeq * bs.length) (0 : Byte) else []
    let s := if tail.isEmpty then s
             else putStream 2 (s.setStream i { x with gap := true }) i tail x.slotPt frameBytes rate
    let s := if x.rvf ∧ first then endFrame s i else s
    let v := extendTs s.now ts
    let x := s.stream i
    let dur := if frameBytes = 0 ∨ rate = 0 then 0 else bs.length / frameBytes * 1000000000 / rate
    let missTime := match x.nextPt with
      | none => 0
      | some e => if x.rvf ∨ dur = 0 ∨ v < e + dur then 0 else (v - e) / dur
    let miss := if x.rvf ∧ first then 0 else max missSeq missTime
    let s := s.setStream i { x with lastSeq := some seq, nextPt := some (v + dur), gap := x.gap || decide (miss ≠ 0) }
    let fill := List.replicate (miss * bs.length) (0 : Byte)
    let s := putStream (fill.length + 2) s i fill (v - miss * dur) frameBytes rate
    let s := if miss ≠ 0 then s.setStream i { s.stream i with gap := true } else s
    let s := putStream (bs.length + 2) s i bs v frameBytes rate
    if (s.stream i).rvf ∧ last then endFrame s i else s
  else s

/-! ### Network time (R592 to R597) -/

abbrev tmFreeRun : Nat := 0
abbrev tmAcquiring : Nat := 1
abbrev tmLocked : Nat := 2
abbrev tmHoldover : Nat := 3

/-- The time state (R594). -/
def State.timeState (s : State) : Nat := s.fld F.timStatusState

/-- The time state changes; the first ACQUIRING is entered and left once (R595). -/
def setTime (s : State) (st : Nat) : State :=
  let old := s.timeState
  let s := s.setFld F.timStatusState 0 st
  let s := if old = tmHoldover ∧ st ≠ tmHoldover then s.wr Reg.timHoldoverNs 0 (BitVec.ofNat 64 (s.now - s.time.holdSince)) else s
  let t := s.time
  { s with time := { t with
      run := if st = tmAcquiring ∧ old ≠ tmAcquiring then 0 else t.run
      entered := t.entered || decide (st = tmAcquiring)
      left := t.left || (t.entered && decide (old = tmAcquiring ∧ st ≠ tmAcquiring))
      holdSince := if st = tmHoldover then s.now else t.holdSince } }

/-- LOCKED becomes HOLDOVER (R594). -/
def toHoldover (s : State) : State := event (setTime s tmHoldover) 0x0B02
/-- The state becomes FREE_RUN (R594). -/
def toFreeRun (s : State) : State := event (setTime s tmFreeRun) 0x0B03

/-- The rate correction that a Sync leads to: free, within ±200 ppm (R595, log 9). -/
def slew (s : State) : State :=
  let (v, s) := s.fresh
  let x := v.toNat % 400001
  s.wr Reg.timFreqPpb 0 (BitVec.ofNat 64 (toBits 32 ((x : Int) - 200000)))

/-- A Sync from grandmaster `gm` on the slave port, with the measured offset (R594, R595). -/
def syncIn (s : State) (gm : W64) (off : Int) : State :=
  let changed := s.rd Reg.timGmId ≠ gm
  let old := s.timeState
  let s := (s.wr Reg.timGmId 0 gm).wr Reg.timOffsetNs 0 (BitVec.ofNat 64 (toBits 64 off))
  let s := { s with time := { s.time with lastSync := s.now } }
  let s := if old = tmFreeRun ∨ old = tmHoldover ∨ (old = tmLocked ∧ changed) then setTime s tmAcquiring else s
  if s.timeState = tmAcquiring then
    let first := s.time.entered ∧ ¬ s.time.left
    if first ∧ s.fld F.timStatusEverStepped = 0 ∧ (liveCtxs s).isEmpty ∧ 1000000 < off.natAbs then
      let before := s.now
      let after := (((before : Int) + off) % 2 ^ 64).toNat
      let s := s.wr Reg.timNowNs 0 (BitVec.ofNat 64 after)
      let s := { s.setFld F.timStatusEverStepped 0 1 with time := { s.time with run := 0, lastSync := after } }
      event s 0x0B04 0 before after
    else
      let run := if off.natAbs ≤ 100 then s.time.run + 1 else 0
      let s := slew { s with time := { s.time with run := run } }
      if 16 ≤ run then event ((setTime s tmLocked).setFld F.timStatusEverLocked 0 1) 0x0B01 0 gm.toNat else s
  else slew s

/-- The slave port's link falls (R594). -/
def slaveLinkFell (s : State) : State := if s.timeState = tmLocked then toHoldover s else s

/-- A port's link falls (R553). -/
def linkFell (s : State) (p : Nat) : State :=
  if s.fld F.ethPortStatusLinkUp p = 1 then
    let s := event ((s.setFld F.ethPortStatusLinkUp p 0).bump F.ethLinkDownsCount p) 0x0A01 0 p
    if s.fld F.timCfgSlavePort = p then slaveLinkFell s else s
  else s

/-- The frames held for a sleeping link go to its queues when it wakes (R555). -/
def linkWoke (s : State) (p : Nat) : State :=
  let e := s.ethPort p
  (s.setEthPort p { e with egress := e.egress ++ e.held.map (·.2), held := [] }).setFld F.ethPortStatusAsleep p 0

end Sys2Proof.Machine
end

