-- ==== Sys2Proof/Machine/Sfu.lean ====
section
/-! DEFINITION. The special functions of the row vector units and the shader cores: the values near the exact result that the
accuracy bounds of R121 and R267 allow, and their special cases. Which of the allowed values comes out is `Config.special`
(log 21). Exact results are taken in fixed point with 128 fraction bits. -/

namespace Sys2Proof.Machine

/-- One in fixed point. -/
abbrev fixOne : Int := 2 ^ 128
/-- ln 2 in fixed point. -/
abbrev fixLn2 : Int := 235865763225513294137944142764154484399
/-- 2π in fixed point. -/
abbrev fixTwoPi : Int := 2138057168129933495719360746323741566601

/-- A value in fixed point, its bits below the grid cut. -/
def fixOf (neg : Bool) (m : Nat) (q : Int) : Int :=
  let k := q + 128
  let v : Int := if 0 ≤ k then m * 2 ^ k.toNat else m / 2 ^ (-k).toNat
  if neg then -v else v

/-- e^x of a fixed-point number below 1 in magnitude, by its series. -/
def fixExp (x : Int) : Int :=
  ((List.range 40).foldl (fun (ta : Int × Int) (n : Nat) =>
    let t := ta.1 * x / fixOne / ((n : Int) + 1)
    (t, ta.2 + t)) (fixOne, fixOne)).2

/-- A fixed-point number times a power of two. -/
def fixNum (v k : Int) : Num := .fin (decide (v < 0)) v.natAbs (k - 128)

/-- 2^x of a fixed-point number: its integer part scales the series of its fraction. -/
def fixExp2 (x : Int) : Num :=
  let k := x / fixOne
  fixNum (fixExp ((x - k * fixOne) * fixLn2 / fixOne)) k

/-- e^x of a fixed-point number, by R121. -/
def fixExpE (x : Int) : Num :=
  let k := x / fixLn2
  fixNum (fixExp (x - k * fixLn2)) k

/-- The fraction bits of log2 of a fixed-point number in [1, 2), by repeated squaring. -/
def fixLog2 (y : Int) : Int :=
  ((List.range 100).foldl (fun (s : Int × Int) (n : Nat) =>
    let y2 := s.1 * s.1 / fixOne
    if 2 * fixOne ≤ y2 then (y2 / 2, s.2 + 2 ^ (127 - n)) else (y2, s.2)) (y, 0)).2

/-- sin or cos of a fixed-point angle within [-π, π], by its series from term `a`. -/
def fixCirc (x : Int) (odd : Bool) : Int :=
  let t0 : Int := if odd then x else fixOne
  let a : Int := if odd then 1 else 0
  ((List.range 24).foldl (fun (ta : Int × Int) (n : Nat) =>
    let i : Int := 2 * (n : Int) + a
    let t := -(ta.1 * x / fixOne * x / fixOne) / ((i + 1) * (i + 2))
    (t, ta.2 + t)) (t0, t0)).2

/-- The functions, by their number in `Config.special`. -/
inductive Special where
  | exp | rcp | rsqrt | sqrt | exp2 | log2 | sin | cos
deriving DecidableEq, Repr

def Special.num : Special → Nat
  | .exp => 0
  | .rcp => 1
  | .rsqrt => 2
  | .sqrt => 3
  | .exp2 => 4
  | .log2 => 5
  | .sin => 6
  | .cos => 7

/-- What the spec leaves open of a result. -/
def Special.open' (f : Special) (x : W32) : W32 := Config.special f.num x

/-- Whether the magnitude of an FP32 value lies within `k` units in the last place of an exact magnitude `m * 2^q`. -/
def withinUlp (k m : Nat) (q : Int) (v : W32) : Bool :=
  match Num.ofFp32 v with
  | .fin _ vm vq =>
    let u := (m.log2 : Int) + q - 23
    let b := min (min q vq) u
    let e := m * 2 ^ (q - b).toNat
    let w := vm * 2 ^ (vq - b).toNat
    decide (max e w - min e w ≤ k * 2 ^ (u - b).toNat)
  | _ => false

/-- The FP32 values within `k` units in the last place of an exact result whose rounding is `r`, zeros and infinities left out. -/
def nearValues (k m : Nat) (q : Int) (r : W32) : List W32 :=
  let mag : Nat := r.toNat % 2 ^ 31
  ((List.range (2 * k + 1)).filter (fun i => decide (0x800000 + k ≤ mag + i ∧ mag + i < 0x7F800000 + k))).filterMap (fun i =>
    let v : W32 := BitVec.ofNat 32 (r.toNat / 2 ^ 31 * 2 ^ 31 + (mag + i - k))
    if withinUlp k m q v then some v else none)

/-- One of the FP32 values within `k` units in the last place of an exact result, as the function's open choice has it; a result that
rounds to zero or infinity is that. -/
def nearUlp (f : Special) (x : W32) (k : Nat) (exact : Num) : W32 :=
  let r := exact.toFp32
  match exact with
  | .fin _ m q =>
    if r.toNat % 2 ^ 31 = 0 ∨ 0x7F800000 ≤ r.toNat % 2 ^ 31 then r
    else
      let vs := nearValues k m q r
      vs.getD ((f.open' x).toNat % vs.length) r
  | _ => r

/-- 1 / x of a finite non-zero value, to 160 fraction bits of its significand. -/
def numRcp (neg : Bool) (m : Nat) (q : Int) : Num := .fin neg (2 ^ 200 / m) (-q - 200)

/-- The integer square root, by bisection from the top bit. -/
def isqrt (n : Nat) : Nat :=
  ((List.range (bitLen n / 2 + 1)).reverse).foldl (fun r i => if (r + 2 ^ i) * (r + 2 ^ i) ≤ n then r + 2 ^ i else r) 0

/-- √x of a positive value as a value. -/
def numSqrt (m : Nat) (q : Int) : Num :=
  let (m, q) := if q % 2 = 0 then (m, q) else (2 * m, q - 1)
  .fin false (isqrt (m * 2 ^ 160)) (q / 2 - 80)

/-- The special functions of R121 and R267. -/
def special (f : Special) (x : W32) : W32 :=
  let nan : W32 := 0x7FC00000
  let pinf : W32 := 0x7F800000
  match f, Num.ofFp32 x with
  | _, .nan => nan
  | .exp, .inf neg => if neg then 0 else pinf
  | .exp, .fin neg m q =>
    if m = 0 then 0x3F800000
    else
      let v := fixOf neg m q
      if 150 * fixOne < v then pinf else if v < -150 * fixOne then 0 else nearUlp f x 2 (fixExpE v)
  | .rcp, .inf neg => if neg then 0x80000000 else 0
  | .rcp, .fin neg m q =>
    if m = 0 then (if neg then 0xFF800000 else pinf) else nearUlp f x 1 (numRcp neg m q)
  | .rsqrt, .inf neg => if neg then nan else 0
  | .rsqrt, .fin neg m q =>
    if m = 0 then (if neg then 0xFF800000 else pinf)
    else if neg then nan
    else match numSqrt m q with
      | .fin _ rm rq => nearUlp f x 1 (numRcp false rm rq)
      | _ => nan
  | .exp2, .fin neg m q =>
    if m = 0 then 0x3F800000
    else
      let v := fixOf neg m q
      if 200 * fixOne < v then pinf else if v < -200 * fixOne then 0 else nearUlp f x 2 (fixExp2 v)
  | .log2, .fin neg m q =>
    if m = 0 ∨ neg then f.open' x
    else
      let e := (bitLen m : Int) - 1
      nearUlp f x 2 (fixNum ((q + e) * fixOne + fixLog2 ((m : Int) * 2 ^ (128 - e).toNat)) 0)
  | .sin, .fin neg m q | .cos, .fin neg m q =>
    let v := fixOf neg m q
    if 128 * fixTwoPi < v ∨ v < -128 * fixTwoPi then f.open' x
    else
      let r := v - (v + fixTwoPi / 2) / fixTwoPi * fixTwoPi
      let off : Int := Int.ofNat ((f.open' x).toNat % 15) - 7
      (fixNum (fixCirc r (f = .sin) + off * 2 ^ 104) 0).toFp32
  | _, _ => f.open' x

end Sys2Proof.Machine
end

