-- ==== Sys2Proof/Machine/Court.lean ====
section
/-! DEFINITION. A court's memories and one schedule cycle of one of its rows: operand streams, segments and block sums, tile
accumulators, the drain walk and the row vector unit (spec/03, spec/04 R185 to R201). -/

namespace Sys2Proof.Machine

/-! ### Memories -/

/-- The physical engine of logical engine `e` of row `r` under a spare map (R152, R172). -/
def physEngine (m : W64) (r e : Nat) : Nat :=
  if bitsOf m (8 * r + 4) (8 * r + 4) = 1 ∧ bitsOf m (8 * r + 3) (8 * r) = e then 16 else e

/-- The bytes of an engine's scratchpad from an address, which wraps at 64 KiB (R111). -/
def Court.padBytes (c : Court) (m : W64) (r e a n : Nat) : List Byte :=
  let base := (r * 17 + physEngine m r e) * 65536
  tabulate n (fun i => SMap.get 0 c.pads (base + (a + i) % 65536))

/-- Bytes written to an engine's scratchpad. -/
def Court.setPad (c : Court) (m : W64) (r e a : Nat) (bs : List Byte) : Court :=
  let base := (r * 17 + physEngine m r e) * 65536
  { c with pads := bs.zipIdx.foldl (fun p bi => SMap.set 0 p (base + (a + bi.2) % 65536) bi.1) c.pads }

/-- The bytes of the court buffer from an address, which wraps at 4 MiB (R197). -/
def Court.bufBytes (c : Court) (a n : Nat) : List Byte := tabulate n (fun i => SMap.get 0 c.buf ((a + i) % 2 ^ 22))

/-- Bytes written to the court buffer. -/
def Court.setBuf (c : Court) (a : Nat) (bs : List Byte) : Court :=
  { c with buf := bs.zipIdx.foldl (fun p bi => SMap.set 0 p ((a + bi.2) % 2 ^ 22) bi.1) c.buf }

/-- The key of value `i` of accumulator `t` of an engine. -/
def accKey (m : W64) (r e t i : Nat) : Nat := ((r * 17 + physEngine m r e) * 2 + t) * 256 + i

/-- Vector register `v` of a row. -/
def Court.vreg (c : Court) (r v : Nat) : List W32 := tabulate 64 (fun l => SMap.get 0 c.vregs ((r * 16 + v) * 64 + l))

/-- A vector register written. -/
def Court.setVreg (c : Court) (r v : Nat) (xs : List W32) : Court :=
  { c with vregs := xs.zipIdx.foldl (fun p xi => SMap.set 0 p ((r * 16 + v) * 64 + xi.2) xi.1) c.vregs }

/-- The 256 bytes of a vector register, lane 0 first (R8). -/
def laneBytes (xs : List W32) : List Byte := (xs.map (fun x => leBytes 4 x.toNat)).flatten

/-- Values of 4 bytes each from bytes. -/
def lanesOf (bs : List Byte) : List W32 :=
  tabulate (bs.length / 4) (fun i => BitVec.ofNat 32 (leNat ((bs.drop (4 * i)).take 4)))

/-- The first bytes of a vector register replaced; the others stand (log 22). -/
def Court.setVbytes (c : Court) (r v : Nat) (bs : List Byte) : Court :=
  c.setVreg r v (lanesOf (bs ++ (laneBytes (c.vreg r v)).drop bs.length))

/-- A scrub writes zero everywhere and invalidates the playbook cache (R157). -/
def Court.scrubbed (c : Court) : Court :=
  { c with
    lastCtx := none
    scrub := .clean
    buf := []
    pads := []
    acc := []
    accD := []
    vregs := []
    amax := []
    cacheTable := []
    cacheSlots := [] }

/-! ### Row-operation entries (R185) -/

def eEop (e : Nat) : Nat := natBits e 31 28
def eFmtA (e : Nat) : Nat := natBits e 27 23
def eFmtB (e : Nat) : Nat := natBits e 22 18
def eAcc (e : Nat) : Nat := natBits e 17 17
def eYbus (e : Nat) : Bool := natBit e 16
def eBus (e : Nat) : Nat := natBits e 15 14
def eBuseng (e : Nat) : Nat := natBits e 13 10
def eOvf (e : Nat) : Nat := natBits e 9 8
def eKlast (e : Nat) : Nat := natBits e 7 3
def eXr (e : Nat) : Nat := natBits e 63 61
def eSxr (e : Nat) : Nat := natBits e 60 58
def eYr (e : Nat) : Nat := natBits e 57 55
def eSyr (e : Nat) : Nat := natBits e 54 52
def eCr (e : Nat) : Nat := natBits e 51 49
def eBr (e : Nat) : Nat := natBits e 48 46
def eVr (e : Nat) : Nat := natBits e 45 43
def eVsp (e : Nat) : Bool := natBit e 42
def eVeng (e : Nat) : Nat := natBits e 41 38
def eVop (e : Nat) : Nat := natBits e 95 91
def eVd (e : Nat) : Nat := natBits e 90 87
def eVa (e : Nat) : Nat := natBits e 86 83
def eVb (e : Nat) : Nat := natBits e 82 79
def eVc (e : Nat) : Nat := natBits e 78 75
def eVfmt (e : Nat) : Nat := natBits e 74 70
def eClr (e : Nat) : Bool := natBit e 69

/-- The format of an operand format field, and whether it is scaled (R58, R59). -/
def fmtOf (f : Nat) : Fmt := (Fmt.ofCode (f % 16)).getD .fp32
def fmtScaled (f : Nat) : Bool := natBit f 4

/-- Whether the entry performs MMA or MMA_NEW. -/
def eMma (e : Nat) : Bool := decide (eEop e = 1 ∨ eEop e = 2)

/-- The address registers of the streams that an entry uses (R105, R189). -/
def entryRegs (e : Nat) : List Nat :=
  (if eMma e then
    [eXr e] ++ (if fmtScaled (eFmtA e) then [eSxr e] else []) ++ (if eYbus e then [] else [eYr e]) ++
      (if fmtScaled (eFmtB e) then [eSyr e] else [])
   else []) ++
  (if eEop e = 3 then [eCr e] else []) ++ (if eBus e ≠ 0 then [eBr e] else []) ++
  (if 16 ≤ eVop e ∧ eVop e ≤ 19 then [eVr e] else [])

/-- Whether a list names something twice. -/
def hasDup : List Nat → Bool
  | [] => false
  | x :: xs => xs.contains x || hasDup xs

/-- The conditions of R189 and R61 on an entry. -/
def entryInvalid (e : Nat) : Bool :=
  decide (3 < eEop e ∨ eBus e = 3 ∨ 20 < eVop e ∨ eOvf e = 3) || hasDup (entryRegs e) ||
  (eMma e && eYbus e && decide (eBus e = 0)) ||
  [eFmtA e, eFmtB e, eVfmt e].any (fun f => fmtScaled f && decide (f % 16 < 3))

/-- Whether an entry takes the default overflow mode: OVF 0 (R94, R175). -/
def entryDefault (e : Nat) : Bool := eOvf e = 0

/-- Whether an entry names a reserved format (R60). -/
def entryUnsupported (e : Nat) : Bool := [eFmtA e, eFmtB e, eVfmt e].any (fun f => (Fmt.ofCode (f % 16)).isNone)

/-! ### Segments (R103, R104, R198, R199) -/

/-- Products per output and 256 cycles: the rate of the pair's width class (R74, R103). -/
def pairRate256 (fa fb : Nat) : Nat := pairRate (fmtOf fa).cls (fmtOf fb).cls

/-- Cycles of a block of 32 (R103). -/
def blockCycles (fa fb : Nat) : Nat := 32 * 256 / pairRate256 fa fb

/-- The bytes of an operand taken in the first `n` cycles of a block (R105): 16 elements for each reduction index. The bytes of an
index that takes several cycles are spread evenly over them (log 95). -/
def streamBytes (f fa fb n : Nat) : Nat := 2 * (fmtOf f).width * pairRate256 fa fb * n / 256

/-- The products or the one block sum of output (i, j) of an engine over `n` reduction indices (R77 to R83). -/
def outputSum (g : Seg) (n : Nat) (xs ys sx sy : List Byte) (i j : Nat) : List W32 :=
  let fa := fmtOf g.fa
  let fb := fmtOf g.fb
  let nx := leNat xs
  let ny := leNat ys
  let ea := if fmtScaled g.fa then (sx.getD i 0).toNat else 127
  let eb := if fmtScaled g.fb then (sy.getD j 0).toNat else 127
  let pairs := tabulate n (fun k =>
    (Num.decode fa (unpackElem fa nx (16 * k + i)), Num.decode fb (unpackElem fb ny (16 * k + j))))
  if max fa.cls fb.cls = 32 then pairs.map (fun p => product32 p.1 p.2 ea eb) else [blockSum pairs ea eb]

/-- The block in progress ends: its whole indices, `KLAST` and above left out where it is the segment's last (R199). -/
def Seg.sums (g : Seg) (last : Bool) : Option (List (List (List W32))) :=
  let whole := g.cyc * pairRate256 g.fa g.fb / 256
  let n := if last ∧ g.klast ≠ 0 then min whole g.klast else whole
  if whole = 0 then none
  else some (tabulate 16 (fun e => tabulate 256 (fun o =>
    outputSum g n (g.xs.getD e []) (g.ys.getD e []) (g.sx.getD e []) (g.sy.getD e []) (o / 16) (o % 16))))

/-- The sums of a block that ended in cycle `t - 1`: they enter the accumulator 6 cycles after it (R109). -/
def blockLate (g : Seg) (c r t : Nat) (last : Bool) : List (Nat × Late) :=
  match g.sums last with
  | some v => [(t + 5, .sums c r g.acc g.fresh v)]
  | none =>
    if last ∧ g.fresh ∧ !g.any then [(t + 5, .sums c r g.acc true (tabulate 16 (fun _ => tabulate 256 (fun _ => [0]))))] else []

/-- An address register moved on by the bytes that an access moved (R197): one used for a scratchpad wraps at 64 KiB (R111), one
used for the court buffer at 4 MiB. -/
def RowSt.step (x : RowSt) (a n : Nat) (pad : Bool) : RowSt :=
  { x with ars := x.ars.set a ((x.ars.getD a 0 + n) % (if pad then 2 ^ 16 else 2 ^ 22)) }

/-- Bytes from a row bus source: the court buffer or an engine's scratchpad (R106). -/
def busBytes (c : Court) (m : W64) (r e a n : Nat) : List Byte :=
  if eBus e = 1 then c.bufBytes a n else c.padBytes m r (eBuseng e) a n

/-- Whether a segment goes on in a cycle of an entry (R199). -/
def segKeeps (e : Nat) (firstOfBundle : Bool) (g : Seg) : Bool :=
  eMma e && decide (g.acc = eAcc e ∧ g.fa = eFmtA e ∧ g.fb = eFmtB e) && !(firstOfBundle && decide (eEop e = 2))

/-- Whether a segment's block is complete (R103). -/
def Seg.full (g : Seg) : Bool := g.cyc = blockCycles g.fa g.fb

/-- The segment as a cycle of MMA or MMA_NEW finds it: the one that goes on, its complete block taken out, or a new one. -/
def segAt (e : Nat) (firstOfBundle : Bool) (x : RowSt) : Seg :=
  let new : Seg := { acc := eAcc e, fa := eFmtA e, fb := eFmtB e, fresh := decide (eEop e = 2) }
  match x.seg with
  | none => new
  | some g =>
    if segKeeps e firstOfBundle g then
      (if g.full then { g with fresh := false, any := true, cyc := 0, xs := [], ys := [], sx := [], sy := [] } else g)
    else new

/-- The address registers of the streams of an MMA or MMA_NEW (R105, R106). -/
def segStreams (e : Nat) : List Nat :=
  [eXr e, if eYbus e then eBr e else eYr e] ++ (if fmtScaled (eFmtA e) then [eSxr e] else []) ++
    (if fmtScaled (eFmtB e) then [eSyr e] else [])

/-- Whether every stream of a row's cycle that starts in it starts on a 16-byte boundary: a stream that stands where the segment's last
cycle left it goes on (R115). -/
def streamsAligned (e : Nat) (x : RowSt) (g : Seg) : Bool :=
  (segStreams e).all (fun a => decide (x.ars.getD a 0 % 16 = 0) || g.went.contains (a, x.ars.getD a 0))

/-- The bytes of A and of B that a segment's next cycle takes (R105). -/
def Seg.takeA (g : Seg) : Nat := streamBytes g.fa g.fa g.fb (g.cyc + 1) - streamBytes g.fa g.fa g.fb g.cyc
def Seg.takeB (g : Seg) : Nat := streamBytes g.fb g.fa g.fb (g.cyc + 1) - streamBytes g.fb g.fa g.fb g.cyc

/-- The address registers after a cycle of a segment (R197). A bus drive beside it that no Y path reads moves B's bytes (log 95). -/
def segMove (e : Nat) (x : RowSt) (g : Seg) : RowSt :=
  let start : Bool := g.cyc = 0
  let padBus : Bool := eBus e ≠ 1
  let x := x.step (eXr e) g.takeA true
  let x := if eYbus e then x else x.step (eYr e) g.takeB true
  let x := if start && fmtScaled g.fa then x.step (eSxr e) 16 true else x
  let x := if start && fmtScaled g.fb then x.step (eSyr e) 16 (!eYbus e || padBus) else x
  if eBus e ≠ 0 then x.step (eBr e) g.takeB padBus else x

/-- The operand bytes of a segment's cycle and, at the start of a block, its scales (R105, R106). -/
def segBytes (c : Court) (m : W64) (r e : Nat) (x : RowSt) (g : Seg) : Seg :=
  let at' (a : Nat) : Nat := x.ars.getD a 0
  let start : Bool := g.cyc = 0
  let add (old : List (List Byte)) (f : Nat → List Byte) : List (List Byte) := tabulate 16 (fun i => old.getD i [] ++ f i)
  { g with
    xs := add g.xs (fun i => c.padBytes m r i (at' (eXr e)) g.takeA)
    ys := add g.ys (fun i => if eYbus e then busBytes c m r e (at' (eBr e)) g.takeB else c.padBytes m r i (at' (eYr e)) g.takeB)
    sx := if start && fmtScaled g.fa then tabulate 16 (fun i => c.padBytes m r i (at' (eSxr e)) 16) else g.sx
    sy := if start && fmtScaled g.fb then
        tabulate 16 (fun i => if eYbus e then busBytes c m r e (at' (eSyr e)) 16 else c.padBytes m r i (at' (eSyr e)) 16)
      else g.sy }

/-- The engine side of a row's cycle as far as it needs no data: address registers, segment, LOADC position and drain walk
(R197 to R201). False: a stream starts off a 16-byte boundary (R115). -/
def engineMoves (e : Nat) (firstOfBundle : Bool) (x : RowSt) : Bool × RowSt :=
  if eMma e then
    let new : Bool := match x.seg with
      | none => true
      | some g => !segKeeps e firstOfBundle g
    let g := segAt e firstOfBundle x
    let y := segMove e (if new ∧ x.drainAcc = eAcc e then { x with drainPos := 0 } else x) g
    (streamsAligned e x g,
      { y with
        seg := some { g with cyc := g.cyc + 1, klast := eKlast e, went := (segStreams e).map (fun a => (a, y.ars.getD a 0)) }
        loading := false })
  else
    let y := if eBus e ≠ 0 then x.step (eBr e) 16 (eBus e ≠ 1) else x
    if eEop e = 3 then
      let pos := if x.loading then x.loadPos else 0
      (decide (x.ars.getD (eCr e) 0 % 16 = 0),
        { y.step (eCr e) 128 true with seg := none, loading := true, loadPos := (pos + 1) % 8 })
    else (true, { y with seg := none, loading := false })

/-- What the engine side of a row leaves for later cycles in cycle `t`: the sums of a block that is complete or of a segment that ends,
and LOADC's values, read as FP32 (R72, R84, R109, R199). -/
def engineLate (c : Court) (m : W64) (n r t e : Nat) (firstOfBundle : Bool) (x : RowSt) : List (Nat × Late) :=
  (match x.seg with
    | none => []
    | some g =>
      if segKeeps e firstOfBundle g then (if g.full then blockLate g n r t false else [])
      else blockLate g n r t true) ++
  (if eEop e = 3 then
    let pos := if x.loading then x.loadPos else 0
    [(t + 4, .loaded n r (eAcc e) (32 * pos)
      (tabulate 16 (fun i => (lanesOf (c.padBytes m r i (x.ars.getD (eCr e) 0) 128)).map fp32Read)))]
  else [])

/-- The engine side of a row in cycle `t` (R198, R199): the segment that ends, the one that starts or goes on, and LOADC. False:
a stream does not start on a 16-byte boundary. -/
def engineCycle (c : Court) (m : W64) (n r t e : Nat) (firstOfBundle : Bool) (x : RowSt) : Bool × RowSt × List (Nat × Late) :=
  let (ok, y) := engineMoves e firstOfBundle x
  let y := if eMma e then
      let d := segBytes c m r e x (segAt e firstOfBundle x)
      { y with seg := y.seg.map (fun g => { g with xs := d.xs, ys := d.ys, sx := d.sx, sy := d.sy }) }
    else y
  (ok, y, engineLate c m n r t e firstOfBundle x)

/-! ### The row vector unit (R119 to R125, R186) -/

/-- A lane-wise operation on FP32 values. -/
def lanes2 (f : W32 → W32 → W32) (a b : List W32) : List W32 := List.zipWith f a b

/-- VSUM's pairwise tree (R122). -/
def vsum : Nat → List W32 → W32
  | 0, v => v.getD 0 0
  | n + 1, v => vsum n (tabulate (v.length / 2) (fun i => fp32Add (v.getD (2 * i) 0) (v.getD (2 * i + 1) 0)))

/-- VCMP's comparisons. -/
def vcmp (sel : Nat) (a b : W32) : W32 :=
  let x := Num.ofFp32 a
  let y := Num.ofFp32 b
  let hold := match sel with
    | 0 => x.eqIeee y
    | 1 => x.ltIeee y
    | 2 => x.ltIeee y || x.eqIeee y
    | _ => x.isNan || y.isNan
  if hold then 0xFFFFFFFF else 0

/-- The bytes of vector memory at a row's VR: the court buffer or a scratchpad of the row. -/
def vmemRead (c : Court) (m : W64) (r e a n : Nat) : List Byte :=
  if eVsp e then c.padBytes m r (eVeng e) a n else c.bufBytes a n

/-- A store to vector memory that lands in cycle `d`, to be read from the next. -/
def vmemWrite (n r e a d : Nat) (bs : List Byte) : Nat × Late :=
  (d + 1, if eVsp e then .pad n r (eVeng e) a bs else .buf n a bs)

/-- The record that 64 values and their conversions make (R98, R99). -/
def amaxOf (xs : List W32) (cs : List Conv) : W64 := cs.foldl amaxConv (xs.foldl amaxTake 0)

/-- The bytes that VSTORE moves: the packed contents in its format, or two scales (R186). -/
def vstoreLen (e : Nat) : Nat := if eClr e then 2 else (fmtOf (eVfmt e)).packedBytes 64

/-- The address register of vector memory after an entry's vector operation (R197). -/
def vectorMove (e : Nat) (x : RowSt) : RowSt :=
  match eVop e with
  | 16 => x.step (eVr e) 256 (eVsp e)
  | 17 => x.step (eVr e) (vstoreLen e) (eVsp e)
  | 18 => x.step (eVr e) 16 (eVsp e)
  | 19 => x.step (eVr e) 16 (eVsp e)
  | _ => x

/-- The vector operation of an entry in cycle `t`: sources are read now, results come at the latencies of R120. `nonSat` is the
default overflow mode. AMAX_STORE with CLR clears the record in its issue cycle, with the read (log 96). -/
def vectorCycle (c : Court) (m : W64) (n r t e : Nat) (nonSat : Bool) (x : RowSt) : Court × RowSt × List (Nat × Late) :=
  let a := c.vreg r (eVa e)
  let b := c.vreg r (eVb e)
  let v := c.vreg r (eVc e)
  let addr := x.ars.getD (eVr e) 0
  let out (lat : Nat) (xs : List W32) : Court × RowSt × List (Nat × Late) := (c, x, [(t + lat, .vreg n r (eVd e) xs)])
  let lane0 (lat : Nat) (y : W32) := out lat (y :: List.replicate 63 0)
  let f := fmtOf (eVfmt e)
  match eVop e with
  | 1 => out 4 (lanes2 fp32Add a b)
  | 2 => out 4 (lanes2 fp32Sub a b)
  | 3 => out 4 (lanes2 fp32Mul a b)
  | 4 => out 4 (tabulate 64 (fun i => fp32Fma (a.getD i 0) (b.getD i 0) (v.getD i 0)))
  | 5 => out 2 (lanes2 fp32Max a b)
  | 6 => out 2 (lanes2 fp32Min a b)
  | 7 => out 2 (lanes2 (vcmp (eVc e % 4)) a b)
  | 8 => out 2 (tabulate 64 (fun i => if v.getD i 0 ≠ 0 then a.getD i 0 else b.getD i 0))
  | 9 => out 12 (a.map (special .exp))
  | 10 => out 8 (a.map (special .rcp))
  | 11 => out 8 (a.map (special .rsqrt))
  | 12 => lane0 10 (vsum 6 a)
  | 13 => lane0 6 ((a.drop 1).foldl fp32Max (fp32Max (a.getD 0 0) (a.getD 0 0)))
  | 14 => lane0 6 ((a.drop 1).foldl fp32Min (fp32Min (a.getD 0 0) (a.getD 0 0)))
  | 15 =>
    if fmtScaled (eVfmt e) then
      let s0 := convertBlock f ((a.take 32).map Num.ofFp32)
      let s1 := convertBlock f ((a.drop 32).map Num.ofFp32)
      let cs := s0.2 ++ s1.2
      (c, x, [(t + 6, .vbytes n r (eVd e) (leBytes (f.packedBytes 64) (packElems f (cs.map (·.bits))))),
              (t + 6, .vbytes n r (eVc e) [BitVec.ofNat 8 s0.1, BitVec.ofNat 8 s1.1]),
              (t + 6, .amax n r (amaxOf a cs))])
    else
      let ns := if eOvf e = 0 then nonSat else decide (eOvf e = 2)
      let cs := a.map (fun y => (Num.ofFp32 y).convert f ns)
      (c, x, [(t + 6, .vbytes n r (eVd e) (leBytes (f.packedBytes 64) (packElems f (cs.map (·.bits))))),
              (t + 6, .amax n r (amaxOf a cs))])
  | 16 => (c, vectorMove e x, [(t + 3, .vreg n r (eVd e) (lanesOf (vmemRead c m r e addr 256)))])
  | 17 => (c, vectorMove e x, [vmemWrite n r e addr (t + 3) ((laneBytes a).take (vstoreLen e))])
  | 18 =>
    let rec' := SMap.get 0 c.amax r
    let c := if eClr e then { c with amax := SMap.set 0 c.amax r 0 } else c
    (c, vectorMove e x, [vmemWrite n r e addr (t + 2) (leBytes 8 rec'.toNat)])
  | 19 => (c, vectorMove e x, [(t + 2, .amax n r (BitVec.ofNat 64 (leNat (vmemRead c m r e addr 8))))])
  | 20 =>
    let acc := eVb e % 2
    let pos := if x.drainAcc = acc then x.drainPos else 0
    let xs := tabulate 64 (fun i => SMap.get 0 c.accD (accKey m r (pos / 4) acc (pos % 4 * 64 + i)))
    (c, { x with drainAcc := acc, drainPos := (pos + 1) % 64 }, [(t + 2, .vreg n r (eVd e) xs)])
  | _ => (c, x, [])

/-- What a due result does to its court, and what it leaves for later: sums that enter an accumulator are seen by the row output
path 4 cycles after (R109). -/
def applyLate (c : Court) (m : W64) (d : Nat) : Late → Court × List (Nat × Late)
  | .sums n r t fresh vals =>
    let one (e o : Nat) (xs : List W32) : W32 :=
      if fresh then (xs.drop 1).foldl fp32Add (xs.getD 0 0)
      else xs.foldl fp32Add (SMap.get 0 c.acc (accKey m r e t o))
    let res := vals.zipIdx.map (fun ve => ve.1.zipIdx.map (fun xo => one ve.2 xo.2 xo.1))
    let acc := res.zipIdx.foldl (fun a ve => ve.1.zipIdx.foldl (fun a xo =>
      SMap.set 0 a (accKey m r ve.2 t xo.2) xo.1) a) c.acc
    ({ c with acc := acc }, [(d + 4, .seen n r t res [])])
  | .seen _ r t vals loaded =>
    ({ c with accD := vals.zipIdx.foldl (fun a ve => ve.1.zipIdx.foldl (fun a xo =>
        if loaded.contains (xo.2 / 32 * 32) then a else SMap.set 0 a (accKey m r ve.2 t xo.2) xo.1) a) c.accD }, [])
  | .loaded _ r t pos vals =>
    let put (a : SMap W32) : SMap W32 := vals.zipIdx.foldl (fun a ve => ve.1.zipIdx.foldl (fun a xo =>
      SMap.set 0 a (accKey m r ve.2 t (pos + xo.2)) xo.1) a) a
    ({ c with acc := put c.acc, accD := put c.accD }, [])
  | .vreg _ r v xs => (c.setVreg r v xs, [])
  | .vbytes _ r v bs => (c.setVbytes r v bs, [])
  | .amax _ r rec' => ({ c with amax := SMap.set 0 c.amax r (amaxMerge (SMap.get 0 c.amax r) rec') }, [])
  | .buf _ a bs => (c.setBuf a bs, [])
  | .pad _ r e a bs => (c.setPad m r e a bs, [])

/-- What a result that takes effect does to those still on their way: outputs that LOADC has loaded are not overwritten by the view of an
earlier sum (R109). -/
def Late.after (d x : Late) : Late :=
  match d, x with
  | .loaded n r t pos _, .seen n' r' t' vals skip =>
    if n = n' ∧ r = r' ∧ t = t' then .seen n' r' t' vals (pos :: skip) else x
  | _, x => x

/-- The court that a result belongs to. -/
def Late.court : Late → Nat
  | .sums c .. => c
  | .seen c .. => c
  | .loaded c .. => c
  | .vreg c .. => c
  | .vbytes c .. => c
  | .amax c .. => c
  | .buf c .. => c
  | .pad c .. => c

end Sys2Proof.Machine
end

