-- ==== Sys2Proof/Machine/Field.lean ====
section
/-! DEFINITION. Field commands: the playbook and its checks, placement, bundles, schedule cycles, the field network and DMA
(spec/04, spec/03 R126 to R151). -/

namespace Sys2Proof.Machine

/-! ### Budgets (R223, R224) -/

/-- A quotient rounded up. -/
def ceilDiv (a b : Nat) : Nat := (a + b - 1) / b

/-- A field command's budget at an issue fraction and a clock, in nanoseconds rounded up to a whole one. -/
def fieldBudget (decl allow margin g mhz : Nat) : Nat :=
  ceilDiv (5 * decl * 64000 + 4 * allow * (g * mhz)) (5 * (g * mhz)) + margin

/-- The extra time that `n` declared cycles take at a lower rate, rounded up. -/
def extraTime (n g mhz g' mhz' : Nat) : Nat := ceilDiv (n * 64000 * (g * mhz) - n * 64000 * (g' * mhz')) (g * mhz * (g' * mhz'))

/-- The deadlines of running field commands follow a fall of the issue fraction or of the arithmetic clock (R224). -/
def extendBudgets (s : State) : State :=
  (List.range 16).foldl (fun s p =>
    let f := s.field p
    match f.run with
    | none => s
    | some r =>
      let g := granted s
      let mhz := min 1250 (s.fld F.pwrStatusArithMhz)
      if g * mhz < r.budgetFrac * r.budgetMhz then
        let q := s.queue r.q
        let more := extraTime (r.decl - r.spent) r.budgetFrac r.budgetMhz g mhz
        (s.setQueue r.q { q with deadline := q.deadline.map (· + more) }).setField p
          { f with run := some { r with budgetFrac := g, budgetMhz := mhz } }
      else s) s

/-! ### The file (R175 to R180, R189, R190, R211, R226) -/

/-- A word of a list, 0 past its end. -/
def wordAt (ws : List W64) (i : Nat) : W64 := ws.getD i 0

/-- The conditions of R189 on the header alone. -/
def headerInvalid (w : List W64) (arg : Nat) : Bool :=
  let w1 := wordAt w 1
  let nt := bitsOf w1 33 29
  let foot := bitsOf w1 63 48
  decide (64 < bitsOf w1 47 41 ∨ 64 < bitsOf w1 40 34 ∨ nt = 0 ∨ 16 < nt ∨ foot = 0 ∨
    bitsOf (wordAt w 4) 63 32 % 8 ≠ 0 ∨ bitsOf (wordAt w 4) 31 0 % 16 ≠ 0 ∨ bitsOf (wordAt w 5) 63 32 % 16 ≠ 0 ∨
    bitsOf (wordAt w 7) 63 32 % 8 ≠ 0) ||
  (List.range 16).any (fun n => natBit foot n && decide (nt ≤ bitsOf (wordAt w 6) (4 * n + 3) (4 * n))) ||
  (decide (0 < bitsOf w1 47 41 ∧ arg = 0))

/-- The first translation that places a footprint on a set of courts, as 4 × dy + dx (R214). -/
def placeFoot (foot : Nat) (courts : List Nat) : Option Nat :=
  (List.range 16).find? (fun t => (List.range 16).all (fun n =>
    !natBit foot n || (decide (n % 4 + t % 4 < 4 ∧ n / 4 + t / 4 < 4) && courts.contains (n + t))))

/-- The base address of a region (R177). -/
def regionBase (params : List W64) (reg : W64) : Nat := bitsOf (wordAt params (bitsOf reg 45 40)) 47 0

/-- The conditions of R189 on parameters and regions. -/
def paramsInvalid (params bounds regions : List W64) : Bool :=
  (List.range params.length).any (fun i => decide ((wordAt bounds i).toNat < (wordAt params i).toNat)) ||
  regions.any (fun r =>
    let b := wordAt params (bitsOf r 45 40)
    decide (params.length ≤ bitsOf r 45 40 ∨ bitsOf b 63 48 ≠ 0 ∨ bitsOf b 3 0 ≠ 0))

/-- The check of R226: no region is both loaded and stored, and no byte lies in a load and in a store region. -/
def replayUnsafe (params regions : List W64) : Bool :=
  regions.any (fun a => (natBit a.toNat 46 && natBit a.toNat 47) ||
    regions.any (fun b =>
      natBit a.toNat 46 && natBit b.toNat 47 &&
        decide (max (regionBase params a) (regionBase params b) <
          min (regionBase params a + bitsOf a 39 0) (regionBase params b + bitsOf b 39 0))))

/-- The entries of the row-operation tables from their bytes (R179, R185). -/
def tablesOf (bs : List Byte) (n : Nat) : List (List Nat) :=
  tabulate n (fun t => tabulate 256 (fun i => leNat ((bs.drop (3072 * t + 12 * i)).take 12)))

/-! ### Routes of the field network (R129, R217) -/

/-- The courts on the way from `a` to `b`, both included, along x first or along y first. -/
def routeCourts (xFirst : Bool) (a b : Nat) : List Nat :=
  let seg (n m : Nat) : List Nat := if n ≤ m then (List.range (m - n + 1)).map (n + ·) else (List.range (n - m + 1)).map (n - ·)
  let xs := seg (a % 4) (b % 4)
  let ys := seg (a / 4) (b / 4)
  if xFirst then xs.map (fun x => a / 4 * 4 + x) ++ (ys.drop 1).map (fun y => y * 4 + b % 4)
  else ys.map (fun y => y * 4 + a % 4) ++ (xs.drop 1).map (fun x => b / 4 * 4 + x)

/-- The route that a transfer takes within a set of courts, if it has one (R129). -/
def netRoute (courts : List Nat) (a b : Nat) : Option (List Nat) :=
  if (routeCourts true a b).all courts.contains then some (routeCourts true a b)
  else if (routeCourts false a b).all courts.contains then some (routeCourts false a b)
  else none

/-- The hop count between two logical courts (R217). -/
def hopsOf (a b : Nat) : Nat := (max (a % 4) (b % 4) - min (a % 4) (b % 4)) + (max (a / 4) (b / 4) - min (a / 4) (b / 4))

/-! ### Decoding a bundle (R181 to R191, R212) -/

/-- Whether a court action fails a check of R191. -/
def actionBad (r : FieldRun) (l : Nat) (w : W64) : Bool :=
  match bitsOf w 63 60 with
  | 0 => false
  | 1 => natBit w.toNat 48 && decide (r.params.length ≤ bitsOf w 47 42)
  | 2 =>
    let d := bitsOf w 59 56
    decide (d = l ∨ bitsOf w 55 53 ≠ hopsOf l d) || !natBit r.foot d || (netRoute r.courts (l + r.shift) (d + r.shift)).isNone
  | _ => true

/-- The local bytes that a DMA slot reaches up to, and the size of the memory it names (R188). -/
def dmaLocalEnd (w0 w1 : W64) : Nat × Nat :=
  let row := bitsOf w1 25 16 + 1
  let rows := bitsOf w1 35 26 + 1
  let base := bitsOf w0 48 31
  match bitsOf w0 57 56 with
  | 0 => (16 * (base + rows * row), 2 ^ 22)
  | 2 => (16 * (base + ((rows - 1) / 16 + 1) * row), 65536)
  | _ => (16 * (base + rows * row), 65536)

/-- Whether a DMA slot fails a check of R191. -/
def dmaBad (r : FieldRun) (w0 w1 : W64) : Bool :=
  let reg := bitsOf w0 30 25
  let rw := wordAt r.regions reg
  let store := natBit w0.toNat 58
  let far := 16 * (bitsOf w1 63 36 + bitsOf w1 35 26 * bitsOf w1 15 0) + 16 * (bitsOf w1 25 16 + 1)
  let loc := dmaLocalEnd w0 w1
  !natBit r.foot (bitsOf w0 63 60) || decide (r.regions.length ≤ reg) ||
    !(if store then natBit rw.toNat 47 else natBit rw.toNat 46) || decide (bitsOf rw 39 0 < far) ||
    decide (loc.2 < loc.1) || (store && decide (bitsOf w0 57 56 = 3))

/-- The bundle at the sequencer's position from its bytes, or the physical court at which it fails a check of R191. -/
def decodeBundle (r : FieldRun) (ws : List W64) : Except Nat Bundle :=
  let h := wordAt ws 0
  let mask := bitsOf h 47 32
  let param := natBit h.toNat 2
  let pidx := bitsOf h 26 21
  let rep := bitsOf h 63 48 + 1
  let courts := (List.range 16).filter (natBit mask)
  let first := courts.getD 0 0 + r.shift
  let slots := courts.zipIdx.map (fun nk => (nk.1, wordAt ws (1 + 2 * nk.2), wordAt ws (2 + 2 * nk.2)))
  let dmas := tabulate (bitsOf h 31 27) (fun k =>
    (wordAt ws (1 + 2 * courts.length + 2 * k), wordAt ws (2 + 2 * courts.length + 2 * k)))
  let pv := (wordAt r.params pidx).toNat
  if param ∧ (r.params.length ≤ pidx ∨ 65536 < (wordAt r.bounds pidx).toNat ∨ rep < pv) then .error first
  else if 16 < bitsOf h 31 27 then .error first
  else
    match courts.find? (fun n => !natBit r.foot n) with
    | some n => .error (n + r.shift)
    | none =>
      match slots.find? (fun x => actionBad r x.1 x.2.2) with
      | some x => .error (x.1 + r.shift)
      | none =>
        match dmas.find? (fun d => dmaBad r d.1 d.2) with
        | some d => .error (bitsOf d.1 63 60 + r.shift)
        | none => .ok { trips := if param then pv else rep, slots := slots, dmas := dmas, last := natBit h.toNat 3,
                        sync := natBit h.toNat 1, heavy := natBit h.toNat 0 }

/-- The logical courts of a footprint. -/
def FieldRun.logical (r : FieldRun) : List Nat := (List.range 16).filter (natBit r.foot)

/-- The state of row `i` of physical court `n`. -/
def FieldRun.row (r : FieldRun) (n i : Nat) : RowSt := SMap.get {} r.rows (n * 8 + i)

/-- ARSET on the rows of its mask (R183, R196). -/
def arset (r : FieldRun) (n : Nat) (w : W64) : FieldRun :=
  let v := 16 * bitsOf w 41 24 + (if natBit w.toNat 48 then 16 * (wordAt r.params (bitsOf w 47 42)).toNat else 0)
  (List.range 8).foldl (fun r i =>
    if natBit w.toNat (52 + i) then
      let x := r.row n i
      { r with rows := SMap.set {} r.rows (n * 8 + i) { x with ars := x.ars.set (bitsOf w 51 49) (v % 2 ^ 22) } }
    else r) r

/-- NETXFER from physical court `n` of logical court `l` (R184). -/
def netxfer (r : FieldRun) (l : Nat) (w : W64) : FieldRun :=
  let d := bitsOf w 59 56
  let route := (netRoute r.courts (l + r.shift) (d + r.shift)).getD []
  { r with net := r.net ++ [{ src := l + r.shift, dst := d + r.shift, srcAddr := 64 * bitsOf w 52 37,
                              dstAddr := 64 * bitsOf w 36 21, flits := bitsOf w 20 5 + 1, hops := bitsOf w 55 53,
                              issued := r.cycle, links := route.zip (route.drop 1) }] }

/-- The court actions of a bundle (R193). -/
def courtActions (r : FieldRun) (slots : List (Nat × W64 × W64)) : FieldRun :=
  slots.foldl (fun r x => match bitsOf x.2.2 63 60 with
    | 1 => arset r (x.1 + r.shift) x.2.2
    | 2 => netxfer r x.1 x.2.2
    | _ => r) r

/-- The entry that row `i` performs for a court slot's word 0: index 0 is NOP whatever entry 0 holds (R182). -/
def entryAt (table : List Nat) (w : W64) (i : Nat) : Nat :=
  let k := bitsOf w (8 * i + 7) (8 * i)
  if k = 0 then 0 else table.getD k 0

/-! ### Streams that start off a 16-byte boundary (R115) -/

/-- A row's cycle as far as it needs no data. -/
def rowMoves (e : Nat) (firstOfBundle : Bool) (x : RowSt) : Bool × RowSt :=
  let (ok, y) := engineMoves e firstOfBundle x
  (ok, vectorMove e y)

/-- A row over the schedule cycles of a bundle: false where a stream starts off a 16-byte boundary. -/
def rowTrips : Nat → Nat → Bool → RowSt → Bool × RowSt
  | 0, _, _, x => (true, x)
  | n + 1, e, firstOfBundle, x =>
    match rowMoves e firstOfBundle x with
    | (false, y) => (false, y)
    | (true, y) => rowTrips n e false y

/-- The rows of the placed courts over a bundle. -/
def bundleMoves (r : FieldRun) (tableOf : Nat → List Nat) (b : Bundle) : Bool × FieldRun :=
  if b.trips = 0 then (true, r)
  else
    (r.logical.map (fun l => tabulate 8 (fun i => (l, i)))).flatten.foldl (fun (a : Bool × FieldRun) li =>
      let n := li.1 + r.shift
      let e := match b.slots.find? (fun x => x.1 = li.1) with
        | none => 0
        | some x => entryAt (tableOf li.1) x.2.1 li.2
      let (ok, y) := rowTrips b.trips e true (a.2.row n li.2)
      (a.1 && ok, { a.2 with rows := SMap.set {} a.2.rows (n * 8 + li.2) y })) (true, courtActions r b.slots)

/-- Whether every stream that the bundles of a playbook start lies on a 16-byte boundary, as far as they decode (R115). `fuel` bounds
the bundles. -/
def bundlesAligned : Nat → FieldRun → (Nat → List Nat) → List W64 → Bool
  | 0, _, _, _ => true
  | fuel + 1, r, tableOf, ws =>
    let h := wordAt ws 0
    let n := 1 + 2 * (((List.range 16).filter (natBit (bitsOf h 47 32))).length + bitsOf h 31 27)
    if ws.length < n then true
    else
      match decodeBundle r (ws.take n) with
      | .error _ => true
      | .ok b =>
        let (ok, r) := bundleMoves r tableOf b
        ok && (b.last || bundlesAligned fuel r tableOf (ws.drop n))

/-! ### The command begins (R180, R189, R223) -/

/-- A FIELD command does not run. -/
def fieldRefuse (s : State) (qi : Nat) (st : W16) : State := completeOn s qi st

/-- The time of 64 court-clock cycles has passed since the last field command of the partition (R691). -/
def fieldIdle (s : State) (f : FieldPart) : Bool :=
  match f.idleSince with
  | none => true
  | some t => decide (64000 ≤ (s.now - t) * s.fld F.pwrStatusArithMhz)

/-- The row-operation tables go into the playbook caches of the courts that the footprint is placed on (R180). -/
def loadTables (s : State) (r : FieldRun) (tableOf : Nat → List Nat) : State :=
  r.logical.foldl (fun s l =>
    let n := l + r.shift
    s.setCourt n { s.court n with cacheTable := tableOf l, cacheSlots := [] }) s

/-- The courts of a partition hold a command: BUSY and CTX_INDEX (R171), and the context that R160 remembers; their absolute-maximum
records are cleared (R100). -/
def occupyCourts (s : State) (courts : List Nat) (h : W32) : State :=
  courts.foldl (fun s n =>
    let s := s.setCourt n { s.court n with lastCtx := some h, amax := [] }
    (s.setFld F.fldCourtStatusBusy n 1).setFld F.fldCourtStatusCtxIndex n (hIndex h)) s

/-- The run starts: its courts, stagger, ramp, budget and overflow mode (R94, R148, R180, R223, R691). -/
def fieldGo (s : State) (qi p : Nat) (r : FieldRun) (allow : Nat) : State :=
  let f := s.field p
  let idle := fieldIdle s f
  let g := granted s
  let mhz := min 1250 (s.fld F.pwrStatusArithMhz)
  let r := { r with
    stagger := if idle then 32 * (r.courts.length - 1) else 0
    ramp := if idle then some (0, s.fld F.pwrKickCfgRampCycles) else none
    budgetFrac := g
    budgetMhz := mhz
    nonSat := decide (s.fld F.fldFmtDefaultOvfNan = 1) }
  let budget := fieldBudget r.decl allow (s.fld F.refBudgetMarginNs) g mhz
  let q := s.queue qi
  let s := s.setQueue qi { q with deadline := some (q.startTime + budget), replaySafe := r.replaySafe, read := r.params }
  markThrottled (occupyCourts (s.setField p { f with run := some r }) r.courts r.handle)

/-- A FIELD command begins: its file is read and checked and its footprint placed (R115, R140, R176, R189, R190, R211, R214, R226).
A bundle stream that cannot be read whole is not looked at before its bundles are decoded. `replay`: the parameter words of its first
start (R227). -/
def fieldBegin (s : State) (qi : Nat) (replay : Option (List W64)) : State :=
  let x := s.queue qi
  let p := queuePart s x
  let h := x.owner
  let courts := courtsIn x.units
  let s := beginCmd s qi none
  let ho := some (Holder.court (courts.getD 0 0))
  if courts.isEmpty then fieldRefuse s qi stInvalid
  else
    match ctxReadObj s ho h .fetch x.object 64 with
    | (.error e, s) => fieldRefuse s qi e
    | (.ok bs, s) =>
      let w := wordsOf bs
      let w0 := wordAt w 0
      let w1 := wordAt w 1
      if bitsOf w0 63 32 ≠ 0x5042464C ∨ bitsOf w0 31 16 ≠ 0x2048 ∨ bitsOf w0 15 8 ≠ 1 then fieldRefuse s qi stUnsupported
      else if headerInvalid w x.arg.toNat then fieldRefuse s qi stInvalid
      else
        let np := bitsOf w1 47 41
        let nr := bitsOf w1 40 34
        let nt := bitsOf w1 33 29
        let foot := bitsOf w1 63 48
        let rp : (Except W16 (List Byte)) × State := match replay with
          | some ps => (Except.ok ((ps.map (fun v => leBytes 8 v.toNat)).flatten), s)
          | none => ctxReadObj s ho h .load (bitsOf x.arg 63 16) (8 * np)
        match rp with
        | (.error e, s) => fieldRefuse s qi e
        | (.ok pb, s) =>
          match ctxReadObj s ho h .fetch (x.object + bitsOf (wordAt w 7) 63 32) (8 * np) with
          | (.error e, s) => fieldRefuse s qi e
          | (.ok bb, s) =>
            match ctxReadObj s ho h .fetch (x.object + bitsOf (wordAt w 4) 63 32) (8 * nr) with
            | (.error e, s) => fieldRefuse s qi e
            | (.ok rb, s) =>
              match ctxReadObj s ho h .fetch (x.object + bitsOf (wordAt w 4) 31 0) (3072 * nt) with
              | (.error e, s) => fieldRefuse s qi e
              | (.ok tb, s) =>
                let params := wordsOf pb
                let regions := wordsOf rb
                let tables := tablesOf tb nt
                let entries : List Nat := (tables.map (fun (t : List Nat) => t.drop 1)).flatten
                let place := placeFoot foot courts
                let held : Bool := replay.isNone && heldByWhistle s x (entries.any entryDefault) && !heldByWhistle s x false
                if held && !fieldUsesDefault s x then unstart s qi
                else
                if entries.any entryInvalid || paramsInvalid params (wordsOf bb) regions || place.isNone then
                  fieldRefuse s qi stInvalid
                else if entries.any entryUnsupported then fieldRefuse s qi stUnsupported
                else if natBit w1.toNat 0 && replayUnsafe params regions then fieldRefuse s qi stInvalid
                else
                  let r : FieldRun :=
                    { q := qi, handle := h, playbook := x.object, params := params, bounds := wordsOf bb, regions := regions,
                      foot := foot, courts := courts, shift := place.getD 0, bundleOff := bitsOf (wordAt w 5) 63 32,
                      bundleBytes := bitsOf (wordAt w 5) 31 0, decl := (wordAt w 2).toNat,
                      replaySafe := natBit w1.toNat 0 }
                  let tableOf (n : Nat) : List Nat := tables.getD (bitsOf (wordAt w 6) (4 * n + 3) (4 * n)) []
                  match ctxReadObj s ho h .fetch (x.object + r.bundleOff) r.bundleBytes with
                  | (.ok bw, s) =>
                    if bundlesAligned (r.bundleBytes / 8) r tableOf (wordsOf bw) then
                      fieldGo (loadTables s r tableOf) qi p r (bitsOf (wordAt w 3) 63 32)
                    else fieldRefuse s qi stInvalid
                  | (.error _, s) => fieldGo (loadTables s r tableOf) qi p r (bitsOf (wordAt w 3) 63 32)

/-- A field fault record (R770). -/
def fieldRecord (s : State) (r : FieldRun) (st : W16) (kind addr cycle court : Nat) : State :=
  faultRecord s (recordWords st kind r.handle s.now addr cycle 0 court 0 0)

/-- The run of a partition replaced. -/
def setRun (s : State) (p : Nat) (r : FieldRun) : State := s.setField p { s.field p with run := some r }

/-- The start or the end of a heavy phase reaches the power controller (R206, R689). -/
def heavySignal (s : State) (was is : Bool) (others : Bool) : State :=
  if is ∧ !was then railFollow { s.setFld F.pwrStatusHeavy 0 1 with heavyEnd := none }
  else if was ∧ !is ∧ !others then { s with heavyEnd := some s.now }
  else s

/-- Whether a partition other than `p` is in a heavy phase. -/
def otherHeavy (s : State) (p : Nat) : Bool :=
  s.fields.any (fun kv => decide (kv.1 ≠ p) && (match kv.2.run with
    | none => false
    | some r => r.heavy))

/-- The court slots of a decoded bundle are in the playbook caches of its courts, in place of the last ones there (R144). -/
def cacheSlots (s : State) (r : FieldRun) (b : Bundle) : State :=
  b.slots.foldl (fun s x =>
    let n := x.1 + r.shift
    s.setCourt n { s.court n with cacheSlots := [(r.pos, x.2)] }) s

/-- The sequencer decodes the next bundle of a run (R191, R204, R206). -/
def nextBundle (s : State) (p : Nat) (r : FieldRun) : State :=
  let ho := some (Holder.court (r.courts.getD 0 0))
  let fail (s : State) (st : W16) : State := setRun s p { r with failed := some st }
  let check (s : State) (court : Nat) : State := fail (fieldRecord s r stInvalid 0x1C 0 r.cycle court) stInvalid
  let at' := r.playbook + r.bundleOff + r.pos
  if r.bundleBytes < r.pos + 8 then check s (r.courts.getD 0 0)
  else
    match ctxReadObj s ho r.handle .fetch at' 8 with
    | (.error e, s) => fail s e
    | (.ok hb, s) =>
      let h := wordAt (wordsOf hb) 0
      let n := 8 + 16 * (((List.range 16).filter (natBit (bitsOf h 47 32))).length + bitsOf h 31 27)
      if r.bundleBytes < r.pos + n then check s (r.courts.getD 0 0)
      else
        match ctxReadObj s ho r.handle .fetch at' n with
        | (.error e, s) => fail s e
        | (.ok bs, s) =>
          match decodeBundle r (wordsOf bs) with
          | .error court => check s court
          | .ok b =>
            let s := heavySignal s r.heavy b.heavy (otherHeavy s p)
            setRun (cacheSlots s r b) p
              { r with pos := r.pos + n, bunPos := r.pos, bun := some b, left := b.trips, first := true, syncWait := b.sync,
                       toIssue := if b.trips = 0 then [] else b.dmas, tried := false, heavy := b.heavy }

/-! ### DMA (R132 to R139, R187, R188, R219, R221) -/

/-- Slots outstanding on a stream. -/
def streamLoad (r : FieldRun) (court stream : Nat) : Nat :=
  (r.dma.filter (fun d => decide (d.court = court ∧ d.stream = stream))).length

/-- The DMA slots of the bundle that find room on their streams issue in slot order; the others stay (R193, R221). -/
def issueDmas (r : FieldRun) : FieldRun :=
  r.toIssue.foldl (fun r d =>
    let court := bitsOf d.1 63 60 + r.shift
    let stream := bitsOf d.1 59 59
    let blocked := r.toIssue.any (fun x => decide (bitsOf x.1 63 60 + r.shift = court ∧ bitsOf x.1 59 59 = stream))
    if blocked || decide (8 ≤ streamLoad r court stream) then { r with toIssue := r.toIssue ++ [d] }
    else
      let c := bitsOf d.1 24 9
      { r with
        dma := r.dma ++ [{ id := r.nextId, court := court, stream := stream, w0 := d.1, w1 := d.2, issued := r.cycle,
                           consume := if c = 0 then none else some (r.cycle + c) }]
        nextId := r.nextId + 1 }) { r with toIssue := [] }

/-- Bytes per row of a transfer, and rows (R187). -/
def DmaSlot.rowBytes (d : DmaSlot) : Nat := 16 * (bitsOf d.w1 25 16 + 1)
def DmaSlot.rows (d : DmaSlot) : Nat := bitsOf d.w1 35 26 + 1
def DmaSlot.isStore (d : DmaSlot) : Bool := natBit d.w0.toNat 58

/-- The virtual address of byte `o` of a transfer (R188). -/
def DmaSlot.va (d : DmaSlot) (r : FieldRun) (o : Nat) : Nat :=
  regionBase r.params (wordAt r.regions (bitsOf d.w0 30 25)) +
    16 * (bitsOf d.w1 63 36 + o / d.rowBytes * bitsOf d.w1 15 0) + o % d.rowBytes

/-- The bytes of a transfer on the local side from byte `o`, within one row (R188). -/
def dmaLocal (s : State) (d : DmaSlot) (o n : Nat) : List Byte :=
  let c := s.court d.court
  let m := s.rd Reg.fldSpareMap d.court
  let l := 16 * bitsOf d.w0 48 31
  let row := bitsOf d.w0 55 53
  let j := o / d.rowBytes
  match bitsOf d.w0 57 56 with
  | 0 => c.bufBytes (l + o) n
  | 2 => c.padBytes m row (j % 16) (l + j / 16 * d.rowBytes + o % d.rowBytes) n
  | _ => c.padBytes m row (bitsOf d.w0 52 49) (l + o) n

/-- Bytes of a load land on the local side from byte `o`, within one row (R188). -/
def dmaPlace (s : State) (d : DmaSlot) (o : Nat) (bs : List Byte) : State :=
  let c := s.court d.court
  let m := s.rd Reg.fldSpareMap d.court
  let l := 16 * bitsOf d.w0 48 31
  let row := bitsOf d.w0 55 53
  let j := o / d.rowBytes
  s.setCourt d.court (match bitsOf d.w0 57 56 with
    | 0 => c.setBuf (l + o) bs
    | 1 => c.setPad m row (bitsOf d.w0 52 49) (l + o) bs
    | 2 => c.setPad m row (j % 16) (l + j / 16 * d.rowBytes + o % d.rowBytes) bs
    | _ => (List.range 16).foldl (fun c e => c.setPad m row e (l + o) bs) c)

/-- The pieces of a transfer: byte offset and length, within a row and within 1 KiB of memory. `fuel` bounds them. -/
def dmaPieces (d : DmaSlot) (r : FieldRun) : Nat → Nat → List (Nat × Nat)
  | 0, _ => []
  | fuel + 1, o =>
    if d.rows * d.rowBytes ≤ o then []
    else
      let k := min (1024 - d.va r o % 1024) (d.rowBytes - o % d.rowBytes)
      (o, k) :: dmaPieces d r fuel (o + k)

/-- A DMA slot ends its command (R137 to R139): its record is written and the slot is gone. -/
def dmaFailed (s : State) (p : Nat) (d : DmaSlot) (st : W16) (addr : Nat) : State :=
  match (s.field p).run with
  | none => s
  | some r =>
    let s := fieldRecord s r st (accessKind st) addr d.issued d.court
    setRun s p { r with failed := some (r.failed.getD st), dma := r.dma.filter (fun x => decide (x.id ≠ d.id)) }

/-- One piece of a load or store: the requests it leaves outstanding, or the status it fails with. -/
def dmaPiece (s : State) (p : Nat) (r : FieldRun) (d : DmaSlot) (o n : Nat) : (Except W16 Nat) × State :=
  let ho := some (Holder.court d.court)
  let pu := Purpose.court r.q p o d.id
  if d.isStore then
    match xlate s ho r.handle .store (d.va r o) with
    | (.error e, s) => (.error e, s)
    | (.ok (.mem a), s) =>
      let (ok, s) := memStore s a (dmaLocal s d o n)
      (if ok then .ok 0 else .error stDataError, s)
    | (.ok (.remote dev a), s) =>
      let (ok, s) := remoteWrite s dev a (dmaLocal s d o n) 0 pu
      (if ok then .ok 1 else .error stAccessFault, s)
    | (.ok (.host k off), s) =>
      if keyAllows s k r.handle off n then
        let e := s.key k
        (.ok 1, qpWrite (n + 1) s e.qp e.rkey (e.base + off) (dmaLocal s d o n) pu)
      else (.error stAccessFault, s)
  else
    match xlate s ho r.handle .load (d.va r o) with
    | (.error e, s) => (.error e, s)
    | (.ok (.mem a), s) =>
      match memLoad s a n with
      | (some bs, s) => (.ok 0, dmaPlace s d o bs)
      | (none, s) => (.error stDataError, s)
    | (.ok (.remote dev a), s) =>
      let (ok, s) := remoteRead s dev a n 0 pu
      (if ok then .ok 1 else .error stAccessFault, s)
    | (.ok (.host ..), s) => (.error stAccessFault, s)

/-- The pieces of a slot, until one fails at its address. -/
def dmaRun (s : State) (p : Nat) (r : FieldRun) (d : DmaSlot) : List (Nat × Nat) → Nat → (Except (W16 × Nat) Nat) × State
  | [], k => (.ok k, s)
  | (o, n) :: rest, k =>
    match dmaPiece s p r d o n with
    | (.error e, s) => (.error (e, d.va r o), s)
    | (.ok j, s) => dmaRun s p r d rest (k + j)

/-- The first address of a store's footprint that has no valid translation or no write permission (R137). -/
def dmaStoreCheck (s : State) (r : FieldRun) (d : DmaSlot) : List (Nat × Nat) → (Option (W16 × Nat)) × State
  | [] => (none, s)
  | (o, _) :: rest =>
    match xlate s (some (Holder.court d.court)) r.handle .store (d.va r o) with
    | (.error e, s) => (some (e, d.va r o), s)
    | (.ok _, s) => dmaStoreCheck s r d rest

/-- Flits that have landed before the next schedule cycle are written (R127). -/
def landIn (s : State) (r : FieldRun) : State × FieldRun :=
  let due := (r.net.map (fun x => (x.air.filter (fun f => decide (f.1 < r.cycle))).map (fun f =>
    (f.1, x.dst, x.dstAddr + 64 * f.2.1, f.2.2)))).flatten
  (due.foldl (fun s f => s.setCourt f.2.1 ((s.court f.2.1).setBuf f.2.2.1 f.2.2.2)) s,
    { r with
      net := (r.net.map (fun x => { x with air := x.air.filter (fun f => decide (r.cycle ≤ f.1)) })).filter (fun x =>
        decide (x.read < x.flits) || !x.air.isEmpty) })

/-- The same in the run of a partition. -/
def landFlits (s : State) (p : Nat) : State :=
  match (s.field p).run with
  | none => s
  | some r =>
    let (s, r) := landIn s r
    setRun s p r

/-- The oldest slot of a stream moves its bytes; it completes at once unless answers from elsewhere are awaited (R134, R137). -/
def dmaComplete (s : State) (p court stream : Nat) : State :=
  let s := landFlits s p
  match (s.field p).run with
  | none => s
  | some r =>
    match r.dma.find? (fun d => decide (d.court = court ∧ d.stream = stream)) with
    | none => s
    | some d =>
      if d.sent then s
      else
        let ps := dmaPieces d r (d.rows * d.rowBytes) 0
        let (bad, s) := if d.isStore then dmaStoreCheck s r d ps else (none, s)
        match bad with
        | some (e, a) => dmaFailed s p d e a
        | none =>
          match dmaRun s p r d ps 0 with
          | (.error (e, a), s) => dmaFailed s p d e a
          | (.ok k, s) =>
            setRun s p { r with
              dma := if k = 0 then r.dma.filter (fun x => decide (x.id ≠ d.id))
                     else r.dma.map (fun x => if x.id = d.id then { x with sent := true, left := k } else x) }

/-- A request of a DMA slot is answered: a load's bytes land, and the last answer completes the slot (R136, R631). -/
def dmaAnswered (s : State) (p o id : Nat) (a : Except W16 (List Byte)) : State :=
  match (s.field p).run with
  | none => s
  | some r =>
    match r.dma.find? (fun d => d.id = id) with
    | none => s
    | some d =>
      match a with
      | .error e => dmaFailed s p d e (d.va r o)
      | .ok bs =>
        let s := if d.isStore then s else dmaPlace s d o bs
        setRun s p { r with
          dma := if d.left ≤ 1 then r.dma.filter (fun x => decide (x.id ≠ id))
                 else r.dma.map (fun x => if x.id = id then { x with left := x.left - 1 } else x) }

/-! ### Conflict cycles (R112, R114, R117, R131) -/

/-- How many accesses of a list, each the banks it uses, find a bank taken by an earlier one. -/
def waiters (accs : List (List Nat)) : Nat :=
  (accs.foldl (fun (st : Nat × List Nat) a =>
    if a.any st.2.contains then (st.1 + 1, st.2) else (st.1, st.2 ++ a)) (0, [])).1

/-- The scratchpad banks of `n` bytes from an address, in accesses of at most 8 units of 16 bytes, one for each bank (R110, R112). -/
def padAccs (a n : Nat) : List (List Nat) :=
  let k := if n = 0 then 0 else (a % 16 + n + 15) / 16
  tabulate ((k + 7) / 8) (fun j => tabulate (min 8 (k - 8 * j)) (fun i => (a / 16 + 8 * j + i) % 8))
/-- The court-buffer banks of `n` bytes from an address (R116). -/
def bufBanks (a n : Nat) : List Nat :=
  if n = 0 then [] else ((List.range ((a % 64 + n + 63) / 64)).map (fun i => (a / 64 + i) % 32)).eraseDups

/-- The reads of a row's cycle in the order of R114, a vector load last among them (log 97): the scratchpad banks of engine `i`, and the
court-buffer banks. -/
def rowReads (e : Nat) (x : RowSt) (i : Nat) : List (List Nat) × List (List Nat) :=
  let at' (a : Nat) : Nat := x.ars.getD a 0
  let mma := eMma e
  let g : Seg := { acc := 0, fa := eFmtA e, fb := eFmtB e, fresh := false, cyc := match x.seg with
    | none => 0
    | some g => g.cyc % blockCycles g.fa g.fb }
  let pads (c : Bool) (l : List (List Nat)) : List (List Nat) := if c then l else []
  let one (c : Bool) (l : List Nat) : List (List Nat) := if c && !l.isEmpty then [l] else []
  let start : Bool := g.cyc = 0
  let drive := if mma then g.takeB else 16
  let mine : Bool := eBuseng e = i
  let sy : Bool := mma && start && fmtScaled g.fb
  let pad := pads mma (padAccs (at' (eXr e)) g.takeA) ++ pads (mma && !eYbus e) (padAccs (at' (eYr e)) g.takeB) ++
    pads (mma && start && fmtScaled g.fa) (padAccs (at' (eSxr e)) 16) ++
    pads (sy && (!eYbus e || (decide (eBus e = 2) && mine))) (padAccs (at' (eSyr e)) 16) ++
    pads (eEop e = 3) (padAccs (at' (eCr e)) 128) ++ pads (decide (eBus e = 2) && mine) (padAccs (at' (eBr e)) drive) ++
    pads (decide (eVop e = 16 ∨ eVop e = 19) && eVsp e && decide (eVeng e = i))
      (padAccs (at' (eVr e)) (if eVop e = 16 then 256 else 8))
  let buf := one (sy && eYbus e && decide (eBus e = 1)) (bufBanks (at' (eSyr e)) 16) ++
    one (eBus e = 1) (bufBanks (at' (eBr e)) drive) ++
    one (decide (eVop e = 16 ∨ eVop e = 19) && !eVsp e) (bufBanks (at' (eVr e)) (if eVop e = 16 then 256 else 8))
  (pad, buf)

/-- The conflict cycles of one court's rows in a cycle: `es` gives each row's entry and state. At a court-buffer bank the rows are served
in rising order, each row's reads together, and the reads of transfers' flits after them, which count as issued by the playbook
(log 97). -/
def courtConflicts (es : List (Nat × RowSt)) (flits : List (List Nat)) : Nat :=
  (es.map (fun er => ((List.range 16).map (fun i => waiters (rowReads er.1 er.2 i).1)).foldl (· + ·) 0)).foldl (· + ·) 0 +
    waiters ((es.map (fun er => (rowReads er.1 er.2 16).2)).flatten ++ flits)

/-- The conflict cycles of a court's stores in cycle `t` (R114, R117): a store takes its court-buffer banks at once, and a
scratchpad's in one cycle for each 128 bytes, the last when it lands (R125). -/
def storeConflicts (late : List (Nat × Late)) (n t : Nat) : Nat :=
  let bufs := late.filterMap (fun d => match d.2 with
    | .buf c a bs => if c = n ∧ d.1 = t + 1 then some (bufBanks a bs.length) else none
    | _ => none)
  let pads := late.filterMap (fun d => match d.2 with
    | .pad c r e a bs =>
      if c ≠ n then none
      else if d.1 = t + 2 ∧ 128 < bs.length then some (r * 16 + e, padAccs a 128)
      else if d.1 = t + 1 then
        let k := if 128 < bs.length then 128 else 0
        some (r * 16 + e, padAccs (a + k) (bs.length - k))
      else none
    | _ => none)
  waiters bufs + ((pads.map (·.1)).eraseDups.map (fun k =>
    waiters ((pads.filter (fun x => x.1 = k)).map (·.2)).flatten)).foldl (· + ·) 0

/-- The conflict cycles on the links of the field network in cycle `t`: each link carries one flit a cycle, and a flit reaches
its i-th link 4i cycles after it is read (R126, R131). -/
def linkConflicts (net : List NetXfer) (t : Nat) : Nat :=
  let uses := (net.map (fun x => (x.links.zipIdx.filter (fun li =>
    decide (x.issued + 4 * li.2 ≤ t ∧ t < x.issued + 4 * li.2 + x.flits))).map (fun li => li.1.1 * 16 + li.1.2))).flatten
  waiters (uses.map (fun u => [u]))

/-! ### A schedule cycle (R192 to R202) -/

/-- The entry that row `i` of logical court `l` performs: what the court's playbook cache holds for the bundle, or NOP (R182, R195). -/
def rowEntry (s : State) (r : FieldRun) (l i : Nat) : Nat :=
  let c := s.court (l + r.shift)
  match c.cacheSlots.find? (fun x => x.1 = r.bunPos) with
  | none => 0
  | some x => entryAt c.cacheTable x.2.1 i

/-- One row's cycle: its engine and vector operations. -/
def rowCycle (s : State) (r : FieldRun) (l i : Nat) : Bool × State × FieldRun :=
  let n := l + r.shift
  let m := s.rd Reg.fldSpareMap n
  let e := rowEntry s r l i
  let x := r.row n i
  let c := s.court n
  let (ok, x1, l1) := engineCycle c m n i r.cycle e r.first x
  let (c', x2, l2) := vectorCycle c m n i r.cycle e r.nonSat x1
  (ok, (if l2.isEmpty && decide (c' = c) then s else s.setCourt n c'),
    { r with rows := SMap.set {} r.rows (n * 8 + i) x2, late := r.late ++ l1 ++ l2 })

/-- The results that are due by the next cycle take effect, in order. -/
def settleLate (s : State) (r : FieldRun) : State × FieldRun :=
  let due := r.late.filter (fun d => decide (d.1 ≤ r.cycle))
  let rest := r.late.filter (fun d => decide (r.cycle < d.1))
  due.foldl (fun (sr : State × FieldRun) d =>
    let n := d.2.court
    let (c, more) := applyLate (sr.1.court n) (sr.1.rd Reg.fldSpareMap n) d.1 d.2
    (sr.1.setCourt n c, { sr.2 with late := (sr.2.late ++ more).map (fun x => (x.1, d.2.after x.2)) })) (s, { r with late := rest })

/-- The flits of this cycle are read from their source court buffers (R127). -/
def readFlits (s : State) (r : FieldRun) : FieldRun :=
  { r with net := r.net.map (fun x =>
      if x.read < x.flits ∧ r.cycle = x.issued + x.read then
        { x with
          read := x.read + 1
          air := x.air ++ [(r.cycle + 4 * x.hops + 4, x.read, (s.court x.src).bufBytes (x.srcAddr + 64 * x.read) 64)] }
      else x) }

/-- `n` court-clock cycles of a partition pass for its command (R544, R690). -/
def countCycles (s : State) (p : Nat) (r : FieldRun) (n : Nat) : State :=
  let c := s.ctx (hIndex r.handle)
  let s := s.setCtx (hIndex r.handle) { c with courtCycles := c.courtCycles + n * r.courts.length }
  if (s.field p).stretched then s.bump F.fldPartStallStretchCycles p n else s

/-- Conflict cycles of a partition: stall cycles of their own, in which its command still runs (R114, R151, R544). -/
def conflictCycles (s : State) (p : Nat) (r : FieldRun) (n : Nat) : State :=
  (countCycles s p r n).bump F.fldPartStallConflictCycles p n

/-- The fraction of issue in 1/64 in a cycle of the ramp (R691). -/
def rampFraction (g : Nat) : Option (Nat × Nat) → Nat
  | none => g
  | some (k, l) => if g ≤ 4 then g else min g (4 + (g - 4) * k / l)

/-- The ramp after one more cycle. -/
def rampNext : Option (Nat × Nat) → Option (Nat × Nat)
  | none => none
  | some (k, l) => if k + 1 < l then some (k + 1, l) else none

/-- `n` court-clock cycles pass for the throttle pattern and the ramp (R691, R692). -/
def FieldRun.pass (r : FieldRun) (n : Nat) : FieldRun :=
  { r with clk := r.clk + n, ramp := (List.range n).foldl (fun x _ => rampNext x) r.ramp }

/-- The partition performs one schedule cycle of its bundle. -/
def scheduleCycle (s : State) (p : Nat) (r : FieldRun) : State :=
  let r := if r.first then courtActions r ((r.bun.map (·.slots)).getD []) else r
  let conf := (r.logical.map (fun l =>
      let n := l + r.shift
      courtConflicts (tabulate 8 (fun i => (rowEntry s r l i, r.row n i)))
        ((r.net.filter (fun x => decide (x.src = n ∧ r.cycle = x.issued + x.read))).map (fun x =>
          bufBanks (x.srcAddr + 64 * x.read) 64)) + storeConflicts r.late n r.cycle)).foldl (· + ·) 0 + linkConflicts r.net r.cycle
  let r := readFlits s r
  let (ok, s, r) := (r.logical.map (fun l => tabulate 8 (fun i => (l, i)))).flatten.foldl
    (fun (a : Bool × State × FieldRun) li =>
      let (ok, s, r) := rowCycle a.2.1 a.2.2 li.1 li.2
      (a.1 && ok, s, r)) (true, s, r)
  if !ok then setRun (fieldRecord s r stInvalid 0x1C 0 r.cycle (r.courts.getD 0 0)) p { r with failed := some stInvalid }
  else
    let s := if conf = 0 then s else conflictCycles s p r conf
    let r := { r.pass conf with cycle := r.cycle + 1, left := r.left - 1, first := false, spent := r.spent + 1 + conf }
    let (s, r) := settleLate s r
    setRun s p r

/-- Whether issue takes place in cycle `i` of a group of 64 at a fraction (R692). -/
def issues (m i : Nat) : Bool := decide (i * m / 64 < (i + 1) * m / 64)

/-- A DMA slot that is incomplete at its consume point (R219, R220). -/
def consumeLate (r : FieldRun) : Bool :=
  r.dma.any (fun d => match d.consume with
    | none => false
    | some k => decide (k ≤ r.cycle) && !(d.isStore && d.sent))

/-- A SYNC bundle whose earlier DMA slots have all completed waits no more: the stagger and the ramp follow (R203, R691). -/
def FieldRun.synced (s : State) (r : FieldRun) : FieldRun :=
  if r.syncWait && r.dma.isEmpty then
    { r with syncWait := false, stagger := 32 * (r.courts.length - 1), ramp := some (0, s.fld F.pwrKickCfgRampCycles) }
  else r

/-- A bundle whose last schedule cycle has passed is over. -/
def FieldRun.overBundle (r : FieldRun) (b : Bundle) : FieldRun := { r with bun := none, ended := r.ended || b.last }

/-- Whether something is late: a slot at its consume point, or room on a stream for a slot that the bundle has tried to issue (R220,
R221). -/
def FieldRun.lateData (r : FieldRun) : Bool := consumeLate r || (r.tried && !r.toIssue.isEmpty)

/-- The partition's next schedule cycle, once what has landed is in place. -/
def cycleNow (s : State) (p : Nat) (r : FieldRun) (b : Bundle) : State :=
  let s := landFlits (setRun s p r) p
  match (s.field p).run with
  | none => s
  | some r =>
    let s := scheduleCycle s p r
    match (s.field p).run with
    | none => s
    | some r => setRun s p (if r.left = 0 ∧ r.failed.isNone then r.overBundle b else r)

/-- One court-clock cycle of a partition with a bundle in progress: a late-data stall, whatever the throttle pattern says, a throttle
cycle, or the next schedule cycle (R143, R148, R151, R203, R220 to R222). -/
def bundleCycle (s : State) (p : Nat) (r : FieldRun) (b : Bundle) : State :=
  let late (s : State) (r : FieldRun) : State := setRun (s.bump F.fldPartStallLateCycles p) p (r.pass 1)
  if r.syncWait then setRun (s.bump F.fldPartStallLateCycles p) p { r with clk := r.clk + 1 }
  else if 0 < r.stagger then
    setRun (s.bump F.fldPartStallThrottleCycles p) p { r with clk := r.clk + 1, stagger := r.stagger - 1 }
  else
    let r := if r.tried then issueDmas r else r
    if r.lateData then late s r
    else if !issues (rampFraction (granted s) r.ramp) (r.clk % 64) then
      setRun (s.bump F.fldPartStallThrottleCycles p) p (r.pass 1)
    else
      let r := { issueDmas r with tried := true }
      if r.lateData then late s r else cycleNow s p (r.pass 1) b

/-- One court-clock cycle of a partition that runs a command; where the playbook caches do not hold the next slot, it is a late-data
stall (R144). A bundle of no schedule cycle takes no cycle (R194). -/
def courtClock (s : State) (p : Nat) : State :=
  match (s.field p).run with
  | none => s
  | some r =>
    if r.ended || r.failed.isSome || (s.queue r.q).stopReq.isSome then s
    else
      match r.bun with
      | none =>
        setRun ((countCycles s p r 1).bump F.fldPartStallLateCycles p) p { r with clk := r.clk + 1 }
      | some b =>
        let r := r.synced s
        if !r.syncWait && decide (r.left = 0) then setRun s p (r.overBundle b)
        else bundleCycle (countCycles s p r 1) p r b

/-- The sequencer decodes the next bundle where none is in progress, and the partition's next cycle follows. A playbook on another
device is read over the links, and the bundle waits for the answers (log 32). -/
def bundleClock (s : State) (p : Nat) : State :=
  match (s.field p).run with
  | none => s
  | some r =>
    if r.bun.isSome || r.ended || r.failed.isSome || (s.queue r.q).stopReq.isSome then s
    else withFar s r.q (fun s => courtClock (nextBundle s p r) p)

/-! ### The end (R204) -/

/-- After the last schedule cycle, what is on its way takes effect in its own cycles: results, and every flit of the transfers issued,
those not yet read among them (R109, R120, R127; log 98). `fuel` bounds the cycles. -/
def drainRun : Nat → State → FieldRun → State
  | 0, s, _ => s
  | fuel + 1, s, r =>
    if r.late.isEmpty && r.net.isEmpty then s
    else
      let (s, r) := landIn s r
      let r := readFlits s r
      let (s, r) := settleLate s { r with cycle := r.cycle + 1 }
      drainRun fuel s r

/-- The segments of a run end with the command (R199). -/
def closeRows (r : FieldRun) : FieldRun :=
  r.rows.foldl (fun r kv => match kv.2.seg with
    | none => r
    | some g => { r with late := r.late ++ blockLate g (kv.1 / 8) (kv.1 % 8) r.cycle true }) r

/-- The courts of a run hold no command any more: BUSY falls, their playbook caches are empty (R180), mode 1 scrubs them (R160), and a
court that a layout left stops. -/
def freeCourts (s : State) (courts : List Nat) : State :=
  courts.foldl (fun s n =>
    let s := (s.setCourt n { s.court n with cacheTable := [], cacheSlots := [] }).setFld F.fldCourtStatusBusy n 0
    let s := if s.fld F.fldScrubCfgMode = 1 then courtScrubDue s n else s
    courtSettle s n) s

/-- The run of a partition is over, and with it a heavy phase that no bundle followed (R206; log 99). -/
def dropRun (s : State) (p : Nat) (r : FieldRun) : State :=
  let s := heavySignal s r.heavy false (otherHeavy s p)
  let s := s.setField p { s.field p with run := none, idleSince := some s.now }
  freeCourts s r.courts

/-- The END bundle's last cycle has passed, or the command failed or was stopped, and its DMA has completed: the command
completes (R191, R204, R743). -/
def fieldEnd (s : State) (p : Nat) : State :=
  match (s.field p).run with
  | none => s
  | some r =>
    let stop := (s.queue r.q).stopReq
    if (r.ended || r.failed.isSome || stop.isSome) && r.dma.isEmpty then
      let s := drainRun (r.net.foldl (fun n x => max n (x.flits + 4 * x.hops + 8)) 64) s (closeRows r)
      let s := dropRun s p r
      completeOn s r.q (r.failed.getD (stop.getD stOk))
    else s

end Sys2Proof.Machine
end

