-- ==== Sys2Proof/Machine/Merge.lean ====
section
/-! DEFINITION. The merging buffers of the shader cores (spec/09 R452, R453). -/

namespace Sys2Proof.Machine

/-- Bytes of one line are written, at offsets within it: as `storeLine` does for a write that need not be one run. -/
def storeMask (s : State) (line : Nat) (bs : List (Nat × Byte)) : Bool × State :=
  let put (s : State) : State := bs.foldl (fun s b => s.setByte (line * 128 + b.1) b.2) s
  if s.flawed line then
    match lineWritten s line bs.length with
    | none => (false, logUe s line (ueSource s line) false)
    | some t => (true, put t)
  else (true, put s)

/-- An entry drains as one write of its bytes; a line that refuses it fails the commands that wrote to it (R431, R453). -/
def drainEntry (s : State) (e : MergeEntry) : State :=
  let s := { s with merge := s.merge.filter (fun x => decide (¬ (x.core = e.core ∧ x.line = e.line))) }
  let (ok, s) := storeMask s e.line e.bytes
  if ok then s else e.queues.foldl (fun s q => accessFailed s q stDataError) s

/-- The entries that satisfy a test drain, oldest first. -/
def drainIf (s : State) (p : MergeEntry → Bool) : State := (s.merge.filter p).foldl drainEntry s

/-- Every entry of a core drains (R452). -/
def drainCore (s : State) (core : Nat) : State := drainIf s (fun e => decide (e.core = core))

/-- The entry of a core for a line drains, before a load or an atomic (R452). -/
def drainLine (s : State) (core line : Nat) : State := drainIf s (fun e => decide (e.core = core ∧ e.line = line))

/-- Every entry of a completing command's cores drains, and every one that it wrote to (R452, R280). -/
def drainQueue (s : State) (q : Nat) (cores : List Nat) : State :=
  drainIf s (fun e => e.queues.contains q || cores.contains e.core)

/-- A byte of an entry, a later store replacing an earlier one. -/
def putMasked (bs : List (Nat × Byte)) (b : Nat × Byte) : List (Nat × Byte) := bs.filter (fun x => x.1 ≠ b.1) ++ [b]

/-- A store of a core's command within one line (R452). -/
def mergeStore (s : State) (core q a : Nat) (data : List Byte) : State :=
  let line := a / 128
  let new := data.zipIdx.map (fun bi => (a % 128 + bi.2, bi.1))
  if s.merge.any (fun e => decide (e.core = core ∧ e.line = line)) then
    { s with merge := s.merge.map (fun e =>
        if e.core = core ∧ e.line = line then
          { e with
            bytes := new.foldl putMasked e.bytes
            queues := if e.queues.contains q then e.queues else e.queues ++ [q] }
        else e) }
  else
    let mine := s.merge.filter (fun e => decide (e.core = core))
    let s := match mine with
      | [] => s
      | e :: _ => if 32 ≤ mine.length then drainEntry s e else s
    { s with merge := s.merge ++ [{ core := core, line := line, bytes := new, since := s.now, queues := [q] }] }

/-- Whether an entry's first byte was written 1,024 shader-clock cycles ago (R452). -/
def mergeAged (s : State) (e : MergeEntry) : Bool := decide (1024000 ≤ (s.now - e.since) * s.fld F.pwrStatusArithMhz)

/-- A merging-buffer entry drains by age; the other events of R452 drain entries where they happen. -/
def execMergeDrain (core : CoreRef) (line : BitVec 33) (s : State) : Out :=
  .next (drainIf s (fun e => decide (e.core = 17 * core.quarter.val + core.core.val ∧ e.line = line.toNat) && mergeAged s e))

end Sys2Proof.Machine
end

