-- ==== Sys2Proof/Machine/ShaderAlu.lean ====
section
/-! DEFINITION. What one lane computes: the arithmetic of the shader cores (spec/06 R257, R266 to R269, R282 to R284). -/

namespace Sys2Proof.Machine

/-- A result: a register value, or a predicate. -/
abbrev AluOut := W32 ⊕ Bool

/-- The absolute value and the negation of MOD (R257), by kind of value. -/
def modInt (neg abs : Bool) (x : W32) : W32 :=
  let x := if abs && x.msb then -x else x
  if neg then -x else x
def modFp32 (neg abs : Bool) (x : W32) : W32 :=
  let x := if abs then x &&& 0x7FFFFFFF#32 else x
  if neg then x ^^^ 0x80000000#32 else x
def modFp16x2 (neg abs : Bool) (x : W32) : W32 :=
  let x := if abs then x &&& 0x7FFF7FFF#32 else x
  if neg then x ^^^ 0x80008000#32 else x

/-- MOD of a conversion's source (R257, R269): by the sign bit of its format, or as an integer of its width. -/
def modCvt (src : CvtTy) (neg abs : Bool) (x : W32) : W32 :=
  match src with
  | .fmt c =>
    match Fmt.ofCode c with
    | some .int8 => (modInt neg abs ((x.setWidth 8).signExtend 32)).setWidth 8 |>.setWidth 32
    | some f =>
      let sign : W32 := BitVec.ofNat 32 (f.signBit true)
      let x := if abs then x &&& ~~~sign else x
      if neg then x ^^^ sign else x
    | none => x
  | _ => modInt neg abs x

/-- A comparison from less-than and equality, and what an unordered pair gives: true for NE alone. -/
def cmpOf (c : CmpFn) (lt eq gt : Bool) : Bool :=
  match c with
  | .lt => lt
  | .le => lt || eq
  | .eq => eq
  | .ne => !eq
  | .gt => gt
  | .ge => gt || eq

/-- The INT class (R268): results wrap modulo 2^32. The result of a shift by 32 or more is not stated (log 23). -/
def intAlu (f : IntFn) (a b c : W32) : Option AluOut :=
  match f with
  | .add => some (.inl (a + b))
  | .sub => some (.inl (a - b))
  | .mul => some (.inl (a * b))
  | .mulHi true => some (.inl (BitVec.ofNat 32 (toBits 64 (a.toInt * b.toInt) / 2 ^ 32)))
  | .mulHi false => some (.inl (BitVec.ofNat 32 (a.toNat * b.toNat / 2 ^ 32)))
  | .mad => some (.inl (a * b + c))
  | .and => some (.inl (a &&& b))
  | .or => some (.inl (a ||| b))
  | .xor => some (.inl (a ^^^ b))
  | .not => some (.inl (~~~a))
  | .shl => some (.inl (if b.toNat < 32 then a <<< b.toNat else Config.unstated 0 [a, b]))
  | .shr => some (.inl (if b.toNat < 32 then a >>> b.toNat else Config.unstated 1 [a, b]))
  | .sar => some (.inl (if b.toNat < 32 then a.sshiftRight b.toNat else Config.unstated 2 [a, b]))
  | .min true => some (.inl (if a.slt b then a else b))
  | .min false => some (.inl (if a.ult b then a else b))
  | .max true => some (.inl (if a.slt b then b else a))
  | .max false => some (.inl (if a.ult b then b else a))
  | .cmp c true => some (.inr (cmpOf c (a.slt b) (decide (a = b)) (b.slt a)))
  | .cmp c false => some (.inr (cmpOf c (a.ult b) (decide (a = b)) (b.ult a)))
  | .quot sg =>
    some (.inl (if b = 0 then 0xFFFFFFFF#32 else if sg then BitVec.ofInt 32 (a.toInt.tdiv b.toInt) else a / b))
  | .rem sg =>
    some (.inl (if b = 0 then a else if sg then BitVec.ofInt 32 (a.toInt.tmod b.toInt) else a % b))
  | .reserved => none

/-- The FP32 class (R266). -/
def fp32Alu (f : FpFn) (a b c : W32) : Option AluOut :=
  let x := Num.ofFp32 a
  let y := Num.ofFp32 b
  match f with
  | .add => some (.inl (fp32Add a b))
  | .mul => some (.inl (fp32Mul a b))
  | .fma => some (.inl (fp32Fma a b c))
  | .min => some (.inl (fp32Min a b))
  | .max => some (.inl (fp32Max a b))
  | .cmp k _ => some (.inr (cmpOf k (x.ltIeee y) (x.eqIeee y) (y.ltIeee x)))
  | .reserved => none

/-- The halves of a register (R266): the low one first. -/
def half (hi : Bool) (x : W32) : W16 := if hi then BitVec.ofNat 16 (x.toNat / 2 ^ 16) else BitVec.ofNat 16 x.toNat

/-- Both halves joined. -/
def joinHalves (lo hi : W16) : W32 := BitVec.ofNat 32 (hi.toNat * 2 ^ 16 + lo.toNat)

/-- The FP16X2 class (R266). -/
def fp16Alu (f : FpFn) (a b c : W32) : Option AluOut :=
  let both (g : W16 → W16 → W16) : Option AluOut :=
    some (.inl (joinHalves (g (half false a) (half false b)) (g (half true a) (half true b))))
  match f with
  | .add => both fp16Add
  | .mul => both fp16Mul
  | .fma => some (.inl (joinHalves (fp16Fma (half false a) (half false b) (half false c))
      (fp16Fma (half true a) (half true b) (half true c))))
  | .min => both fp16Min
  | .max => both fp16Max
  | .cmp k hi =>
    let x := Num.ofFp16 (half hi a)
    let y := Num.ofFp16 (half hi b)
    some (.inr (cmpOf k (x.ltIeee y) (x.eqIeee y) (y.ltIeee x)))
  | .reserved => none

/-- The value that a conversion's source holds; a narrow element lies in the low bits of its register (R269). -/
def cvtSource (t : CvtTy) (x : W32) : Option Num :=
  match t with
  | .fmt c => (Fmt.ofCode c).map (fun f => Num.decode f x.toNat)
  | .i32 => some (Num.ofInt x.toInt)
  | .u32 => some (Num.ofInt x.toNat)

/-- A conversion (R90, R91, R269): an integer target saturates, and a NaN converts to 0. -/
def cvt (src dst : CvtTy) (nonSat : Bool) (x : W32) : Option W32 :=
  match cvtSource src x with
  | none => none
  | some v =>
    match dst with
    | .fmt c => (Fmt.ofCode c).map (fun f => BitVec.ofNat 32 (v.convert f nonSat).bits)
    | .i32 => some (BitVec.ofInt 32 (v.toIntClamp (-2147483648) 2147483647))
    | .u32 => some (BitVec.ofInt 32 (v.toIntClamp 0 4294967295))

/-- The SFU class (R267). -/
def sfu (f : SfuFn) (x : W32) : Option W32 :=
  match f with
  | .rcp => some (special .rcp x)
  | .rsqrt => some (special .rsqrt x)
  | .sqrt => some (special .sqrt x)
  | .exp2 => some (special .exp2 x)
  | .log2 => some (special .log2 x)
  | .sin => some (special .sin x)
  | .cos => some (special .cos x)
  | .reserved => none

/-- Predicate logic. -/
def predAlu (f : PredFn) (a b : Bool) : Bool :=
  match f with
  | .and => a && b
  | .or => a || b
  | .xor => a ^^ b
  | .andNot => a && !b

/-- A reduction's step (R255). -/
def redStep (f : RedFn) (a b : W32) : W32 :=
  match f with
  | .fadd => fp32Add a b
  | .fmin => fp32Min a b
  | .fmax => fp32Max a b
  | .iadd => a + b
  | .imin true => if b.slt a then b else a
  | .imin false => if b.ult a then b else a
  | .imax true => if a.slt b then b else a
  | .imax false => if a.ult b then b else a
  | .and => a &&& b
  | .or => a ||| b
  | .xor => a ^^^ b

/-- Whether a reduction is of FP32 values. -/
def redFp : RedFn → Bool
  | .fadd | .fmin | .fmax => true
  | _ => false

/-- A reduction over lanes in order; an FP32 value is read as any operation reads it (R66, R72, R255). -/
def reduceLanes (f : RedFn) : List W32 → W32
  | [] => 0
  | x :: xs => xs.foldl (redStep f) (if redFp f then fp32Read x else x)

/-- The operation code of an atomic (R620). -/
def atomCode : AtomFn → Nat
  | .add => 0
  | .min true => 1
  | .max true => 2
  | .min false => 3
  | .max false => 4
  | .and => 5
  | .or => 6
  | .xor => 7
  | .fadd => 8
  | .exch => 9
  | .cas => 10

/-- What the lanes at one address receive and what memory becomes, for a commutative atomic: one atomic of the total, each lane
the prior value combined with the lanes below it (R283). The lanes come in ascending order. -/
def combined (op w old : Nat) (xs : List Nat) : Nat × List Nat :=
  let f (a b : Nat) : Nat := (atomicFn op w a b 0).getD a
  let r := xs.foldl (fun (acc : Option Nat × List Nat) x =>
    match acc.1 with
    | none => (some x, acc.2 ++ [old])
    | some p => (some (f p x), acc.2 ++ [f old p])) (none, [])
  (match r.1 with
    | none => old
    | some t => f old t, r.2)

/-- The same for exchange and compare-and-swap: separate atomics in lane order (R284). Each lane gives its operand and its
compare value. -/
def inTurn (op w old : Nat) (xs : List (Nat × Nat)) : Nat × List Nat :=
  xs.foldl (fun (acc : Nat × List Nat) x => ((atomicFn op w acc.1 x.1 x.2).getD acc.1, acc.2 ++ [acc.1])) (old, [])

/-- Whether the lanes of an atomic are combined (R283). -/
def atomCombines : AtomFn → Bool
  | .exch | .cas => false
  | _ => true

end Sys2Proof.Machine
end

