-- ==== Sys2Proof/Machine/Shader.lean ====
section
/-! DEFINITION. Thread groups: their registers, which instruction issues, where threads go, waits and faults (spec/06 R246 to
R265, R287, R308 to R310). -/

namespace Sys2Proof.Machine

/-! ### Keys and registers -/

/-- The key of a block, and of a group. -/
def bKey (q block : Nat) : Nat := q * 2 ^ 32 + block
def gKey (q block g : Nat) : Nat := bKey q block * 32 + g

/-- The key of the group that a command names. -/
def groupKey (g : GroupRef) : Nat := gKey g.q.val g.block.toNat g.group.val

/-- The block, and the number within it, of a group's key. -/
def blockOf (gk : Nat) : Nat := gk / 32 % 2 ^ 32
def groupOf (gk : Nat) : Nat := gk % 32

/-- The key of a physical core. -/
def coreKey (c : CoreRef) : Nat := 17 * c.quarter.val + c.core.val

/-- General registers (R244): register `r` of lane `l`. -/
def Group.reg (g : Group) (l r : Nat) : W32 := SMap.get 0 g.regs (l * 256 + r)
def Group.setReg (g : Group) (l r : Nat) (v : W32) : Group := { g with regs := SMap.set 0 g.regs (l * 256 + r) v }

/-- `n` bytes of registers from `r`, and their writing (R271). -/
def Group.regBytes (g : Group) (l r n : Nat) : List Byte :=
  ((tabulate ((n + 3) / 4) (fun i => leBytes 4 (g.reg l (r + i)).toNat)).flatten).take n

/-- The bytes of a load in registers: one below 4 bytes is extended as the operation says. -/
def Group.setRegBytes (g : Group) (l r : Nat) (signed? : Bool) (bs : List Byte) : Group :=
  if bs.length < 4 then
    let v := leNat bs
    g.setReg l r (if signed? then BitVec.ofNat 32 (toBits 32 (signed (8 * bs.length) v)) else BitVec.ofNat 32 v)
  else
    (List.range (bs.length / 4)).foldl (fun (g : Group) i =>
      g.setReg l (r + i) (BitVec.ofNat 32 (leNat ((bs.drop (4 * i)).take 4)))) g

/-- The register pair from `r` as a number. -/
def Group.pair (g : Group) (l r : Nat) : Nat := (g.reg l (r + 1)).toNat * 2 ^ 32 + (g.reg l r).toNat

/-- A predicate; p7 reads true and is not written (R260). -/
def Thread.pred (t : Thread) (p : Nat) : Bool := decide (p = 7) || natBit t.preds p
def Thread.setPred (t : Thread) (p : Nat) (b : Bool) : Thread :=
  if p = 7 then t
  else { t with preds := t.preds - (if natBit t.preds p then 2 ^ p else 0) + (if b then 2 ^ p else 0) }

/-- The thread at a lane, and a change to it. -/
def Group.thread (g : Group) (l : Nat) : Thread := g.threads.getD l { exited := true }
def Group.mapThread (g : Group) (l : Nat) (f : Thread → Thread) : Group :=
  { g with threads := g.threads.mapIdx (fun i t => if i = l then f t else t) }
def Group.mapLanes (g : Group) (ls : List Nat) (f : Thread → Thread) : Group := ls.foldl (fun g l => g.mapThread l f) g

/-- The lanes that have not exited. -/
def Group.live (g : Group) : List Nat := (List.range g.threads.length).filter (fun l => !(g.thread l).exited)

/-- Whether a thread is ready, as far as it is known before its instruction is looked at (R246, R251, R296). -/
def Group.isReady (g : Group) (l : Nat) : Bool :=
  let t := g.thread l
  !t.exited && t.hold.isNone && (match t.wait with
    | .ready => true
    | .tokens m => decide (g.tokens &&& m = 0)
    | _ => false)

/-- The ready lanes, in ascending order. -/
def Group.ready (g : Group) : List Nat := (List.range g.threads.length).filter g.isReady

/-- The mask of lanes. -/
def laneMask (ls : List Nat) : Nat := ls.foldl (fun m l => m ||| 2 ^ l) 0

/-! ### Which instruction issues (R248, R249) -/

/-- The ready lanes at an address. -/
def Group.at' (g : Group) (pc : Nat) : List Nat := g.ready.filter (fun l => decide ((g.thread l).pc = pc))

/-- The addresses of the ready threads, in the order of their lowest lane. -/
def Group.addrs (g : Group) : List Nat :=
  g.ready.foldl (fun (ps : List Nat) l => let pc := (g.thread l).pc
    if ps.contains pc then ps else ps ++ [pc]) []

/-- How many issues of the group the subset at an address has waited. -/
def Group.waited (g : Group) (pc : Nat) : Nat := (g.at' pc).foldl (fun m l => max m (g.issues - (g.thread l).since)) 0

/-- The first entry of a list with the largest key. -/
def firstMax (f : Nat → Nat) (l : List Nat) : Option Nat :=
  l.foldl (fun (acc : Option Nat) x => match acc with
    | none => some x
    | some y => if f y < f x then some x else some y) none

/-- The address that issues: a subset that has waited 64 issues, the longest first; else the largest subset; ties go to the
lowest lane (R248, R249). -/
def Group.pick (g : Group) : Option Nat :=
  match firstMax g.waited (g.addrs.filter (fun pc => decide (64 ≤ g.waited pc))) with
  | some pc => some pc
  | none => firstMax (fun pc => (g.at' pc).length) g.addrs

/-! ### Faults (R308 to R310) -/

/-- The status of a fault KIND (R308). -/
def kindStatus (k : Nat) : W16 :=
  if k = 0x01 then stXlateFault
  else if k = 0x0A then stDataError
  else if k = 0x09 ∨ k = 0x14 then stUnsupported
  else if k = 0x0B ∨ k = 0x0C then stBarrierStall
  else if k = 0x06 ∨ k = 0x07 ∨ k = 0x08 ∨ k = 0x13 then stInvalid
  else stAccessFault

/-- The place fields of word 4 of a record (R310). -/
def placeOf (core g : Nat) : Nat := g * 2 ^ 27 + core / 17 * 2 ^ 25 + core % 17 * 2 ^ 20 + g % 2 * 2 ^ 18

/-- The issue unit that a group runs on (R242; a render pass's groups take them in turn, log 34). -/
def unitOf (gk : Nat) (g : Group) : Nat := if g.gfx.isSome then blockOf gk % 2 else groupOf gk % 2

/-- Quarter, physical core, issue unit and group slot as one number (R309). -/
def faultOrder (gk : Nat) (g : Group) : Nat := 64 * g.core + 32 * unitOf gk g + g.slot

/-- The first record of a command stands, and of those of one moment that of the lowest place; the others are counted with it
(R309). -/
def addFault (old : Option FaultRec) (r : FaultRec) : FaultRec :=
  match old with
  | none => r
  | some f =>
    if r.time = f.time ∧ r.order < f.order then { r with suppressed := f.suppressed + 1 }
    else { f with suppressed := f.suppressed + 1 }

/-- The fault recorded for the shader or raster command of a queue. -/
def faultOf (s : State) (q : Nat) : Option FaultRec :=
  match s.launch q with
  | some l => l.fault
  | none => s.passes.findSome? (fun kv => kv.2.bind (fun (p : Pass) => if p.q = q then p.fault else none))

/-- A fault of the shader or raster command of queue `q`: noted, and the command stops with the status of what is recorded. -/
def cmdFault (s : State) (q : Nat) (r : FaultRec) : State :=
  let old := faultOf s q
  let f := addFault old r
  let s := match s.launch q with
    | some l => s.setLaunch q (some { l with fault := some f })
    | none => { s with passes := s.passes.map (fun (k, p) => (k, p.map (fun (p : Pass) =>
        if p.q = q then { p with fault := some f } else p))) }
  match old with
  | none => requestStop s q f.status
  | some o =>
    let x := s.queue q
    if x.stopReq = some o.status then s.setQueue q { x with stopReq := some f.status } else requestStop s q f.status

/-- A fault of a group's instruction at `pc` (R308). -/
def shaderFault (s : State) (gk kind pc addr lanes : Nat) : State :=
  match s.group gk with
  | none => s
  | some g =>
    cmdFault ((s.setGroup gk (some { g with faulted := true })).bump F.shaFaultCountFaults (g.core / 17)) g.q
      { status := kindStatus kind, kind := kind, time := s.now, addr := addr, pc := pc, lanes := lanes,
        block := blockOf gk, place := placeOf g.core (groupOf gk), order := faultOrder gk g }

/-- The record of a command's first fault is written before its completion (R769). -/
def writeFault (s : State) (q : Nat) (f : Option FaultRec) : State :=
  match f with
  | none => s
  | some r =>
    faultRecord s (recordWords r.status r.kind (s.queue q).owner r.time r.addr r.pc r.lanes r.block r.place r.suppressed)

/-! ### Where threads go (R251, R262, R264) -/

/-- A thread comes to an address; at the target of CONVERGEs that it has executed, it is held (R251). -/
def Group.goto (g : Group) (l pc : Nat) : Group :=
  g.mapThread l (fun t =>
    let here := (t.convs.filter (fun c => c.2 = pc)).map (·.1)
    { t with pc := pc, since := g.issues, wait := .ready, convs := t.convs.filter (fun c => c.2 ≠ pc),
             hold := if here.isEmpty then none else some (here, g.issues) })

/-- Held threads whose CONVERGEs nobody has still to reach become ready (R251). -/
def Group.converge (g : Group) : Group :=
  { g with threads := g.threads.map (fun t => match t.hold with
      | none => t
      | some (sites, n) =>
        let left := sites.filter (fun c => g.threads.any (fun u => !u.exited && u.convs.any (fun d => d.1 = c)))
        if left.isEmpty then { t with hold := none, since := g.issues } else { t with hold := some (left, n) }) }

/-- One issue of a group: the instruction word, its address, the lanes gathered there, and those whose predicate holds. -/
structure Issued where
  gk : Nat
  g : Group
  q : Nat
  pc : Nat
  word : Nat
  all : List Nat
  lanes : List Nat
deriving DecidableEq, Repr

/-- The instruction's fields (R257 to R259): FORM, CLASS and the registers. -/
def wForm (w : Nat) : Nat := natBits w 63 62
def wClass (w : Nat) : Nat := natBits w 61 56
def wImm (w : Nat) : Bool := wForm w = 1
def wMem (w : Nat) : Bool := wForm w = 2
def wPneg (w : Nat) : Bool := if wImm w then natBit w 51 else natBit w 47
def wPreg (w : Nat) : Nat := if wImm w then natBits w 50 48 else natBits w 46 44
def wDst (w : Nat) : Nat := if wImm w then natBits w 47 40 else natBits w 43 36
def wSa (w : Nat) : Nat := if wImm w then natBits w 39 32 else natBits w 35 28
def wSb (w : Nat) : Nat := natBits w 27 20
def wSc (w : Nat) : Nat := natBits w 19 12
def wSbConst (w : Nat) : Bool := natBit w 11
/-- PDST; the IMM format has no such field, and a compare's DST then names the predicate (log 24). -/
def wPdst (w : Nat) : Nat := if wImm w then natBits w 42 40 else natBits w 10 8
def wScope (w : Nat) : Nat := natBits w 27 25
def wAcquire (w : Nat) : Bool := natBit w 23
def wRelease (w : Nat) : Bool := natBit w 24
def wOffset (w : Nat) : Int := signed 23 w
def wOp (w : Nat) : Nat := natBits w 55 48

/-- Whether an instruction is illegal by its form, class, SCOPE or a class used in another form (R261, R263). -/
def wIllegal (w : Nat) : Bool :=
  let c := wClass w
  match wForm w with
  | 0 => decide (6 < c)
  | 1 => decide (c ∉ [0, 1, 2, 5])
  | 2 => decide (c ∉ [0x10, 0x11, 0x12, 0x13, 0x14, 0x15, 0x18, 0x19, 0x1A] ∨ 5 < wScope w)
  | _ => true

/-- The threads go on: each lane to its address, or the command stops with PC_RANGE where one leaves the code (R264). -/
def goOn (s : State) (x : Issued) (g : Group) (dest : List (Nat × Int)) : State :=
  let out := dest.filter (fun lp => decide (lp.2 < 0 ∨ (g.prog.codeBytes : Int) ≤ lp.2))
  if out.isEmpty then s.setGroup x.gk (some ((dest.foldl (fun (g : Group) lp => g.goto lp.1 lp.2.toNat) g).converge))
  else shaderFault s x.gk 0x05 x.pc 0 (laneMask (out.map (·.1)))

/-- The gathered lanes fall through to the next instruction. -/
def Issued.fall (x : Issued) : List (Nat × Int) := x.all.map (fun l => (l, (x.pc : Int) + 8))

/-- The same without some lanes. -/
def Issued.fallBut (x : Issued) (ls : List Nat) : List (Nat × Int) := x.fall.filter (fun lp => !ls.contains lp.1)

/-- The lanes that are gathered and do not execute. -/
def Issued.idle (x : Issued) : List Nat := x.all.filter (fun l => !x.lanes.contains l)

/-- A fault of the instruction, for lanes, at an address. -/
def Issued.fault (x : Issued) (s : State) (kind addr : Nat) (ls : List Nat) : State :=
  shaderFault s x.gk kind x.pc addr (laneMask ls)

/-- Whether the command of a queue still issues instructions: it runs, and no stop has been asked for (R308, R743). -/
def issuing (s : State) (q : Nat) : Bool := decide ((s.queue q).phase = .running ∧ (s.queue q).stopReq = none)

/-- A command's budget starts with its first instruction (R311). -/
def startBudget (s : State) (q : Nat) : State :=
  match s.launch q with
  | none => s
  | some l =>
    if l.issued then s
    else
      let x := s.queue q
      let ms := (s.ctx (hIndex x.owner)).shaderMs
      (s.setLaunch q (some { l with issued := true })).setQueue q { x with deadline := some (s.now + ms * 1000000) }

/-- Whether a group's instructions issue: its command runs and has not been told to stop, or has faulted at this moment, in which other
groups still issue (R308, R309). -/
def groupIssues (s : State) (g : Group) : Bool :=
  !g.faulted && (issuing s g.q || (decide ((s.queue g.q).phase = .running) && (match faultOf s g.q with
    | none => false
    | some f => decide (f.time = s.now ∧ (s.queue g.q).stopReq = some f.status))))

/-! ### Which group issues (R247) -/

/-- An issue unit of a core. -/
def Core.unit (c : Core) (u : Nat) : IssueUnit := if u = 0 then c.unit0 else c.unit1
def Core.setUnit (c : Core) (u : Nat) (x : IssueUnit) : Core := if u = 0 then { c with unit0 := x } else { c with unit1 := x }

/-- The shader-clock cycles for which an instruction holds its pipe, by class (R238). A multiplication of the INT class takes one more
(`Issued.holdPipe`). -/
def pipeCycles (w : Nat) : Nat := if wClass w = 3 then 2 else if wClass w = 4 then 4 else 1

/-- The cycles that pass before an issue unit can issue from a slot: in one cycle it issues from two slots at most, and to each pipe
once it is free (R247). -/
def IssueUnit.ready (x : IssueUnit) (slot : Nat) : IssueUnit :=
  if x.mate = some slot ∨ (0 < x.p0 ∧ 0 < x.p1) then
    let n := max 1 (min x.p0 x.p1)
    { x with p0 := x.p0 - n, p1 := x.p1 - n, mate := none }
  else x

/-- An issue unit issues from a slot to a free pipe, which is held for `n` cycles; P0 where both are free (R247; log 103). -/
def IssueUnit.take (x : IssueUnit) (slot n : Nat) : IssueUnit :=
  let y := x.ready slot
  if y.p0 = 0 then { y with p0 := n, pipe := 0, last := slot, mate := some slot }
  else { y with p1 := n, pipe := 1, last := slot, mate := some slot }

/-- A group's instruction `w` issues on its unit. -/
def takeTurn (s : State) (gk : Nat) (g : Group) (w : Nat) : State :=
  let c := s.core g.core
  let u := unitOf gk g
  s.setCore g.core (c.setUnit u ((c.unit u).take g.slot (pipeCycles w)))

/-- The unit number under which a thread group's step asks for other devices' memory. -/
def groupUnit (gk : Nat) : Nat := 2 ^ 20 + gk

/-- How far a slot lies behind the one after the last that issued (R247). -/
def slotAfter (last slot : Nat) : Nat := (slot + 63 - last) % 32

/-- Whether the scan of a group's issue unit comes to it before any other group that has a ready thread (R247). A group whose sample
awaits another device's memory has none. -/
def hasTurn (s : State) (gk : Nat) (g : Group) : Bool :=
  let u := unitOf gk g
  let last := ((s.core g.core).unit u).last
  g.pick.isSome && groupIssues s g && s.groups.all (fun kv => match kv.2 with
    | none => true
    | some h =>
      decide (h.core ≠ g.core ∨ unitOf kv.1 h ≠ u ∨ slotAfter last g.slot ≤ slotAfter last h.slot) || h.pick.isNone ||
        !groupIssues s h || s.far.any (fun x => decide (x.unit = groupUnit kv.1) && !x.done))

/-! ### What an instruction waits for (R246, R275, R279) -/

/-- Whether an instruction accesses memory that ORDER acquire is about (R275). -/
def wAccess (w : Nat) : Bool := decide (wClass w ∈ [0x10, 0x11, 0x12, 0x13, 0x14, 0x1A])

/-- Whether an instruction releases, and at which scope: 0 where it does not (R275). -/
def wReleases (w : Nat) : Nat :=
  if wClass w = 0x13 ∨ (wClass w ∈ [0x10, 0x11, 0x12] ∧ wRelease w) then wScope w else 0

/-- Whether a thread cannot execute an instruction yet that names the registers `rs`: an access that is not answered will write one of
them (R246), had ORDER acquire before this access, or is a load or atomic before a release, and at system scope a store (R275,
R279). -/
def Thread.mustWait (t : Thread) (w : Nat) (rs : List Nat) : Bool :=
  t.owed.any (fun o => rs.any (fun r => decide (o.reg ≤ r ∧ r < o.reg + o.regs)) || (wAccess w && o.acquire) ||
    (decide (0 < wReleases w) && decide (wReleases w = 5 ∨ 0 < o.regs)))

/-- A group issues the instruction that R248 and R249 pick, if its class is `cls` and it is the group's turn: fetched through the
context's translations, checked, and performed by `body` for the lanes whose predicate holds. Lanes that cannot execute it yet, by
the registers `regs` that it names, are not ready, and the pick is made without them; `fuel` bounds the picks. A group with nothing
ready, or whose instruction is of another class, or another command's by `other`, is left alone. -/
def issueN (fuel : Nat) (s : State) (gk cls : Nat) (regs : Issued → List Nat) (other : Issued → Bool)
    (body : State → Issued → State) : State :=
  match fuel with
  | 0 => s
  | fuel + 1 =>
    match s.group gk with
    | none => s
    | some g =>
      match g.pick with
      | none => s
      | some pc =>
        let all := g.at' pc
        let h := (s.queue g.q).owner
        let g1 := { g.mapLanes all (fun t => { t with since := g.issues + 1, wait := .ready }) with issues := g.issues + 1 }
        let begin' (s : State) (w : Nat) : State := startBudget (takeTurn (s.setGroup gk (some g1)) gk g w) g.q
        if !hasTurn s gk g then s
        else if g.prog.codeBytes ≤ pc then shaderFault s gk 0x05 pc 0 (laneMask all)
        else
          match ctxRead s (some (.core g.core)) h .fetch (g.prog.code + pc) 8 with
          | (.error e, s) => shaderFault (begin' s 0) gk (accessKind e) pc (g.prog.code + pc) (laneMask all)
          | (.ok (.inr _), s) => shaderFault (begin' s 0) gk 0x02 pc (g.prog.code + pc) (laneMask all)
          | (.ok (.inl bs), s1) =>
            let w := leNat bs
            let lanes := all.filter (fun l => ((g.thread l).pred (wPreg w)) ^^ wPneg w)
            let x : Issued := { gk := gk, g := g1, q := g.q, pc := pc, word := w, all := all, lanes := lanes }
            if wIllegal w then shaderFault (begin' s1 w) gk 0x06 pc 0 (laneMask all)
            else if wClass w ≠ cls || other x then s
            else
              let late := lanes.filter (fun l => (g.thread l).mustWait w (regs x))
              if late.isEmpty then body (begin' s1 w) x
              else
                issueN fuel (s1.setGroup gk (some (g.mapLanes late (fun t => { t with wait := .answers })))) gk cls regs other body

/-- The same for the group that a command names. -/
def issueIf (s : State) (ref : GroupRef) (cls : Nat) (regs : Issued → List Nat) (other : Issued → Bool)
    (body : State → Issued → State) : State :=
  issueN 33 s (groupKey ref) cls regs other body

/-- The same for a class whose every operation the command performs. -/
def issue (s : State) (ref : GroupRef) (cls : Nat) (regs : Issued → List Nat) (body : State → Issued → State) : State :=
  issueIf s ref cls regs (fun _ => false) body

/-- An instruction holds its pipe for more cycles than its class does (R238). -/
def Issued.holdPipe (x : Issued) (n : Nat) (s : State) : State :=
  let c := s.core x.g.core
  let u := unitOf x.gk x.g
  let y := c.unit u
  s.setCore x.g.core (c.setUnit u (if y.pipe = 0 then { y with p0 := y.p0 + n } else { y with p1 := y.p1 + n }))

/-- Whether an instruction names only registers that its program has (R263). -/
def Issued.regsOk (x : Issued) (rs : List Nat) : Bool := rs.all (fun r => decide (r < x.g.prog.regs))

/-! ### Sources (R257, R258) -/

/-- The first, second and third sources of a lane, before MOD. The IMM format has no third source: DST is it (log 24). -/
def Issued.srcA (x : Issued) (l : Nat) : W32 := x.g.reg l (wSa x.word)
def Issued.srcB (x : Issued) (l : Nat) : W32 :=
  if wImm x.word then BitVec.ofNat 32 x.word
  else if wSbConst x.word then x.g.prog.consts.getD (wSb x.word % 64) 0
  else x.g.reg l (wSb x.word)
def Issued.srcC (x : Issued) (l : Nat) : W32 := x.g.reg l (if wImm x.word then wDst x.word else wSc x.word)

/-- The registers that the sources `a`, `b`, `c` name. -/
def Issued.srcRegs (x : Issued) (a b c : Bool) : List Nat :=
  (if a then [wSa x.word] else []) ++
  (if b && !wImm x.word && !wSbConst x.word then [wSb x.word] else []) ++
  (if c then [if wImm x.word then wDst x.word else wSc x.word] else [])

/-- MOD of a class whose values have no stated kind: an integer's or an FP32 value's sign, the same for every instruction (R257; log
104). -/
def modFree (neg abs : Bool) (x : W32) : W32 :=
  if neg || abs then (if Config.unstated 3 [] = 0 then modInt neg abs x else modFp32 neg abs x) else x

/-- MOD of the ALU format for the first and second source (R257). -/
def Issued.modded (x : Issued) (m : Bool → Bool → W32 → W32) (l : Nat) : W32 × W32 :=
  if wImm x.word then (x.srcA l, x.srcB l)
  else (m (natBit x.word 7) (natBit x.word 5) (x.srcA l), m (natBit x.word 6) (natBit x.word 4) (x.srcB l))

/-- Results enter DST or PDST of each executing lane, and the threads go on. -/
def finishAlu (s : State) (x : Issued) (rs : List (Nat × AluOut)) : State :=
  goOn s x (rs.foldl (fun (g : Group) lr => match lr.2 with
    | .inl v => g.setReg lr.1 (wDst x.word) v
    | .inr b => g.mapThread lr.1 (fun t => t.setPred (wPdst x.word) b)) x.g) x.fall

/-- The registers that an arithmetic instruction names: those of the sources that it takes, and its destination. -/
def aluRegs (a b c writes : Bool) (x : Issued) : List Nat := x.srcRegs a b c ++ (if writes then [wDst x.word] else [])

/-- An arithmetic instruction: which sources it takes, how MOD acts, whether it writes a register, and its result, absent for a
reserved OP. -/
def aluBody (a b c writes : Bool) (m : Bool → Bool → W32 → W32) (f : W32 → W32 → W32 → Option AluOut) (s : State)
    (x : Issued) : State :=
  if (f 0 0 0).isNone || !x.regsOk (aluRegs a b c writes x) then x.fault s 0x06 0 x.all
  else
    finishAlu s x (x.lanes.filterMap (fun l =>
      let (u, v) := x.modded m l
      (f u v (x.srcC l)).map (fun r => (l, r))))

/-! ### Lane instructions (R253 to R255) -/

/-- The lanes of a team that have not exited. -/
def Group.teamLive (g : Group) (t : Nat) : List Nat := g.live.filter (fun l => decide ((g.thread l).team = t))

/-- Whether a lane waits at a lane instruction. -/
def Thread.atLane (t : Thread) : Bool := match t.wait with
  | .lane .. => true
  | _ => false

/-- What a lane instruction gives a participating lane. -/
def laneResult (op : LaneFn) (x : Issued) (ps : List Nat) (l : Nat) : Option AluOut :=
  let val (l : Nat) : W32 := (x.modded modFp32 l).1
  let raw (l : Nat) : W32 := (x.modded modFree l).1
  match op with
  | .shuffle f =>
    let k : Nat := (x.modded modFree l).2.toNat
    let src : Option Nat := match f with
      | .idx => some k
      | .up => if k ≤ l then some (l - k) else none
      | .down => some (l + k)
      | .bfly => some (l ^^^ k)
    some (.inl (match src with
      | none => 0
      | some i => if ps.contains i then raw i else 0))
  | .vote all p =>
    let holds (i : Nat) : Bool := (x.g.thread i).pred p.val
    some (.inr (if all then ps.all holds else ps.any holds))
  | .ballot p => some (.inl (BitVec.ofNat 32 (laneMask (ps.filter (fun i => (x.g.thread i).pred p.val)))))
  | .reduce f =>
    let v (i : Nat) : W32 := match f with
      | .fadd | .fmin | .fmax => val i
      | _ => (x.modded modInt i).1
    some (.inl (reduceLanes f (ps.map v)))
  | .scaled c scale =>
    match Fmt.ofCode c.val with
    | none => none
    | some fm =>
      let (sc, es) := convertBlock fm (ps.map (fun i => Num.ofFp32 (val i)))
      some (.inl (if scale then BitVec.ofNat 32 sc
        else BitVec.ofNat 32 ((es.getD (ps.idxOf l) { bits := 0 }).bits)))
  | .reserved => none

/-- The registers that a lane instruction names. -/
def laneRegs (op : LaneFn) (x : Issued) : List Nat :=
  match op with
  | .shuffle _ => x.srcRegs true true false ++ [wDst x.word]
  | .vote .. | .reserved => []
  | .ballot _ => [wDst x.word]
  | .reduce _ => x.srcRegs true false false ++ [wDst x.word]
  | .scaled .. => x.srcRegs true false false ++ [wDst x.word]

/-- A team all of whose live threads wait at a lane instruction: it executes for them, or the command stops with TEAM_SPLIT
where they wait at more than one address (R253, R254). -/
def settleTeam (s : State) (gk t : Nat) : State :=
  match s.group gk with
  | none => s
  | some g =>
    let ps := g.teamLive t
    match ps with
    | [] => s
    | l0 :: _ =>
      if !(ps.all (fun l => (g.thread l).atLane)) || !groupIssues s g then s
      else
        let pc := (g.thread l0).pc
        if ps.any (fun l => decide ((g.thread l).pc ≠ pc)) then shaderFault s gk 0x07 pc 0 (laneMask ps)
        else
          match (g.thread l0).wait with
          | .lane op w =>
            let x : Issued := { gk := gk, g := g, q := g.q, pc := pc, word := w, all := ps, lanes := ps }
            finishAlu s x (ps.filterMap (fun l => (laneResult op x ps l).map (fun r => (l, r))))
          | _ => s

/-- Every team of a group that can go on does. -/
def settleTeams (s : State) (gk : Nat) : State := (List.range 4).foldl (fun s t => settleTeam s gk t) s

/-! ### Barriers (R286 to R288) -/

/-- Threads that wait at a barrier of a kind become ready. -/
def Group.release (g : Group) (w : TWait) : Group :=
  { g with threads := g.threads.map (fun t => if !t.exited && t.wait = w then { t with wait := .ready, since := g.issues }
                                              else t) }

/-- Whether every live thread of a group waits so. -/
def Group.allWait (g : Group) (w : TWait) : Bool := g.threads.all (fun t => t.exited || t.wait = w)

/-- A group barrier at which every live thread of the group has arrived completes (R287). -/
def settleGroupBar (s : State) (gk : Nat) : State :=
  match s.group gk with
  | none => s
  | some g => if g.allWait .group && !g.live.isEmpty then s.setGroup gk (some (g.release .group)) else s

/-- A block barrier at which every live thread of every group of the block has arrived completes (R287). -/
def settleBlockBar (s : State) (gk : Nat) : State :=
  let gs := s.groups.filter (fun kv => decide (kv.1 / 32 = gk / 32))
  if gs.all (fun kv => match kv.2 with
    | none => true
    | some g => g.allWait .block) then
    gs.foldl (fun s kv => s.setGroup kv.1 (kv.2.map (fun g => g.release .block))) s
  else s

/-! ### Global addresses (R270, R271) -/

/-- Byte `n`-aligned local or global access sizes. -/
def sizeBytes (n : Fin 5) : Nat := 2 ^ n.val

/-- The global address of a lane: g[ADDR], g[ADDR + 1] and OFFSET, modulo 2^64 (R270). -/
def Issued.globalVa (x : Issued) (l : Nat) : Nat := toBits 64 ((x.g.pair l (wSa x.word) : Nat) + wOffset x.word)

/-- The local address of a lane (R273). -/
def Issued.localAddr (x : Issued) (l : Nat) : Int := (((x.g.reg l (wSa x.word)).toNat : Nat) : Int) + wOffset x.word

/-- Where a lane's global access leads, or the fault KIND it meets. A store or atomic must have a way to its memory before any
lane writes (R272). -/
def laneTarget (s : State) (x : Issued) (acc : Access) (n va : Nat) : (Except Nat Target) × State :=
  let h := (s.queue x.q).owner
  if 2 ^ 48 ≤ va then (.error 0x01, s)
  else if va % n ≠ 0 then (.error 0x03, s)
  else
    match xlate s (some (.core x.g.core)) h acc va with
    | (.error e, s) => (.error (accessKind e), s)
    | (.ok (.remote d a), s) => (if (routeTo s d).isSome then .ok (.remote d a) else .error 0x02, s)
    | (.ok (.host k off), s) => (if keyAllows s k h off n then .ok (.host k off) else .error 0x02, s)
    | (.ok t, s) => (.ok t, s)

/-- The targets of the executing lanes, in order; or the kind and address of the first lane that fails, and all that fail. -/
def laneTargets (s : State) (x : Issued) (acc : Access) (n : Nat) :
    (Except (Nat × Nat × List Nat) (List (Nat × Target))) × State :=
  let r := x.lanes.foldl (fun (acc' : List (Nat × Target) × Option (Nat × Nat) × List Nat × State) l =>
    let va := x.globalVa l
    match laneTarget acc'.2.2.2 x acc n va with
    | (.ok t, s) => (acc'.1 ++ [(l, t)], acc'.2.1, acc'.2.2.1, s)
    | (.error k, s) => (acc'.1, acc'.2.1.orElse (fun _ => some (k, va)), acc'.2.2.1 ++ [l], s)) ([], none, [], s)
  (match r.2.1 with
    | some (k, va) => .error (k, va, r.2.2.1)
    | none => .ok r.1, r.2.2.2)

/-- A release at partition scope or wider drains the core's merging buffer (R452). -/
def releaseDrain (s : State) (x : Issued) : State :=
  if wRelease x.word && decide (3 ≤ wScope x.word) then drainCore s x.g.core else s

/-- Lanes have sent accesses that are not answered: each lane with its address (R246). -/
def Group.await (g : Group) (x : Issued) (reg regs : Nat) (lanes : List Nat) : Group :=
  lanes.foldl (fun g l => g.mapThread l (fun t =>
    { t with owed := t.owed ++ [{ reg := reg, regs := regs, pc := x.pc, acquire := wAcquire x.word, va := x.globalVa l }] })) g

/-- An answer has come for a lane, to the first access that satisfies a test: a thread that waited looks at its instruction anew. -/
def Group.answered (g : Group) (l : Nat) (p : Owed → Bool) : Group :=
  g.mapThread l (fun t =>
    let t := { t with owed := t.owed.eraseP p }
    if t.wait = .answers then { t with wait := .ready, since := g.issues } else t)

/-! ### Local memory (R273, R297) -/

/-- Bytes of a core's local memory. -/
def localBytes (s : State) (core a n : Nat) : List Byte := tabulate n (fun i => SMap.get 0 (s.core core).mem (a + i))

/-- Bytes written to a core's local memory. -/
def setLocal (s : State) (core a : Nat) (bs : List Byte) : State :=
  let c := s.core core
  s.setCore core { c with mem := (bs.zipIdx).foldl (fun m bi => SMap.set 0 m (a + bi.2) bi.1) c.mem }

end Sys2Proof.Machine
end

