-- ==== Sys2Proof/Machine/ShaderMem.lean ====
section
/-! DEFINITION. Memory access of thread groups: global, local and atomic (spec/06 R270 to R285, R297). -/

namespace Sys2Proof.Machine

/-! ### Answers to accesses of other devices -/

/-- Whether a load or atomic not answered writes register `r`; whether a store not answered is the one at `va` by `pc`. -/
def Owed.writes (r : Nat) (o : Owed) : Bool := decide (0 < o.regs ∧ o.reg = r)
def Owed.stores (va pc : Nat) (o : Owed) : Bool := decide (o.regs = 0 ∧ o.va = va ∧ o.pc = pc)

/-- The data of a lane's load comes back. -/
def laneAnswered (s : State) (gk l r : Nat) (sg : Bool) (bs : List Byte) : State :=
  match s.group gk with
  | none => s
  | some g => s.setGroup gk (some ((g.setRegBytes l r sg bs).answered l (Owed.writes r)))

/-- A lane's store is acknowledged (R279). -/
def laneStored (s : State) (gk l va pc : Nat) : State :=
  match s.group gk with
  | none => s
  | some g => s.setGroup gk (some (g.answered l (Owed.stores va pc)))

/-- A lane's access of another device fails: the fault of its instruction (R308, R631). -/
def laneFailed (s : State) (q gk l va : Nat) (st : W16) (p : Owed → Bool) : State :=
  match s.group gk with
  | none => accessFailed s q st
  | some g =>
    let pc := match (g.thread l).owed.find? p with
      | some o => o.pc
      | none => (g.thread l).pc
    shaderFault (s.setGroup gk (some (g.answered l p))) gk (accessKind st) pc va (laneMask [l])

/-- The prior value of an atomic comes back: each lane receives it, combined with what is below it (R283, R284). -/
def atomAnswered (s : State) (gk op w : Nat) (ls : List (Nat × Nat × Option Nat)) (old : Nat) : State :=
  match s.group gk with
  | none => s
  | some g =>
    s.setGroup gk (some (ls.foldl (fun (g : Group) x =>
      let v := match x.2.2 with
        | none => old
        | some p => (atomicFn op w old p 0).getD old
      (g.setRegBytes x.1 x.2.1 false (leBytes (w / 8) v)).answered x.1 (Owed.writes x.2.1)) g))

/-! ### Loads and stores (R270 to R272) -/

/-- The registers that an access of `n` bytes names: the data registers and the address pair. -/
def Issued.memRegs (x : Issued) (n : Nat) : List Nat :=
  (List.range ((n + 3) / 4)).map (fun i => wDst x.word + i) ++ [wSa x.word, wSa x.word + 1]

/-- Whether ADDR is even and every register that the access names exists (R263, R270; log 25). -/
def Issued.memOk (x : Issued) (n : Nat) : Bool := decide (wSa x.word % 2 = 0) && x.regsOk (x.memRegs n)

/-- Local loads: the bytes for each lane, its line's merging-buffer entry drained first, or the first lane whose line cannot be
read (R308, R436, R452). -/
def loadLocals (s : State) (core n : Nat) (ts : List (Nat × Target)) :
    (List (Nat × List Byte)) × List Nat × State :=
  ts.foldl (fun (acc : (List (Nat × List Byte)) × List Nat × State) lt =>
    match lt.2 with
    | .mem a =>
      match memLoad (drainLine acc.2.2 core (a / 128)) a n with
      | (some bs, s) => (acc.1 ++ [(lt.1, bs)], acc.2.1, s)
      | (none, s) => (acc.1, acc.2.1 ++ [lt.1], s)
    | _ => acc) ([], [], s)

/-- The requests of lanes whose loads go to other devices leave. -/
def loadRemotes (s : State) (x : Issued) (n : Nat) (sg : Bool) (ts : List (Nat × Target)) : State :=
  ts.foldl (fun s lt => match lt.2 with
    | .remote d a =>
      (remoteRead s d a n 0 (.lane x.q x.gk lt.1 (wDst x.word) n sg (x.globalVa lt.1))).2
    | _ => s) s

/-- Whether an instruction's threads have gone on: its group has not faulted. -/
def wentOn (s : State) (x : Issued) : Bool := match s.group x.gk with
  | none => false
  | some g => !g.faulted

/-- Whether a target is in this device's memory. -/
def Target.isMem : Target → Bool
  | .mem _ => true
  | _ => false

/-- The lanes whose targets are at other devices. -/
def remoteLanes (ts : List (Nat × Target)) : List Nat :=
  (ts.filter (fun lt => match lt.2 with
    | .remote .. => true
    | _ => false)).map (·.1)

/-- A global load. -/
def globalLoad (s : State) (x : Issued) (n : Nat) (sg : Bool) : State :=
  if !x.memOk n then x.fault s 0x06 0 x.all
  else
    match laneTargets s x .load n with
    | (.error (k, va, ls), s) => x.fault s k va ls
    | (.ok ts, s) =>
      let (got, bad, s) := loadLocals s x.g.core n ts
      match bad with
      | l :: _ => x.fault s 0x0A (x.globalVa l) bad
      | [] =>
        let g := got.foldl (fun (g : Group) lb => g.setRegBytes lb.1 (wDst x.word) sg lb.2) x.g
        let s := goOn s x (g.await x (wDst x.word) ((n + 3) / 4) (remoteLanes ts)) x.fall
        if wentOn s x then loadRemotes s x n sg ts else s

/-- A global store: every address first, then every lane in ascending order (R272). -/
def globalStore (s : State) (x : Issued) (n : Nat) : State :=
  if !x.memOk n then x.fault s 0x06 0 x.all
  else
    match laneTargets s x .store n with
    | (.error (k, va, ls), s) => x.fault s k va ls
    | (.ok ts, s) =>
      let s := releaseDrain s x
      let h := (s.queue x.q).owner
      let s := goOn s x (x.g.await x 0 0 ((ts.filter (fun lt => !lt.2.isMem)).map (·.1))) x.fall
      ts.foldl (fun s lt =>
        let bs := x.g.regBytes lt.1 (wDst x.word) n
        let pu : Purpose := .stored x.q x.gk lt.1 (x.globalVa lt.1) x.pc (wAcquire x.word)
        match lt.2 with
        | .mem a =>
          let s := mergeStore s x.g.core x.q a bs
          if wAcquire x.word then drainLine s x.g.core (a / 128) else s
        | .remote d a => (remoteWrite s d a bs 0 pu).2
        | .host .. => (ctxStorePage s (some (.core x.g.core)) h (x.globalVa lt.1) bs pu).2) s

/-! ### Atomics (R282 to R285) -/

/-- The lanes of each address, in the order of the first lane. -/
def byAddr {α : Type} [DecidableEq α] (ts : List (Nat × α)) : List (α × List Nat) :=
  ts.foldl (fun (acc : List (α × List Nat)) lt =>
    if acc.any (fun e => e.1 = lt.2) then acc.map (fun e => if e.1 = lt.2 then (e.1, e.2 ++ [lt.1]) else e)
    else acc ++ [(lt.2, [lt.1])]) []

/-- An atomic's operand and compare value of a lane: the operand of a compare-and-swap follows its compare value (R282). -/
def Issued.atomArgs (x : Issued) (f : AtomFn) (wide : Bool) (l : Nat) : Nat × Nat :=
  let d := wDst x.word
  let v (r : Nat) : Nat := if wide then x.g.pair l r else (x.g.reg l r).toNat
  match f with
  | .cas => (v (d + (if wide then 2 else 1)), v d)
  | _ => (v d, 0)

/-- The data registers of an atomic. -/
def atomWords (f : AtomFn) (wide : Bool) : Nat := (if wide then 2 else 1) * (if f = .cas then 2 else 1)

/-- What memory becomes and what each lane receives at one address. -/
def atomAt (x : Issued) (f : AtomFn) (wide : Bool) (old : Nat) (ls : List Nat) : Nat × List Nat :=
  let w := if wide then 64 else 32
  if atomCombines f then combined (atomCode f) w old (ls.map (fun l => (x.atomArgs f wide l).1))
  else inTurn (atomCode f) w old (ls.map (x.atomArgs f wide))

/-- The prefixes that a combined atomic returns by, and its total: what is below each lane. -/
def atomPrefixes (x : Issued) (f : AtomFn) (wide : Bool) (ls : List Nat) : Option Nat × List (Option Nat) :=
  let w := if wide then 64 else 32
  ls.foldl (fun (acc : Option Nat × List (Option Nat)) l =>
    let v := (x.atomArgs f wide l).1
    (match acc.1 with
      | none => some v
      | some p => some ((atomicFn (atomCode f) w p v 0).getD p), acc.2 ++ [acc.1])) (none, [])

/-- An atomic at another device: one request of the total, or one for each lane in turn (R283, R284). -/
def atomRemote (s : State) (x : Issued) (f : AtomFn) (wide : Bool) (d a : Nat) (ls : List Nat) : State :=
  let w := if wide then 64 else 32
  let op := atomCode f + (if wide then 128 else 0)
  let send (s : State) (bs : List Byte) (ps : List (Nat × Nat × Option Nat)) : State :=
    (remoteAtomic s d a op bs (.atom x.q x.gk (atomCode f) w (x.globalVa (ls.headD 0)) ps)).2
  if atomCombines f then
    let (t, ps) := atomPrefixes x f wide ls
    send s (leBytes (w / 8) (t.getD 0)) ((ls.zip ps).map (fun (lp : Nat × Option Nat) => (lp.1, wDst x.word, lp.2)))
  else
    ls.foldl (fun s l =>
      let (v, c) := x.atomArgs f wide l
      send s ((if f = .cas then leBytes (w / 8) c else []) ++ leBytes (w / 8) v) [(l, wDst x.word, none)]) s

/-- A global atomic. -/
def globalAtomic (s : State) (x : Issued) (f : AtomFn) (wide : Bool) : State :=
  let n := if wide then 8 else 4
  if (wide && decide (f = .fadd)) || !x.memOk (4 * atomWords f wide) then x.fault s 0x06 0 x.all
  else
    match laneTargets s x .atomic n with
    | (.error (k, va, ls), s) => x.fault s k va ls
    | (.ok ts, s) =>
      let s := releaseDrain s x
      let s := ts.foldl (fun s lt => match lt.2 with
        | .mem a => drainLine s x.g.core (a / 128)
        | _ => s) s
      let bad := ts.filter (fun lt => match lt.2 with
        | .mem a => s.bad a n
        | _ => false)
      match bad with
      | (l, _) :: _ =>
        let s := bad.foldl (fun s lt => match lt.2 with
          | .mem a => (memLoad s a n).2
          | _ => s) s
        x.fault s 0x0A (x.globalVa l) (bad.map (·.1))
      | [] =>
        let r := (byAddr ts).foldl (fun (acc : Group × State) e => match e.1 with
          | .mem a =>
            let (old, s) := memLoadNat acc.2 a n
            let (new, outs) := atomAt x f wide (old.getD 0) e.2
            let s := (memStoreNat s a n new).2
            ((e.2.zip outs).foldl (fun (g : Group) lv => g.setRegBytes lv.1 (wDst x.word) false (leBytes n lv.2)) acc.1, s)
          | _ => acc) (x.g, s)
        let far := remoteLanes ts
        let s := goOn r.2 x (r.1.await x (wDst x.word) (n / 4) far) x.fall
        if wentOn s x then
          (byAddr (ts.filter (fun lt => far.contains lt.1))).foldl (fun s e => match e.1 with
            | .remote d a => atomRemote s x f wide d a e.2
            | _ => s) s
        else s

/-! ### Local memory (R271, R273, R297) -/

/-- The byte ranges of an async matrix operation, in the block's local memory: those that it reads and those that it writes
(R292). -/
structure Footprint where
  reads : List (Nat × Nat)
  writes : List (Nat × Nat)
deriving DecidableEq, Repr

/-- The fields of an async matrix descriptor (R291). -/
def dFmtA (w : List W64) : Nat := bitsOf (w.getD 0 0) 63 59
def dFmtB (w : List W64) : Nat := bitsOf (w.getD 0 0) 58 54
def dFmtD (w : List W64) : Nat := bitsOf (w.getD 0 0) 53 49
def dOvf (w : List W64) : Nat := bitsOf (w.getD 0 0) 48 47
def dAddc (w : List W64) : Bool := bitsOf (w.getD 0 0) 46 46 = 1
def dM (w : List W64) : Nat := 8 * 2 ^ bitsOf (w.getD 0 0) 45 44
def dN (w : List W64) : Nat := 8 * 2 ^ bitsOf (w.getD 0 0) 43 42
def dK (w : List W64) : Nat := bitsOf (w.getD 0 0) 41 30 + 1
/-- The address and stride of A, B, C and D, and the addresses of their scales. -/
def dAddr (w : List W64) (i : Nat) : Nat := bitsOf (w.getD i 0) 63 46
def dStride (w : List W64) (i : Nat) : Nat := bitsOf (w.getD i 0) 45 30
def dScale (w : List W64) (i : Nat) : Nat := bitsOf (w.getD i 0) 29 12

/-- A format of a descriptor, and whether it is scaled. -/
def cFmt (c : Nat) : Fmt := (Fmt.ofCode (c % 16)).getD .fp32
def cScaled (c : Nat) : Bool := natBit c 4

/-- Bytes of a row of A, B, C and D. -/
def dRowBytes (w : List W64) (i : Nat) : Nat :=
  if i = 1 then (cFmt (dFmtA w)).packedBytes (dK w)
  else if i = 2 then (cFmt (dFmtB w)).packedBytes (dK w)
  else if i = 3 then 4 * dN w
  else (cFmt (dFmtD w)).packedBytes (dN w)

/-- Rows of A, B, C and D. -/
def dRows (w : List W64) (i : Nat) : Nat := if i = 2 then dN w else dM w

/-- The blocks of 32 of a reduction (R292). -/
def dBlocks (w : List W64) : Nat := (dK w + 31) / 32

/-- The rows of A, B, C and D (R292). -/
def dRanges (w : List W64) (i : Nat) : List (Nat × Nat) :=
  tabulate (dRows w i) (fun r => (dAddr w i + r * dStride w i, dRowBytes w i))

/-- The scales of D, and what is read of A, B and their scales (R292). -/
def dScalesD (w : List W64) : List (Nat × Nat) := if cScaled (dFmtD w) then [(dScale w 4, dM w)] else []
def dInputs (w : List W64) : List (Nat × Nat) :=
  dRanges w 1 ++ dRanges w 2 ++
    (if cScaled (dFmtA w) then [(dScale w 1, dM w * dBlocks w)] else []) ++
    (if cScaled (dFmtB w) then [(dScale w 2, dN w * dBlocks w)] else [])

/-- The footprint of an operation (R292). -/
def dFoot (w : List W64) : Footprint :=
  { reads := dInputs w ++ (if dAddc w then dRanges w 3 else []), writes := dRanges w 4 ++ dScalesD w }

/-- Whether `n` bytes from `a` meet a range. -/
def meets (a n : Nat) (r : Nat × Nat) : Bool := decide (a < r.1 + r.2 ∧ r.1 < a + n)

/-- Whether an access of a block's local memory touches what a pending operation of the block writes, and what it reads
(R297). -/
def touchesD (s : State) (g : Group) (a n : Nat) : Bool :=
  (s.core g.core).ammas.any (fun m => decide (m.base = g.base ∧ m.len = g.len) && (dFoot m.words).writes.any (meets a n))

/-- A write of a block's local memory: operations whose footprint it touches are spoiled (R297). -/
def writeLocal (s : State) (g : Group) (a : Nat) (bs : List Byte) : State :=
  let c := s.core g.core
  let s := s.setCore g.core { c with ammas := c.ammas.map (fun (m : Amma) =>
    let f := dFoot m.words
    if m.base = g.base ∧ m.len = g.len ∧ (f.reads ++ f.writes).any (meets a bs.length) then { m with spoiled := true } else m) }
  setLocal s g.core (g.base + a) bs

/-- A read of a block's local memory: free bytes where a pending operation writes (R297). -/
def readLocal (s : State) (g : Group) (a n : Nat) : List Byte × State :=
  if touchesD s g a n then
    (List.range n).foldl (fun (acc : List Byte × State) _ =>
      let (v, s) := acc.2.fresh
      (acc.1 ++ [BitVec.ofNat 8 v.toNat], s)) ([], s)
  else (localBytes s g.core (g.base + a) n, s)

/-- The first fault of a local access: misaligned, or beyond the allocation (R271, R273). -/
def localFault (x : Issued) (n l : Nat) : Option Nat :=
  let a := x.localAddr l
  if a % (n : Int) ≠ 0 then some 0x03
  else if a < 0 ∨ (x.g.len : Int) < a + n then some 0x04
  else none

/-- The lanes that fail a local access, and the first one's KIND and address. -/
def localFaults (x : Issued) (n : Nat) : Option (Nat × Nat × List Nat) :=
  match x.lanes.filter (fun l => (localFault x n l).isSome) with
  | [] => none
  | l :: ls => some ((localFault x n l).getD 0x04, toBits 32 (x.localAddr l), l :: ls)

/-- The registers of a local access: a local address is one register. -/
def Issued.localRegs (x : Issued) (n : Nat) : List Nat :=
  (List.range ((n + 3) / 4)).map (fun i => wDst x.word + i) ++ [wSa x.word]
def Issued.localOk (x : Issued) (n : Nat) : Bool := x.regsOk (x.localRegs n)

/-- A local access under its checks. -/
def localAccess (s : State) (x : Issued) (n regs : Nat) (f : State → State) : State :=
  if !x.localOk regs then x.fault s 0x06 0 x.all
  else
    match localFaults x n with
    | some (k, a, ls) => x.fault s k a ls
    | none => f (releaseDrain s x)

/-- A local load. -/
def localLoad (s : State) (x : Issued) (n : Nat) (sg : Bool) : State :=
  localAccess s x n n (fun s =>
    let r := x.lanes.foldl (fun (acc : Group × State) l =>
      let (bs, s) := readLocal acc.2 x.g (x.localAddr l).toNat n
      (acc.1.setRegBytes l (wDst x.word) sg bs, s)) (x.g, s)
    goOn r.2 x r.1 x.fall)

/-- A local store, lanes in ascending order. -/
def localStore (s : State) (x : Issued) (n : Nat) : State :=
  localAccess s x n n (fun s =>
    let s := x.lanes.foldl (fun s l => writeLocal s x.g (x.localAddr l).toNat (x.g.regBytes l (wDst x.word) n)) s
    goOn s x x.g x.fall)

/-- A local atomic: combined or in turn, as a global one (R282 to R284). -/
def localAtomic (s : State) (x : Issued) (f : AtomFn) (wide : Bool) : State :=
  let n := if wide then 8 else 4
  if wide && decide (f = .fadd) then x.fault s 0x06 0 x.all
  else
    localAccess s x n (4 * atomWords f wide) (fun s =>
      let r := (byAddr (x.lanes.map (fun l => (l, (x.localAddr l).toNat)))).foldl (fun (acc : Group × State) e =>
        let (bs, s) := readLocal acc.2 x.g e.1 n
        let (new, outs) := atomAt x f wide (leNat bs) e.2
        let s := writeLocal s x.g e.1 (leBytes n new)
        ((e.2.zip outs).foldl (fun (g : Group) lv => g.setRegBytes lv.1 (wDst x.word) false (leBytes n lv.2)) acc.1, s))
        (x.g, s)
      goOn r.2 x r.1 x.fall)

/-! ### Async matrix operations (R290 to R298) -/

/-- A check of a descriptor: the fault KIND it meets, if any (R294). -/
def ammaCheck (w : List W64) (len : Nat) : Option Nat :=
  let reserved (c : Nat) : Bool := (Fmt.ofCode (c % 16)).isNone
  let fixed (c : Nat) : Bool := cScaled c && !(cFmt c).scalable
  if reserved (dFmtA w) || reserved (dFmtB w) || decide (dFmtA w % 16 = 0 ∨ dFmtB w % 16 = 0) || reserved (dFmtD w) then some 0x09
  else if fixed (dFmtA w) || fixed (dFmtB w) || fixed (dFmtD w) || decide (dOvf w = 3) ||
      decide (bitsOf (w.getD 0 0) 45 44 = 3 ∨ bitsOf (w.getD 0 0) 43 42 = 3) ||
      [1, 2, 3, 4].any (fun i => decide (dAddr w i % 16 ≠ 0 ∨ dStride w i % 16 ≠ 0 ∨ dStride w i < dRowBytes w i)) ||
      [1, 2, 4].any (fun i => decide (dScale w i % 16 ≠ 0)) then some 0x08
  else
    let f := dFoot w
    if (f.reads ++ f.writes).any (fun r => decide (len < r.1 + r.2)) then some 0x04 else none

/-- The instruction word of a thread that waits at an AMMA. -/
def Thread.ammaWord (t : Thread) : Option Nat := match t.wait with
  | .amma w => some w
  | _ => none

/-- Whether two lists of ranges meet. -/
def footsMeet (a b : List (Nat × Nat)) : Bool := a.any (fun r => b.any (meets r.1 r.2))

/-- Whether an operation writes what it reads itself, D's coinciding exactly with C apart (R297). -/
def ammaSelf (w : List W64) : Bool :=
  let same : Bool := decide (dAddr w 3 = dAddr w 4 ∧ dStride w 3 = dStride w 4)
  footsMeet (dFoot w).writes (dInputs w) ||
    (dAddc w && footsMeet (if same then dScalesD w else (dFoot w).writes) (dRanges w 3))

/-- An operation enters its unit. Where its footprint meets that of a pending operation of the block and one of the two writes there,
the values that they read are undefined (R297). -/
def ammaIssue (s : State) (core : Nat) (m : Amma) : State :=
  let c := s.core core
  let f := dFoot m.words
  let mate (o : Amma) : Bool := decide (o.base = m.base ∧ o.len = m.len)
  let old := c.ammas.map (fun (o : Amma) =>
    let e := dFoot o.words
    if mate o && footsMeet f.writes (e.reads ++ e.writes) then { o with spoiled := true } else o)
  let hit := c.ammas.any (fun o => mate o && footsMeet (f.reads ++ f.writes) (dFoot o.words).writes)
  s.setCore core { c with ammas := old ++ [{ m with spoiled := hit || ammaSelf m.words }] }

/-- An async matrix operation starts once every live thread of its group waits at it, its token is clear and the unit has room
(R290, R294, R295, R298). -/
def settleAmma (s : State) (gk : Nat) : State :=
  match s.group gk with
  | none => s
  | some g =>
    match g.live with
    | [] => s
    | l0 :: _ =>
      let word := ((g.thread l0).ammaWord).getD 0
      if g.live.any (fun l => (g.thread l).ammaWord.isNone) || !groupIssues s g then s
      else
        let pc := (g.thread l0).pc
        let k := wDst word % 8
        let a : Int := (((g.reg l0 (wSa word)).toNat : Nat) : Int) + wOffset word
        if g.live.any (fun l => decide ((g.thread l).pc ≠ pc ∨ g.reg l (wSa word) ≠ g.reg l0 (wSa word))) then
          shaderFault s gk 0x07 pc 0 (laneMask g.live)
        else if natBit g.tokens k ∨ 16 ≤ (s.core g.core).ammas.length then s
        else if a < 0 ∨ (g.len : Int) < a + 64 then shaderFault s gk 0x04 pc (toBits 32 a) (laneMask g.live)
        else
          let (bs, s) := readLocal s g a.toNat 64
          let ws := tabulate 8 (fun i => BitVec.ofNat 64 (leNat ((bs.drop (8 * i)).take 8)))
          match ammaCheck ws g.len with
          | some kind => shaderFault s gk kind pc (if kind = 0x04 then a.toNat else 0) (laneMask g.live)
          | none =>
            let m : Amma := { group := gk, token := k, words := ws, base := g.base, len := g.len, nonSat := g.prog.nonSat }
            let s := ammaIssue s g.core m
            let x : Issued := { gk := gk, g := g, q := g.q, pc := pc, word := word, all := g.live, lanes := g.live }
            goOn s x { g with tokens := g.tokens ||| 2 ^ k } x.fall

/-- Row `i`'s elements of A or B as values (R292). -/
def ammaRow (s : State) (core : Nat) (m : Amma) (i r : Nat) : List Num :=
  let f := cFmt (if i = 1 then dFmtA m.words else dFmtB m.words)
  let n := leNat (localBytes s core (m.base + dAddr m.words i + r * dStride m.words i) (dRowBytes m.words i))
  tabulate (dK m.words) (fun k => Num.decode f (unpackElem f n k))

/-- The scale fields of row `r` of A or B, 127 where unscaled (R292). -/
def ammaScales (s : State) (core : Nat) (m : Amma) (i r : Nat) : List Nat :=
  let n := dBlocks m.words
  if cScaled (if i = 1 then dFmtA m.words else dFmtB m.words) then
    (localBytes s core (m.base + dScale m.words i + r * n) n).map (·.toNat)
  else List.replicate n 127

/-- One output: C or the first block sum, then block sums in ascending order (R293). -/
def ammaDot (xs ys : List Num) (sx sy : List Nat) (c : Option W32) : Nat → Nat → W32
  | 0, _ => c.getD 0
  | fuel + 1, b =>
    let sum := blockSum ((xs.take 32).zip (ys.take 32)) (sx.getD b 127) (sy.getD b 127)
    let c' := match c with
      | none => sum
      | some v => fp32Add v sum
    ammaDot (xs.drop 32) (ys.drop 32) sx sy (some c') fuel (b + 1)

/-- The bytes of row `i` of D, and its scale field where FMT_D is scaled (R292, R293). -/
def ammaOut (m : Amma) (row : List W32) : List Byte × Option Byte :=
  let w := m.words
  let f := cFmt (dFmtD w)
  if cScaled (dFmtD w) then
    let (sc, es) := convertBlock f (row.map Num.ofFp32)
    (leBytes (dRowBytes w 4) (packElems f (es.map (·.bits))), some (BitVec.ofNat 8 sc))
  else
    let nonSat := if dOvf w = 0 then m.nonSat else decide (dOvf w = 2)
    (leBytes (dRowBytes w 4) (packElems f (row.map (fun v =>
      if f = .fp32 then v.toNat else ((Num.ofFp32 v).convert f nonSat).bits))), none)

/-- `n` free bytes. -/
def freeBytes : Nat → State → List Byte × State
  | 0, s => ([], s)
  | n + 1, s =>
    let (v, s) := s.fresh
    let (bs, s) := freeBytes n s
    (BitVec.ofNat 8 v.toNat :: bs, s)

/-- An operation writes D and its scales; its values are free where its footprint was touched meanwhile (R293, R296, R297). -/
def ammaRun (s : State) (core : Nat) (m : Amma) : State :=
  let w := m.words
  let bs := tabulate (dN w) (fun j => (ammaRow s core m 2 j, ammaScales s core m 2 j))
  let rows := tabulate (dM w) (fun i =>
    let xs := ammaRow s core m 1 i
    let sx := ammaScales s core m 1 i
    let cs := localBytes s core (m.base + dAddr w 3 + i * dStride w 3) (4 * dN w)
    let c (j : Nat) : Option W32 :=
      if dAddc w then some (BitVec.ofNat 32 (leNat ((cs.drop (4 * j)).take 4))) else none
    (bs.zipIdx).map (fun yj => ammaDot xs yj.1.1 sx yj.1.2 (c yj.2) (dBlocks w) 0))
  (rows.zipIdx).foldl (fun s ri =>
    let (out, sc) := ammaOut m ri.1
    let (out, s) := if m.spoiled then freeBytes out.length s else (out, s)
    let s := setLocal s core (m.base + dAddr w 4 + ri.2 * dStride w 4) out
    match sc with
    | none => s
    | some b =>
      let (one, s) := if m.spoiled then freeBytes 1 s else ([b], s)
      setLocal s core (m.base + dScale w 4 + ri.2) one) s

end Sys2Proof.Machine
end

