-- ==== Sys2Proof/Machine/Answer.lean ====
section
/-! DEFINITION. What an answer does: the response to a request of this device, over Ihlique or from the host
(spec/12 R630 to R633, spec/11 R575). -/

namespace Sys2Proof.Machine

/-- The request of purpose `p` is answered: with data or an acknowledgement, or with the status it failed with. `key` is the key
index of a write to host memory. -/
def answered (s : State) (p : Purpose) (r : Except W16 (List Byte)) (host : Option Nat) : State :=
  match p, r with
  | .none, _ => s
  | .notice _, .ok _ => s
  | .notice h, .error _ =>
    if s.staleCtx h then s
    else
      match host with
      | some k => hostGone s (hIndex h) k
      | none => loseCtx s (hIndex h)
  | .slot i n, .ok _ => slotStored s i n true
  | .slot i n, .error _ => slotStored s i n false
  | .held _, _ => s
  | .frame p seq, .ok _ => frameStored s p seq true
  | .frame p seq, .error _ => frameStored s p seq false
  | .event, .ok _ => s
  | .event, .error _ => s.bump F.ethEventsDroppedCount
  | .store q, .ok _ => advance s q
  | .store q, .error e => advance (accessFailed s q e) q
  | .signal q, r =>
    match (s.queue q).phase with
    | .signalling st fl =>
      match r, host with
      | .ok _, _ => finishCmd s q st fl
      | .error e, none => finishCmd s q e fl
      | .error _, some k =>
        let s := hostRefused s (hIndex (s.queue q).owner) (completionOf s q st fl) k
        retire (cqStep s q) q
    | _ => s
  | .completion _ _, .ok _ => s
  | .completion h c, .error _ =>
    if s.staleCtx h then completionStale s
    else
      match host with
      | some k => hostRefused s (hIndex h) c k
      | none => completionLost s (hIndex h) c
  | .fence q, .ok bs => if (s.queue q).phase = .waiting then examineValue s q (leNat bs) else s
  | .fence _, .error _ => s
  | .ring q, r =>
    if (s.queue q).phase ≠ .fetching then s
    else
      match (s.queue q).state, r with
      | .stopping, .ok bs => stopFetched s q bs
      | .stopping, .error _ => stopFetched s q []
      | _, .ok bs => fetchOn 2 (absorb s q bs) q
      | _, .error e => ringFault s q e
  | .bulk q pa, .ok bs =>
    let (ok, s) := memStore s pa bs
    advance (if ok then s else accessFailed s q stDataError) q
  | .bulk q _, .error e => advance (accessFailed s q e) q
  | .lane q g l r _ sg _, .ok bs => advance (laneAnswered s g l r sg bs) q
  | .lane q g l r _ _ va, .error e => advance (laneFailed s q g l va e (Owed.writes r)) q
  | .stored q g l va pc _, .ok _ => advance (laneStored s g l va pc) q
  | .stored q g l va pc _, .error e => advance (laneFailed s q g l va e (Owed.stores va pc)) q
  | .atom q g op w _ ls, .ok bs => advance (atomAnswered s g op w ls (leNat bs)) q
  | .atom q g _ _ va ls, .error e => 
    advance (laneFailed s q g ((ls.headD (0, 0, none)).1) va e (Owed.writes (ls.headD (0, 0, none)).2.1)) q
  | .unbusy d a, .ok bs => if leNat bs % 2 = 0 then clearBusy s d a .none else s
  | .unbusy _ _, .error _ => s
  | .far u d a n, .ok bs => farAnswered s u d a n stOk bs
  | .far u d a n, .error e => farAnswered s u d a n e []
  | .court _ p off slot, r => dmaAnswered s p off slot r

end Sys2Proof.Machine
end

