-- ==== Sys2Proof/Machine/EthRows.lean ====
section
/-! DEFINITION. The commands of the network ports and of network time (spec/11). -/

namespace Sys2Proof.Machine

open Sys2Proof

/-! ### Requests of the host -/

/-- A RoCEv2 request of the host: on a queue pair of role MGMT or DOORBELL it is a wake event (R699); then it is answered with
receiver-not-ready while requests are held (R700, R765), or `f` performs it in its sequence. -/
def hostRequest (s : State) (i psn : Nat) (ecn : Bool) (f : State → State) (dup : Option (State → State) := none) : State :=
  if qpTakes s i then
    let s := received s i ecn
    let s := if (s.qp i).role = 1 ∨ (s.qp i).role = 2 then wakeEvent s 4 else s
    if mgmtHeld s then nak s i psn nakNotReady else inSequence s i psn f dup
  else s

/-- RDMA WRITE (R570, R572). -/
def execRdmaWrite (qp : Fin 1024) (psn : BitVec 24) (ecn : Bool) (rkey : W32) (va : W64) (data : List Byte) (s : State) : Out :=
  .next (hostRequest s qp psn.toNat ecn (fun s => rdmaWriteIn s qp psn.toNat rkey va data))

/-- RDMA READ (R572). -/
def execRdmaRead (qp : Fin 1024) (psn : BitVec 24) (ecn : Bool) (rkey : W32) (va : W64) (len : W32) (s : State) : Out :=
  .next (hostRequest s qp psn.toNat ecn (fun s => rdmaReadIn s qp psn.toNat rkey va len.toNat)
    (some (fun s => rdmaReadIn s qp psn.toNat rkey va len.toNat true)))

/-- Compare-and-swap (R565). -/
def execCompareAndSwap (qp : Fin 1024) (psn : BitVec 24) (ecn : Bool) (rkey : W32) (va cmp swap : W64) (s : State) : Out :=
  .next (hostRequest s qp psn.toNat ecn (fun s =>
    hostAtomic s qp psn.toNat rkey va (fun old => if old = cmp then swap else old))
    (some (fun s => atomicAgain s qp psn.toNat)))

/-- Fetch-and-add (R565). -/
def execFetchAndAdd (qp : Fin 1024) (psn : BitVec 24) (ecn : Bool) (rkey : W32) (va add : W64) (s : State) : Out :=
  .next (hostRequest s qp psn.toNat ecn (fun s => hostAtomic s qp psn.toNat rkey va (fun old => old + add))
    (some (fun s => atomicAgain s qp psn.toNat)))

/-- A request of an unsupported operation is answered with a NAK for an invalid request (R565). -/
def execInvalidRequest (qp : Fin 1024) (psn : BitVec 24) (ecn : Bool) (s : State) : Out :=
  .next (hostRequest s qp psn.toNat ecn (fun s => nak s qp psn.toNat nakInvalid))

/-! ### Answers of the host -/

/-- A DRAINING pair with nothing outstanding returns to RESET (R568), and the revocations that waited on it end (R576). -/
def qpDrained (s : State) (i : Nat) : State :=
  let q := s.qp i
  let s := if q.state = .draining ∧ q.reqs.isEmpty then s.setQp i { q with state := .reset } else s
  (s.keys.map (·.1)).foldl finishRevoke s

/-- The result of each request of a queue pair that leaves its list. -/
def settle (s : State) (i : Nat) (rs : List QpReq) (r : Except W16 (List Byte)) : State :=
  rs.foldl (fun s (q : QpReq) =>
    let key := match q.body with
      | .write _ _ rk .. => keyIndexOf s i rk
      | _ => 0
    answered s q.purpose r (some key)) s

/-- Every unacknowledged request of a queue pair fails: it enters ERROR and an event is recorded, or, where it was DRAINING, it
returns to RESET (R568). -/
def qpFail (s : State) (i : Nat) : State :=
  let q := s.qp i
  match q.state with
  | .rts | .draining =>
    let rts : Bool := q.state = .rts
    let s := s.setQp i { q with reqs := [], state := if rts then .error else .reset }
    let s := settle s i q.reqs (.error stAccessFault)
    let s := if rts then event s 0x0A03 0 i else s
    (s.keys.map (·.1)).foldl finishRevoke s
  | _ => s

/-- Whether sequence number `a` is at or before `b`. -/
def psnLe (a b : Nat) : Bool := decide ((b + 2 ^ 24 - a) % 2 ^ 24 < 2 ^ 23)

/-- An acknowledgement retires every request up to its sequence number (R568, R570). -/
def execAckReceived (qp : Fin 1024) (psn : BitVec 24) (s : State) : Out :=
  let q := s.qp qp
  let done := q.reqs.filter (fun r => psnLe r.psn psn.toNat)
  let left := q.reqs.filter (fun r => !psnLe r.psn psn.toNat)
  let s := s.setQp qp { q with reqs := left }
  .next (qpDrained (settle s qp done (.ok [])) qp)

/-- The unacknowledged requests are sent again. -/
def resend (s : State) (i : Nat) : State := (s.qp i).reqs.foldl (fun s r => qpFrame s i r.body) s

/-- One retry of the oldest request is used; with none left the pair fails (R568). -/
def retryOrFail (s : State) (i : Nat) : State :=
  let q := s.qp i
  match q.reqs with
  | [] => s
  | r :: rest =>
    if r.retries = 0 then qpFail s i
    else resend (s.setQp i { q with reqs := { r with retries := r.retries - 1 } :: rest }) i

/-- A NAK: a sequence error is retried; any other is fatal to the queue pair (R568, R575). The requests before the one it
refuses are acknowledged by it. -/
def execNakReceived (qp : Fin 1024) (psn : BitVec 24) (code : Fin 32) (s : State) : Out :=
  let q := s.qp qp
  let done := q.reqs.filter (fun r => decide (r.psn ≠ psn.toNat) && psnLe r.psn psn.toNat)
  let left := q.reqs.filter (fun r => !(decide (r.psn ≠ psn.toNat) && psnLe r.psn psn.toNat))
  let s := settle (s.setQp qp { q with reqs := left }) qp done (.ok [])
  if left.isEmpty then .next s
  else if code.val = nakSequence then .next (retryOrFail s qp)
  else .next (qpFail s qp)

/-- A local ack or receiver-not-ready timer expires (R568, R580): an event record whose receiver-not-ready retries run out is
dropped from this path, and any other request without retries fails the pair. -/
def execAckTimeout (qp : Fin 1024) (rnr : Bool) (s : State) : Out :=
  let q := s.qp qp
  match q.reqs with
  | [] => .next s
  | r :: rest =>
    if rnr then
      if q.rnrRetry = 7 then .next (resend s qp)
      else if r.rnrRetries = 0 then
        if r.purpose = .event then
          .next (qpDrained ((s.setQp qp { q with reqs := rest }).bump F.ethEventsDroppedCount) qp)
        else .next (qpFail s qp)
      else .next (resend (s.setQp qp { q with reqs := { r with rnrRetries := r.rnrRetries - 1 } :: rest }) qp)
    else .next (retryOrFail s qp)

/-! ### ETH_OP -/

def execQpStart (arg : W32) (s : State) : Out := .next (guarded s Reg.ethOp (fun s => opQpStart s arg.toNat))
def execQpStop (arg : W32) (s : State) : Out := .next (guarded s Reg.ethOp (fun s => opQpStop s arg.toNat))
def execQpQuery (arg : W32) (s : State) : Out := .next (guarded s Reg.ethOp (fun s => opQpQuery s arg.toNat))
def execKeyLoad (arg : W32) (s : State) : Out := .next (guarded s Reg.ethOp (fun s => opKeyLoad s arg.toNat))
def execKeyRevoke (arg : W32) (s : State) : Out := .next (guarded s Reg.ethOp (fun s => opKeyRevoke s arg.toNat))
def execStreamStart (arg : W32) (s : State) : Out := .next (guarded s Reg.ethOp (fun s => opStreamStart s arg.toNat))
def execStreamStop (arg : W32) (s : State) : Out := .next (guarded s Reg.ethOp (fun s => opStreamStop s arg.toNat))

/-! ### Ports -/

/-- The power domain of a port (R676). -/
def ethDomain (p : Nat) : Nat := if p < 4 then domEth0 else domEth1

/-- An enable request (R551): a domain that is not permitted refuses it (R715). -/
def portEnable (s : State) (p : Nat) : State :=
  let st := s.fld F.ethPortStatusState p
  let (n, acts) := lcNext st .enable
  if acts.contains .begin then
    let (ok, s) := domStart s (ethDomain p)
    if ok then ((s.setFld F.ethPortStatusState p n).setFld F.ethPortCtrlEnable p 1).answer stOk else s.answer stBusy
  else ((s.setFld F.ethPortStatusState p n).setFld F.ethPortCtrlEnable p 1).answer stOk

/-- A port begins stopping: the frames it has not begun to send are dropped, its queue pairs go to ERROR and its streams stop
(R551). -/
def portHalt (s : State) (p : Nat) : State :=
  let qs := (s.qps.filter (fun kv => kv.2.port = p)).map (·.1)
  let s := qs.foldl qpFail s
  let xs := ((runningStreams s).filter (fun kv => kv.2.port = p)).map (·.1)
  let s := xs.foldl endStream s
  s.setEthPort p { s.ethPort p with egress := [], held := [] }

/-- A transition of a port, with its actions (R551). -/
def portEvent (s : State) (p : Nat) (e : LcEvent) : State :=
  let (n, acts) := lcNext (s.fld F.ethPortStatusState p) e
  let s := s.setFld F.ethPortStatusState p n
  let s := if acts.contains .halt then portHalt s p else s
  let s := if acts.contains .begin then (domStart s (ethDomain p)).2 else s
  if acts.contains .off then
    let s := (s.setFld F.ethPortStatusLinkUp p 0).setFld F.ethPortStatusAsleep p 0
    let group := (List.range 4).map (fun i => p / 4 * 4 + i)
    if group.all (fun i => decide (s.fld F.ethPortStatusState i = lcOff)) then domStop s (ethDomain p) else s
  else s

def execPortEnable (port : Fin 8) (s : State) : Out := .next (guarded s Reg.ethPortCtrl (fun s => portEnable s port))

/-- A disable request (R551). -/
def portDisable (s : State) (p : Nat) : State := ((portEvent s p .disable).setFld F.ethPortCtrlEnable p 0).answer stOk

def execPortDisable (port : Fin 8) (s : State) : Out := .next (guarded s Reg.ethPortCtrl (fun s => portDisable s port))

/-- The PHY is powered (R551): its domain must be ON. -/
def execPhyPowered (port : Fin 8) (s : State) : Out :=
  .next (if s.domOn (ethDomain port) then portEvent s port .up else s)

/-- The PHY is powered down (R551). -/
def execPhyPoweredDown (port : Fin 8) (s : State) : Out := .next (portEvent s port .down)

/-- Link training completes with the partner (R549, R551). -/
def execLinkUp (port : Fin 8) (s : State) : Out :=
  .next (if s.fld F.ethPortStatusState port = lcOn then s.setFld F.ethPortStatusLinkUp port 1 else s)

/-- A port's link falls (R553, R594). -/
def execLinkDown (port : Fin 8) (s : State) : Out := .next (linkFell s port)

/-- A partner's sleep request is accepted only under the three conditions of R554. -/
def execTc10SleepRequest (port : Fin 8) (s : State) : Out :=
  let talker := (runningStreams s).any (fun kv => kv.2.talker && decide (kv.2.port = port.val))
  let waiting := s.qps.any (fun kv => decide (kv.2.port = port.val) && !kv.2.reqs.isEmpty)
  .next (if s.fld F.ethPortStatusState port = lcOn ∧ s.fld F.ethPortCtrlSleepOk port = 1 ∧ ¬ talker ∧ ¬ waiting then
    s.setFld F.ethPortStatusAsleep port 1 else s)

/-- A frame held for a sleeping link for 10 ms is dropped (R555). -/
def execTc10WakeTimeout (port : Fin 8) (s : State) : Out :=
  let e := s.ethPort port
  let late := e.held.filter (fun h => decide (h.1 + 10000000 ≤ s.now))
  let keep := e.held.filter (fun h => decide (s.now < h.1 + 10000000))
  .next ((s.setEthPort port { e with held := keep }).bump F.ethTxDropsCount port late.length)

/-- The bits of a frame on the wire: its data and the headers of its kind, without preamble (PRESUMED, log 20). -/
def Frame.bits (f : Frame) : Nat :=
  8 * (64 + (match f.body with
    | .send _ _ d => d.length
    | .write _ _ _ _ d => d.length
    | .readRsp _ _ d => d.length
    | .avtp _ _ _ d => d.length
    | _ => 0))

/-- The frame that leaves next: the highest PCP, gPTP as PCP 7, the oldest first (R559). -/
def nextFrame (l : List Frame) : Option Frame :=
  l.foldl (fun (acc : Option Frame) f =>
    let rank (f : Frame) := if f.cls = 2 then 7 else f.pcp
    match acc with
    | none => some f
    | some g => if rank g < rank f then some f else acc) none

/-- A transmit association's next packet number is used (R564). The range ends at 2^32 − 1, or 2^64 − 1 with XPN. -/
def macsecUse (s : State) (p : Nat) : Option State :=
  let e := s.ethPort p
  match e.txSel with
  | none => none
  | some an =>
    let a := e.txAssocs.getD an {}
    let top := if a.xpn then 2 ^ 64 - 1 else 2 ^ 32 - 1
    if top < a.nextPn then none
    else
      let note := !a.noted && decide (top * 3 < a.nextPn * 4)
      let a' := { a with nextPn := a.nextPn + 1, noted := a.noted || note }
      let s := s.setEthPort p { e with txAssocs := e.txAssocs.set an a' }
      some (if note then event s 0x0A02 0 p else s)

/-- Whether the transmit association's numbers are used up (R564). -/
def macsecSpent (s : State) (p : Nat) : Bool :=
  let e := s.ethPort p
  match e.txSel with
  | none => false
  | some an =>
    let a := e.txAssocs.getD an {}
    decide ((if a.xpn then 2 ^ 64 - 1 else 2 ^ 32 - 1) < a.nextPn)

/-- A frame leaves a port past its class mask, its rate limit and MACsec (R559, R560, R561, R564, R850). -/
def frameOut (s : State) (p : Nat) : State :=
  let e := s.ethPort p
  match nextFrame e.egress with
  | none => s
  | some f =>
    let rest := { e with egress := e.egress.erase f }
    let limit := s.fld F.ethEgressLimitMbps p
    let cap := limit * 1000
    let have' := min cap (e.tokens + (s.now - e.tokensAt) * limit / 1000)
    if s.fld F.ethPortStatusState p ≠ lcOn ∨ s.fld F.ethPortStatusAsleep p = 1 then s
    else if s.fld F.ethPortStatusLinkUp p = 0 then (s.setEthPort p rest).bump F.ethTxDropsCount p
    else if ¬ natBit (s.fld F.ethEgressClasses p) f.cls then (s.setEthPort p rest).bump F.ethTxFilteredCount p
    else if limit = 0 then s
    else if have' < min cap f.bits then s
    else if s.fld F.ethPortStatusMacsec p = 1 ∧ macsecSpent s p then (s.setEthPort p rest).bump F.ethTxDropsCount p
    else
      let s1 := s.setEthPort p { rest with tokens := have' - min cap f.bits, tokensAt := s.now }
      if s.fld F.ethPortStatusMacsec p = 1 then
        match e.txSel, macsecUse s1 p with
        | some an, some s1 =>
          (s1.bump F.ethTxFramesCount p).emit (.eth p f (some (an, (e.txAssocs.getD an {}).nextPn, e.txSci)))
        | _, _ => s
      else (s1.bump F.ethTxFramesCount p).emit (.eth p f none)

def execFrameTransmit (port : Fin 8) (s : State) : Out := .next (frameOut s port)

/-- A received frame is dropped and counted (R550, R557, R561). -/
def execUnclassifiedFrame (port : Fin 8) (why : RxDrop) (s : State) : Out :=
  if s.fld F.ethPortStatusState port = lcOn then
    .next (match why with
      | .tooLongOrFcs => s.bump F.ethRxFcsErrorsCount port
      | .macsec => s.bump F.ethMacsecDropsCount port
      | .unclassified => s.bump F.ethRxUnclassifiedCount port)
  else .next s

/-- A port's MAC or IP address is written only while the port is OFF (R552). -/
def ethPortMacWrite (s : State) (p : Nat) (reg : PortReg) (v : W64) : State :=
  if s.fld F.ethPortStatusState p ≠ lcOff then s.answer stBusy
  else (match reg with
    | .mac => s.wrPlain Reg.ethPortMac p v
    | .ipLo => s.wrPlain Reg.ethPortIpLo p v
    | .ipHi => s.wrPlain Reg.ethPortIpHi p v).answer stOk

def execEthPortMac (port : Fin 8) (reg : PortReg) (v : W64) (s : State) : Out :=
  .next (guarded s Reg.ethPortMac (fun s => ethPortMacWrite s port reg v))

/-- A table base is written only while no queue pair is in use and no stream runs (R601). -/
def ethTableWrite (s : State) (t : EthTable) (v : W64) : State :=
  if s.qps.any (fun kv => kv.2.state ≠ .reset) || !(runningStreams s).isEmpty then s.answer stBusy
  else (match t with
    | .qp => s.wrPlain Reg.ethQpTableBase 0 v
    | .key => s.wrPlain Reg.ethKeyTableBase 0 v
    | .stream => s.wrPlain Reg.ethStreamTableBase 0 v).answer stOk

def execEthQpTableBase (table : EthTable) (v : W64) (s : State) : Out :=
  .next (guarded s Reg.ethQpTableBase (fun s => ethTableWrite s table v))

/-! ### Streams and time -/

/-- An AVTP packet of a running listener (R584 to R589). -/
def execAvtpPacket (stream : Fin 64) (seq : BitVec 8) (ts : W32) (first last : Bool) (samples : AvSamples) (rate : W32)
    (data : List Byte) (s : State) : Out :=
  .next (avtpIn s stream seq.toNat ts first last samples.width samples.frameBytes.toNat rate.toNat data)

/-- Whether gPTP messages pass: not in STANDBY or WATCH (R597). -/
def gptpOn (s : State) (p : Nat) : Bool := s.fabricOn && decide (s.fld F.ethPortStatusState p = lcOn)

/-- A gPTP Sync arrives (R594, R595). -/
def execSyncMessage (port : Fin 8) (gm offset : W64) (s : State) : Out :=
  .next (if gptpOn s port ∧ s.fld F.timCfgSlavePort = port.val then syncIn s gm (signed 64 offset.toNat) else s)

/-- A gPTP Announce arrives: taken on the slave port, ignored and counted on any other (R593, R594). -/
def execAnnounceMessage (port : Fin 8) (gm : W64) (s : State) : Out :=
  if ¬ gptpOn s port then .next s
  else if s.fld F.timCfgSlavePort ≠ port.val then .next (s.bump F.timIgnoredCount)
  else
    let changed := s.rd Reg.timGmId ≠ gm
    let s := s.wr Reg.timGmId 0 gm
    .next (if changed ∧ s.timeState = tmLocked then setTime s tmAcquiring else s)

/-- A gPTP peer delay request is answered on every port that is ON (R593). -/
def execPeerDelayRequest (port : Fin 8) (s : State) : Out :=
  .next (if gptpOn s port then offerFrame s port { cls := 2, pcp := 7, vid := 0, body := .pdelay } else s)

/-- Each sync interval, Sync and Announce go out on the master ports while time is LOCKED or in HOLDOVER (R593, R594). -/
def execSyncTransmit (s : State) : Out :=
  if s.timeState = tmLocked ∨ s.timeState = tmHoldover then
    .next ((List.range 8).foldl (fun s p =>
      if natBit (s.fld F.timCfgMasterMask) p ∧ gptpOn s p then
        let s := offerFrame s p { cls := 2, pcp := 7, vid := 0, body := .sync s.now }
        offerFrame s p { cls := 2, pcp := 7, vid := 0, body := .announce (s.rd Reg.timGmId) }
      else s) s)
  else .next s

/-- No Sync for 3 sync intervals (R594). -/
def execSyncTimeout (s : State) : Out :=
  if 3 * 1000000000 ≤ (s.now - s.time.lastSync) * 2 ^ s.fld F.timCfgSyncExp then
    .next (if s.timeState = tmLocked then toHoldover s
           else if s.timeState = tmAcquiring then toFreeRun s
           else s)
  else .next s

/-- HOLDOVER_S seconds pass in HOLDOVER (R594). -/
def execHoldoverExpiry (s : State) : Out :=
  if s.timeState = tmHoldover ∧ s.fld F.timCfgHoldoverS * 1000000000 ≤ s.now - s.time.holdSince then .next (toFreeRun s)
  else .next s

/-- A write to TIM_CFG (R593, R603). -/
def timCfgWrite (s : State) (v : W32) : State :=
  let v64 : W64 := v.setWidth 64
  let slave := bitsOf v 2 0
  if bitsOf v 31 20 = 0 ∨ natBit (bitsOf v 15 8) slave then s.answer stInvalid
  else
    let old := s.fld F.timCfgSlavePort
    let s := s.wrPlain Reg.timCfg 0 v64
    (if old = slave then s
     else { setTime s tmAcquiring with time := { (setTime s tmAcquiring).time with lastSync := s.now } }).answer stOk

def execTimCfg (v : W32) (s : State) : Out := .next (guarded s Reg.timCfg (fun s => timCfgWrite s v))

/-- The 25 MHz reference is absent for 10 µs: links fall, and the counter runs on the always-on oscillator (R874). -/
def execEthRefclkLost (s : State) : Out :=
  if s.power.on ∧ s.referee.cycling = false then .next (event ((List.range 8).foldl linkFell s) 0x0B05) else .next s

end Sys2Proof.Machine
end

