-- ==== Sys2Proof/Machine/Access.lean ====
section
/-! DEFINITION. What a read of a register returns, and whose unit a register is (spec/00 R14, spec/15 R747). -/

namespace Sys2Proof.Machine

open Sys2Proof

/-- The unit whose registers a family holds: it answers for none of them while a fence closes it (R747). Instances of a family go by
`i / n2` with the unit. -/
def regUnit (fam i : Nat) : Option ResetUnit :=
  let k := i / (regDesc fam).n2
  if fam = Reg.fldCourtStatus ∨ fam = Reg.fldSpareMap then some (.court k)
  else if Reg.shaQuarterStatus ≤ fam ∧ fam ≤ Reg.shaFaultCount then some (.quarter k)
  else if Reg.gfxFeStatus ≤ fam ∧ fam ≤ Reg.gfxFill then some (.raster k)
  else if Reg.lyrPipeCtrl ≤ fam ∧ fam ≤ Reg.lyrWbOwner then some (.pipe k)
  else if Reg.iqlPortCtrl ≤ fam ∧ fam ≤ Reg.iqlRetrains then some (.port k)
  else if Reg.cdeChanCtrl ≤ fam ∧ fam ≤ Reg.cdeSkipped then some (.channel k)
  else none

/-- Whether a register's unit is fenced. -/
def regFenced (s : State) (fam i : Nat) : Bool := match regUnit fam i with
  | none => false
  | some u => unitFenced s u

/-- Whether the block of a family responds (R42, R43). -/
def famResponds (s : State) (fam : Nat) : Bool := alwaysOnFam fam || s.fabricOn

/-- The owner of a shared pin, timer or side buffer by its STW_CLAIM register, and the function. -/
def claimOwner (s : State) (k : Nat) : Nat := s.fld F.stwClaimOwner k
def claimFn (s : State) (k : Nat) : Nat := s.fld F.stwClaimFunction k

/-- The level of a shared pin (R834, R837): what the device drives, or what comes from outside. -/
def pinLevel (s : State) (outside k : Nat) : Bool :=
  if claimOwner s k = 2 ∧ claimFn s k = 1 then natBit (s.fld F.stwGpioOut) k
  else if claimOwner s k = 3 ∧ claimFn s k = 7 ∧ 1 ≤ s.fld F.pwrStatusThermalStep then false
  else natBit outside k

/-- What a read of a register returns: for most its value, for some what the device computes; the levels outside are free (log 48). -/
def readVal (s : State) (fam i : Nat) : W64 × State :=
  let v := s.rd fam i
  if fam = Reg.stwGpio then
    let (w, s) := s.fresh
    (putBits v 15 0 ((List.range 16).foldl (fun t k => if pinLevel s w.toNat k then t + 2 ^ k else t) 0), s)
  else if fam = Reg.stwSbuf then (if claimOwner s (20 + i / 2048) = 2 then v else 0, s)
  else if fam = Reg.gfxFeStatus then
    let gated : Nat := if s.fld F.gfxFeStatusInPartition i = 0 ∧ s.domOn domRaster then 1 else 0
    (putBits v 26 26 gated, s)
  else if fam = Reg.cdeChanStatus then (putBits v 3 3 (if channelBusy s i then 1 else 0), s)
  else if fam = Reg.timHoldoverNs then
    (if s.timeState = tmHoldover then BitVec.ofNat 64 (s.now - s.time.holdSince) else v, s)
  else (v, s)

end Sys2Proof.Machine
end

