-- ==== Sys2Proof/Machine/FeRows.lean ====
section
/-! DEFINITION. The commands of the front end: management operations, queues, waits, starts, the bench and the scoreboard
(spec/10). A command whose enabling condition does not hold leaves the state as it is (log 1). -/

namespace Sys2Proof.Machine

open Sys2Proof

/-- FE_OP CREATE (R484, R485). -/
def execCreate (arg : W32) (s : State) : Out := .next (guarded s Reg.feOp (fun s => feCreate s arg))
/-- FE_OP DESTROY (R484, R536). -/
def execDestroy (h : W32) (s : State) : Out := .next (guarded s Reg.feOp (fun s => feDestroy s h))
/-- FE_OP SET (R484, R486). -/
def execSet (h : W32) (s : State) : Out := .next (guarded s Reg.feOp (fun s => feSet s h))
/-- FE_OP RESUME (R484, R543). -/
def execResume (h : W32) (s : State) : Out := .next (guarded s Reg.feOp (fun s => feResume s h))
/-- FE_OP QUERY (R484, R487, R542). -/
def execQuery (h : W32) (s : State) : Out := .next (guarded s Reg.feOp (fun s => feQuery s h))
/-- FE_OP QUEUE_CREATE (R484, R492). -/
def execQueueCreate (arg : W32) (s : State) : Out := .next (guarded s Reg.feOp (fun s => queueCreate s arg))
/-- FE_OP QUEUE_DESTROY (R484, R493). -/
def execQueueDestroy (h : W32) (s : State) : Out := .next (guarded s Reg.feOp (fun s => feQueueDestroy s h))
/-- FE_OP QUEUE_QUERY (R484, R493). -/
def execQueueQuery (h : W32) (s : State) : Out := .next (guarded s Reg.feOp (fun s => feQueueQuery s h))

/-- A doorbell record from a DOORBELL queue pair: refused under VALIDATE unless the pair is the kernel driver's (R508), else
placed in the ring and applied (R505 to R507). -/
def doorbellFromQp (s : State) (qp : Nat) (data : List Byte) : State :=
  if s.validate ∧ ¬ (s.qp qp).kernel then s.bump F.feDoorbellBadCount else doorbellIn s false data

/-- A doorbell record arrives (R505). -/
def execDoorbellRecord (qp : Fin 1024) (data : List Byte) (s : State) : Out := .next (doorbellFromQp s qp data)

/-- A command reaches the head of its queue (R499): it is fetched and checked, or completed in a lost context, also where it had
been fetched and not started when the context was lost (R20). A full completion ring holds it (R502). A queue that stops goes on
stopping (R493). -/
def execCommandAtHead (q : Fin 16384) (s : State) : Out :=
  let x := s.queue q
  .next (if !served s x then s
    else if feRuns s ∧ x.state = .stopping ∧ x.phase = .empty then stopOn s q
    else if feRuns s ∧ (x.phase = .waiting ∨ x.phase = .ready) ∧ x.state = .active ∧ lostFor s x then complete s q stContextLost
    else if feRuns s ∧ x.phase = .empty ∧ fetches s x ∧ ¬ cqFull x then fetchOn 2 s q else s)

/-- A blocked wait is examined (R513). -/
def execWaitExamine (q : Fin 16384) (s : State) : Out :=
  .next (if feRuns s && served s (s.queue q) then examineWait s q else s)

/-- A read of a remote fence completes: its value is examined, and a failure leaves the wait (R514, R633). -/
def execRemoteFenceRead (q : Fin 16384) (value : Option W64) (s : State) : Out :=
  if fenceReadOut s q ∧ (s.queue q).phase = .waiting then
    let s := { s with
      txns := s.txns.map (fun kv =>
        if kv.2.busy ∧ kv.2.purpose = Purpose.fence q then (kv.1, { kv.2 with busy := false }) else kv)
      txWait := s.txWait.filter (fun pp => decide (pp.2 ≠ Purpose.fence q)) }
    let s := drainTxWait 1 s
    .next (match value with
      | none => s
      | some v => examineValue s q v.toNat)
  else .next s

/-- A wait has been all that kept its command from starting for WAIT_TIMEOUT_MS: TIMEOUT, and the context is lost (R486, R515; log 106). -/
def execWaitTimeout (q : Fin 16384) (s : State) : Out :=
  let x := s.queue q
  if feRuns s ∧ blockedWait s x ∧ served s x ∧ x.waitMs * 1000000 ≤ x.waited then
    .next (complete (s.bump F.feWaitTimeoutsCount) q stTimeout)
  else .next s

/-- A unit can take a command (R518, R520, R523). -/
def execCommandStart (u : UnitRef) (s : State) : Out := .next (if feRuns s then startOn s u else s)

/-- A ready command of priority 2 or 3 passes AGE_MS (R519). -/
def execAging (q : Fin 16384) (s : State) : Out :=
  let x := s.queue q
  if x.phase = .ready ∧ 2 ≤ x.priority ∧ ¬ roundRobin s ∧ s.fld F.feSchedCfgAgeMs * 1000000 < x.readyFor then
    .next (s.setQueue q { x with aged := true })
  else .next s

/-- In round-robin mode a slot's slice ends, and the parsers move on (R523). -/
def execSliceEnd (s : State) : Out :=
  if roundRobin s ∧ s.rrSince.isSome ∧ ¬ sliceLeft s then .next { s with rrSlot := (s.rrSlot + 1) % 128, rrSince := none }
  else .next s

/-- The firmware misses its heartbeat for 10 ms (R524). -/
def execFwFallback (s : State) : Out :=
  if feRuns s then .next (event ((s.setFld F.feSchedCfgMode 0 1).setFld F.feSchedCfgFwFallback 0 1) 0x0203) else .next s

/-- A benched queue that is ready comes into a slot (R529, R531). -/
def execBenchSwap (q : Fin 16384) (s : State) : Out :=
  let x := s.queue q
  if feRuns s ∧ ¬ roundRobin s ∧ x.state = .active ∧ x.slot = none ∧ condOf s x = .ready then .next (swapIn s q false)
  else .next s

/-- Every partition is checked for fully blocked slots (R530). -/
def execBenchCheck (s : State) : Out :=
  if roundRobin s ∨ ¬ feRuns s then .next s
  else .next ((List.range 16).foldl (fun s p => match benchedReady s p with
    | none => s
    | some qi => if (residents s p).isEmpty then s else swapIn s qi true) s)

/-- The deadlock search of a partition whose every slot is blocked (R532, R533). -/
def execDeadlockSearch (part : Fin 16) (s : State) : Out :=
  .next (if feRuns s then deadlockSearch s part else s)

/-- Every live context's scoreboard record is written (R544). -/
def execScoreboardUpdate (s : State) : Out :=
  .next (if feRuns s then (liveCtxs s).foldl writeScore (usageSettle s) else s)

/-- The steward walks each live context's tables (R545). -/
def execScoreboardWalk (s : State) : Out :=
  .next ((liveCtxs s).foldl (fun s i =>
    let c := s.ctx i
    let m := mappedBytes s 3 (if c.sel then c.root1 else c.root0)
    s.setCtx i { c with sdBytes := m.1, lpBytes := m.2 }) s)

/-- A NOP that has started waits and signals only (R496). -/
def execNop (q : Fin 16384) (s : State) : Out :=
  if starting s q 0 then .next (complete (beginCmd s q none) q ((s.queue q).stopReq.getD stOk)) else .next s

/-- Whether every command of the context that was submitted before submission `n` has completed, queue `qi` apart. -/
def earlierDone (s : State) (h : W32) (n qi : Nat) : Bool :=
  (liveQueues s).all (fun kv =>
    decide (kv.2.owner ≠ h ∨ kv.1 = qi) || (match kv.2.cmd with
      | some c => decide (n ≤ seqOf kv.2 c.entry)
      | none => decide (kv.2.head = kv.2.tail ∨ n ≤ seqOf kv.2 kv.2.head)))

/-- A FREE that has started completes once every earlier-submitted command of its context has (R535); it touches no memory. -/
def execFree (q : Fin 16384) (s : State) : Out :=
  let x := s.queue q
  let n := seqOf x (match x.cmd with
    | none => x.head
    | some c => c.entry)
  if x.phase = .running ∧ x.kind = 8 then
    match x.stopReq with
    | some st => .next (complete s q st)
    | none =>
      let s := if x.begun then s else beginCmd s q none
      .next (if earlierDone s x.owner n q then complete s q stOk else s)
  else .next s

/-- A front-end register write of R547. -/
def feRegWrite (s : State) (reg : FeReg) (v : W64) : State :=
  let base (fam : Nat) (ok : Bool) : State :=
    if !(liveCtxs s).isEmpty then s.answer stBusy
    else if !ok then s.answer stInvalid
    else (s.wrPlain fam 0 v).answer stOk
  match reg with
  | .ctxTable => base Reg.feCtxTableBase true
  | .queueTable => base Reg.feQueueTableBase true
  | .score => base Reg.feScoreBase true
  | .doorbell => base Reg.feDoorbellBase (decide (4 ≤ bitsOf v 3 0 ∧ bitsOf v 3 0 ≤ 12))
  | .schedCfg =>
    if bitsOf v 31 24 = 0 ∨ bitsOf v 23 8 = 0 then s.answer stInvalid
    else (s.wrPlain Reg.feSchedCfg 0 v).answer stOk
  | .partCfg p =>
    if 128 < bitsOf v 7 0 then s.answer stInvalid
    else (s.stage Reg.fePartCfg p (v &&& 0xFF#64)).answer stOk

/-- A write to a front-end table base, FE_SCHED_CFG or FE_PART_CFG (R547). -/
def execFeCtxTableBase (reg : FeReg) (v : W64) (s : State) : Out :=
  .next (guarded s Reg.feCtxTableBase (fun s => feRegWrite s reg v))

end Sys2Proof.Machine
end

