-- ==== Sys2Proof/Machine/Launch.lean ====
section
/-! DEFINITION. Launches: headers, cores and their resources, blocks, ends, scrubs and the spare (spec/06 R239 to R245, R280,
R299 to R307, R882). -/

namespace Sys2Proof.Machine

/-! ### Headers (R239 to R241, R882) -/

/-- A shader header is read: its 8 words, or the status and address that fail (R882). -/
def readHeader (s : State) (h : W32) (va : Nat) : (Except (W16 × Nat) (List W64)) × State :=
  let k := min 64 (4096 - va % 4096)
  match ctxReadObj s none h .fetch va k with
  | (.error e, s) => (.error (e, va), s)
  | (.ok a, s) =>
    match ctxReadObj s none h .fetch (va + k) (64 - k) with
    | (.error e, s) => (.error (e, va + k), s)
    | (.ok b, s) => (.ok (tabulate 8 (fun i => BitVec.ofNat 64 (leNat (((a ++ b).drop (8 * i)).take 8)))), s)

/-- The fields of a header (R239). -/
def hGregs (w : List W64) : Nat := bitsOf (w.getD 1 0) 63 58
def hGroups (w : List W64) : Nat := bitsOf (w.getD 1 0) 57 53 + 1
def hLocalKib (w : List W64) : Nat := bitsOf (w.getD 1 0) 52 44
def hReplaySafe (w : List W64) : Bool := bitsOf (w.getD 1 0) 0 0 = 1
def hCodeOff (w : List W64) : Nat := bitsOf (w.getD 2 0) 63 32
def hCodeBytes (w : List W64) : Nat := bitsOf (w.getD 2 0) 31 0
def hEntry (w : List W64) : Nat := bitsOf (w.getD 3 0) 63 32

/-- The status with which a header is refused, if it is (R240, R241). -/
def headerCheck (w : List W64) : Option W16 :=
  let w0 := w.getD 0 0
  if bitsOf w0 63 32 ≠ 0x50425342 ∨ bitsOf w0 31 16 ≠ 0x2048 ∨ bitsOf w0 15 8 ≠ 1 then some stUnsupported
  else if hGregs w = 0 ∨ 32 < hGregs w ∨ 256 < hLocalKib w ∨ hCodeOff w % 8 ≠ 0 ∨ hCodeBytes w % 8 ≠ 0 ∨ hEntry w % 8 ≠ 0 ∨
      hCodeBytes w ≤ hEntry w ∨ 32768 < (hGroups w + 1) / 2 * (32 * 8 * hGregs w) then some stInvalid
  else none

/-- The program that a header at `va` names; `nonSat`: the default overflow mode (R94). -/
def progOf (va : Nat) (w : List W64) (consts : List W32) (nonSat : Bool) : Prog :=
  { code := va + hCodeOff w, codeBytes := hCodeBytes w, entry := hEntry w, regs := 8 * hGregs w, consts := consts,
    localLen := 1024 * hLocalKib w, nonSat := nonSat }

/-- Whether the default overflow mode in force is non-saturating (R94). -/
def defaultNonSat (s : State) : Bool := decide (s.fld F.fldFmtDefaultOvfNan = 1)

/-- `n` ring entries from entry `i` of a queue, read over the links where they lie on another device (R489, R490). -/
def ringEntries (s : State) (q : Queue) : Nat → Nat → (Except W16 (List W64)) × State
  | 0, _ => (.ok [], s)
  | n + 1, i =>
    let one : (Except W16 (List Byte)) × State := match readEntry s q i with
      | (.error e, s) => (.error e, s)
      | (.ok (.inl bs), s) => (.ok bs, s)
      | (.ok (.inr (.remote d a)), s) => farBytes 2 s d a 64
      | (.ok (.inr _), s) => (.error stAccessFault, s)
    match one with
    | (.error e, s) => (.error e, s)
    | (.ok bs, s) =>
      match ringEntries s q n (i + 1) with
      | (.error e, s) => (.error e, s)
      | (.ok ws, s) => (.ok (wordsOf bs ++ ws), s)

/-- The 32 words that hold the 64 launch constants of a LAUNCH: the four entries after its descriptor, or on a replay what its first run
read (R245, R312, R497). -/
def launchWords (s : State) (qi : Nat) : (Except W16 (List W64)) × State :=
  match replayWords s qi with
  | some ws => (.ok ws, s)
  | none =>
    let q := s.queue qi
    ringEntries s q 4 ((match q.cmd with
      | none => 0
      | some c => c.entry.toNat) + 1)

/-- Words as the 32-bit constants that they hold, in order. -/
def constsOf (ws : List W64) : List W32 := (ws.map (fun w => [BitVec.setWidth 32 w, BitVec.setWidth 32 (w >>> 32)])).flatten

/-! ### Cores and their resources (R242, R306, R357) -/

/-- The physical core that runs a logical core (R306). -/
def physCore (s : State) (quarter logical : Nat) : Nat :=
  if s.fld F.shaSpareMapUsed quarter = 1 ∧ s.fld F.shaSpareMapCore quarter = logical then 17 * quarter + 16
  else 17 * quarter + logical

/-- Whether a physical core is retired. -/
def coreRetired (s : State) (core : Nat) : Bool := natBit (s.fld F.shaCoreRetiredRetired (core / 17)) (core % 17)

/-- The logical cores whose placement a pending map changes (R306). -/
def remapAffects (s : State) (quarter : Nat) : List Nat :=
  let now := s.rd Reg.shaSpareMap quarter
  let next := s.rdStaged Reg.shaSpareMap quarter
  (if bitsOf now 4 4 = 1 then [bitsOf now 3 0] else []) ++ (if bitsOf next 4 4 = 1 then [bitsOf next 3 0] else [])

/-- Group slots and registers in use on an issue unit. -/
def unitUse (s : State) (core u : Nat) : Nat × Nat :=
  s.groups.foldl (fun (acc : Nat × Nat) kv => match kv.2 with
    | none => acc
    | some g => if g.core = core ∧ unitOf kv.1 g = u then (acc.1 + 1, acc.2 + 32 * g.prog.regs) else acc) (0, 0)

/-- Whether an issue unit has room for `n` groups of `regs` registers per thread. -/
def unitRoom (s : State) (core u n regs : Nat) : Bool :=
  let (slots, rs) := unitUse s core u
  decide (slots + n ≤ 32 ∧ rs + n * (32 * regs) ≤ 32768)

/-- Bytes per pixel of an attachment format (R325) and of a depth-stencil format (R326). -/
def fmtBytes (f : Nat) : Nat := if f = 0 then 1 else if f = 1 then 2 else if f = 7 then 8 else 4
def dsBytes (f : Nat) : Nat := if f = 0 then 0 else if f = 1 then 2 else if f = 2 then 4 else 8

/-- The fields of a render pass descriptor (R323, R324). -/
def pWidth (w : List W64) : Nat := bitsOf (w.getD 0 0) 63 50 + 1
def pHeight (w : List W64) : Nat := bitsOf (w.getD 0 0) 49 36 + 1
def pSamples (w : List W64) : Nat := 2 ^ bitsOf (w.getD 0 0) 35 34
def pNcolor (w : List W64) : Nat := bitsOf (w.getD 0 0) 33 31
def pDsfmt (w : List W64) : Nat := bitsOf (w.getD 0 0) 30 28
def pDsLoad (w : List W64) : Nat := bitsOf (w.getD 0 0) 27 26
def pDsStore (w : List W64) : Nat := bitsOf (w.getD 0 0) 25 24
def pReserve (w : List W64) : Nat := bitsOf (w.getD 0 0) 23 19
def pReplaySafe (w : List W64) : Bool := bitsOf (w.getD 0 0) 18 18 = 1
def pDraws (w : List W64) : Nat := bitsOf (w.getD 1 0) 63 16
def pNdraw (w : List W64) : Nat := bitsOf (w.getD 1 0) 15 0 + 1
def pHeap (w : List W64) : Nat := bitsOf (w.getD 2 0) 63 16
def pDsBase (w : List W64) : Nat := bitsOf (w.getD 3 0) 63 16
def pDsPitch (w : List W64) : Nat := bitsOf (w.getD 4 0) 63 40
def pDepthClear (w : List W64) : Nat := bitsOf (w.getD 4 0) 39 8
def pStencilClear (w : List W64) : Nat := bitsOf (w.getD 4 0) 7 0
/-- A field of attachment `n`: word `k` of its descriptor. -/
def pAtt (w : List W64) (n k hi lo : Nat) : Nat := bitsOf (w.getD (8 + 4 * n + k) 0) hi lo
def aBase (w : List W64) (n : Nat) : Nat := pAtt w n 0 63 16
def aFormat (w : List W64) (n : Nat) : Nat := pAtt w n 0 15 12
def aLoad (w : List W64) (n : Nat) : Nat := pAtt w n 0 11 10
def aStore (w : List W64) (n : Nat) : Nat := pAtt w n 0 9 8
def aResolve (w : List W64) (n : Nat) : Nat := pAtt w n 1 63 16
def aPitch (w : List W64) (n : Nat) : Nat := pAtt w n 2 63 40
def aResolvePitch (w : List W64) (n : Nat) : Nat := pAtt w n 2 39 16
def aClear (w : List W64) (n : Nat) : Nat := ((w.getD (8 + 4 * n + 3) 0)).toNat

/-- The tile footprint F (R327). -/
def pFoot (w : List W64) : Nat :=
  1024 * pSamples w * (((List.range (pNcolor w)).map (fun n => fmtBytes (aFormat w n))).foldl (· + ·) 0 + dsBytes (pDsfmt w))

/-- Whether a tile holds a tile buffer (R353). -/
def TileSt.holds : TileSt → Bool
  | .loading | .shading | .spilling | .storing => true
  | _ => false

/-- Whether every listed triangle of a tile has passed (R353). -/
def Tile.shaded (t : Tile) : Bool := decide (t.list.length ≤ t.pos) && t.frags.isEmpty && !t.busy

/-- The byte ranges of a core's local memory that are taken: by blocks, by tile buffers, and held for tiles (R357, log 27). `held`:
whether the last count. -/
def localTaken (s : State) (core : Nat) (held : Bool) : List (Nat × Nat) :=
  (s.blocks.filterMap (fun kv => kv.2.bind (fun b => if b.core = core then some (b.base, b.len) else none))) ++
  (s.passes.map (fun kv => match kv.2 with
    | none => []
    | some p =>
      (p.tiles.filterMap (fun t => if t.2.st.holds && decide (t.2.core = core) then some (t.2.base, pFoot p.words) else none)) ++
      (if held then p.reserve.filterMap (fun r => if r.1 = core then r.2.map (fun b => (b, 2 * pFoot p.words)) else none)
       else []))).flatten

/-- Whether a range of local memory is free. -/
def localFree (s : State) (core base len : Nat) (held : Bool) : Bool :=
  decide (base + len ≤ 262144) && (localTaken s core held).all (fun r => decide (len = 0) || !meets base len r)

/-- Where a core has room for the bytes that a pass holds for its tiles: the highest free KiB (R357; log 27). -/
def holdPlace (s : State) (core n : Nat) : Option Nat :=
  (((List.range 257).reverse).find? (fun k => localFree s core (1024 * k) n true)).map (1024 * ·)

/-- A pass that still waits for room on a core to hold its bytes there holds them once there is (R357). -/
def holdSettle (s : State) (core : Nat) : State :=
  match s.pass (core / 17) with
  | none => s
  | some p => s.setPass (core / 17) (some { p with reserve := p.reserve.map (fun r =>
      if r = (core, none) then (core, holdPlace s core (2 * pFoot p.words)) else r) })

/-- Whether graphics comes before a compute block on a core: bytes are still to be held there, the vertex stage's next group has found
no room, or a fragment group of a tile of the core waits for it (R357, R367). -/
def gfxFirst (p : Pass) (core : Nat) : Bool :=
  p.reserve.contains (core, none) || p.waiting ||
    p.tiles.any (fun t => decide (t.2.st = .shading ∧ t.2.core = core) && !t.2.busy && !t.2.shaded)

/-- A core comes to hold one more block or tile buffer of a context (R302, R544). -/
def coreHold (s : State) (core : Nat) (h : W32) : State :=
  let c := s.core core
  let i := hIndex h
  let holds := if c.holds.any (fun x => x.ctx = i) then
      c.holds.map (fun x => if x.ctx = i then { x with count := x.count + 1 } else x)
    else c.holds ++ [{ ctx := i, count := 1, since := s.now }]
  s.setCore core { c with lastCtx := some h, holds := holds }

/-- A core holds one block or tile buffer of a context less; the cycles of the whole time count once it holds none. -/
def coreFree (s : State) (core : Nat) (h : W32) : State :=
  let c := s.core core
  let i := hIndex h
  match c.holds.find? (fun x => x.ctx = i) with
  | none => s
  | some x =>
    if 1 < x.count then
      s.setCore core { c with holds := c.holds.map (fun y => if y.ctx = i then { y with count := y.count - 1 } else y) }
    else
      let s := s.setCore core { c with holds := c.holds.filter (fun y => y.ctx ≠ i) }
      let k := s.ctx i
      s.setCtx i { k with coreCycles := k.coreCycles + coreCyclesIn s (s.now - x.since) }

/-- CORE_BUSY of a core: 1 while it holds a block (R314). -/
def markBusy (s : State) (core : Nat) : State :=
  let busy := s.blocks.any (fun kv => match kv.2 with
    | none => false
    | some b => decide (b.core = core))
  let old := s.fld F.shaQuarterStatusCoreBusy (core / 17)
  let bit := 2 ^ (core % 17)
  let clean := if natBit old (core % 17) then old - bit else old
  s.setFld F.shaQuarterStatusCoreBusy (core / 17) (clean + (if busy then bit else 0))

/-- Whether a core may run work of a running command: its quarter is one that the command may use and ON, it is neither retired nor
being scrubbed or inspected, and its last context allows it (R51, R52, R301, R302). -/
def coreOpen (s : State) (x : Queue) (quarter logical : Nat) : Bool :=
  let core := physCore s quarter logical
  let c := s.core core
  let h := x.owner
  x.units.contains (.quarter quarter) && ownedBy (s.quarter quarter).lastPart (queuePart s x) && s.domOn (16 + quarter) && !coreRetired s core && decide (c.scrub = .clean) &&
    !s.inspects.any (fun x => decide (x.kind = 1 ∧ x.unit = core) && x.running) &&
    (decide (s.fld F.fldScrubCfgMode = 2) || (match c.lastCtx with
      | none => true
      | some k => decide (k = h)))

/-- Whether a pass in progress has a core among its RESERVE_CORES (R357). -/
def coreReserved (s : State) (core : Nat) : Bool := s.passes.any (fun kv => match kv.2 with
  | some p => p.reserve.any (fun r => r.1 = core)
  | none => false)

/-- Whether a core takes a further block or tile buffer: it is not emptied for a spare map, nor for an inspection unless a pass in
progress reserves it (R306, R778). -/
def coreTakes (s : State) (x : Queue) (quarter logical : Nat) : Bool :=
  let core := physCore s quarter logical
  coreOpen s x quarter logical &&
    !(decide (s.fld F.shaQuarterStatusRemapPending quarter = 1) && (remapAffects s quarter).contains logical) &&
    (coreReserved s core || !s.inspects.any (fun x => decide (x.kind = 1 ∧ x.unit = core)))

/-! ### LAUNCH (R239 to R245) -/

/-- A LAUNCH begins: its header is read and checked, and its constants are read (R245). -/
def launchBegin (s : State) (qi : Nat) : State :=
  let x := s.queue qi
  let s := beginCmd s qi none
  match readHeader s x.owner x.object with
  | (.error (e, va), s) =>
    let r := recordWords e (accessKind e) x.owner s.now va 0 0 0 0 0
    completeOn (faultRecord s r) qi e
  | (.ok w, s) =>
    match headerCheck w with
    | some st => completeOn s qi st
    | none =>
      if (quartersIn x.units).isEmpty then completeOn s qi stInvalid
      else
        match launchWords s qi with
        | (.error e, s) => completeOn s qi e
        | (.ok ws, s) =>
          let a := x.arg
          let s := s.setQueue qi { s.queue qi with replaySafe := hReplaySafe w, read := ws }
          markThrottled <| s.setLaunch qi (some
            { prog := progOf x.object w (constsOf ws) (defaultNonSat s), groups := hGroups w, localBytes := 1024 * hLocalKib w,
              replaySafe := hReplaySafe w,
              grid := (bitsOf a 63 44 + 1, bitsOf a 43 32 + 1, bitsOf a 31 20 + 1) })

/-- A LAUNCH begins (R245). -/
def execLaunch (q : Fin 16384) (s : State) : Out :=
  if starting s q 2 then
    match (s.queue q).stopReq with
    | some st => .next (completeOn s q st)
    | none => .next (withFarCmd s q (fun s => launchBegin s q))
  else .next s

/-- The blocks of a launch. -/
def Launch.total (l : Launch) : Nat := l.grid.1 * l.grid.2.1 * l.grid.2.2

/-- The lowest free group slot of an issue unit (log 103). -/
def freeSlotOn (s : State) (core u : Nat) : Nat :=
  ((List.range 32).find? (fun k => s.groups.all (fun kv => match kv.2 with
    | none => true
    | some g => decide (g.core ≠ core ∨ unitOf kv.1 g ≠ u ∨ g.slot ≠ k)))).getD 0

/-- A new group: every thread at the program's entry (R244). -/
def newGroup (q core : Nat) (p : Prog) (base len n : Nat) (gfx : Option Gfx) : Group :=
  { q := q, core := core, prog := p, base := base, len := len,
    threads := tabulate 32 (fun i => { pc := p.entry, exited := decide (n ≤ i) }), gfx := gfx }

/-- A group comes to its issue unit, in a free slot. -/
def placeGroup (s : State) (gk : Nat) (g : Group) : State :=
  s.setGroup gk (some { g with slot := freeSlotOn s g.core (unitOf gk g) })

/-- Whether the next block of a launch can start on a logical core, with its local memory at `base` (R242, R367, R369). -/
def blockFits (s : State) (q : Nat) (l : Launch) (quarter logical base : Nat) : Bool :=
  let core := physCore s quarter logical
  decide (l.next < l.total) && coreTakes s (s.queue q) quarter logical &&
    unitRoom s core 0 ((l.groups + 1) / 2) l.prog.regs && unitRoom s core 1 (l.groups / 2) l.prog.regs &&
    localFree s core base l.localBytes true &&
    (match s.pass quarter with
      | none => true
      | some p => p.fill && !gfxFirst p core)

/-- The next block of a launch starts (R242 to R244). -/
def blockStart (s : State) (q quarter logical base : Nat) (l : Launch) : State :=
  let core := physCore s quarter logical
  let h := (s.queue q).owner
  let b := l.next
  let x := s.queue q
  let s := s.setQueue q { x with used := if x.used.contains (.quarter quarter) then x.used else x.used ++ [.quarter quarter] }
  let s := s.setLaunch q (some { l with next := b + 1, cores := if l.cores.contains core then l.cores else l.cores ++ [core] })
  let s := s.setBlock (bKey q b) (some { core := core, groups := l.groups, regs := l.prog.regs, base := base, len := l.localBytes })
  let s := (List.range l.groups).foldl (fun s i =>
    placeGroup s (gKey q b i) (newGroup q core l.prog base l.localBytes 32 none)) s
  markBusy (coreHold s core h) core

/-- Whether a block of another running LAUNCH goes first on a core: one of a lower priority number, or of the same and started earlier,
whose next block has room there (R521). -/
def blockAhead (s : State) (q quarter logical : Nat) : Bool :=
  let key (j : Nat) : Nat × Nat := ((s.queue j).priority, (s.queue j).startSeq)
  s.launches.any (fun kv => match kv.2 with
    | none => false
    | some l => decide (kv.1 ≠ q) && issuing s kv.1 && (!unitKept s (.quarter quarter) || (s.queue kv.1).replaying) &&
        (decide ((key kv.1).1 < (key q).1) || decide ((key kv.1).1 = (key q).1 ∧ (key kv.1).2 < (key q).2)) &&
        (List.range 257).any (fun b => blockFits s kv.1 l quarter logical (1024 * b)))

/-- A block of a launch starts on a core; the device chooses the core and the place of its local memory (R243, R521). -/
def execBlockStart (q : Fin 16384) (quarter : Fin 4) (core : Fin 16) (base : Fin 257) (s : State) : Out :=
  match s.launch q with
  | none => .next s
  | some l =>
    if issuing s q && (!unitKept s (.quarter quarter) || (s.queue q).replaying) &&
        blockFits s q l quarter core (1024 * base.val) && !blockAhead s q quarter core then .next (blockStart s q quarter core (1024 * base.val) l)
    else .next s

/-! ### Ends (R280, R299, R302) -/

/-- A block whose groups have all ended leaves its core. -/
def blockDone (s : State) (bk : Nat) (h : W32) : State :=
  match s.block bk with
  | none => s
  | some b =>
    let s := s.setBlock bk none
    quarterSettle (holdSettle (markBusy (coreFree s b.core h) b.core) b.core) (b.core / 17)

/-- A group of a launch ends (R299). -/
def groupDone (s : State) (gk : Nat) (g : Group) : State :=
  let s := s.setGroup gk none
  if s.groups.any (fun kv => decide (kv.1 / 32 = gk / 32)) then s else blockDone s (gk / 32) (s.queue g.q).owner

/-- Whether an async matrix operation of a command is pending. -/
def ammaPending (s : State) (q : Nat) : Bool :=
  s.cores.any (fun kv => kv.2.ammas.any (fun m => decide (m.group / 32 / 2 ^ 32 = q)))

/-- The groups and blocks of a stopped launch leave their cores. -/
def dropGroups (s : State) (q : Nat) : State :=
  let h := (s.queue q).owner
  let bs := (s.blocks.filter (fun kv => decide (kv.1 / 2 ^ 32 = q))).map (·.1)
  let s := { s with groups := s.groups.filter (fun kv => decide (kv.1 / 32 / 2 ^ 32 ≠ q)) }
  bs.foldl (fun s bk => blockDone s bk h) s

/-- Whether a launch is over: every block has run, or it was stopped and no operation of it is left (R280, R308). -/
def launchOver (s : State) (q : Nat) (l : Launch) : Bool :=
  (match (s.queue q).stopReq with
    | none => decide (l.next = l.total) && !s.blocks.any (fun kv => decide (kv.1 / 2 ^ 32 = q))
    | some _ => true) && !ammaPending s q && decide ((s.queue q).phase = .running)

/-- A launch ends: its stores drain, its fault is recorded, its cores are scrubbed in mode 1, and the command completes. -/
def launchEnd (s : State) (q : Nat) (l : Launch) : State :=
  let s := drainQueue (dropGroups s q) q l.cores
  let fault := match s.launch q with
    | none => l.fault
    | some l => l.fault
  let s := writeFault s q fault
  let s := s.setLaunch q none
  let s := if s.fld F.fldScrubCfgMode = 1 then l.cores.foldl coreScrubDue s else s
  completeOn s q ((s.queue q).stopReq.getD stOk)

/-- A launch ends (R280). -/
def execLaunchEnd (q : Fin 16384) (s : State) : Out :=
  match s.launch q with
  | none => .next s
  | some l => if launchOver s q l then .next (launchEnd s q l) else .next s

/-! ### Scrubs and the spare (R301 to R307) -/

/-- Whether modes 0 and 1 ask for a scrub of a core: a command of another context that runs in its partition could use it (R302). -/
def coreModeScrub (s : State) (core : Nat) : Bool :=
  decide (s.fld F.fldScrubCfgMode ≠ 2) && (match (s.core core).lastCtx with
    | none => false
    | some h => s.queues.any (fun kv =>
        decide (kv.2.phase = .running ∧ (kv.2.kind = 2 ∨ kv.2.kind = 3) ∧ kv.2.owner ≠ h) &&
        kv.2.units.contains (.quarter (core / 17))))

/-- A scrub of a core begins once it holds nothing (R301 to R303). -/
def execCoreScrub (core : CoreRef) (s : State) : Out :=
  let n := coreKey core
  let c := s.core n
  if s.domOn (16 + core.quarter.val) && c.holds.isEmpty && decide (c.scrub ≠ .running) &&
      (decide (c.scrub = .due) || coreModeScrub s n) then
    .next (((idleLeave s).setCore n { c with scrub := .running }).setFld F.shaQuarterStatusScrubbing core.quarter 1)
  else .next s

/-- SCRUBBING of a quarter, from the scrubs of its cores (R302). -/
def markScrubbing (s : State) (quarter : Nat) : State :=
  s.setFld F.shaQuarterStatusScrubbing quarter
    (if (List.range 17).any (fun i => decide ((s.core (17 * quarter + i)).scrub ≠ .clean)) then 1 else 0)

/-- A scrub of a core ends: everything in it is zero (R301). -/
def execCoreScrubEnd (core : CoreRef) (s : State) : Out :=
  let n := coreKey core
  if (s.core n).scrub = .running then .next (quarterSettle (markScrubbing (s.setCore n { unit0 := (s.core n).unit0, unit1 := (s.core n).unit1 }) core.quarter) core.quarter)
  else .next s

/-- A new spare map of a quarter is held pending (R306). -/
def shaSpareMapPut (s : State) (quarter : Nat) (v : W64) : State :=
  (s.stage Reg.shaSpareMap quarter v).setFld F.shaQuarterStatusRemapPending quarter 1

/-- A write of a quarter's spare map is held pending (R306). -/
def shaSpareMapWrite (s : State) (quarter : Nat) (v : W32) : State :=
  (shaSpareMapPut s quarter (BitVec.ofNat 64 (v.toNat % 32))).answer stOk

/-- A write to a quarter's spare map (R306, R315). -/
def execShaSpareMap (quarter : Fin 4) (v : W32) (s : State) : Out :=
  .next (guarded s Reg.shaSpareMap (fun s => shaSpareMapWrite s quarter v) (some (.quarter quarter)))

/-- RETIRED of a quarter: the core that the spare map in force replaces, and those retired under R307 (R316). -/
def markRetired (s : State) (quarter : Nat) : State :=
  let map := s.rd Reg.shaSpareMap quarter
  s.setFld F.shaCoreRetiredRetired quarter
    ((s.quarter quarter).retired ||| (if bitsOf map 4 4 = 1 then 2 ^ bitsOf map 3 0 else 0))

/-- A core is retired otherwise than by the spare map (R307). -/
def retireCore (s : State) (unit : Nat) : State :=
  let x := s.quarter (unit / 17)
  markRetired (s.setQuarter (unit / 17) { x with retired := x.retired ||| 2 ^ (unit % 17) }) (unit / 17)

/-- The pending spare map of a quarter takes effect; the spare is scrubbed before its first block (R303, R306, R316). -/
def coreRemap (s : State) (quarter : Nat) : State :=
  let old := s.rd Reg.shaSpareMap quarter
  let s := (s.unstage Reg.shaSpareMap quarter).setFld F.shaQuarterStatusRemapPending quarter 0
  let new := s.rd Reg.shaSpareMap quarter
  let s := markRetired s quarter
  if bitsOf new 4 4 = 1 ∧ old ≠ new then coreScrubDue s (17 * quarter + 16) else s

/-- Whether the logical cores that a pending map affects hold nothing (R306). -/
def remapFree (s : State) (quarter : Nat) : Bool :=
  (remapAffects s quarter).all (fun l => (s.core (physCore s quarter l)).holds.isEmpty)

/-- The affected logical cores hold nothing, and the pending spare map takes effect (R306). -/
def execCoreRemap (quarter : Fin 4) (s : State) : Out :=
  if s.fld F.shaQuarterStatusRemapPending quarter = 1 ∧ remapFree s quarter then
    .next (coreRemap s quarter)
  else .next s

end Sys2Proof.Machine
end

