-- ==== Sys2Proof/Machine/MemRows.lean ====
section
/-! DEFINITION. The commands of the memory and translation blocks (spec/09; row repair, spec/16 R785 to R790). A command whose
enabling condition does not hold leaves the state as it is (log 1). -/

namespace Sys2Proof.Machine

open Sys2Proof

/-! ### The stacked-DRAM range map (R422 to R427) -/

/-- Whether intervals, each a start and a length, cover 0 to `n` with no gap and no overlap. -/
def tiles (n : Nat) (l : List (Nat × Nat)) : Bool :=
  decide ((l.map (·.2)).foldl (· + ·) 0 = n) && l.all (fun a => decide (a.1 + a.2 ≤ n)) &&
    l.zipIdx.all (fun a => l.zipIdx.all (fun b => decide (a.2 = b.2 ∨ a.1.1 + a.1.2 ≤ b.1.1 ∨ b.1.1 + b.1.2 ≤ a.1.1)))

/-- The courts that a descriptor names. -/
def rangeCourts (d : W64) : List Nat := (List.range 16).filter (fun n => natBit (bitsOf d 62 47) n)

/-- Whether a map is valid (R424); intervals of the window in units of 2 MiB. -/
def mapValid (ds : List W64) : Bool :=
  let vs := ds.filter (fun d => bitsOf d 63 63 = 1)
  vs.all (fun d => decide (bitsOf d 62 47 ≠ 0 ∧ 1 ≤ bitsOf d 32 24 ∧ bitsOf d 32 24 ≤ 256 ∧
    bitsOf d 23 16 + bitsOf d 32 24 ≤ 256)) &&
  tiles 16384 (vs.map (fun d => (bitsOf d 46 33, 4 * (rangeCourts d).length * bitsOf d 32 24))) &&
  (List.range 16).all (fun n =>
    tiles 256 ((vs.filter (fun d => (rangeCourts d).contains n)).map (fun d => (bitsOf d 23 16, bitsOf d 32 24))))

/-- A write of MEM_SD_COMMIT: GO checks the next map and takes it into a whistle (R425, R426). -/
def sdCommit (s : State) (go : Bool) : State :=
  if !go then s.answer stOk
  else if s.fld F.memSdCommitGo = 1 ∨ (s.ctxs.any (fun kv => kv.2.state ≠ .free)) then s.answer stBusy
  else
    let ds := tabulate 32 (fun i => s.rdStaged Reg.memSdRange i)
    if mapValid ds then
      let s := (s.setFld F.memSdCommitGo 0 1).setFld F.memSdCommitFailed 0 0
      (whistleStart s .sdMap (ds.zipIdx.map (fun d => (Reg.key Reg.memSdRange d.2, d.1)))).answer stOk
    else (s.setFld F.memSdCommitFailed 0 1).answer stInvalid

/-- A write of MEM_SD_COMMIT (R425). -/
def execMemSdCommit (v : W32) (s : State) : Out :=
  .next (guarded s Reg.memSdCommit (fun s => sdCommit s (natBit v.toNat 0)))

/-- Every byte of the stacked DRAM reads 0, its errors overwritten. -/
def zeroSd (s : State) : State :=
  { s.mend (fun l => isSd (l * 128)) with
    mem := SMap.clear s.mem 0x4000000000 0x4800000000
    dirty := s.dirty.filter (fun kv => !isSd (kv.1 * 128)) }

/-- The zeroing under a new map ends (R426). -/
def execSdZeroingEnd (s : State) : Out :=
  if s.zeroing then .next { (zeroSd s).setFld F.memSdCommitGo 0 0 with zeroing := false } else .next s

/-! ### Walks, the patrol, the system cache and service classes -/

/-- The holder that a command names. -/
def holderOf (h : HolderRef) : Holder :=
  match h with
  | .court n => .court n
  | .core c => .core (c.quarter.val * 17 + c.core.val)
  | .raster q => .raster q
  | .pipe p => .pipe p
  | .channel c => .channel c
  | .net => .net

/-- The access that a walk is for. -/
def accessOf (a : WalkFor) : Access :=
  match a with
  | .load => .load
  | .store => .store
  | .atomic => .atomic
  | .fetch => .fetch

/-- A walk for an access of a context: what it reads, caches, counts and notes (R460, R461, R466, R477). -/
def execTableWalk (ho : HolderRef) (h : W32) (acc : WalkFor) (va : W64) (s : State) : Out :=
  if s.staleCtx h then .next s else .next (xlate s (some (holderOf ho)) h (accessOf acc) va.toNat).2

/-- The lines of LPDDR5X. -/
def lpLines (s : State) : Nat := if s.eccOn then 0x3C00000000 / 128 else 0x4000000000 / 128
/-- The lines of both DRAMs. -/
def dramLines (s : State) : Nat := lpLines s + 0x800000000 / 128

/-- The patrol's number for a line: LPDDR5X first. -/
def patrolIndex (s : State) (line : Nat) : Nat :=
  if isSd (line * 128) then lpLines s + (line - 0x4000000000 / 128) else line

/-- The patrol reads its next lines: what it can correct it corrects, and each uncorrectable line is logged (R438). -/
def patrolRun (s : State) (n : Nat) : State :=
  let total := dramLines s
  let inside (l : Nat) : Bool := decide ((patrolIndex s l + total - s.patrol) % total < n)
  let s' := (s.ce.filter inside).foldl correctLine s
  let s' := (s.ue.filter inside).foldl (fun t l => logUe t l (ueSource t l) true) s'
  { s' with patrol := (s.patrol + n) % total }

/-- The patrol scrubber reads the next lines (R438); HOURS 0 stops it, and so does a DRAM domain that is not ON. -/
def execPatrol (lines : BitVec 36) (s : State) : Out :=
  if s.fld F.memPatrolCfgHours ≠ 0 ∧ s.domOn domLpddr ∧ s.domOn domStacked then .next (patrolRun s lines.toNat) else .next s

/-- The dirty lines of ways of a slice are written back. -/
def writeBack (s : State) (slice ways : Nat) : State :=
  { s with dirty := s.dirty.filter (fun kv => !(decide (sliceOf (kv.1 * 128) = slice) && natBit ways (Config.scWay kv.1 % 16))) }

/-- A write of MEM_SC_RETIRE: the dirty lines of the retired ways are written back (R447). -/
def scRetire (s : State) (i : Nat) (v : W32) : State :=
  ((writeBack s i (bitsOf (v.setWidth 64) 15 0)).wrPlain Reg.memScRetire i (v.setWidth 64)).answer stOk

/-- Cache ways are retired (R447). -/
def execMemScRetire (slice : Fin 16) (v : W32) (s : State) : Out :=
  .next (guarded s Reg.memScRetire (fun s => scRetire s slice v))

/-- A write of MEM_QOS_CFG (R476). -/
def qosWrite (s : State) (v : W32) : State :=
  if (List.range 4).any (fun i => decide (natBits v.toNat (8 * i + 7) (8 * i) = 0)) then s.answer stInvalid
  else (s.wrPlain Reg.memQosCfg 0 (v.setWidth 64)).answer stOk

/-- A write to MEM_QOS_CFG (R476). -/
def execMemQosCfg (v : W32) (s : State) : Out := .next (guarded s Reg.memQosCfg (fun s => qosWrite s v))

/-! ### Translation commands (R468 to R474) -/

/-- Whether a unit's read of another device's memory is an access of a context: of its command or thread groups, of the layers of a
pipe, or of a stream. -/
def farOf (s : State) (h : W32) (u : Nat) : Bool :=
  if u < 2 ^ 20 then decide ((s.queue u).owner = h)
  else if u < 2 ^ 60 then decide ((s.queue ((u - 2 ^ 20) / 32 / 2 ^ 32)).owner = h)
  else if u < streamUnit 0 then (s.pipe (u - 2 ^ 60)).layers.any (fun kv => match kv.2 with
    | some (o, _) => decide (o = h)
    | none => false)
  else if u < talkUnit 0 then decide ((s.stream (u - streamUnit 0)).owner = h)
  else decide ((s.stream (u - talkUnit 0)).owner = h) || (s.stream (u - talkUnit 0)).frames.any (fun f => decide (f.owner = h))

/-- Whether an access of a context is unanswered: of its commands, of its stores that merging buffers hold, of writeback and streams,
or one that nothing else waits for (R471). -/
def ctxOutstanding (s : State) (h : W32) : Bool :=
  s.queues.any (fun kv => decide (kv.2.owner = h) && outstanding s kv.1) ||
  s.merge.any (fun e => e.queues.any (fun q => decide ((s.queue q).owner = h))) ||
  s.far.any (fun f => !f.done && farOf s h f.unit) ||
  awaits s (fun u => match u with
    | .held o => decide (o = h)
    | .notice o => decide (o = h)
    | .slot i _ => decide ((s.stream i).owner = h)
    | .frame p seq => (s.pipe p).recs.any (fun r => decide (r.seq = seq ∧ r.owner = h))
    | _ => false)

/-- The operation of a translation record, and its range; `none` for a record that R469 refuses. -/
def xlateRecord (ws : List W64) : Option (Nat × Nat × Nat) :=
  let op := bitsOf (ws.getD 0 0) 63 56
  let va := bitsOf (ws.getD 1 0) 47 0
  let pages := (ws.getD 2 0).toNat
  if op = 1 then
    if va % 4096 ≠ 0 ∨ pages = 0 ∨ 2 ^ 48 < va + pages * 4096 then none else some (1, va, pages * 4096)
  else if op = 2 ∨ op = 3 then some (op, 0, 0)
  else none

/-- SEL of a context, as it stands in its record (R481). -/
def writeSel (s : State) (i : Nat) : State :=
  let a := ctxRecordAddr s i + 8
  (memStoreNat s a 8 (s.readNat a 8 / 2 * 2 + (if (s.ctx i).sel then 1 else 0))).2

/-- What a translation command does to the context's cached translations and roots (R470, R481). -/
def xlateEffect (s : State) (h : W32) (op va len : Nat) : State :=
  match op with
  | 1 => dropRange s h va len
  | 2 => dropAll s h
  | _ =>
    let c := s.ctx (hIndex h)
    dropAll (writeSel (s.setCtx (hIndex h) { c with sel := !c.sel }) (hIndex h)) h

/-- A translation command that has taken effect completes once no access of its context is unanswered (R471); preloads of its context
are then discarded (R527). -/
def xlateSettle (s : State) (qi : Nat) : State :=
  if ctxOutstanding s (s.queue qi).owner then s
  else complete (noPreloads (s.bump F.mmuXlateCmdsCount) (fun q => q.owner = (s.queue qi).owner)) qi stOk

/-- A translation command: begun for a record with operation `op`, refused with INVALID_COMMAND for a record that R469 refuses;
once begun, its completion (R469 to R471). -/
def xlateCommand (s : State) (qi op : Nat) : State :=
  let q := s.queue qi
  if q.begun then
    match q.stopReq with
    | some st => complete s qi st
    | none => xlateSettle s qi
  else
    match q.stopReq with
    | some st => complete s qi st
    | none => withFarCmd s qi (fun t =>
      match ctxReadObj t none q.owner .load q.object 32 with
      | (.error e, t) => complete (beginCmd t qi (some 10000000)) qi e
      | (.ok bs, t) =>
        match xlateRecord (wordsOf bs) with
        | none => complete t qi stInvalid
        | some (o, va, len) =>
          if o = op then xlateSettle (xlateEffect (beginCmd t qi (some 10000000)) q.owner o va len) qi
          else { s with farUnit := t.farUnit, farMiss := t.farMiss, farLack := t.farLack, far := t.far })

/-- Whether a TRANSLATE command runs on a queue. -/
def translating (s : State) (qi : Nat) : Bool :=
  let q := s.queue qi
  decide (q.phase = .running ∧ q.kind = 5)

/-- INVAL_RANGE (R470). -/
def execInvalRange (q : Fin 16384) (s : State) : Out := if translating s q then .next (xlateCommand s q 1) else .next s

/-- INVAL_ALL (R470). -/
def execInvalAll (q : Fin 16384) (s : State) : Out := if translating s q then .next (xlateCommand s q 2) else .next s

/-- ROOT_SWITCH (R470). -/
def execRootSwitch (q : Fin 16384) (s : State) : Out := if translating s q then .next (xlateCommand s q 3) else .next s

/-! ### Row repair (R785 to R790) -/

/-- The channel, or 64 + controller, of a local address. -/
def rowPlace (s : State) (a : Nat) : Nat := if isSd a then sdChannel s a else 64 + lpController a

/-- Whether two local addresses lie in one row. -/
def sameRow (s : State) (a b : Nat) : Bool :=
  decide (rowPlace s a = rowPlace s b ∧ Config.rowOf a = Config.rowOf b)

/-- Whether the row of an address has cause to be remapped: an address offered for repair, or three corrections within 24 hours
(R785). -/
def rowFailing (s : State) (a : Nat) : Bool :=
  s.repairs.any (fun r => sameRow s r a) ||
  decide (3 ≤ (s.ceLog.filter (fun e => sameRow s (e.1 * 128) a && decide (s.now < e.2 + 86400000000000))).length)

/-- A row is copied to a spare and its remap entry switched, or the table is full (R786, R787, R790). -/
def rowRemap (s : State) (a : Nat) : State :=
  let place := rowPlace s a
  let row := Config.rowOf a
  let pa := s.device * 2 ^ 40 + a
  let typ := if isSd a then 6 else 7
  let forget (s : State) : State :=
    { s with
      repairs := s.repairs.filter (fun r => !sameRow s r a)
      ceLog := s.ceLog.filter (fun e => !sameRow s (e.1 * 128) a) }
  let used := (s.rowMaps.filter (fun e => e.1 = place)).length
  let room := if isSd a then 32 else 64
  if used < room then
    let rep : Repair := { typ := typ, unit := if isSd a then place else place - 64, addr := row, time := s.now }
    let s : State := { forget s with
      rowMaps := s.rowMaps ++ [(place, row)]
      journalDue := s.journalDue ++ [rep] }
    if isSd a then event (s.bump F.stwSdRowRemapsCount) 0x0E16 0 pa place
    else event (s.bump F.stwLpRowRepairsCount) 0x0E17 0 pa 0
  else event (forget s) 0x0E18 0 pa typ

/-- A controller remaps a failing row (R785 to R790): not one of LPDDR5X with inline ECC off (R789), and not one that is
remapped already. -/
def execRowRemap (a : BitVec 40) (s : State) : Out :=
  let a := a.toNat
  if s.exists? a ∧ rowFailing s a ∧ (isSd a ∨ s.eccOn) ∧ ¬ s.rowMaps.contains (rowPlace s a, Config.rowOf a) then
    .next (rowRemap s a)
  else .next s

end Sys2Proof.Machine
end

