-- ==== Sys2Proof/Machine/FieldRows.lean ====
section
/-! DEFINITION. The commands of the whistle and of the matrix field (spec/14 R729 to R732, spec/03, spec/04). A command whose
enabling condition does not hold leaves the state as it is (log 1). -/

namespace Sys2Proof.Machine

open Sys2Proof

/-- A write of FE_PART_COMMIT (R516, R547). -/
def execFePartCommit (v : W32) (s : State) : Out :=
  .next (guarded s Reg.fePartCommit (fun s => partCommit s (natBit v.toNat 0)))

/-- A participant latches a whistle's change and reports (R731). -/
def execWhistleReport (unit : Fin 28) (s : State) : Out := .next (whistleReport s unit)

/-- 1 ms passes with a participant unreported (R731). -/
def execWhistleTimeout (s : State) : Out := .next (whistleTimeout s)

/-- A write of FLD_FMT_DEFAULT goes to the whistle (R94). -/
def fmtDefaultWrite (s : State) (v : W32) : State :=
  (whistleStart s .fmtDefault [(Reg.key Reg.fldFmtDefault 0, BitVec.ofNat 64 (v.toNat % 2))]).answer stOk

/-- A write to FLD_FMT_DEFAULT (R94). -/
def execFldFmtDefault (v : W32) (s : State) : Out := .next (guarded s Reg.fldFmtDefault (fun s => fmtDefaultWrite s v))

/-- A write of FLD_SCRUB_CFG: MODE goes to the whistle unless it is locked, and LOCK follows it, so that MODE takes the written value
and then locks (R15, R164, R165, R169, R170; log 100). -/
def scrubCfgWrite (s : State) (v : W32) : State :=
  let mode := bitsOf v 1 0
  if mode = 3 then s.answer stInvalid
  else if scrubLocked s then s.answer stOk
  else (whistleStart s .scrubMode [(Reg.key Reg.fldScrubCfg 0, BitVec.ofNat 64 mode)] (natBit v.toNat 31)).answer stOk

/-- A write to FLD_SCRUB_CFG (R164, R169, R170). -/
def execFldScrubCfg (v : W32) (s : State) : Out := .next (guarded s Reg.fldScrubCfg (fun s => scrubCfgWrite s v))

/-- A write of a court's spare map: refused where a row has USED and SPARE_BAD, else pending (R154, R172). -/
def spareMapWrite (s : State) (n : Nat) (v : W64) : State :=
  if (List.range 8).any (fun r => natBit v.toNat (8 * r + 4) && natBit v.toNat (8 * r + 5)) then s.answer stInvalid
  else ((s.stage Reg.fldSpareMap n (v &&& 0x3F3F3F3F3F3F3F3F#64)).setFld F.fldCourtStatusRemapPending n 1).answer stOk

/-- A write to a court's spare map (R154, R172). -/
def execFldSpareMap (court : Fin 16) (v : W64) (s : State) : Out :=
  .next (guarded s Reg.fldSpareMap (fun s => spareMapWrite s court v) (some (.court court)))

/-- The rows of a court whose spare is in use under a spare map. -/
def sparesUsed (m : W64) : Nat := ((List.range 8).filter (fun r => natBit m.toNat (8 * r + 4))).length

/-- A court's pending spare map takes effect, and the spares that come into use are scrubbed first (R154, R155). -/
def courtRemap (s : State) (n : Nat) : State :=
  let old := s.rd Reg.fldSpareMap n
  let s := s.unstage Reg.fldSpareMap n
  let new := s.rd Reg.fldSpareMap n
  let s := (s.setFld F.fldCourtStatusRemapPending n 0).setFld F.fldCourtStatusSparesUsed n (sparesUsed new)
  let c := s.court n
  let fresh := (List.range 8).filter (fun r => natBit new.toNat (8 * r + 4) &&
    (!natBit old.toNat (8 * r + 4) || decide (bitsOf old (8 * r + 3) (8 * r) ≠ bitsOf new (8 * r + 3) (8 * r))))
  s.setCourt n { c with pads := fresh.foldl (fun p r => SMap.clear p ((r * 17 + 16) * 65536) ((r * 17 + 17) * 65536)) c.pads }

/-- A court that holds no command applies its pending spare map (R154). -/
def execCourtRemap (court : Fin 16) (s : State) : Out :=
  if s.fld F.fldCourtStatusRemapPending court = 1 ∧ s.fld F.fldCourtStatusBusy court = 0 then .next (courtRemap s court)
  else .next s

/-- A FIELD command begins, in a replay too only where no court that it may use has a scrub or a spare map pending (R154, R162, R211). -/
def execField (q : Fin 16384) (s : State) : Out :=
  if starting s q 1 then
    match (s.queue q).stopReq with
    | some st => .next (completeOn s q st)
    | none =>
      if courtsReady s (courtsIn (s.queue q).units) (queuePart s (s.queue q)) (s.queue q).owner then
        .next (withFarCmd s q (fun s => fieldBegin s q (replayWords s q)))
      else .next s
  else .next s

/-- The sequencer decodes a bundle and the partition's next court-clock cycle passes (R191 to R194, R206). -/
def execBundle (part : Fin 16) (s : State) : Out := .next (bundleClock s part)

/-- A court-clock cycle of a partition with a bundle in progress (R192, R143). -/
def execScheduleCycle (part : Fin 16) (s : State) : Out := .next (courtClock s part)

/-- Flits of the field network land (R127). -/
def execNetworkTransferArrival (part : Fin 16) (s : State) : Out := .next (landFlits s part)

/-- The partition whose run has a DMA slot on a court's stream. -/
def dmaPart (s : State) (court stream : Nat) : Option Nat :=
  (List.range 16).find? (fun p => match (s.field p).run with
    | none => false
    | some r => r.dma.any (fun d => decide (d.court = court ∧ d.stream = stream)))

/-- Whether the oldest slot of a stream is a load of a command behind a fence: its reads are refused (R747). -/
def dmaFenced (s : State) (p court stream : Nat) : Bool := match (s.field p).run with
  | none => false
  | some r => decide ((s.queue r.q).phase = .halted) &&
    (match r.dma.find? (fun d => decide (d.court = court ∧ d.stream = stream)) with
      | none => false
      | some d => !d.isStore)

/-- The oldest DMA slot of a stream completes (R134, R219). -/
def execDmaComplete (court : Fin 16) (stream : Fin 2) (s : State) : Out :=
  match dmaPart s court stream with
  | none => .next s
  | some p => .next (if dmaFenced s p court stream then s else dmaComplete s p court stream)

/-- HOLD_US passes after the last heavy phase (R689). -/
def execHeavyHoldExpiry (s : State) : Out :=
  match s.heavyEnd with
  | none => .next s
  | some t =>
    if t + s.fld F.pwrVoltCfgHoldUs * 1000 ≤ s.now then .next (railFollow { s.setFld F.pwrStatusHeavy 0 0 with heavyEnd := none })
    else .next s

/-- A field command ends (R204). -/
def execFieldEnd (part : Fin 16) (s : State) : Out := .next (fieldEnd s part)

/-- Whether mode 0 asks for a scrub of a court: a field command of its partition that is ready, or picked and not begun, belongs to
another context than the court's last one (R160). -/
def modeScrub (s : State) (n : Nat) : Bool :=
  decide (s.fld F.fldScrubCfgMode = 0) && (match (s.court n).lastCtx, courtPart s n with
    | some h, some p => s.queues.any (fun kv =>
        decide ((kv.2.phase = .ready ∨ (kv.2.phase = .running ∧ kv.2.begun = false)) ∧ kv.2.kind = 1 ∧ queuePart s kv.2 = p ∧ kv.2.owner ≠ h))
    | _, _ => false)

/-- A scrub of a court begins (R160, R161, R162). -/
def execCourtScrub (court : Fin 16) (s : State) : Out :=
  let c := s.court court
  if s.domOn court ∧ s.fld F.fldCourtStatusBusy court = 0 ∧ c.scrub ≠ .running ∧ (c.scrub = .due ∨ modeScrub s court) then
    .next (((idleLeave s).setCourt court { c with scrub := .running }).setFld F.fldCourtStatusScrubbing court 1)
  else .next s

/-- A scrub of a court ends (R157, R158). -/
def execCourtScrubEnd (court : Fin 16) (s : State) : Out :=
  let c := s.court court
  if c.scrub = .running then
    .next (courtSettle ((s.setCourt court c.scrubbed).setFld F.fldCourtStatusScrubbing court 0) court)
  else .next s

/-- A droop detector fires: a court's stretches its partition, a quarter's its quarter (R146, R690). -/
def execDroopDetect (site : Fin 20) (s : State) : Out :=
  if s.domOn site then
    let s := s.bump F.pwrDroopCountCount
    if site.val < 16 then
      match courtPart s site with
      | none => .next s
      | some p => .next (s.setField p { s.field p with stretched := true })
    else
      let q := site.val - 16
      .next (s.setQuarter q { s.quarter q with stretched := true })
  else .next s

/-- STRETCH_CYCLES pass after the last detection (R690). -/
def execStretchEnd (clock : StretchRef) (s : State) : Out :=
  match clock with
  | .partition p => .next (s.setField p { s.field p with stretched := false })
  | .quarter q => .next (s.setQuarter q { s.quarter q with stretched := false })

end Sys2Proof.Machine
end

