-- ==== Sys2Proof/Machine/Recorder.lean ====
section
/-! DEFINITION. The event recorder's ring: freezes, flushes to flash, token buckets, and the registers of its block
(spec/16 R798 to R802, R809, R810). -/

namespace Sys2Proof.Machine

open Sys2Proof

/-- A hold of the ring ends with one THAWED record that gives the number not written (R800, R801). -/
def thawed (s : State) : State := putRecord { s with unwritten := 0 } 0x0F02 0 s.unwritten 0

/-- A freeze ends (R800). -/
def thaw (s : State) : State :=
  if s.fld F.evrFreezeFrozen = 1 then
    let s := s.setFld F.evrFreezeFrozen 0 0
    if s.flushing then s else thawed s
  else s

/-- A freeze begins (R800). -/
def freeze (s : State) : State :=
  if s.fld F.evrFreezeFrozen = 1 then s
  else { s.setFld F.evrFreezeFrozen 0 1 with stw := { s.stw with frozenAt := s.now }, unwritten := if s.flushing then s.unwritten else 0 }

/-- A write of EVR_FREEZE (R800, R810): of FREEZE and THAW, the one that acts on the state before the write. -/
def evrFreezeWrite (s : State) (v : W32) : State :=
  let ms := bitsOf v 23 8
  if ms = 0 ∨ 60000 < ms then s.answer stInvalid
  else
    let frozen := s.fld F.evrFreezeFrozen = 1
    let s := s.setFld F.evrFreezeFreezeMaxMs 0 ms
    let s := if frozen then (if natBit v.toNat 1 then thaw s else s)
             else if natBit v.toNat 0 then freeze s else s
    s.answer stOk

/-- A write of EVR_FREEZE with FREEZE set (R800, R810). -/
def execFreeze (v : W32) (s : State) : Out := .next (guarded s Reg.evrFreeze (fun s => evrFreezeWrite s (v ||| 1)))

/-- A write of EVR_FREEZE with THAW set (R800, R810). -/
def execThaw (v : W32) (s : State) : Out := .next (guarded s Reg.evrFreeze (fun s => evrFreezeWrite s (v ||| 2)))

/-- FREEZE_MAX_MS passes (R800). -/
def execFreezeTimeout (s : State) : Out :=
  if s.fld F.evrFreezeFrozen = 1 ∧ s.stw.frozenAt + s.fld F.evrFreezeFreezeMaxMs * 1000000 ≤ s.now then .next (thaw s)
  else .next s

/-- A cause of R801 arises: it joins a flush that is in progress or about to begin (R802). -/
def flushCause (s : State) (cause : Nat) : State :=
  if s.flushing ∨ s.stw.flushDue.isSome then s else { s with stw := { s.stw with flushDue := some cause } }

/-- Step 1 of a flush (R801): the freeze ends, a FLUSH record is written, and writing stops. With no erased region there is no
flush (R802). -/
def flushBegin (s : State) (cause : Nat) : State :=
  let s := { s with stw := { s.stw with flushDue := none } }
  match (List.range 2).find? (fun r => decide (s.stw.flushed.getD r none = none)) with
  | none => s.bumpSat F.evrFlushStatusFlushSkips
  | some r =>
    let s := thaw s
    let s := putRecord s 0x0F03 0 cause (s.fld F.evrHeadCount + 1)
    { s with flushing := true, unwritten := 0, stw := { s.stw with flushRegion := some r } }

/-- The steward begins to flush the ring for a cause of R801 (R801, R802). -/
def execFlush (s : State) : Out :=
  match s.stw.flushDue with
  | none => .next s
  | some c => .next (flushBegin s c)

/-- The words of the ring that differ from 0. -/
def ringWords (s : State) : SMap W64 :=
  (s.regs.filter (fun kv => decide (Reg.key Reg.evrRing 0 ≤ kv.1 ∧ kv.1 < Reg.key Reg.evrRing 4096))).map
    (fun kv => (kv.1 - Reg.key Reg.evrRing 0, kv.2))

/-- Step 3 of a flush (R801): the region holds the ring, and writing resumes after a THAWED record. -/
def flushDone (s : State) : State :=
  match s.stw.flushRegion with
  | none => s
  | some r =>
    let s : State := { s with
      flushing := false
      stw := { s.stw with flushed := s.stw.flushed.set r (some (ringWords s)), lastFlush := some r, flushRegion := none } }
    thawed (s.setFld F.evrFlushStatusLast 0 r)

/-- The flush region is verified (R801). -/
def execFlushDone (s : State) : Out := if s.flushing then .next (flushDone s) else .next s

/-- PWR_FAIL_N has been low for 10 µs (R801, R868). -/
def execPwrFail (s : State) : Out :=
  if s.power.on ∧ s.power.failLow = false then
    .next (flushCause { s with power := { s.power with failLow := true } } 1)
  else .next { s with power := { s.power with failLow := true } }

/-- PWR_FAIL_N returns high with power held: POWER_RESTORED is written, and the region not flushed last is erased (R801). While a
flush is in progress its own region is kept. -/
def execPowerRestored (s : State) : Out :=
  if s.power.failLow then
    let s := { s with power := { s.power with failLow := false } }
    if s.power.on then
      let s := putRecord s 0x0F04 0 0 0
      match s.stw.lastFlush with
      | none => .next s
      | some r => .next { s with stw := { s.stw with flushed := s.stw.flushed.set (1 - r) none } }
    else .next s
  else .next s

/-- The tokens that RATE gives return to every limited code's bucket (R798). -/
def execTokenRefill (s : State) : Out :=
  let returned := s.buckets.map (fun kv => (kv.1, kv.2.back s.now (s.fld F.evrCfgRate)))
  .next { s with buckets := returned.filter (fun kv => decide (kv.2 ≠ ({} : Bucket))) }

/-- A write of EVR_CFG (R798, R810): a bucket above the new BURST falls to it. -/
def evrCfgWrite (s : State) (v : W32) : State :=
  let rate := bitsOf v 31 16
  let burst := bitsOf v 15 0
  if rate = 0 ∨ 1000 < rate ∨ burst = 0 ∨ 1024 < burst then s.answer stInvalid
  else
    let old := s.fld F.evrCfgBurst
    let was := s.fld F.evrCfgRate
    let s := s.wrPlain Reg.evrCfg 0 (v.setWidth 64)
    let b (x : Bucket) : Bucket :=
      let x := x.back s.now was
      let tokens := min (old - x.used) burst
      { x with used := burst - tokens, since := if burst = tokens then 0 else s.now }
    let all := [0x0101, 0x0102, 0x0103, 0x0104, 0x0105, 0x0109, 0x0201, 0x0202, 0x0204, 0x0601, 0x0602, 0x0701, 0x0702,
      0x0A01, 0x0A02, 0x0A03, 0x0A04, 0x0B01, 0x0B02, 0x0B03, 0x0C01, 0x0C02, 0x0E03, 0x0E10]
    let s := { s with buckets := all.foldl (fun (m : SMap Bucket) c => SMap.set {} m c (b (SMap.get {} m c))) s.buckets }
    s.answer stOk

/-- A write to EVR_CFG (R798). -/
def execEvrCfg (v : W32) (s : State) : Out := .next (guarded s Reg.evrCfg (fun s => evrCfgWrite s v))

/-- A bit of TRAY_IBI_CAUSE is set (R851, R852); with its bit of TRAY_IBI_EN the in-band interrupt is raised. -/
def trayCause (s : State) (bit : Nat) : State :=
  let t := s.stw.tray
  let s := { s with stw := { s.stw with tray := { t with ibiCause := t.ibiCause ||| 2 ^ bit } } }
  if natBit t.ibiEn bit then s.emit (.ibi bit) else s

/-- A bit of STW_IRQ_CAUSE is set (R853). -/
def hostCause (s : State) (bit : Nat) : State := s.setFld F.stwIrqCauseCause 0 (s.fld F.stwIrqCauseCause ||| 2 ^ bit)

end Sys2Proof.Machine
end

