-- ==== Sys2Proof/Machine/Domains.lean ====
section
/-! DEFINITION. The huddle, entry to STANDBY and WATCH, wake, the watch state, and power domains with their pads
(spec/14 R676 to R682, R694 to R708). -/

namespace Sys2Proof.Machine

open Sys2Proof

/-! ### Watch resources (R708, R834, R836) -/

/-- The first of the STW_CLAIM registers `ks` that the watch state holds with a function, else the first without an owner. -/
def claimPick (s : State) (ks : List Nat) (fn : Nat) : Option Nat :=
  (ks.find? (fun k => decide (s.fld F.stwClaimOwner k = 1 ∧ s.fld F.stwClaimFunction k = fn))).orElse
    (fun _ => ks.find? (fun k => decide (s.fld F.stwClaimOwner k = 0)))

/-- The watch state holds a resource with a function; the claims that are new are listed. -/
def claimTake (s : State) (k fn : Nat) : State :=
  if s.fld F.stwClaimOwner k = 0 then
    let s := (s.setFld F.stwClaimOwner k 1).setFld F.stwClaimFunction k fn
    { s with power := { s.power with watchClaims := s.power.watchClaims ++ [k] } }
  else s

/-- The watch state's resources: one timer, one side buffer, and a pin for each I²S and I3C controller function. `none`: one
of them is owned elsewhere. -/
def watchClaim (s : State) : Option State :=
  let want : List (List Nat × Nat) :=
    [(List.range' 16 4, 0), (List.range' 20 2, 0)] ++ (List.range' 2 5).map (fun f => (List.range 16, f))
  want.foldl (fun o (w : List Nat × Nat) => match o with
    | none => none
    | some s => (claimPick s w.1 w.2).map (fun k => claimTake s k w.2)) (some s)

/-- The resources that the entry took are released (R704, R708). -/
def watchRelease (s : State) : State :=
  let ks := s.power.watchClaims
  let s : State := { s with power := { s.power with watchClaims := [] } }
  ks.foldl (fun s k => (s.setFld F.stwClaimOwner k 0).setFld F.stwClaimFunction k 0) s

/-! ### The huddle (R696 to R699) -/

/-- The register block index of an agent (R698). -/
def agentBlock : HuddleAgent → Nat
  | .steward => 0x00
  | .frontEnd => 0x02
  | .composer => 0x06
  | .memory => 0x08
  | .ethernet => 0x0A
  | .ihlique => 0x0C
  | .compression => 0x0D
  | .referee => 0x0E

/-- The blocks of the agents of a huddle for STANDBY or WATCH. -/
def huddleAgents : List Nat := [0x00, 0x02, 0x06, 0x08, 0x0A, 0x0C, 0x0D, 0x0E]

/-- An agent's answer. -/
inductive HuddleSays where
  | accept | delay
  | refuse (reason : Nat)
deriving DecidableEq, Repr

/-- Whether a queue's command is running: started and not completed. -/
def Queue.runs (q : Queue) : Bool := match q.phase with
  | .running | .draining .. | .signalling .. | .halted => true
  | _ => false

/-- What an agent answers (R698). -/
def huddleSays (s : State) (target : Nat) : HuddleAgent → HuddleSays
  | .frontEnd =>
    if s.queues.any (fun kv => queueReady s kv.2) then .refuse 1
    else if s.queues.any (fun kv => kv.2.runs) then .delay
    else .accept
  | .composer => if (List.range 4).all (fun p => decide (s.fld F.lyrPipeStatusState p = lcOff)) then .accept else .refuse 2
  | .ethernet =>
    if (runningStreams s).isEmpty = false then .refuse 3
    else if target = pwWatch ∧ s.qps.any (fun kv => !kv.2.reqs.isEmpty) then .delay
    else .accept
  | .ihlique => if (List.range 4).all (fun p => decide (s.fld F.iqlPortStatusState p = lcOff)) then .accept else .refuse 4
  | .compression => if s.queues.any (fun kv => kv.2.runs && decide (kv.2.kind = 6)) then .delay else .accept
  | .memory => if target = pwWatch ∧ s.fld F.pwrWatchSaveValid = 0 then .refuse 6 else .accept
  | .referee =>
    if s.inspects.any (fun x => x.running) then .refuse 7
    else if s.recoveries.isEmpty then .accept
    else .delay
  | .steward =>
    if s.stw.update.isSome then .delay
    else if target = pwWatch ∧ (watchClaim s).isNone then .refuse 8 else .accept

/-- A refused huddle (R699). -/
def huddleRefused (s : State) (target block reason : Nat) : State :=
  event (huddleOver s 2 block reason) 0x0104 0 (block * 256 + reason) target

/-! ### Entry (R700, R702) -/

/-- The domains in the order in which an entry stops them (R700): domain 27 before 26, the main fabric last. -/
def entryOrder (kept : List Nat) : List Nat :=
  ((List.range 26).reverse.filter (fun d => !kept.contains d)) ++ [domStacked, domLpddr, domFabric]

/-- An entry goes on: the next domain gets its stop; the last one OFF ends it (R699, R700, R873). -/
def entryAdvance (s : State) : State :=
  match s.power.entering with
  | none => s
  | some target =>
    if s.power.saving then s
    else
      match (entryOrder s.power.kept).find? (fun d => decide (s.domState d ≠ lcOff)) with
      | some d => if s.domState d = lcStopping ∨ s.domState d = lcPendingOff then s else domStop s d
      | none =>
        let s := (s.setFld F.pwrStateStatusState 0 target).setFld F.pwrStateStatusResult 0 1
        let s := s.setFld F.pwrStateStatusHuddle 0 0
        { s with power := { s.power with entering := none, clkReqHigh := true } }

/-- Every resident queue is benched, and every preload is discarded (R531, R700). -/
def benchAll (s : State) : State :=
  let s := (s.queues.filter (fun kv => kv.2.slot.isSome)).foldl (fun s kv => saveQueue s kv.1) s
  { s with queues := s.queues.map (fun kv => (kv.1, { kv.2 with slot := none, preloaded := false })) }

/-- Network time on an entry (R597). -/
def timeEntry (s : State) : State :=
  if s.timeState = tmLocked then toHoldover s else if s.timeState = tmAcquiring then toFreeRun s else s

/-- Whether a group of Ethernet ports holds one in a state. -/
def ethGroup (d : Nat) (f : Nat → Bool) : Bool :=
  (List.range 4).any (fun i => f (4 * (d - domEth0) + i)) && decide (d = domEth0 ∨ d = domEth1)

/-- Every agent has accepted: the entry begins (R699, R700, R702). -/
def entryBegin (s : State) (target : Nat) : State :=
  let ds := List.range 29
  let kept := if target = pwStandby then [domEth0, domEth1].filter (fun d =>
      ethGroup d (fun p => decide (s.fld F.ethPortStatusState p = lcOn))) else []
  let latch := ds.filter (fun d => domHasPads d && !kept.contains d &&
      decide (s.domState d = lcOn ∨ s.domState d = lcStarting ∨ s.domState d = lcPendingOff))
  let p := s.power
  let s : State := { s with
    power := { p with
      huddle := none
      entering := some target
      saving := decide (target = pwWatch)
      before := ds.filter s.domOn
      portDoms := [domEth0, domEth1].filter (fun d => ethGroup d (fun p => decide (s.fld F.ethPortStatusState p = lcOn)))
      kept := kept
      padsLow := p.padsLow ++ latch.filter (fun d => !p.padsLow.contains d)
      wake := 0
      watch := [s.rd Reg.pwrWatchCfg, s.rd Reg.pwrWatchAudio, s.rd Reg.pwrWatchSensor]
      watchRun := 0 }
    jobs := s.jobs.map (fun j => if j.wait = some .huddle then { j with wait := some (.answered stOk) } else j)
    mgmt := stOk }
  let s := if target = pwWatch then (watchClaim s).getD s else s
  entryAdvance (timeEntry (benchAll s))

/-- An agent has answered. -/
def huddleAnswer (s : State) (h : Huddle) (a : HuddleAgent) : State :=
  let b := agentBlock a
  let asked := h.asked.filter (· ≠ b)
  match huddleSays s h.target a with
  | .refuse r => huddleRefused s h.target b r
  | .delay =>
    let n := SMap.get 0 h.delays b
    if 3 ≤ n then huddleRefused s h.target b 9
    else
      { s with power := { s.power with
          huddle := some { h with asked := asked, delayed := h.delayed ++ [b], delays := SMap.set 0 h.delays b (n + 1) } } }
  | .accept =>
    if asked.isEmpty ∧ h.delayed.isEmpty then entryBegin s h.target
    else { s with power := { s.power with huddle := some { h with asked := asked } } }

/-- An agent answers the controller (R697, R698). -/
def execHuddleAnswer (agent : HuddleAgent) (s : State) : Out :=
  match s.power.huddle with
  | none => .next s
  | some h => if h.asked.contains (agentBlock agent) then .next (huddleAnswer s h agent) else .next s

/-- A delaying agent is asked again (R697). -/
def execHuddleDelayExpiry (agent : HuddleAgent) (s : State) : Out :=
  match s.power.huddle with
  | none => .next s
  | some h =>
    let b := agentBlock agent
    if h.delayed.contains b then
      .next { s with
        power := { s.power with huddle := some { h with delayed := h.delayed.filter (· ≠ b), asked := h.asked ++ [b] } } }
    else .next s

/-- A write of TARGET (R696, R699, R734). -/
def targetWrite (s : State) (t : Nat) : State :=
  if t = 0 then (wakeEvent s 1).answer stOk
  else if t ≠ pwStandby ∧ t ≠ pwWatch then s.answer stInvalid
  else if s.power.huddle.isSome ∨ s.power.entering.isSome ∨ pwStandby ≤ s.powerState then s.answer stBusy
  else
    { s.setFld F.pwrStateStatusHuddle 0 1 with power := { s.power with huddle := some { target := t, asked := huddleAgents } } }

/-- A write of PWR_STATE_REQ reaches the controller in every state in which the device answers; TRIPPED ignores it (R727). -/
def targetGuarded (s : State) (t : Nat) : State :=
  if !s.power.on || !bootReady s || s.referee.cycling || decide (s.powerState = pwTripped) || chipRecovers s then s
  else targetWrite s t

/-- A write of TARGET 0 (R699). -/
def execTargetActive (s : State) : Out := .next (targetGuarded s 0)
/-- A write of TARGET 2 (R696). -/
def execTargetStandby (s : State) : Out := .next (targetGuarded s pwStandby)
/-- A write of TARGET 3 (R696). -/
def execTargetWatch (s : State) : Out := .next (targetGuarded s pwWatch)

/-! ### The copies of R702 and R704 -/

/-- The first byte of the save area. -/
def saveBase (s : State) : Nat := s.fld F.pwrWatchSaveAddr * 2 ^ 30

/-- The 32 GiB from `dst` become those from `src`, their uncorrectable lines with them. -/
def copyRegion (s : State) (src dst : Nat) : State :=
  let n := 0x800000000
  let inAt (b a : Nat) : Bool := decide (b ≤ a ∧ a < b + n)
  let moved : SMap Byte := (s.mem.filter (fun kv => inAt src kv.1)).map (fun kv => (kv.1 - src + dst, kv.2))
  let lo := s.mem.filter (fun kv => decide (kv.1 < dst))
  let hi := s.mem.filter (fun kv => decide (dst + n ≤ kv.1))
  let lines := (s.ue.filter (fun l => inAt src (l * 128))).map (fun l => l - src / 128 + dst / 128)
  let t := s.mend (fun l => inAt dst (l * 128))
  { t with mem := lo ++ moved ++ hi, ue := t.ue ++ lines, dirty := s.dirty.filter (fun kv => !inAt dst (kv.1 * 128)) }

/-- A port goes OFF on entry to WATCH: whatever its life cycle was doing ends (R551, R702). -/
def portGoesOff (s : State) (p : Nat) : State := portEvent (portEvent (portEvent s p .disable) p .up) p .down

/-- The stacked DRAM has been copied to the save area (R702). -/
def execWatchSaveDone (s : State) : Out :=
  if s.power.saving then
    let s := copyRegion s 0x4000000000 (saveBase s)
    let s := (List.range 8).reverse.foldl portGoesOff s
    let s : State := { s with power := { s.power with saving := false } }
    .next (entryAdvance s)
  else .next s

/-! ### Wake (R704) -/

/-- Step 1 (R704, R873): the cause is set, the watch resources are released, and the main fabric starts. -/
def wakeBegin (s : State) : State :=
  let s := s.wr Reg.pwrWakeCause 0 (s.rd Reg.pwrWakeCause ||| BitVec.ofNat 64 s.power.wake)
  let s := watchRelease s
  let s := event s 0x0109 0 (s.rd Reg.pwrWakeCause).toNat
  let s : State := { s with power := { s.power with wake := 0, waking := true, clkReqHigh := false } }
  domEvent s domFabric .enable

/-- A wake event in STANDBY or WATCH starts the wake sequence (R699, R704). -/
def execWake (s : State) : Out :=
  if s.power.wake ≠ 0 ∧ s.power.entering = none ∧ s.power.waking = false ∧
     (s.powerState = pwStandby ∨ s.powerState = pwWatch) then .next (wakeBegin s)
  else .next s

/-- Whether every domain that was ON before the entry is ON again. -/
def allBack (s : State) : Bool := s.power.before.all s.domOn

/-- The device is in ACTIVE again: from WATCH, the queue pairs of the configuration record return to RTS (R704, R599). -/
def wakeEnd (s : State) : State :=
  let s : State :=
    if s.powerState = pwWatch then
      s.stw.cfgQps.foldl (fun s kv => s.setQp kv.1 { kv.2 with state := .rts }) { s with jobs := [] }
    else s
  { s.setFld F.pwrStateStatusState 0 pwActive with power := { s.power with waking := false, before := [], kept := [], portDoms := [] } }

/-- The save area has been copied back, and every domain that was ON is ON (R704). -/
def execWatchRestoreDone (s : State) : Out :=
  if s.power.waking ∧ s.powerState = pwWatch ∧ allBack s then .next (wakeEnd (copyRegion s (saveBase s) 0x4000000000))
  else .next s

/-- The steward ends the pad hold of a domain (R680). -/
def padEnd (s : State) (d : Nat) : State :=
  { s.setFld F.pwrDomainStatusPadsHeld d 0 with power := { s.power with padsLow := s.power.padsLow.filter (· ≠ d) } }

/-- What a wake does when a domain reaches ON (R680, R704). -/
def wakeOn (s : State) (d : Nat) : State :=
  if s.power.waking then
    let enabled (s : State) (d : Nat) : Bool := ethGroup d (fun p => decide (s.fld F.ethPortCtrlEnable p = 1))
    let s :=
      if d = domFabric then
        let s := domEvent s domLpddr .enable
        ([domEth0, domEth1].filter (enabled s)).foldl (fun s d => domEvent s d .enable) s
      else if d = domLpddr then domEvent (padEnd s d) domStacked .enable
      else if d = domStacked then s.power.before.foldl (fun s d => domEvent s d .enable) (padEnd s d)
      else if (d = domEth0 ∨ d = domEth1) ∧ enabled s d then
        let s := if s.power.portDoms.contains d then padEnd s d else s
        (List.range 4).foldl (fun s i =>
          let p := 4 * (d - domEth0) + i
          if s.fld F.ethPortCtrlEnable p = 1 then portEvent s p .enable else s) s
      else s
    if s.powerState = pwStandby ∧ allBack s then wakeEnd s else s
  else s

/-! ### The watch state (R705 to R707) -/

/-- The signed value of a sample's 24 bits (R706). -/
def sample24 (b : BitVec 24) : Int := b.toInt

/-- The energy of a window (R705). -/
def windowEnergy (xs : List (BitVec 24)) : Nat :=
  (xs.foldl (fun (t : Nat) x => t + (sample24 x).natAbs * (sample24 x).natAbs) 0) / (xs.length * 65536)

/-- The always-on island repeats its cycle: the sensor's answer, none if it is not acknowledged, and the samples of the window
(R705, R707). -/
def execWatchPeriod (sensor : Option W16) (samples : List (BitVec 24)) (s : State) : Out :=
  let w := s.power.watch
  let cfg := w.getD 0 0
  let audio := natBit cfg.toNat 3
  let sens := natBit cfg.toNat 4
  let n := if audio then 32 * bitsOf cfg 17 11 else 0
  if s.powerState = pwWatch ∧ s.power.waking = false ∧ s.power.entering = none ∧ samples.length = n then
    let e := windowEnergy samples
    let s := if audio then s.setFld F.pwrWatchLastEnergy 0 e else s
    let s := if sens then match sensor with
        | some v => s.setFld F.pwrWatchLastSensor 0 v.toNat
        | none => s.bumpSat F.pwrWatchLastSensorErrors
      else s
    let hitA := decide (bitsOf (w.getD 1 0) 31 0 ≤ e)
    let hitS := match sensor with
      | none => false
      | some v =>
        let th := bitsOf (w.getD 2 0) 15 0
        if natBit cfg.toNat 5 then decide (th < v.toNat) else decide (v.toNat < th)
    let hit := if natBit cfg.toNat 6 then (!audio || hitA) && (!sens || hitS) && (audio || sens)
               else (audio && hitA) || (sens && hitS)
    let run := if hit then s.power.watchRun + 1 else 0
    let s : State := { s with power := { s.power with watchRun := run } }
    if bitsOf cfg 10 7 ≤ run then .next (wakeEvent s 2) else .next s
  else .next s

/-! ### IDLE (R695) -/

/-- Whether a command runs or is ready, a scrub or inspection is pending or running, or a whistle is in progress. -/
def workNow (s : State) : Bool :=
  s.queues.any (fun kv => kv.2.runs || queueReady s kv.2) || s.courts.any (fun kv => decide (kv.2.scrub ≠ .clean)) ||
    s.cores.any (fun kv => decide (kv.2.scrub ≠ .clean)) || !s.inspects.isEmpty || s.whistle.active

/-- Since when there has been no work follows what there is (R695). -/
def idleNote (s : State) : State :=
  let since := if workNow s then none else some (s.power.idleSince.getD s.now)
  if since = s.power.idleSince then s else { s with power := { s.power with idleSince := since } }

/-- Whether IDLE_US microseconds have passed with no work (R695). -/
def idleDue (s : State) : Bool := match s.power.idleSince with
  | none => false
  | some t => decide (t + s.fld F.pwrIdleCfgIdleUs * 1000 ≤ s.now)

/-- IDLE_US pass with no work (R695). -/
def execIdleEntry (s : State) : Out :=
  if s.power.on ∧ s.fld F.pwrIdleCfgAutoIdle = 1 ∧ s.powerState = pwActive ∧ s.power.huddle = none ∧
     s.power.entering = none ∧ workNow s = false ∧ idleDue s then .next (s.setFld F.pwrStateStatusState 0 pwIdle)
  else .next s

/-! ### Domains (R677 to R682) -/

/-- Whether a domain's court, quarter or raster front ends belong to a partition in force (R678). -/
def domInPartition (s : State) (d : Nat) : Bool :=
  if d < 16 then decide (s.fld F.fldCourtStatusInPartition d = 1)
  else if d < 20 then decide (s.fld F.shaQuarterStatusInPartition (d - 16) = 1)
  else (List.range 4).any (fun q => decide (s.fld F.gfxFeStatusInPartition q = 1))

/-- A stop of a court, quarter or raster domain waits until its units are idle (R51). -/
def stopWhenIdle (s : State) (d : Nat) : State :=
  if d < 16 then courtSettle (s.setCourt d { s.court d with leaving := true }) d
  else if d < 20 then quarterSettle (s.setQuarter (d - 16) { s.quarter (d - 16) with leaving := true }) (d - 16)
  else rasterSettle { s with rasterLeaving := true }

/-- A start takes back a stop that waits for the domain's units (R677). -/
def stopForgotten (s : State) (d : Nat) : State :=
  if d < 16 then s.setCourt d { s.court d with leaving := false }
  else if d < 20 then s.setQuarter (d - 16) { s.quarter (d - 16) with leaving := false }
  else { s with rasterLeaving := false }

/-- A write of PWR_DOMAIN_REQ (R678, R715). -/
def domainReq (s : State) (on : Bool) (d : Nat) : State :=
  if 20 < d then s.answer stInvalid
  else if on then
    let (ok, s) := domStart s d
    (if ok then stopForgotten s d else s).answer (if ok then stOk else stBusy)
  else if domInPartition s d then s.answer stBusy
  else (whistleUnawait (stopWhenIdle s d)).answer stOk

/-- A PWR_DOMAIN_REQ start request (R678). -/
def execDomainStart (domain : Fin 32) (s : State) : Out := .next (guarded s Reg.pwrDomainReq (fun s => domainReq s true domain))
/-- A PWR_DOMAIN_REQ stop request (R678). -/
def execDomainStop (domain : Fin 32) (s : State) : Out := .next (guarded s Reg.pwrDomainReq (fun s => domainReq s false domain))

/-- The scrub that a court or quarter gets before it reaches ON (R159, R303). -/
def startScrub (s : State) (d : Nat) : State :=
  if d < 16 then (s.setCourt d (s.court d).scrubbed).setFld F.fldCourtStatusScrubbing d 0
  else if d < 20 then
    ((List.range 17).foldl (fun s c => s.setCore (17 * (d - 16) + c) {}) s).setFld F.shaQuarterStatusScrubbing (d - 16) 0
  else s

/-- A domain reaches ON: a hold latched in ACTIVE ends, the transmitters train, and a pending stop begins (R677, R679, R732). -/
def domainOn (s : State) (d : Nat) : State :=
  let s := startScrub s d
  let s := if s.power.padsLow.contains d then s else s.setFld F.pwrDomainStatusPadsHeld d 0
  let s := domEvent s d .up
  let s := if d = domComposer ∧ s.domOn d then trainStart (trainStart s 0) 1 else s
  wakeOn s d

/-- A domain's start time and scrub pass, and it reaches ON; during TRANSITION it waits (R677, R732). -/
def execDomainOn (domain : Fin 29) (s : State) : Out :=
  if s.power.on ∧ (s.domState domain = lcStarting ∨ s.domState domain = lcPendingOff) ∧ s.whistle.active = false then
    .next (domainOn s domain)
  else .next s

/-- What a domain holds is lost when its supply switch opens (R677, R702). -/
def domainLost (s : State) (d : Nat) : State :=
  if d < 16 then
    let c := s.court d
    s.setCourt d { c.scrubbed with lastCtx := c.lastCtx, scrub := c.scrub }
  else if d < 20 then (List.range 17).foldl (fun s c => s.setCore (17 * (d - 16) + c) {}) s
  else if d = domComposer then (List.range 2).foldl (fun s t => linkLost (s.setDpTx t {}) t) s
  else if d = domStacked ∧ s.power.entering = some pwWatch then
    { s.mend (fun l => isSd (l * 128)) with
      mem := s.mem.filter (fun kv => !isSd kv.1)
      dirty := s.dirty.filter (fun kv => !isSd (kv.1 * 128)) }
  else s

/-- A stopping domain's isolation is done (R677); an entry goes on (R700). -/
def domainOff (s : State) (d : Nat) : State := entryAdvance (whistleUnawait (domEvent (domainLost s d) d .down))

/-- A stopping domain turns OFF, or starts again (R677). -/
def execDomainOff (domain : Fin 29) (s : State) : Out :=
  if s.domState domain = lcStopping ∨ s.domState domain = lcPendingOn then .next (domainOff s domain) else .next s

/-- A write to PAD_RELEASE (R679 to R682). -/
def padRelease (s : State) (v : W32) : State :=
  let ds := (List.range 29).filter (fun d => natBit v.toNat d && decide (s.fld F.pwrDomainStatusPadsHeld d = 1))
  let bad := ds.any (fun d => !s.domOn d)
  ((ds.filter s.domOn).foldl padEnd s).answer (if bad then stBusy else stOk)

/-- A write to PAD_RELEASE (R682). -/
def execPadRelease (v : W32) (s : State) : Out := .next (guarded s Reg.padRelease (fun s => padRelease s v))

end Sys2Proof.Machine
end

