-- ==== Sys2Proof/Machine/Capping.lean ====
section
/-! DEFINITION. The arithmetic clock, average-power capping, fixed-frequency mode, boost, thermal limits, the shutdown to TRIPPED
and the power block's registers (spec/14 R685, R709 to R728, R734). -/

namespace Sys2Proof.Machine

open Sys2Proof

/-! ### Ceilings, floor and fixed fraction (R676, R714, R721) -/

/-- Whether a permit mask permits a domain; domains 26 to 28 always are (R715). -/
def permits (mask d : Nat) : Bool := decide (26 ≤ d) || natBit mask d

/-- The sum of the ceilings of the permitted domains and of the always-on domain, in mW. -/
def ceilSum (s : State) (mask : Nat) : Nat :=
  (List.range 30).foldl (fun t d => if permits mask d then t + s.power.ceilings.getD d 0 else t) 0

/-- The sum of the field issue shares of the permitted courts, in mW. -/
def shareSum (s : State) (mask : Nat) : Nat :=
  (List.range 16).foldl (fun t d => if permits mask d then t + s.power.shares.getD d 0 else t) 0

/-- PWR_FLOOR_MW for a permit mask, rounded up (R714). -/
def floorMw (s : State) (mask : Nat) : Nat := (64 * ceilSum s mask - 63 * shareSum s mask + 63) / 64

/-- The fixed fraction in 1/64 units (R721). -/
def fixedFraction (s : State) : Nat :=
  let mask := s.fld F.pwrDomainPermitPermit
  let field := shareSum s mask
  if field = 0 then 64 else min 64 (64 * (s.fld F.pwrCapMwCap - (ceilSum s mask - field)) / field)

/-- PWR_FIXED_MODE as the whistle brings it. -/
def fixedValue (s : State) (en : Bool) : W64 := if en then BitVec.ofNat 64 (1 + 256 * fixedFraction s) else 0

/-- Whether fixed-frequency mode is on once every write in waiting has taken effect. -/
def fixedComing (s : State) : Bool :=
  match ((s.whistle.carries ++ s.whistle.next).filter (fun p => p.change = .fixedMode)).getLast? with
  | some p => p.vals.any (fun kv => natBit kv.2.toNat 0)
  | none => s.fld F.pwrFixedModeEn = 1

/-- EN or the fixed fraction goes to the whistle (R720, R721). -/
def fixedSubmit (s : State) (en : Bool) : State := whistleStart s .fixedMode [(Reg.key Reg.pwrFixedMode 0, fixedValue s en)]

/-- The fixed fraction in 1/64 units once every write in waiting has taken effect. -/
def fractionComing (s : State) : Nat :=
  match ((s.whistle.carries ++ s.whistle.next).filter (fun p => p.change = .fixedMode)).getLast? with
  | some p => (p.vals.map (fun kv => bitsOf kv.2 15 8)).headD 0
  | none => s.fld F.pwrFixedModeFraction

/-- A change of the cap or of the permits that changes the fixed fraction while the mode is on goes to the whistle (R721). -/
def fixedFollow (s : State) : State :=
  if fixedComing s ∧ fractionComing s ≠ fixedFraction s then fixedSubmit s true else s

/-! ### Registers (R714, R734) -/

/-- A write of PWR_CAP_MW (R714). -/
def capWrite (s : State) (v : W32) : State :=
  let cap := bitsOf v 17 0
  if cap < 40000 ∨ 240000 < cap ∨ cap < s.fld F.pwrFloorMwMw then s.answer stInvalid
  else (fixedFollow (s.setFld F.pwrCapMwCap 0 cap)).answer stOk

/-- A write to PWR_CAP_MW (R714, R716). -/
def execPwrCapMw (v : W32) (s : State) : Out := .next (guarded s Reg.pwrCapMw (fun s => capWrite s v))

/-- PWR_FLOOR_MW and the PERMITTED bits follow the permits (R714, R733). -/
def permitShow (s : State) : State :=
  let s := s.setFld F.pwrFloorMwMw 0 (floorMw s (s.fld F.pwrDomainPermitPermit))
  (List.range 29).foldl (fun s d => s.setFld F.pwrDomainStatusPermitted d (if s.domPermitted d then 1 else 0)) s

/-- A write of PWR_DOMAIN_PERMIT (R714). -/
def permitWrite (s : State) (v : W32) : State :=
  let mask := bitsOf v 25 0
  if s.fld F.pwrCapMwCap < floorMw s mask ∧ s.fld F.pwrFloorMwMw < floorMw s mask then s.answer stInvalid
  else (fixedFollow (permitShow (s.setFld F.pwrDomainPermitPermit 0 mask))).answer stOk

/-- A write to PWR_DOMAIN_PERMIT (R714). -/
def execPwrDomainPermit (v : W32) (s : State) : Out := .next (guarded s Reg.pwrDomainPermit (fun s => permitWrite s v))

/-- A write of PWR_FIXED_MODE: EXITED clears at once, EN goes to the whistle (R720, R733). -/
def fixedWrite (s : State) (v : W32) : State :=
  let s := if natBit v.toNat 31 then s.setFld F.pwrFixedModeExited 0 0 else s
  (fixedSubmit s (natBit v.toNat 0)).answer stOk

/-- A write to PWR_FIXED_MODE (R720). -/
def execPwrFixedMode (v : W32) (s : State) : Out := .next (guarded s Reg.pwrFixedMode (fun s => fixedWrite s v))

/-- A write of PWR_ISSUE_LIMIT goes to the whistle (R718, R734). -/
def issueWrite (s : State) (v : W32) : State :=
  let n := bitsOf v 6 0
  if n = 0 ∨ 64 < n then s.answer stInvalid
  else (whistleStart s .issueLimit [(Reg.key Reg.pwrIssueLimit 0, BitVec.ofNat 64 n)]).answer stOk

/-- A write to PWR_ISSUE_LIMIT (R718). -/
def execIssueLimit (v : W32) (s : State) : Out := .next (guarded s Reg.pwrIssueLimit (fun s => issueWrite s v))

/-- A write of PWR_KICK_CFG goes to the whistle (R693, R734). -/
def rampWrite (s : State) (v : W32) : State :=
  let n := bitsOf v 12 0
  if n < 256 ∨ 4096 < n then s.answer stInvalid
  else (whistleStart s .rampCycles [(Reg.key Reg.pwrKickCfg 0, BitVec.ofNat 64 n)]).answer stOk

/-- A write to PWR_KICK_CFG (R693). -/
def execRampCycles (v : W32) (s : State) : Out := .next (guarded s Reg.pwrKickCfg (fun s => rampWrite s v))

/-- A write of PWR_WATCH_SAVE: an area named must lie in the usable LPDDR5X (R703). -/
def watchSaveWrite (s : State) (v : W64) : State :=
  let top := if s.eccOn then 0x3BC0000000 else 0x3FC0000000
  if bitsOf v 0 0 = 1 ∧ top < bitsOf v 39 30 * 2 ^ 30 + 0x800000000 then s.answer stInvalid
  else (s.wrPlain Reg.pwrWatchSave 0 v).answer stOk

/-- A write to PWR_WATCH_SAVE (R703). -/
def execPwrWatchSave (v : W64) (s : State) : Out := .next (guarded s Reg.pwrWatchSave (fun s => watchSaveWrite s v))

/-- A write of PWR_WATCH_CFG (R734). -/
def watchCfgWrite (s : State) (v : W32) : State :=
  let period := bitsOf v 31 18
  let window := bitsOf v 17 11
  if period < 10 ∨ 10000 < period ∨ window = 0 ∨ 100 < window ∨ period < window ∨ bitsOf v 10 7 = 0 ∨ bitsOf v 4 3 = 0 then
    s.answer stInvalid
  else (s.wrPlain Reg.pwrWatchCfg 0 (v.setWidth 64)).answer stOk

/-- A write to PWR_WATCH_CFG (R734). -/
def execPwrWatchCfg (v : W32) (s : State) : Out := .next (guarded s Reg.pwrWatchCfg (fun s => watchCfgWrite s v))

/-- A fit of new coefficients begins (R719). -/
def fitBegin (s : State) : State :=
  { s.setFld F.pwrBoostCfgRecal 0 1 with power := { s.power with fitting := true, fitAt := s.now, fitRun := 0 } }

/-- A write of PWR_BOOST_CFG (R719, R723). -/
def boostWrite (s : State) (v : W32) : State :=
  let s := s.setFld F.pwrBoostCfgBoostEn 0 (bitsOf v 0 0)
  (if natBit v.toNat 1 then fitBegin s else s).answer stOk

/-- A write of RECAL (R719). -/
def execRecal (s : State) : Out :=
  .next (guarded s Reg.pwrBoostCfg (fun s => (fitBegin s).answer stOk))

/-- 10 s pass after a fit that has not cleared DIVERGED (R719). -/
def execRecalRetry (s : State) : Out :=
  if s.power.fitting ∧ s.power.fitAt + 10000000000 ≤ s.now then .next (fitBegin s) else .next s

/-- The registers of the power block that no row names: a write outside a field's range changes nothing (R734). -/
def pwrOtherWrite (s : State) (fam : Nat) (v : W64) : State :=
  let bad : Bool :=
    if fam = Reg.pwrIdleCfg then decide (bitsOf v 15 0 = 0)
    else if fam = Reg.pwrWindowMs then decide (bitsOf v 14 0 < 1000 ∨ 30000 < bitsOf v 14 0)
    else if fam = Reg.pwrVoltCfg then
      decide (bitsOf v 31 24 < 10 ∨ 100 < bitsOf v 31 24 ∨ 50 < bitsOf v 23 16 ∨ bitsOf v 15 8 = 0 ∨ bitsOf v 7 0 < 8)
    else false
  if bad then s.answer stInvalid
  else
    let s := s.wrPlain fam 0 v
    (if fam = Reg.pwrVoltCfg then railFollow s else s).answer stOk

/-! ### The clock (R685, R720, R725, R728) -/

/-- The most that a thermal step allows: clock in MHz and fraction in 1/64 (R725). -/
def thermalClock (step : Nat) : Nat := [1400, 1000, 750, 625].getD step 625
def thermalFraction (step : Nat) : Nat := [64, 32, 16, 8].getD step 8

/-- The highest clock that the AVS table enters in its band up to 105 °C. DESIGN CHOICE: an entry of 0 is no entry for that step (R687,
R728, R839; log 102). -/
def hotMhz (s : State) : Nat :=
  (List.range 32).foldl (fun m i => if avsEntry s (625 + 25 * i) 3 = 0 then m else 625 + 25 * i) 625

/-- The most that the clock may be now (R720, R725, R728). -/
def clockCap (s : State) : Nat :=
  let t := thermalClock (s.fld F.pwrStatusThermalStep)
  let t := if s.fld F.pwrFixedModeEn = 1 then min t 1250 else t
  if s.fld F.stwIdGrade = 0 ∧ 95 < degrees (s.fld F.pwrTempMaxTemp) then min t (hotMhz s) else t

/-- Deadlines and marks follow a change of the clock or of the granted fraction (R224, R717). -/
def rateChanged (s : State) : State := markThrottled (extendBudgets s)

/-- The arithmetic clock takes a value, and its rail follows (R687). -/
def setClock (s : State) (mhz : Nat) : State :=
  rateChanged (railFollow (((usageSettle s).setFld F.pwrStatusArithMhz 0 mhz).setFld F.pwrStatusBoost 0 (if 1250 < mhz then 1 else 0)))

/-- The granted fraction takes a value in 1/64. -/
def setGranted (s : State) (g : Nat) : State := rateChanged (s.setFld F.pwrStatusGranted 0 g)

/-- The clock moves one step toward what is asked for and allowed (R685). -/
def execClockStep (s : State) : Out :=
  let cur := s.fld F.pwrStatusArithMhz
  let goal := min s.power.goal (clockCap s)
  let due : Bool := match s.power.stepAt with
    | none => true
    | some t => decide (t + 10000 ≤ s.now)
  if s.power.on && due && decide (cur ≠ goal) then
    let s : State := { s with power := { s.power with stepAt := some s.now } }
    .next (setClock s (if cur < goal then cur + 25 else cur - 25))
  else .next s

/-! ### Sensors (R709 to R712, R719, R722) -/

/-- The row of R712. -/
def trustOf (s : State) : Nat :=
  let d : Bool := s.fld F.pwrStatusDiverged = 1
  let l : Bool := s.fld F.pwrStatusMeasLost = 1
  if d && l then 3 else if l then 2 else if d then 1 else 0

/-- TRUST follows DIVERGED and MEAS_LOST (R712). -/
def trustShow (s : State) : State := s.setFld F.pwrStatusTrust 0 (trustOf s)

/-- An activity estimate in mW, for the last 10 µs; its energy is divided among contexts (R545, R709). -/
def execEstimateTick (mw : W32) (s : State) : Out :=
  if s.power.on ∧ s.powerState ≠ pwTripped then
    let s := shareEnergy (usageSettle s) (mw.toNat * 10000)
    .next { s.setFld F.pwrEstimateMwMw 0 mw.toNat with
      power := { s.power with estSum := s.power.estSum + mw.toNat, estCount := s.power.estCount + 1 } }
  else .next s

/-- The regulators that are read over PMBus: their places in the configuration record's list (R709, R828). -/
def pmbusRegs (s : State) : List Nat :=
  (List.range s.stw.regulators.length).filter (fun i => decide (natBits (s.stw.regulators.getD i 0) 31 24 = 0))

/-- Failed reads, measurement loss and its return (R711). -/
def readsNoted (s : State) (failing : List (BitVec 8)) : State :=
  let regs := pmbusRegs s
  let bad := regs.filter (fun i => failing.any (fun f => f.toNat = i))
  let fails := regs.foldl (fun (m : SMap Nat) i => SMap.set 0 m i (if bad.contains i then SMap.get 0 m i + 1 else 0)) s.power.fails
  let good := if bad.isEmpty then s.power.good + 1 else 0
  let s : State := { s with power := { s.power with fails := fails, good := good } }
  match regs.find? (fun i => decide (3 ≤ SMap.get 0 fails i)) with
  | some i => if s.fld F.pwrStatusMeasLost = 1 then s else event (s.setFld F.pwrStatusMeasLost 0 1) 0x0103 0 i
  | none => if 10 ≤ good then s.setFld F.pwrStatusMeasLost 0 0 else s

/-- Divergence, and a fit that agrees (R710, R719): `e` is the sum of `n` estimates, `m` the sample. -/
def compared (s : State) (e n m : Nat) : State :=
  let off := if e < m * n then m * n - e else e - m * n
  let run := if m * n < 5 * off then s.power.diverge + 1 else 0
  let fit := if s.power.fitting ∧ 20 * off ≤ m * n then s.power.fitRun + 1 else 0
  let s : State := { s with power := { s.power with diverge := run, fitRun := fit } }
  let s :=
    if 51 ≤ run ∧ s.fld F.pwrStatusDiverged = 0 then
      fitBegin (event (s.setFld F.pwrStatusDiverged 0 1) 0x0101 0 (e / n) m)
    else s
  if 100 ≤ fit ∧ s.power.fitting then
    let s := if s.fld F.pwrStatusDiverged = 1 then event (s.setFld F.pwrStatusDiverged 0 0) 0x0102 else s
    { s.setFld F.pwrBoostCfgRecal 0 0 with power := { s.power with fitting := false, fitRun := 0 } }
  else s

/-- A sample above 110 % of the cap in fixed-frequency mode at the fixed fraction, in two windows in a row, ends the mode (R722). -/
def fixedWatch (s : State) (m : Nat) : State :=
  if s.fld F.pwrFixedModeEn = 0 then { s with power := { s.power with winHit := none } }
  else if 11 * s.fld F.pwrCapMwCap < 10 * m ∧ granted s = s.fld F.pwrFixedModeFraction then
    let w := s.now / (max 1 (s.fld F.pwrWindowMsWindow) * 1000000)
    let again : Bool := match s.power.winHit with
      | none => false
      | some v => decide (v + 1 = w)
    let s : State := { s with power := { s.power with winHit := some w } }
    if again then
      let s := event (s.setFld F.pwrFixedModeExited 0 1) 0x0107 0 m (s.fld F.pwrCapMwCap)
      { fixedSubmit s false with power := { (fixedSubmit s false).power with winHit := none } }
    else s
  else s

/-- The regulators are read; their sum is a sample unless one of them fails (R709 to R711, R719, R722). -/
def execMeasuredSample (mw : W32) (failing : List (BitVec 8)) (s : State) : Out :=
  if s.power.on ∧ s.powerState ≠ pwTripped then
    let s := readsNoted s failing
    let e := s.power.estSum
    let n := s.power.estCount
    let m := mw.toNat
    let s : State := { s with power := { s.power with estSum := 0, estCount := 0 } }
    if (pmbusRegs s).any (fun i => failing.any (fun f => f.toNat = i)) then .next (trustShow s)
    else
      let s := s.setFld F.pwrMeasuredMwMw 0 m
      let s :=
        if n = 0 then s
        else
          compared { s with power := { s.power with ratios := ((m, 1000 * e / n) :: s.power.ratios).take 100 } } e n m
      .next (trustShow (fixedWatch s m))
  else .next s

/-! ### The control tick (R713, R723) -/

/-- Trusted power now in mW, rounded up (R712). -/
def trustedMw (s : State) : Nat :=
  let est := s.fld F.pwrEstimateMwMw
  match s.fld F.pwrStatusTrust with
  | 3 => s.power.ceilings.foldl (· + ·) 0
  | 2 => (5 * est + 3) / 4
  | 1 => s.fld F.pwrMeasuredMwMw
  | _ =>
    let m := 1000 * s.power.ratios.foldl (fun t r => t + r.1) 0
    let e := s.power.ratios.foldl (fun t r => t + r.2) 0
    if m ≤ e ∨ e = 0 then est else (est * m + e - 1) / e

/-- The window in nanoseconds. -/
def windowNs (s : State) : Nat := s.fld F.pwrWindowMsWindow * 1000000

/-- The trusted energy of the last `n` nanoseconds, in mW × ns. -/
def energyOver (s : State) (n : Nat) : Nat :=
  let from' := s.now - n
  s.power.hist.foldl (fun t h =>
    let lo := max from' (h.1 - h.2.1)
    t + (h.1 - lo) * h.2.2) 0

/-- The lowest of ISSUE_LIMIT, the fixed fraction while the mode is on, and the thermal step (R713, R720). -/
def grantLimit (s : State) : Nat :=
  min (fieldLimit s) (thermalFraction (s.fld F.pwrStatusThermalStep))

/-- The control tick's length in nanoseconds (R712). -/
def tickNs (s : State) : Nat := if s.fld F.pwrStatusTrust = 1 then 1000000 else 10000

/-- `m` of R713: `field` is the field's share of trusted power and `step` the field power of 1/64 of issue, both in mW. The
energy that is left, and the package's 240 W, each give a bound. -/
def grantM (s : State) (field step : Nat) : Int :=
  let t := tickNs s
  let left : Int := (s.fld F.pwrCapMwCap * windowNs s : Int) - energyOver s (windowNs s - t)
  let rest : Int := (trustedMw s : Int) - field
  min ((left - rest * t) / (t * max 1 step : Int)) ((240000 - rest) / (max 1 step : Int))

/-- The fraction that R712 and R713 grant. -/
def grantOf (s : State) (m : Int) : Nat :=
  let limit := grantLimit s
  let g := min limit (max 1 m.toNat)
  match s.fld F.pwrStatusTrust with
  | 3 => min limit (fixedFraction s)
  | 1 => max 1 (g / 2)
  | _ => g

/-- Whether the clock may rise by a step: `next` is trusted power at the next step in mW (R723). -/
def boostOk (s : State) (g next : Nat) : Bool :=
  let t := tickNs s
  let left : Int := (s.fld F.pwrCapMwCap * windowNs s : Int) - energyOver s (windowNs s - t)
  decide (s.fld F.pwrBoostCfgBoostEn = 1 ∧ s.fld F.pwrFixedModeEn = 0 ∧ s.fld F.pwrStatusTrust = 0 ∧
    degrees (s.fld F.pwrTempMaxTemp) ≤ 90 ∧ g = grantLimit s ∧ (10 * next * t : Int) < 9 * left ∧ 10 * next < 9 * 240000)

/-- The clock that boost asks for after a tick (R720, R723). -/
def goalOf (s : State) (m : Int) (g next : Nat) : Nat :=
  let cur := s.fld F.pwrStatusArithMhz
  if s.fld F.pwrBoostCfgBoostEn = 0 ∨ s.fld F.pwrFixedModeEn = 1 then 1250
  else if 1250 < cur ∧ m < grantLimit s then max 1250 (min s.power.goal cur - 25)
  else if boostOk s g next ∧ cur = s.power.goal then min 1400 (cur + 25)
  else s.power.goal

/-- The fraction granted after a tick: while boost is still on, the clock falls before the fraction does, which falls no further than
the other limits ask (R45, R723). -/
def grantNow (s : State) (m : Int) : Nat :=
  let g := grantOf s m
  if 1250 < s.fld F.pwrStatusArithMhz ∧ s.fld F.pwrStatusTrust ≠ 3 then max g (min (granted s) (grantLimit s)) else g

/-- A control tick (R713, R716, R723): the trusted power enters the history, and the fraction and the boost are decided. -/
def controlTick (s : State) (field step next : Nat) : State :=
  let w := windowNs s
  let hist := ((s.now, tickNs s, trustedMw s) :: s.power.hist).filter (fun h => decide (s.now ≤ h.1 + 30000000000))
  let s : State := { s with power := { s.power with hist := hist } }
  let s := s.setFld F.pwrAverageMwMw 0 (energyOver s w / max 1 w)
  let m := grantM s field step
  let g := grantNow s m
  let s : State := { s with power := { s.power with goal := goalOf s m g next } }
  setGranted s g

/-- The controller sets the granted fraction and decides boost (R713, R723). -/
def execControlTick (field step next : W32) (s : State) : Out :=
  if s.power.on ∧ s.powerState ≠ pwTripped then .next (controlTick s field.toNat step.toNat next.toNat) else .next s

/-! ### Thermal limits (R724 to R727, R869) -/

/-- The sensor readings: junction sensors 0 to 31, then stacked-DRAM channels (R724). -/
def readings (s : State) : List (Nat × Int) :=
  (List.range 32).map (fun i => (i, degrees (s.fld F.pwrTempTemp i))) ++
    (List.range 64).map (fun c => (32 + c, degrees (s.fld F.memSdChanTemp c)))

/-- The throttle takes a step: it lowers the clock and the granted fraction at once (R685, R725). -/
def throttleTo (s : State) (step : Nat) : State :=
  let s := s.setFld F.pwrStatusThermalStep 0 step
  let s : State := { s with power := { s.power with goal := min s.power.goal 1250 } }
  let s := s.setFld F.pwrStatusGranted 0 (min (granted s) (thermalFraction step))
  setClock s (min (s.fld F.pwrStatusArithMhz) (clockCap s))

/-- Always-on state alone is left, with the referee's registers, which only a power-on reset clears (R772): what the switched domains
held is gone (R727, R767). -/
def dropSwitched (s : State) : State := { State.reset with
  regs := s.regs.filter (fun kv => alwaysOnFam (kv.1 / 65536) || decide ((regDesc (kv.1 / 65536)).addr / 0x1000000 = 0x7F0E))
  inspected := s.inspected
  time := s.time
  eth := s.eth.map (fun kv => (kv.1, { kv.2 with egress := [], held := [] }))
  buckets := s.buckets
  unwritten := s.unwritten
  flushing := s.flushing
  power := s.power
  stw := s.stw
  referee := s.referee
  outbox := s.outbox
  mgmt := s.mgmt
  free := s.free
  pending := s.pending }

/-- The emergency shutdown (R726, R727, R869): every switched domain is OFF at once with its pads held. -/
def shutDown (s : State) (cause : Nat) : State :=
  let s := dropSwitched s
  let s := (List.range 29).foldl (fun s d =>
    let s := if domHasPads d && decide (s.domState d = lcOn) then s.setFld F.pwrDomainStatusPadsHeld d 1 else s
    s.setFld F.pwrDomainStatusState d lcOff) s
  let p := s.power
  let s : State := { s with
    power := { p with huddle := none, entering := none, saving := false, waking := false, wake := 0, before := [], kept := [] } }
  let s := (s.setFld F.pwrStateStatusState 0 pwTripped).setFld F.pwrStateStatusHuddle 0 0
  flushCause s cause

/-- A junction sensor reads 115 °C or more (R726). -/
def thermalTrip (s : State) (sensor : Nat) (t : Int) : State :=
  let s := event s 0x0106 0 (sensor * 256 + toBits 8 t)
  let s : State := { s with power := { s.power with thermtrip := true } }
  shutDown (trayCause s 2) 3

/-- A reading has come in: since when one is hot and since when all are cool, and the entry into step 1 (R725). -/
def thermalNote (s : State) (sensor : Nat) (t : Int) : State :=
  let rs := readings s
  let hot : Bool := rs.any (fun r => decide (100 ≤ r.2))
  let cool : Bool := rs.all (fun r => decide (r.2 < 97))
  let s : State := { s with
    power := { s.power with
      hotSince := if hot then some (s.power.hotSince.getD s.now) else none
      coolSince := if cool then some (s.power.coolSince.getD s.now) else none } }
  if 100 ≤ t ∧ s.fld F.pwrStatusThermalStep = 0 then
    event (trayCause (throttleTo (s.bump F.pwrThrottleCountCount) 1) 1) 0x0105 0 (sensor * 256 + toBits 8 t) 1
  else s

/-- A raw reading with its calibration offset, in whole °C rounded down (R724, R839). -/
def corrected (s : State) (sensor : Nat) (raw : W16) : Int :=
  let off := (BitVec.ofNat 16 (calNat s (0x40 + 2 * sensor) 2)).toInt
  max (-128) (min 127 ((raw.toInt + off) / 16))

/-- PWR_TEMP_MAX follows the readings: the lowest-numbered of the hottest sensors (R733). -/
def maxShow (s : State) : State :=
  let best := (List.range 32).foldl (fun (b : Nat × Int) i =>
    let t := degrees (s.fld F.pwrTempTemp i)
    if b.2 < t then (i, t) else b) (0, degrees (s.fld F.pwrTempTemp 0))
  (s.setFld F.pwrTempMaxSensor 0 best.1).setFld F.pwrTempMaxTemp 0 (toBits 8 best.2)

/-- A junction sensor is read (R724 to R726, R728). -/
def sensorRead (s : State) (sensor : Nat) (raw : W16) : State :=
  let t := corrected s sensor raw
  let s := railFollow (maxShow (s.setFld F.pwrTempTemp sensor (toBits 8 t)))
  if 115 ≤ t then thermalTrip s sensor t else thermalNote s sensor t

/-- A junction sensor is read, in 1/16 °C (R724). -/
def execSensorRead (sensor : Fin 32) (raw : W16) (s : State) : Out :=
  if s.power.on ∧ s.powerState ≠ pwTripped then .next (sensorRead s sensor raw) else .next s

/-- A hot reading has persisted 10 ms (R725). -/
def execThrottleStepUp (s : State) : Out :=
  match s.power.hotSince with
  | none => .next s
  | some t =>
    let step := s.fld F.pwrStatusThermalStep
    if 1 ≤ step ∧ step < 3 ∧ t + 10000000 ≤ s.now then
      let s : State := { s with power := { s.power with hotSince := some s.now } }
      .next (throttleTo s (step + 1))
    else .next s

/-- Every reading has stayed below 97 °C for 100 ms (R725). -/
def execThrottleStepDown (s : State) : Out :=
  match s.power.coolSince with
  | none => .next s
  | some t =>
    let step := s.fld F.pwrStatusThermalStep
    if 1 ≤ step ∧ t + 100000000 ≤ s.now then
      let s : State := { s with power := { s.power with coolSince := some s.now } }
      .next (throttleTo s (step - 1))
    else .next s

/-- The refresh code after a reading: a lower rate only 3 °C below the threshold that raised it (R440). -/
def refreshOf (old : Nat) (t : Int) : Nat :=
  let up := if 95 < t then 2 else if 85 < t then 1 else 0
  let hold := if old = 2 ∧ 92 < t then 2 else if 1 ≤ old ∧ 82 < t then 1 else 0
  max up hold

/-- A stacked-DRAM channel reads its temperature, in 1/16 °C (R440, R724, R725). -/
def execSdTempUpdate (channel : Fin 64) (raw : W16) (s : State) : Out :=
  if s.domOn domStacked then
    let t := corrected s (32 + channel) raw
    let s := s.setFld F.memSdChanTemp channel (toBits 8 t)
    let s := s.setFld F.memSdChanRefresh channel (refreshOf (s.fld F.memSdChanRefresh channel) t)
    .next (thermalNote s (32 + channel) t)
  else .next s

/-- An LPDDR5X package's report changes: its temperature and the refresh rate that it requires (R441). -/
def execLpTempUpdate (controller : Fin 8) (temp : BitVec 8) (rate : Fin 3) (s : State) : Out :=
  if s.domOn domLpddr then
    .next ((s.setFld F.memLpChanTemp controller temp.toNat).setFld F.memLpChanRefresh controller rate)
  else .next s

/-- A monitored core rail leaves its range for 5 µs (R869). -/
def execRailFault (s : State) : Out :=
  if s.power.on ∧ s.powerState ≠ pwTripped then .next (shutDown s 1) else .next s

end Sys2Proof.Machine
end

