-- ==== Sys2Proof/Machine/Iql.lean ====
section
/-! DEFINITION. The commands of the Ihlique links: packets, ports, keys, routing registers and bulk transfers (spec/12). -/

namespace Sys2Proof.Machine

open Sys2Proof

/-! ### Serving and forwarding -/

/-- Whether a packet is a request (R618). -/
def isRequest (p : Packet) : Bool := decide (p.typ = 0 ∨ p.typ = 2 ∨ p.typ = 4)

/-- The response to a request: TXID, TXGEN and pair of the request with SRC and DST exchanged, class RSP or BULK (R618). -/
def responseTo (p : Packet) (op : Nat) (payload : List Byte) : Packet :=
  { typ := p.typ + 1, dst := p.src, src := p.dst, epoch := p.epoch, txid := p.txid, txgen := p.txgen, len := payload.length,
    op := op, payload := payload, cls := if p.cls = 3 then 3 else 1 }

/-- A response is sent; its SRC_EPOCH is this device's. -/
def respond (s : State) (p : Packet) (op : Nat) (payload : List Byte) : State :=
  (sendPacket s { responseTo p op payload with epoch := s.epoch }).2

/-- A packet for another device is sent on, or discarded with NO_ROUTE (R623, R624). -/
def forward (s : State) (port vc : Nat) (p : Packet) : State :=
  let drop (s : State) : State :=
    let s := s.bump F.iqlNoRouteCount port
    if isRequest p then respond s p 1 [] else s
  if 15 ≤ p.hops + 1 then drop s
  else
    match routeTo s p.dst with
    | none => drop s
    | some out => portSend s out (leavingVc s p.cls out (some (port, vc))) { p with hops := p.hops + 1 }

/-- The range of a READ or WRITE is well formed: LEN 1 to 1,024, within one 4 KiB page (R618, R619). -/
def rangeOk (a n : Nat) : Bool := decide (1 ≤ n ∧ n ≤ 1024 ∧ a / 4096 = (a + n - 1) / 4096)

/-- Whether every byte of a range may be reached, as R36 and R37 would allow a context (R622). -/
def rangeUsable (s : State) (a n : Nat) : Bool := s.usable a && s.usable (a + n - 1)

/-- A READ is served (R622). -/
def serveRead (s : State) (p : Packet) : State :=
  if rangeOk p.laddr p.len && rangeUsable s p.laddr p.len && decide (p.cls = 0 ∨ p.cls = 3) then
    match memLoad s p.laddr p.len with
    | (some bs, s) => respond s p 0 bs
    | (none, s) => respond s p 3 []
  else respond s p 2 []

/-- A WRITE is served: visible before its acknowledgement (R622). A line that refuses it answers DATA_ERROR (R431). -/
def serveWrite (s : State) (p : Packet) : State :=
  if rangeOk p.laddr p.len && rangeUsable s p.laddr p.len && decide (p.payload.length = p.len) &&
     decide (p.cls = 0 ∨ p.cls = 3) then
    let (ok, s) := memStore s p.laddr p.payload
    respond s p (if ok then 0 else 3) []
  else respond s p 2 []

/-- An ATOMIC is served (R620, R622): the prior value returns. A compare-and-swap carries its compare value first. -/
def serveAtomic (s : State) (p : Packet) : State :=
  let w := if natBit p.op 7 then 8 else 4
  let code := p.op % 16
  let need := if code = 10 then 2 * w else w
  let first := leNat (p.payload.take w)
  let second := leNat ((p.payload.drop w).take w)
  let x := if code = 10 then second else first
  if decide (p.op / 16 % 8 = 0 ∧ p.laddr % w = 0 ∧ p.payload.length = need ∧ p.len = need ∧ p.cls = 0) &&
     rangeUsable s p.laddr w && (atomicFn code (8 * w) 0 0 0).isSome then
    match memLoadNat s p.laddr w with
    | (none, s) => respond s p 3 []
    | (some old, s) =>
      let new := (atomicFn code (8 * w) old x first).getD old
      respond (memStoreNat s p.laddr w new).2 p 0 (leBytes w old)
  else respond s p 2 []

/-- The waits on the local fence at `a` are examined (R513, R632). -/
def examineFence (s : State) (a : Nat) : State :=
  ((liveQueues s).filter (fun kv => decide (kv.2.phase = .waiting) &&
    decide (localFence s kv.2.owner kv.2.waitAddr = some a))).foldl (fun s kv => examineWait s kv.1) s

/-- Every outstanding transaction that `f` names ends without a response, its command with ACCESS_FAULT (R631, R641, R642). -/
def endTxns (s : State) (f : Txn → Bool) : State :=
  let ts := (s.txns.filter (fun kv => kv.2.busy && f kv.2)).map (·.1)
  let s := ts.foldl (fun s t =>
    let x := s.txn t
    let s := s.setTxn t { x with busy := false }
    answered s x.purpose (.error stAccessFault) none) s
  drainTxWait ts.length s

/-- ANNOUNCE (R642). -/
def announceIn (s : State) (p : Packet) : State :=
  let known := s.fld F.iqlEpochKnown p.src = 1
  if known ∧ s.fld F.iqlEpochEpoch p.src = p.epoch then s
  else
    let s := (s.setFld F.iqlEpochKnown p.src 1).setFld F.iqlEpochEpoch p.src p.epoch
    endTxns s (fun t => decide (t.dst = p.src))

/-- The status of a response (R621, R631): none for OK. -/
def rspStatus (op : Nat) : Option W16 := if op = 0 then none else if op = 3 then some stDataError else some stAccessFault

/-- A response arrives (R630 to R632). -/
def responseIn (s : State) (port : Nat) (p : Packet) : State :=
  let t := s.txn p.txid
  if t.busy ∧ t.gen = p.txgen then
    let s := drainTxWait 1 (s.setTxn p.txid { t with busy := false })
    match rspStatus p.op with
    | some e => answered s t.purpose (.error e) none
    | none =>
      let s := match t.purpose with
        | .signal _ | .notice _ =>
          (sendPacket s { typ := 7, dst := t.dst, src := s.device, epoch := s.epoch, len := 8, cls := 2,
                          payload := leBytes 8 t.laddr }).2
        | _ => s
      answered s t.purpose (.ok p.payload) none
  else s.bump F.iqlStaleDropsCount port

/-- Whether a packet's SRC_EPOCH is stale (R643): a request, DOORBELL or FENCE_NOTICE of another EPOCH than the one held. -/
def epochStale (s : State) (p : Packet) : Bool :=
  (isRequest p || decide (p.typ = 6 ∨ p.typ = 7)) && decide (s.fld F.iqlEpochKnown p.src = 1 ∧ s.fld F.iqlEpochEpoch p.src ≠ p.epoch)

/-- What this device does with a packet addressed to it. -/
def serve (s : State) (port : Nat) (p : Packet) : State :=
  match p.typ with
  | 0 => serveRead s p
  | 1 | 3 | 5 => responseIn s port p
  | 2 => serveWrite s p
  | 4 => serveAtomic s p
  | 6 => if s.validate then s.bump F.feDoorbellBadCount else doorbellIn s true (p.payload.take p.len)
  | 7 => examineFence s (leNat (p.payload.take 8))
  | 8 => announceIn s p
  | _ => s.bump F.iqlStaleDropsCount port

/-- Whether a port takes packets: it is ON with its link up, or STOPPING and finishes the frames in flight (R607, R608). -/
def portTakes (s : State) (p : Nat) : Bool :=
  portUp s p || decide (s.fld F.iqlPortStatusLinkUp p = 1 ∧
    (s.fld F.iqlPortStatusState p = lcStopping ∨ s.fld F.iqlPortStatusState p = lcPendingOn))

/-- A packet arrives on a port (R616, R618, R622 to R624, R643). -/
def packetIn (s : State) (port vc : Nat) (p : Packet) : State :=
  if !portTakes s port then s
  else if !(s.iqlPort port).accepts s.now p then frameFailed s port
  else
    let s := (frameIn s port vc p).bump F.iqlRxPacketsCount port
    if 8 < p.typ then s.bump F.iqlStaleDropsCount port
    else if p.dst ≠ s.device then forward s port vc p
    else if epochStale s p then s.bump F.iqlStaleDropsCount port
    else
      let s := if (isRequest p || decide (p.typ = 6 ∨ p.typ = 7)) ∧ s.fld F.iqlEpochKnown p.src = 0 then
          (s.setFld F.iqlEpochKnown p.src 1).setFld F.iqlEpochEpoch p.src p.epoch
        else s
      serve s port p

/-- Each packet row is the arrival of a packet of its TYPE (R618). -/
def execRead (port : Fin 4) (vc : Fin 8) (p : Packet) (s : State) : Out := .next (packetIn s port vc { p with typ := 0 })
def execReadRsp (port : Fin 4) (vc : Fin 8) (p : Packet) (s : State) : Out := .next (packetIn s port vc { p with typ := 1 })
def execWrite (port : Fin 4) (vc : Fin 8) (p : Packet) (s : State) : Out := .next (packetIn s port vc { p with typ := 2 })
def execWriteAck (port : Fin 4) (vc : Fin 8) (p : Packet) (s : State) : Out := .next (packetIn s port vc { p with typ := 3 })
def execAtomicPacket (port : Fin 4) (vc : Fin 8) (p : Packet) (s : State) : Out := .next (packetIn s port vc { p with typ := 4 })
def execAtomicRsp (port : Fin 4) (vc : Fin 8) (p : Packet) (s : State) : Out := .next (packetIn s port vc { p with typ := 5 })
def execDoorbell (port : Fin 4) (vc : Fin 8) (p : Packet) (s : State) : Out := .next (packetIn s port vc { p with typ := 6 })
def execFenceNotice (port : Fin 4) (vc : Fin 8) (p : Packet) (s : State) : Out := .next (packetIn s port vc { p with typ := 7 })
def execAnnounce (port : Fin 4) (vc : Fin 8) (p : Packet) (s : State) : Out := .next (packetIn s port vc { p with typ := 8 })

/-- A transaction gets no response within TX_TIMEOUT_US (R631). -/
def execTxTimeout (txid : Fin 4096) (s : State) : Out :=
  let t := s.txn txid
  if t.busy ∧ s.fld F.iqlCfgTxTimeoutUs * 1000 ≤ s.now - t.sentAt then
    let s := drainTxWait 1 (s.setTxn txid { t with busy := false })
    .next (answered s t.purpose (.error stAccessFault) none)
  else .next s

/-! ### Ports (R605 to R616) -/

/-- The WIDTH that trained lanes give (R605): 2 for ×4, 1 for ×2 where allowed, 0 for none. -/
def widthOf (lanes : Nat) (allowX2 : Bool) : Nat :=
  if lanes = 15 then 2 else if allowX2 ∧ (lanes % 4 = 3 ∧ lanes / 4 ≠ 3 ∨ lanes / 4 = 3 ∧ lanes % 4 ≠ 3) then 1 else 0

/-- The lanes of a port and its width. -/
def setLanes (s : State) (p lanes : Nat) : State :=
  (s.setFld F.iqlPortStatusLanesOk p lanes).setFld F.iqlPortStatusWidth p
    (widthOf lanes (decide (s.fld F.iqlPortCtrlAllowX2 p = 1)))

/-- An enable request (R607, R715). -/
def iqlEnable (s : State) (p : Nat) : State :=
  let (n, acts) := lcNext (s.fld F.iqlPortStatusState p) .enable
  let set (s : State) : State := ((s.setFld F.iqlPortStatusState p n).setFld F.iqlPortCtrlEnable p 1).answer stOk
  if acts.contains .begin then
    let (ok, s) := domStart s domIhlique
    if ok then set s else s.answer stBusy
  else set s

/-- A transition of a port with its actions (R607): OFF clears the link, the keys and the width. -/
def iqlEvent (s : State) (p : Nat) (e : LcEvent) : State :=
  let (n, acts) := lcNext (s.fld F.iqlPortStatusState p) e
  let s := s.setFld F.iqlPortStatusState p n
  if acts.contains .off then
    let s := setLanes ((s.setFld F.iqlPortStatusLinkUp p 0).setFld F.iqlPortStatusKeyed p 0) p 0
    let s := s.setIqlPort p { s.iqlPort p with replay := [], traffic := [], retraining := false, key := 0, oldKey := none, credit := [], owed := [] }
    if (List.range 4).all (fun i => decide (s.fld F.iqlPortStatusState i = lcOff)) then domStop s domIhlique else s
  else s

def execIqlPortEnable (port : Fin 4) (s : State) : Out := .next (guarded s Reg.iqlPortCtrl (fun s => iqlEnable s port) (some (.port port)))

/-- A disable request (R607). -/
def iqlDisable (s : State) (p : Nat) : State := ((iqlEvent s p .disable).setFld F.iqlPortCtrlEnable p 0).answer stOk

def execIqlPortDisable (port : Fin 4) (s : State) : Out := .next (guarded s Reg.iqlPortCtrl (fun s => iqlDisable s port) (some (.port port)))

/-- Whether a port is starting: STARTING or PENDING_OFF. -/
def iqlStarting (s : State) (p : Nat) : Bool :=
  decide (s.fld F.iqlPortStatusState p = lcStarting ∨ s.fld F.iqlPortStatusState p = lcPendingOff)

/-- Whether the Ihlique pads are driven (R681). -/
def iqlPadsFree (s : State) : Bool := s.domOn domIhlique && decide (s.fld F.pwrDomainStatusPadsHeld domIhlique = 0)

/-- Keys fail (R610): counted, and an event names the port. -/
def authFailed (s : State) (p : Nat) : State := event (s.bump F.iqlAuthFailsCount p) 0x0C01 0 p

/-- The lanes that a port may train: not those of a pair that has failed (R791). -/
def usableLanes (i : IqlPort) (lanes : Nat) : Nat := match i.pairBad with
  | none => lanes
  | some k => lanes &&& (if k = 0 then 12 else 3)

/-- Two stewards exchange, sign and check keys over a trained link (R609, R610); a port without an expected peer accepts none (R832). `authentic`: the peer's signature, identity and
APPLIANCE_ID hold. The key is a free value. -/
def execKeyExchange (port : Fin 4) (lanes : BitVec 4) (peer : Fin 64) (peerEpoch : BitVec 8) (authentic : Bool) (s : State) : Out :=
  let i := s.iqlPort port
  let lanes := BitVec.ofNat 4 (usableLanes i lanes.toNat)
  let width := widthOf lanes.toNat (decide (s.fld F.iqlPortCtrlAllowX2 port = 1))
  if iqlPadsFree s ∧ width ≠ 0 ∧ (iqlStarting s port ∨ s.fld F.iqlPortStatusKeyed port = 0 ∧ s.fld F.iqlPortStatusState port = lcOn) then
    let expected : Bool := decide (i.expectDevice = some peer.val)
    if authentic ∧ expected then
      let s := setLanes s port lanes.toNat
      let (k, s) := s.fresh
      let s := s.setIqlPort port { i with key := k.toNat, oldKey := none, frames := 0, rxFrames := 0, failRun := 0 }
      .next (((s.setFld F.iqlPortStatusKeyed port 1).setFld F.iqlPortStatusPeerDevice port peer).setFld
        F.iqlPortStatusPeerEpoch port peerEpoch.toNat)
    else
      let s := authFailed s port
      .next (if s.fld F.iqlPortStatusState port = lcPendingOff then s.setFld F.iqlPortStatusState port lcStopping else s)
  else .next s

/-- ANNOUNCE goes to every device with a VALID route (R642). -/
def announceAll (s : State) : State :=
  (List.range 64).foldl (fun s d =>
    if s.fld F.iqlRouteValid d = 1 ∧ d ≠ s.device then
      (sendPacket s { typ := 8, dst := d, src := s.device, epoch := s.epoch, cls := 2 }).2
    else s) s

/-- A port's lanes are trained and its keys established (R607, R608, R642). -/
def execIqlPortOn (port : Fin 4) (s : State) : Out :=
  if iqlStarting s port ∧ s.fld F.iqlPortStatusKeyed port = 1 ∧ s.fld F.iqlPortStatusWidth port ≠ 0 then
    let pendingOff := s.fld F.iqlPortStatusState port = lcPendingOff
    let s := iqlEvent s port .up
    let s := s.setIqlPort port (s.iqlPort port).granted
    .next (if pendingOff then s else announceAll (s.setFld F.iqlPortStatusLinkUp port 1))
  else .next s

/-- Training or key establishment fails: counted, and retried, or with a disable pending the port begins stopping (R607). -/
def execIqlStartRetry (port : Fin 4) (why : StartFail) (s : State) : Out :=
  if iqlStarting s port then
    let s := match why with
      | .training => s.bump F.iqlRetrainsCount port
      | .keys => authFailed s port
    .next (if s.fld F.iqlPortStatusState port = lcPendingOff then s.setFld F.iqlPortStatusState port lcStopping else s)
  else .next s

/-- A stopping port's lanes are powered down (R607). -/
def execIqlLanesDown (port : Fin 4) (s : State) : Out := .next (iqlEvent s port .down)

/-- An ON port's link fails (R608). -/
def execIqlLinkDown (port : Fin 4) (s : State) : Out :=
  .next (if s.fld F.iqlPortStatusState port = lcOn then s.setFld F.iqlPortStatusLinkUp port 0 else s)

/-- The frames that a port holds unacknowledged are sent again, and what it held follows (R606, R616). -/
def releaseTraffic (s : State) (p : Nat) : State :=
  let i := s.iqlPort p
  let s := s.setIqlPort p { i with retraining := false }
  portGo (i.replay.foldl (fun s r => s.emit (.iql p r.2.1 r.1 i.keyPhase r.2.2)) s) p

/-- An ON port without a link retrains, and as it comes up its frames are replayed (R608, R616). -/
def execIqlLinkRetrain (port : Fin 4) (up : Bool) (s : State) : Out :=
  if s.fld F.iqlPortStatusState port = lcOn ∧ s.fld F.iqlPortStatusLinkUp port = 0 then
    let s := s.bump F.iqlRetrainsCount port
    .next (if !up then s
           else
             let s := s.setFld F.iqlPortStatusLinkUp port 1
             if (s.iqlPort port).retraining then s else releaseTraffic s port)
  else .next s

/-- A lane's uncorrected count passes 16 in a second while the port runs at ×4 (R605): the port retrains, without that lane's
pair, which is journalled, where ×2 is allowed, and holds its traffic (R606, R791). -/
def execLaneRetrain (port : Fin 4) (lane : Fin 4) (count : W32) (s : State) : Out :=
  if s.fld F.iqlPortStatusState port = lcOn ∧ s.fld F.iqlPortStatusWidth port = 2 ∧ 16 < count.toNat then
    let s := s.bump F.iqlFecUncorrectedCount port count.toNat
    let s := s.bump F.iqlRetrainsCount port
    let s := if s.fld F.iqlPortCtrlAllowX2 port = 1 then
        { s.setFld F.iqlPortStatusLanesOk port (if lane.val < 2 then 12 else 3) with
          journalDue := s.journalDue ++ [{ typ := 9, unit := port, sub := lane.val / 2, time := s.now }] }
      else s
    let bad := if s.fld F.iqlPortCtrlAllowX2 port = 1 then some (lane.val / 2) else (s.iqlPort port).pairBad
    .next (s.setIqlPort port { s.iqlPort port with retraining := true, pairBad := bad })
  else .next s

/-- A retrain completes (R605, R606). -/
def execRetrainEnd (port : Fin 4) (lanes : BitVec 4) (s : State) : Out :=
  if (s.iqlPort port).retraining then
    let s := setLanes s port (usableLanes (s.iqlPort port) lanes.toNat)
    .next (if s.fld F.iqlPortStatusWidth port = 0 then s.setFld F.iqlPortStatusLinkUp port 0
           else if s.fld F.iqlPortStatusKeyed port = 0 then s
           else releaseTraffic s port)
  else .next s

/-- After 2^40 frames new keys are derived and KEY_PHASE flips (R612). -/
def execRekey (port : Fin 4) (s : State) : Out :=
  let i := s.iqlPort port
  if s.fld F.iqlPortStatusKeyed port = 1 ∧ 2 ^ 40 ≤ max i.frames i.rxFrames then
    let (k, s) := s.fresh
    .next (event (s.setIqlPort port { i with key := k.toNat, oldKey := some i.key, rekeyAt := s.now, keyPhase := !i.keyPhase, frames := 0, rxFrames := 0 })
      0x0C02 0 port)
  else .next s

/-- A gap or a failed frame asks the sender for a replay; after 16 failures in a row the port drops its keys and holds its traffic
until they are established again (R613, R616). A peer's request sends its frames again from the first missing one. -/
def execLinkReplay (port : Fin 4) (cause : ReplayCause) (s : State) : Out :=
  let i := s.iqlPort port
  if ¬ portTakes s port then .next s
  else
    match cause with
    | .gap => .next ((s.bump F.iqlLinkRetriesCount port).emit (.iqlReplayReq port i.rxSeq))
    | .failedFrame => .next (frameFailed s port)
    | .peerAsks seq =>
      let keep := i.replay.filter (fun r => !decide ((seq.toNat + 2 ^ 24 - r.1) % 2 ^ 24 < 2 ^ 23 ∧ r.1 ≠ seq.toNat))
      let s := s.setIqlPort port { i with replay := keep }
      .next (keep.foldl (fun s r => s.emit (.iql port r.2.1 r.1 i.keyPhase r.2.2)) (s.bump F.iqlLinkRetriesCount port))

/-! ### Registers (R646, R647) -/

/-- A write to IQL_ROUTE_d (R625, R646). -/
def iqlRouteWrite (s : State) (d : Nat) (v : W32) : State :=
  if bitsOf v 7 7 = 1 ∧ bitsOf v 4 4 = 1 ∧ bitsOf v 6 5 = bitsOf v 3 2 then s.answer stInvalid
  else (s.wrPlain Reg.iqlRoute d (v.setWidth 64)).answer stOk

def execIqlRoute (dev : Fin 64) (v : W32) (s : State) : Out :=
  .next (guarded s Reg.iqlRoute (fun s => iqlRouteWrite s dev v))

/-- A write to IQL_PORT_CTRL_p: DATELINE and ALLOW_X2 change only while the port is OFF (R647), and ENABLE is a request (R607). -/
def iqlPortCtrlWrite (s : State) (p : Nat) (v : W32) : State :=
  let changes := bitsOf v 3 2 ≠ bitsOf (s.rd Reg.iqlPortCtrl p) 3 2
  if changes ∧ s.fld F.iqlPortStatusState p ≠ lcOff then s.answer stBusy
  else
    let s := s.wr Reg.iqlPortCtrl p (putBits (s.rd Reg.iqlPortCtrl p) 3 2 (bitsOf v 3 2))
    if bitsOf v 0 0 = 1 then iqlEnable s p else iqlDisable s p

def execIqlPortCtrl (port : Fin 4) (v : W32) (s : State) : Out :=
  .next (guarded s Reg.iqlPortCtrl (fun s => iqlPortCtrlWrite s port v) (some (.port port)))

/-- A write to IQL_CFG sets TX_TIMEOUT_US, which must not be 0 (R646). -/
def iqlCfgWrite (s : State) (v : W32) : State :=
  if bitsOf v 19 6 = 0 then s.answer stInvalid else (s.wrPlain Reg.iqlCfg 0 (v.setWidth 64)).answer stOk

def execIqlCfg (v : W32) (s : State) : Out := .next (guarded s Reg.iqlCfg (fun s => iqlCfgWrite s v))

/-! ### Bulk transfers (R635 to R639) -/

/-- The checks of R636 on a bulk descriptor, with its source, destination and length. -/
def bulkFields (w : List W64) : Option (Nat × Nat × Nat) :=
  let src := bitsOf (w.getD 0 0) 63 16
  let dst := bitsOf (w.getD 1 0) 63 16
  let n := (w.getD 2 0).toNat
  if bitsOf (w.getD 0 0) 15 0 = 0 ∧ bitsOf (w.getD 1 0) 15 0 = 0 ∧ w.getD 3 0 = 0 ∧ src % 16 = 0 ∧ dst % 16 = 0 ∧ n % 16 = 0 ∧
     16 ≤ n ∧ n ≤ 2 ^ 40 ∧ (src + n ≤ dst ∨ dst + n ≤ src) then some (src, dst, n)
  else none

/-- The pieces of a transfer, each within one KiB of the remote side and one page of the local side (R637). `push`: the
destination is remote. -/
def bulkMove (fuel : Nat) (s : State) (qi : Nat) (push : Bool) (dev src dst n : Nat) : Option W16 × State :=
  match fuel with
  | 0 => (none, s)
  | fuel + 1 =>
    if n = 0 then (none, s)
    else
      let h := (s.queue qi).owner
      let k := min n (min (1024 - src % 1024) (1024 - dst % 1024))
      match xlate s none h .load src with
      | (.error e, s) => (some e, s)
      | (.ok a, s) =>
        match xlate s none h .store dst with
        | (.error e, s) => (some e, s)
        | (.ok b, s) =>
          match push, a, b with
          | true, .mem x, .remote d y =>
            if d ≠ dev then (some stAccessFault, s)
            else
              match memLoad s x k with
              | (none, s) => (some stDataError, s)
              | (some bs, s) =>
                let (ok, s) := remoteWrite s d y bs 3 (.store qi)
                if ok then bulkMove fuel s qi push dev (src + k) (dst + k) (n - k) else (some stAccessFault, s)
          | false, .remote d x, .mem y =>
            if d ≠ dev then (some stAccessFault, s)
            else
              let (ok, s) := remoteRead s d x k 3 (.bulk qi y)
              if ok then bulkMove fuel s qi push dev (src + k) (dst + k) (n - k) else (some stAccessFault, s)
          | _, _, _ => (some stAccessFault, s)

/-- The port that a BULK command runs on: the one that its device's route leaves by (R638). -/
def bulkPort (s : State) (d : Nat) : Option UnitRef := (routeTo s d).map (fun n => .iqlPort (Fin.ofNat 4 n))

/-- A BULK command is on its port. -/
def bulkOn (s : State) (qi d : Nat) : State := match bulkPort s d with
  | none => s
  | some u => setOn s qi u

/-- A BULK command runs (R636 to R639). -/
def bulkRun (s : State) (qi : Nat) : State :=
  let q := s.queue qi
  match ctxReadObj s none q.owner .load q.object 32 with
  | (.error e, s) => complete (beginCmd s qi none) qi e
  | (.ok bs, s) =>
    match bulkFields (wordsOf bs) with
    | none => complete s qi stInvalid
    | some (src, dst, n) =>
      match xlate s none q.owner .load src with
      | (.error e, s) => complete (beginCmd s qi none) qi e
      | (.ok a, s) =>
        match xlate s none q.owner .store dst with
        | (.error e, s) => complete (beginCmd s qi none) qi e
        | (.ok b, s) =>
          let go (push : Bool) (d : Nat) : State :=
            match (bulkPort s d).bind (retarget s qi) with
            | some s => s
            | none =>
            let s := beginCmd (bulkOn s qi d) qi (some (n / 4 + 1000000))
            match bulkMove (n / 16 + 1) s qi push d src dst n with
            | (some e, s) => complete s qi e
            | (none, s) => complete s qi stOk
          match a, b with
          | .mem _, .remote d _ => go true d
          | .remote d _, .mem _ => go false d
          | .mem _, .mem _ => complete s qi stInvalid
          | .remote .., .remote .. => complete s qi stInvalid
          | _, _ => complete s qi stAccessFault

/-- BULK (R636). -/
def execBulk (q : Fin 16384) (s : State) : Out :=
  if starting s q 7 then
    match (s.queue q).stopReq with
    | some st => .next (complete s q st)
    | none => .next (withFarCmd s q (fun s => bulkRun s q))
  else .next s

end Sys2Proof.Machine
end

