-- ==== Sys2Proof/Machine/ShaderRows.lean ====
section
/-! DEFINITION. The instructions of thread groups, class by class, and what threads wait for (spec/06 R246 to R299). A command
names a group; the instruction is the one that R248 and R249 pick for it, fetched from memory. The numbers of OP are not in
the spec, so the command says which operation OP names (log 30). -/

namespace Sys2Proof.Machine

/-! ### Arithmetic (R266 to R269) -/

/-- Whether an integer operation multiplies (R238). -/
def intMuls : IntFn → Bool
  | .mul | .mulHi _ | .mad => true
  | _ => false

/-- An integer instruction (R268). -/
def execIntOp (g : GroupRef) (op : IntFn) (s : State) : Out :=
  let one := match op with
    | .not => true
    | _ => false
  let pred := match op with
    | .cmp .. => true
    | _ => false
  .next (issue s g 0x00 (aluRegs true (!one) (decide (op = .mad)) (!pred)) (fun s x =>
    aluBody true (!one) (decide (op = .mad)) (!pred) modInt (intAlu op) (if intMuls op then x.holdPipe 1 s else s) x))

/-- Whether an operation of the FP classes writes a predicate. -/
def fpPred : FpFn → Bool
  | .cmp .. => true
  | _ => false

/-- An FP32 instruction (R266). -/
def execFp32Op (g : GroupRef) (op : FpFn) (s : State) : Out :=
  .next (issue s g 0x01 (aluRegs true true (decide (op = .fma)) (!fpPred op))
    (aluBody true true (decide (op = .fma)) (!fpPred op) modFp32 (fp32Alu op)))

/-- A packed FP16 instruction (R266). -/
def execFp16x2Op (g : GroupRef) (op : FpFn) (s : State) : Out :=
  .next (issue s g 0x02 (aluRegs true true (decide (op = .fma)) (!fpPred op))
    (aluBody true true (decide (op = .fma)) (!fpPred op) modFp16x2 (fp16Alu op)))

/-- The overflow mode of a conversion by OP[7:6]; the default is the one that its command started with (R92, R94, R269). -/
def cvtNonSat (x : Issued) : Bool :=
  let o := natBits x.word 55 54
  if o = 0 then x.g.prog.nonSat else decide (o = 2)

/-- A conversion (R269): override 3 is illegal, as is a source or target that the OP does not name (R92, R263; log 28). -/
def cvtBody (src dst : CvtTy) (s : State) (x : Issued) : State :=
  if natBits x.word 55 54 = 3 then x.fault s 0x06 0 x.all
  else aluBody true false false true (modCvt src) (fun a _ _ => (cvt src dst (cvtNonSat x) a).map Sum.inl) s x

/-- A conversion (R269). -/
def execCvtOp (g : GroupRef) (src : CvtTy) (dst : CvtTy) (s : State) : Out :=
  .next (issue s g 0x03 (aluRegs true false false true) (cvtBody src dst))

/-- A special-function instruction (R267). -/
def execSfuOp (g : GroupRef) (op : SfuFn) (s : State) : Out :=
  .next (issue s g 0x04 (aluRegs true false false true) (aluBody true false false true modFp32 (fun a _ _ => (sfu op a).map Sum.inl)))

/-! ### MOVE (R253, R265) -/

/-- A system value of a lane (R265). A group of a render pass has no grid; what its block and grid read is not stated, and is free: by
R370 a function of what the group shades (log 29). -/
def sysValue (s : State) (x : Issued) (l : Nat) (v : SysVal) : W32 :=
  let b := blockOf x.gk
  let grid (n : Nat) (f : Nat × Nat × Nat → Nat) : W32 := match s.launch x.q with
    | some k => BitVec.ofNat 32 (f k.grid)
    | none => Config.unstated (54 + n) (match x.g.gfx with
      | none => []
      | some y => (y.verts.map (fun v => [v.1, v.2])).flatten ++
          (y.frags.map (fun f => [BitVec.ofNat 32 f.x, BitVec.ofNat 32 f.y, BitVec.ofNat 32 f.mask, BitVec.ofNat 32 f.tri])).flatten)
  match v with
  | .lane => BitVec.ofNat 32 l
  | .team => BitVec.ofNat 32 (x.g.thread l).team
  | .group => BitVec.ofNat 32 (groupOf x.gk)
  | .blockX => grid 0 (fun k => b % k.1)
  | .blockY => grid 1 (fun k => b / k.1 % k.2.1)
  | .blockZ => grid 2 (fun k => b / k.1 / k.2.1)
  | .gridX => grid 3 (fun k => k.1)
  | .gridY => grid 4 (fun k => k.2.1)
  | .gridZ => grid 5 (fun k => k.2.2)
  | .timeLo => BitVec.ofNat 32 s.now
  | .timeHi => BitVec.ofNat 32 (s.now / 2 ^ 32)

/-- The registers that a MOVE instruction names. -/
def moveRegs (op : MoveFn) (x : Issued) : List Nat :=
  match op with
  | .movA => aluRegs true false false true x
  | .movB => aluRegs false true false true x
  | .sel _ => aluRegs true true false true x
  | .sys _ => [wDst x.word]
  | .pred .. | .reserved => []

/-- The MOVE class (R257, R261, R265). -/
def moveBody (op : MoveFn) (s : State) (x : Issued) : State :=
  let alu (f : Nat → W32 → W32 → AluOut) : State :=
    finishAlu s x (x.lanes.map (fun l => (l, f l (x.modded modFree l).1 (x.modded modFree l).2)))
  if !x.regsOk (moveRegs op x) then x.fault s 0x06 0 x.all
  else
    match op with
    | .movA => alu (fun _ a _ => .inl a)
    | .movB => alu (fun _ _ b => .inl b)
    | .sel p => alu (fun l a b => .inl (if (x.g.thread l).pred p.val then a else b))
    | .pred f p q => alu (fun l _ _ => .inr (predAlu f ((x.g.thread l).pred p.val) ((x.g.thread l).pred q.val)))
    | .sys v => alu (fun l _ _ => .inl (sysValue s x l v))
    | .reserved => x.fault s 0x06 0 x.all

/-- A move, a select, predicate logic or a system value (R265). -/
def execMoveOp (g : GroupRef) (op : MoveFn) (s : State) : Out := .next (issue s g 0x05 (moveRegs op) (moveBody op))

/-- SETTEAM (R253): the executing threads leave their teams, whose waits no longer count them. -/
def setteamBody (s : State) (x : Issued) : State :=
  if !x.regsOk (aluRegs true false false false x) then x.fault s 0x06 0 x.all
  else
    let g := x.lanes.foldl (fun (g : Group) l => g.mapThread l (fun t =>
      { t with team := (x.modded modFree l).1.toNat % 4 })) x.g
    settleTeams (goOn s x g x.fall) x.gk

/-- Threads set their team numbers (R253). -/
def execSetteam (g : GroupRef) (s : State) : Out := .next (issue s g 0x05 (aluRegs true false false false) setteamBody)

/-! ### LANE (R253 to R255) -/

/-- Whether a lane operation is one that the device has. -/
def laneKnown : LaneFn → Bool
  | .reserved => false
  | .scaled c _ => match Fmt.ofCode c.val with
    | some f => f.scalable
    | none => false
  | _ => true

/-- Threads reach a lane instruction and wait; it executes once every live thread of their team waits there. -/
def laneBody (op : LaneFn) (s : State) (x : Issued) : State :=
  if !laneKnown op || !x.regsOk (laneRegs op x) then x.fault s 0x06 0 x.all
  else
    let g := x.g.mapLanes x.lanes (fun t => { t with wait := .lane op x.word })
    settleTeams (goOn s x g (x.fallBut x.lanes)) x.gk

/-- A lane instruction (R253, R254). -/
def execLaneOp (g : GroupRef) (op : LaneFn) (s : State) : Out := .next (issue s g 0x06 (laneRegs op) (laneBody op))

/-! ### Memory (R270 to R285) -/

/-- Bytes of data registers of an access. -/
def memBytes : MemFn → Nat
  | .load n _ | .store n => sizeBytes n
  | .reserved => 0

/-- A global load or store (R270 to R272, R275, R279). -/
def execGlobalMem (g : GroupRef) (op : MemFn) (s : State) : Out :=
  .next (issue s g 0x10 (fun x => x.memRegs (memBytes op)) (fun s x => match op with
    | .load n sg => globalLoad (releaseDrain s x) x (sizeBytes n) sg
    | .store n => globalStore s x (sizeBytes n)
    | .reserved => x.fault s 0x06 0 x.all))

/-- Bytes of data registers of a local access. -/
def localBytesOf : LocalFn → Nat
  | .load n _ | .store n => sizeBytes n
  | .atomic f wide => 4 * atomWords f wide
  | .reserved => 0

/-- A local load, store or atomic (R273, R282). -/
def execLocalMem (g : GroupRef) (op : LocalFn) (s : State) : Out :=
  .next (issue s g 0x11 (fun x => x.localRegs (localBytesOf op)) (fun s x => match op with
    | .load n sg => localLoad s x (sizeBytes n) sg
    | .store n => localStore s x (sizeBytes n)
    | .atomic f wide => localAtomic s x f wide
    | .reserved => x.fault s 0x06 0 x.all))

/-- An atomic through translation (R283, R284). -/
def execAtomicOp (g : GroupRef) (op : AtomFn) (wide : Bool) (s : State) : Out :=
  .next (issue s g 0x12 (fun x => x.memRegs (4 * atomWords op wide)) (fun s x => globalAtomic s x op wide))

/-- An instruction of a class whose OP numbers the spec does not give, one of which its own is, or else is reserved (R263; log 105). -/
def unlessReserved (body : State → Issued → State) (s : State) (x : Issued) : State :=
  if Config.opReserved (wClass x.word) (wOp x.word) then x.fault s 0x06 0 x.all else body s x

/-- A fence at partition scope or wider drains the core (R275, R452). -/
def fenceBody (s : State) (x : Issued) : State :=
  let s := if x.lanes.isEmpty ∨ wScope x.word < 3 then s else drainCore s x.g.core
  goOn s x x.g x.fall

/-- A memory fence; what a thread waits for before it is `Thread.mustWait` (R275, R279). -/
def execFenceOp (g : GroupRef) (s : State) : Out := .next (issue s g 0x13 (fun _ => []) (unlessReserved fenceBody))

/-! ### CONTROL (R251, R262, R287) -/

/-- The target of OFFSET (R262). -/
def Issued.target (x : Issued) : Int := (x.pc : Int) + 8 * wOffset x.word

/-- The idle lanes fall through, and the executing ones go to `dest`. -/
def Issued.branchTo (x : Issued) (dest : Nat → Int) : List (Nat × Int) :=
  x.all.map (fun l => (l, if x.lanes.contains l then dest l else (x.pc : Int) + 8))

/-- A branch (R262). -/
def execBranch (g : GroupRef) (s : State) : Out :=
  .next (issue s g 0x18 (fun _ => []) (unlessReserved (fun s x => goOn s x x.g (x.branchTo (fun _ => x.target)))))

/-- A call: the return address, as an offset from CODE_OFF, goes to g[DATA] (R262; log 26). -/
def callBody (s : State) (x : Issued) : State :=
  if !x.regsOk [wDst x.word] then x.fault s 0x06 0 x.all
  else
    goOn s x (x.lanes.foldl (fun (g : Group) l => g.setReg l (wDst x.word) (BitVec.ofNat 32 (x.pc + 8))) x.g)
      (x.branchTo (fun _ => x.target))

/-- A call (R262). -/
def execCall (g : GroupRef) (s : State) : Out := .next (issue s g 0x18 (fun x => [wDst x.word]) (unlessReserved callBody))

/-- A return to the address in g[ADDR]; one that is no multiple of 8 is illegal (R256, R262; log 26). -/
def retBody (s : State) (x : Issued) : State :=
  let dest (l : Nat) : Nat := (x.g.reg l (wSa x.word)).toNat
  if !x.regsOk [wSa x.word] || x.lanes.any (fun l => decide (dest l % 8 ≠ 0)) then x.fault s 0x06 0 x.all
  else goOn s x x.g (x.branchTo (fun l => (dest l : Nat)))

/-- A return (R262). -/
def execRet (g : GroupRef) (s : State) : Out := .next (issue s g 0x18 (fun x => [wSa x.word]) (unlessReserved retBody))

/-- What a group's waits do after a thread has exited or moved (R251, R253, R287, R290). -/
def settleAll (s : State) (gk : Nat) : State :=
  let s := match s.group gk with
    | none => s
    | some g => s.setGroup gk (some g.converge)
  settleAmma (settleBlockBar (settleGroupBar (settleTeams s gk) gk) gk) gk

/-- Threads exit (R287). -/
def exitBody (s : State) (x : Issued) : State :=
  let g := x.g.mapLanes x.lanes (fun t => { t with exited := true, convs := [] })
  settleAll (goOn s x g (x.fallBut x.lanes)) x.gk

/-- A thread exits (R287). -/
def execExit (g : GroupRef) (s : State) : Out := .next (issue s g 0x18 (fun _ => []) (unlessReserved exitBody))

/-- CONVERGE: the executing threads are held at the target (R251). -/
def convergeBody (s : State) (x : Issued) : State :=
  let t := x.target
  let g := x.g.mapLanes x.lanes (fun u =>
    let c := (x.pc, t.toNat)
    if t < 0 ∨ u.convs.contains c then u else { u with convs := u.convs ++ [c] })
  goOn s x g x.fall

/-- CONVERGE (R251). -/
def execConverge (g : GroupRef) (s : State) : Out := .next (issue s g 0x18 (fun _ => []) (unlessReserved convergeBody))

/-- Threads held for 256 issues of their group become ready (R251). -/
def execConvergeHoldExpiry (g : GroupRef) (s : State) : Out :=
  match s.group (groupKey g) with
  | none => .next s
  | some x =>
    .next (s.setGroup (groupKey g) (some { x with threads := x.threads.map (fun t => match t.hold with
      | some (_, n) => if n + 256 ≤ x.issues then { t with hold := none, since := x.issues } else t
      | none => t) }))

/-! ### BARRIER (R286 to R288) -/

/-- Threads arrive at a barrier: they wait at the next instruction. -/
def barrierBody (w : TWait) (settle : State → Nat → State) (s : State) (x : Issued) : State :=
  if 1 < wOp x.word then x.fault s 0x06 0 x.all
  else
    let s := goOn s x x.g x.fall
    match s.group x.gk with
    | none => s
    | some g => settle (s.setGroup x.gk (some (g.mapLanes x.lanes (fun t => { t with wait := w })))) x.gk

/-- A thread arrives at a group barrier (R287). -/
def execGroupBarrier (g : GroupRef) (s : State) : Out :=
  .next (issueIf s g 0x19 (fun _ => []) (fun x => decide (wOp x.word = 1)) (barrierBody .group settleGroupBar))

/-- A thread arrives at a block barrier (R287). -/
def execBlockBarrier (g : GroupRef) (s : State) : Out :=
  .next (issueIf s g 0x19 (fun _ => []) (fun x => decide (wOp x.word = 0)) (barrierBody .block settleBlockBar))

/-! ### ASYNC (R290 to R298) -/

/-- Threads reach an AMMA and wait for their whole group. -/
def ammaBody (s : State) (x : Issued) : State :=
  if !x.regsOk [wSa x.word] then x.fault s 0x06 0 x.all
  else
    let g := x.g.mapLanes x.lanes (fun t => { t with wait := .amma x.word })
    settleAmma (goOn s x g (x.fallBut x.lanes)) x.gk

/-- An async matrix operation is started (R290, R294). -/
def execAmma (g : GroupRef) (s : State) : Out := .next (issue s g 0x1A (fun x => [wSa x.word]) (unlessReserved ammaBody))

/-- The groups of a core, whose AMMAs may now start. -/
def groupsOn (s : State) (core : Nat) : List Nat :=
  (s.groups.filter (fun kv => match kv.2 with
    | none => false
    | some g => decide (g.core = core))).map (·.1)

/-- A token clears; threads that waited for it alone have now become ready (R249, R296). -/
def Group.tokenClear (g : Group) (k : Nat) : Group :=
  let t' := g.tokens - (if natBit g.tokens k then 2 ^ k else 0)
  { g with
    tokens := t'
    threads := g.threads.map (fun t => match t.wait with
      | .tokens m => if t' &&& m = 0 then { t with wait := .ready, since := g.issues } else t
      | _ => t) }

/-- The oldest async matrix operation of a core has written D: its token clears, and waiting operations start (R296, R298). -/
def ammaComplete (s : State) (core : Nat) : State :=
  match (s.core core).ammas with
  | [] => s
  | m :: _ =>
    let s := ammaRun s core m
    let c := s.core core
    let s := s.setCore core { c with ammas := c.ammas.drop 1 }
    let s := match s.group m.group with
      | none => s
      | some g => s.setGroup m.group (some (g.tokenClear m.token))
    (groupsOn s core).foldl settleAmma s

/-- An async matrix operation completes (R296). -/
def execAmmaComplete (core : CoreRef) (s : State) : Out := .next (ammaComplete s (coreKey core))

/-- WAITTOK: a thread is not ready until the named tokens have cleared, and then goes on (R296). -/
def waittokBody (s : State) (x : Issued) : State :=
  let m := wDst x.word % 256
  if x.g.tokens &&& m = 0 then goOn s x x.g x.fall
  else goOn s x (x.g.mapLanes x.lanes (fun t => { t with wait := .tokens m })) (x.fallBut x.lanes)

/-- A thread waits for tokens (R296). -/
def execWaittok (g : GroupRef) (s : State) : Out := .next (issue s g 0x1A (fun _ => []) (unlessReserved waittokBody))

end Sys2Proof.Machine
end

