-- ==== Sys2Proof/Machine/Sample.lean ====
section
/-! DEFINITION. SAMPLE: image descriptors, texel positions, filtering and its faults (spec/07 R343 to R345). -/

namespace Sys2Proof.Machine

/-- The fields of an image descriptor (R343). -/
structure Image where
  base : Nat
  format : Nat
  bilinear : Bool
  wrapU : Nat
  wrapV : Nat
  width : Nat
  height : Nat
  pitch : Nat
deriving DecidableEq, Repr

/-- An image descriptor from its first two words. -/
def imageOf (w0 w1 : Nat) : Image :=
  { base := natBits w0 63 16, format := natBits w0 15 12, bilinear := natBit w0 11, wrapU := natBits w0 10 9,
    wrapV := natBits w0 8 7, width := natBits w1 63 50 + 1, height := natBits w1 49 36 + 1, pitch := natBits w1 35 12 }

/-- The fault KIND of a descriptor, if any (R345). -/
def imageFault (m : Image) : Option Nat :=
  if 9 < m.format then some 0x14
  else if m.wrapU = 3 ∨ m.wrapV = 3 ∨ m.base % 16 ≠ 0 ∨ m.pitch % 16 ≠ 0 then some 0x13
  else none

/-- A texel index under a wrap mode; none for the border. -/
def wrapIndex (mode n : Nat) (i : Int) : Option Nat :=
  match mode with
  | 0 => some (max 0 (min i ((n : Int) - 1))).toNat
  | 1 => some (i % (n : Int)).toNat
  | _ => if 0 ≤ i ∧ i < (n : Int) then some i.toNat else none

/-- What a lane's reads come to: values, or the fault KIND and address. -/
abbrev Read (α : Type) := Except (Nat × Nat) α

/-- The line of an address in this device's memory drains from a core's merging buffer. -/
def drainAt (s : State) (core : Nat) (h : W32) (va : Nat) : State :=
  match peek s h va with
  | some (.mem a) => drainLine s core (a / 128)
  | _ => s

/-- A lane's read of up to 128 bytes of context memory; its lines in the core's merging buffer drain first (R276, R345, R452). -/
def laneRead (s : State) (x : Issued) (va n : Nat) : Read Nat × State :=
  if 2 ^ 48 ≤ va then (.error (0x01, va), s)
  else
    let h := (s.queue x.q).owner
    let s := drainAt (drainAt s x.g.core h va) x.g.core h (va + n - 1)
    match ctxReadObj s (some (.core x.g.core)) h .load va n with
    | (.error e, s) => (.error (accessKind e, va), s)
    | (.ok bs, s) => (.ok (leNat bs), s)

/-- The components of a texel (R325, R344). -/
def texel (s : State) (x : Issued) (m : Image) (i j : Int) : Read (List W32) × State :=
  match wrapIndex m.wrapU m.width i, wrapIndex m.wrapV m.height j with
  | some a, some b =>
    if m.format = 9 then
      match laneRead s x (m.base + b * m.pitch + a / 2 * 4) 4 with
      | (.error e, s) => (.error e, s)
      | (.ok v, s) =>
        let y := if a % 2 = 0 then natBits v 7 0 else natBits v 23 16
        (.ok [unormDecode 8 y, unormDecode 8 (natBits v 15 8), unormDecode 8 (natBits v 31 24), oneF], s)
    else
      let n := fmtBytes m.format
      match laneRead s x (m.base + b * m.pitch + a * n) n with
      | (.error e, s) => (.error e, s)
      | (.ok v, s) => (.ok (pixelDecode m.format v), s)
  | _, _ => (.ok [0, 0, 0, 0], s)

/-- A normalised coordinate times the size, in units of 1/2^32 of a texel, rounded down; none for a NaN or an infinity. The
spec does not state how the position is formed: it is taken exactly (log 31). -/
def texelPos (u : W32) (n : Nat) : Option Int :=
  match Num.ofFp32 u with
  | .fin neg m q =>
    let k := q + 32
    let a : Int := if neg then -((m * n : Nat) : Int) else ((m * n : Nat) : Int)
    some (if 0 ≤ k then a * 2 ^ k.toNat else a / (2 ^ (-k).toNat : Nat))
  | _ => none

/-- The texel and the fraction in 1/256, rounded to nearest with ties to even, of a bilinear position (R344). -/
def bilinearPos (p : Int) : Int × Nat :=
  let t := p - 2 ^ 31
  let i := t / 2 ^ 32
  (i, roundShift (t % 2 ^ 32).toNat 24)

/-- A fraction in 1/256 as FP32. -/
def fracFp32 (f : Nat) : W32 := ratFp32 f 256

/-- One component of the bilinear sum, each operation rounded (R344). -/
def bilinear (t00 t10 t01 t11 fu fv : W32) : W32 :=
  let gu := fp32Sub oneF fu
  let gv := fp32Sub oneF fv
  fp32Add (fp32Mul (fp32Add (fp32Mul t00 gu) (fp32Mul t10 fu)) gv)
    (fp32Mul (fp32Add (fp32Mul t01 gu) (fp32Mul t11 fu)) fv)

/-- Four texels of a bilinear sample, combined. -/
def sampleFour (s : State) (x : Issued) (m : Image) (i j : Int) (fu fv : Nat) : Read (List W32) × State :=
  match texel s x m i j with
  | (.error e, s) => (.error e, s)
  | (.ok a, s) =>
    match texel s x m (i + 1) j with
    | (.error e, s) => (.error e, s)
    | (.ok b, s) =>
      match texel s x m i (j + 1) with
      | (.error e, s) => (.error e, s)
      | (.ok c, s) =>
        match texel s x m (i + 1) (j + 1) with
        | (.error e, s) => (.error e, s)
        | (.ok d, s) =>
          (.ok (tabulate 4 (fun k => bilinear (a.getD k 0) (b.getD k 0) (c.getD k 0) (d.getD k 0) (fracFp32 fu)
            (fracFp32 fv))), s)

/-- What a SAMPLE gives a lane (R343 to R345). A coordinate that is a NaN or an infinity has no stated texel (log 23). -/
def sampleLane (s : State) (x : Issued) (l : Nat) : Read (List W32) × State :=
  let va := x.globalVa l
  let u := x.g.reg l (wDst x.word)
  let v := x.g.reg l (wDst x.word + 1)
  match laneRead s x va 32 with
  | (.error e, s) => (.error e, s)
  | (.ok d, s) =>
    let m := imageOf (d % 2 ^ 64) (d / 2 ^ 64 % 2 ^ 64)
    match imageFault m with
    | some k => (.error (k, va), s)
    | none =>
      if wOp x.word = 1 then texel s x m u.toInt v.toInt
      else
        match texelPos u m.width, texelPos v m.height with
        | some p, some q =>
          if m.bilinear then
            let (i, fu) := bilinearPos p
            let (j, fv) := bilinearPos q
            sampleFour s x m i j fu fv
          else texel s x m (p / 2 ^ 32) (q / 2 ^ 32)
        | _, _ => (.ok (tabulate 4 (fun k => Config.unstated (40 + k) [u, v])), s)

/-- The registers that a SAMPLE names. -/
def sampleRegs (x : Issued) : List Nat :=
  [wSa x.word, wSa x.word + 1, wDst x.word, wDst x.word + 1, wDst x.word + 2, wDst x.word + 3]

/-- SAMPLE for every executing lane; a lane that fails stops the command (R343, R345). -/
def sampleBody (s : State) (x : Issued) : State :=
  if 1 < wOp x.word || decide (wSa x.word % 2 ≠ 0) || !x.regsOk (sampleRegs x) then x.fault s 0x06 0 x.all
  else
    let r := x.lanes.foldl (fun (acc : Group × Option (Nat × Nat) × List Nat × State) l =>
      match sampleLane acc.2.2.2 x l with
      | (.error e, s) => (acc.1, acc.2.1.orElse (fun _ => some e), acc.2.2.1 ++ [l], s)
      | (.ok vs, s) =>
        ((vs.zipIdx).foldl (fun (g : Group) vi => g.setReg l (wDst x.word + vi.2) vi.1) acc.1, acc.2.1, acc.2.2.1, s))
      (x.g, none, [], s)
    match r.2.1 with
    | some (k, va) => x.fault r.2.2.2 k va r.2.2.1
    | none => goOn r.2.2.2 x r.1 x.fall

/-- A thread group reads an image through the sample unit (R343). -/
def execSample (g : GroupRef) (s : State) : Out :=
  .next (match s.group (groupKey g) with
    | none => s
    | some x =>
      if hasTurn s (groupKey g) x then withFar s (groupUnit (groupKey g)) (fun s => issue s g 0x14 sampleRegs sampleBody)
      else s)

end Sys2Proof.Machine
end

