-- ==== Sys2Proof/Machine/Triangles.lean ====
section
/-! DEFINITION. Triangles: draw records, assembly, clipping, the viewport, coverage, tests and blending of one sample (spec/07
R328 to R337). Positions and clipping are taken exactly; what R333 leaves to a fixed sequence of operations is free
(log 33). -/

namespace Sys2Proof.Machine

/-! ### Draw records (R328) -/

def drVs (w : List W64) : Nat := bitsOf (w.getD 0 0) 63 16
def drNattr (w : List W64) : Nat := bitsOf (w.getD 0 0) 3 0
def drFs (w : List W64) : Nat := bitsOf (w.getD 1 0) 63 16
def drConst (w : List W64) : Nat := bitsOf (w.getD 2 0) 63 16
def drIndex (w : List W64) : Nat := bitsOf (w.getD 3 0) 63 16
def drIdxfmt (w : List W64) : Nat := bitsOf (w.getD 3 0) 15 14
def drStrip (w : List W64) : Bool := bitsOf (w.getD 3 0) 13 13 = 1
def drCull (w : List W64) : Nat := bitsOf (w.getD 3 0) 12 11
def drFrontCw (w : List W64) : Bool := bitsOf (w.getD 3 0) 10 10 = 1
def drFlat (w : List W64) : Nat := bitsOf (w.getD 3 0) 9 2
def drSampleRate (w : List W64) : Bool := bitsOf (w.getD 3 0) 1 1 = 1
def drVcount (w : List W64) : Nat := bitsOf (w.getD 4 0) 63 32
def drFirst (w : List W64) : Nat := bitsOf (w.getD 4 0) 31 0
def drIcount (w : List W64) : Nat := bitsOf (w.getD 5 0) 63 32
def drFirstInst (w : List W64) : Nat := bitsOf (w.getD 5 0) 31 0
def drScissor (w : List W64) (i : Nat) : Nat := bitsOf (w.getD 6 0) (63 - 16 * i) (48 - 16 * i)
/-- A field of the depth and stencil state. -/
def drZs (w : List W64) (hi lo : Nat) : Nat := bitsOf (w.getD 7 0) hi lo
def drScale (w : List W64) (i : Nat) : W32 := BitVec.ofNat 32 (bitsOf (w.getD (8 + i) 0) 63 32)
def drOffset (w : List W64) (i : Nat) : W32 := BitVec.ofNat 32 (bitsOf (w.getD (8 + i) 0) 31 0)
/-- The blend state of attachment `n` (R335): the lower-numbered in bits [31:0]. -/
def drBlend (w : List W64) (n : Nat) : Nat := bitsOf (w.getD (11 + n / 2) 0) (31 + 32 * (n % 2)) (32 * (n % 2))

/-- The triangles of an instance (R329). -/
def drTris (w : List W64) : Nat := if drStrip w then drVcount w - 2 else drVcount w / 3

/-- The vertices of a triangle (R329). -/
def drTriVerts (w : List W64) (t : Nat) : List Nat :=
  if drStrip w then (if t % 2 = 0 then [t, t + 1, t + 2] else [t, t + 2, t + 1]) else [3 * t, 3 * t + 1, 3 * t + 2]

/-! ### Clipping and the viewport (R331) -/

/-- A homogeneous position on an integer grid. -/
structure Pos where
  x : Int
  y : Int
  z : Int
  w : Int
deriving DecidableEq, Repr

/-- A finite value in units of `2 ^ e`, where `e` is not above its exponent. -/
def numInt (e : Int) : Num → Int
  | .fin neg m q =>
    let v : Int := (m : Int) * 2 ^ (q - e).toNat
    if neg then -v else v
  | _ => 0

/-- The exponent of a finite non-zero value. -/
def numExp : Num → Int
  | .fin _ _ q => q
  | _ => 0

/-- Whether every value is finite. -/
def allFinite (xs : List Num) : Bool := xs.all (fun x => match x with
  | .fin .. => true
  | _ => false)

/-- A linear form of a position. -/
structure Plane where
  x : Int
  y : Int
  z : Int
  w : Int
deriving DecidableEq, Repr

def Plane.at' (p : Plane) (v : Pos) : Int := p.x * v.x + p.y * v.y + p.z * v.z + p.w * v.w

/-- The point of an edge on a plane, scaled by a positive number: `da ≥ 0` and `db < 0` or the reverse. -/
def edgePoint (a b : Pos) (da db : Int) : Pos :=
  let (da, db) := if da < 0 then (-da, -db) else (da, db)
  { x := da * b.x - db * a.x, y := da * b.y - db * a.y, z := da * b.z - db * a.z, w := da * b.w - db * a.w }

/-- A polygon clipped to a plane's side. -/
def clipPlane (p : Plane) (vs : List Pos) : List Pos :=
  match vs with
  | [] => []
  | v0 :: _ =>
    ((vs.zip (vs.drop 1 ++ [v0])).map (fun e =>
      let da := p.at' e.1
      let db := p.at' e.2
      if 0 ≤ da then (if 0 ≤ db then [e.1] else [e.1, edgePoint e.1 e.2 da db])
      else if 0 ≤ db then [edgePoint e.1 e.2 da db]
      else [])).flatten

/-- `n / d` rounded to nearest with ties to even, for `d > 0`. -/
def roundDiv (n d : Int) : Int :=
  let t := n / d
  let r := n % d
  if 2 * r > d ∨ (2 * r = d ∧ t % 2 = 1) then t + 1 else t

/-- The viewport of a draw on the integer grid: scales and offsets of x and y in units of `2 ^ e`. -/
structure Viewport where
  e : Int
  sx : Int
  ox : Int
  sy : Int
  oy : Int
deriving DecidableEq, Repr

/-- The viewport of a draw; none where a value is a NaN or an infinity. -/
def viewportOf (w : List W64) : Option Viewport :=
  let ns := [Num.ofFp32 (drScale w 0), Num.ofFp32 (drOffset w 0), Num.ofFp32 (drScale w 1), Num.ofFp32 (drOffset w 1)]
  if allFinite ns then
    let e := ns.foldl (fun m n => min m (numExp n)) 0
    some { e := e, sx := numInt e (ns.getD 0 .nan), ox := numInt e (ns.getD 1 .nan), sy := numInt e (ns.getD 2 .nan),
           oy := numInt e (ns.getD 3 .nan) }
  else none

/-- The clip planes: depth, and the guard band of 32,768 pixels about the render area (R331). -/
def clipPlanes (v : Viewport) (width height : Nat) : List Plane :=
  let one : Int := 2 ^ (-v.e).toNat
  [{ x := 0, y := 0, z := 1, w := 0 }, { x := 0, y := 0, z := -1, w := 1 },
   { x := v.sx, y := 0, z := 0, w := v.ox + 32768 * one },
   { x := -v.sx, y := 0, z := 0, w := ((width : Int) + 32768) * one - v.ox },
   { x := 0, y := v.sy, z := 0, w := v.oy + 32768 * one },
   { x := 0, y := -v.sy, z := 0, w := ((height : Int) + 32768) * one - v.oy }]

/-- A position mapped through the viewport and snapped to 1/256 pixel (R331); none where w is 0. -/
def snap (v : Viewport) (p : Pos) : Option (Int × Int) :=
  if p.w ≤ 0 then none
  else
    let d := p.w * 2 ^ (-v.e).toNat
    some (roundDiv (256 * (p.x * v.sx + p.w * v.ox)) d, roundDiv (256 * (p.y * v.sy + p.w * v.oy)) d)

/-- Twice the signed area of three points: positive for a triangle that runs clockwise on a screen whose rows go down. -/
def area2 (a b c : Int × Int) : Int := (b.1 - a.1) * (c.2 - a.2) - (c.1 - a.1) * (b.2 - a.2)

/-- The words of the vertices of a triangle, as one list. -/
def triWords (vecs : List (List W32)) : List W32 := vecs.flatten

/-- The corners of the pieces of a triangle after culling by w, clipping, mapping and snapping (R331). A triangle with a NaN or an
infinity has corners that the spec does not state (log 23). -/
def triPieces (w : List W64) (width height : Nat) (vecs : List (List W32)) : List (List (Int × Int)) :=
  let ns := vecs.map (fun v => (v.take 4).map Num.ofFp32)
  match viewportOf w, ns.all allFinite with
  | some vp, true =>
    let wOf (v : List Num) : Num := v.getD 3 (.fin false 0 0)
    if ns.all (fun v => (wOf v).isZero || (wOf v).isNeg) then []
    else
      let e := (ns.flatten).foldl (fun m n => min m (numExp n)) 0
      let ps := ns.map (fun v => ({ x := numInt e (v.getD 0 .nan), y := numInt e (v.getD 1 .nan),
                                    z := numInt e (v.getD 2 .nan), w := numInt e (v.getD 3 .nan) } : Pos))
      let poly := (clipPlanes vp width height).foldl (fun vs p => clipPlane p vs) ps
      let pts := poly.filterMap (snap vp)
      if pts.length < poly.length then []
      else
        match pts with
        | [] => []
        | p0 :: rest => (rest.zip (rest.drop 1)).map (fun ab => [p0, ab.1, ab.2])
  | _, _ =>
    let c (i : Nat) : Int := signed 24 (Config.unstated (60 + i) (triWords vecs)).toNat
    [[(c 0, c 1), (c 2, c 3), (c 4, c 5)]]

/-- Whether a piece is culled: no area, or the face that CULL names (R331). -/
def culled (w : List W64) (c : List (Int × Int)) : Bool :=
  let a := area2 (c.getD 0 (0, 0)) (c.getD 1 (0, 0)) (c.getD 2 (0, 0))
  let front := if drFrontCw w then decide (0 < a) else decide (a < 0)
  decide (a = 0) || (decide (drCull w = 1) && !front) || (decide (drCull w = 2) && front)

/-! ### Coverage (R332) -/

/-- The sample positions within a pixel, in 1/256 (R332). -/
def samplePos (samples s : Nat) : Int × Int :=
  if samples = 1 then (128, 128)
  else if samples = 2 then (if s = 0 then (192, 192) else (64, 64))
  else ([((96 : Int), (32 : Int)), (224, 96), (32, 160), (160, 224)]).getD s (0, 0)

/-- One edge's test: the edge function is positive, or zero on a top or left edge. -/
def edgeIn (a b p : Int × Int) : Bool :=
  let e := area2 a b p
  decide (0 < e) || (decide (e = 0) && (decide (b.2 < a.2) || (decide (b.2 = a.2) && decide (a.1 < b.1))))

/-- Whether a sample of a pixel is covered by corners of either orientation. -/
def covers (c : List (Int × Int)) (samples x y s : Nat) : Bool :=
  let p0 := c.getD 0 (0, 0)
  let p1 := c.getD 1 (0, 0)
  let p2 := c.getD 2 (0, 0)
  let (p1, p2) := if area2 p0 p1 p2 < 0 then (p2, p1) else (p1, p2)
  let o := samplePos samples s
  let p : Int × Int := (256 * (x : Int) + o.1, 256 * (y : Int) + o.2)
  edgeIn p0 p1 p && edgeIn p1 p2 p && edgeIn p2 p0 p

/-- The samples of a pixel that a triangle covers inside the render area and the scissor (R332). -/
def coverMask (w : List W64) (width height samples : Nat) (c : List (Int × Int)) (x y : Nat) : Nat :=
  if width ≤ x ∨ height ≤ y ∨ x < drScissor w 0 ∨ y < drScissor w 1 ∨ drScissor w 2 ≤ x ∨ drScissor w 3 ≤ y then 0
  else laneMask ((List.range samples).filter (covers c samples x y))

/-- The fragments of a triangle in a tile, pixel by pixel; one for each covered sample under SAMPLE_RATE (R328, R342). -/
def tileFrags (w : List W64) (width height samples : Nat) (t : Tri) (id tx ty : Nat) : List Frag :=
  ((List.range 1024).map (fun i =>
    let x := 32 * tx + i % 32
    let y := 32 * ty + i / 32
    let m := coverMask w width height samples t.xy x y
    if m = 0 then []
    else if drSampleRate w then
      ((List.range samples).filter (natBit m)).map (fun s => ({ x := x, y := y, mask := 2 ^ s, tri := id } : Frag))
    else [({ x := x, y := y, mask := m, tri := id } : Frag)])).flatten

/-- The tiles that a triangle covers, by index (R347). -/
def triTiles (w : List W64) (width height samples : Nat) (c : List (Int × Int)) : List Nat :=
  let cols := (width + 31) / 32
  let rows := (height + 31) / 32
  let lo (f : Int × Int → Int) : Nat := ((c.map f).foldl min ((c.map f).headD 0) / 8192).toNat
  let hi (f : Int × Int → Int) (n : Nat) : Nat := min n (((c.map f).foldl max 0 / 8192).toNat + 1)
  let xs := (List.range (hi (·.1) cols)).filter (fun i => decide (lo (·.1) ≤ i))
  let ys := (List.range (hi (·.2) rows)).filter (fun i => decide (lo (·.2) ≤ i))
  ((ys.map (fun ty => xs.filterMap (fun tx =>
    if (List.range 1024).any (fun i =>
      decide (coverMask w width height samples c (32 * tx + i % 32) (32 * ty + i / 32) ≠ 0)) then some (ty * cols + tx)
    else none)))).flatten

/-! ### Depth, stencil and blending of one sample (R333 to R336) -/

/-- The words that the fixed sequences of R333 take: the vertices, the viewport and the sample's place. -/
def rasterInputs (w : List W64) (t : Tri) (x y : Nat) (o : Int × Int) : List W32 :=
  triWords t.vecs ++ [drScale w 0, drOffset w 0, drScale w 1, drOffset w 1, drScale w 2, drOffset w 2,
    BitVec.ofInt 32 (256 * (x : Int) + o.1), BitVec.ofInt 32 (256 * (y : Int) + o.2)]

/-- A depth clamped to [0, 1] by the operations of R97, with subnormals read as zero (R72, R333). What a NaN clamps to depends
on the order of the two, which the spec does not state (log 23). -/
def clampDepth (z : W32) : W32 :=
  if (Num.ofFp32 z).isNan then Config.unstated 52 [z] else fp32Max (fp32Min z oneF) 0

/-- Depth at a sample (R333): a fixed function of its inputs that the spec does not spell out (log 33). -/
def sampleDepth (w : List W64) (t : Tri) (x y : Nat) (o : Int × Int) : W32 :=
  clampDepth (Config.unstated 50 (rasterInputs w t x y o))

/-- An interpolated attribute component (R333), likewise. -/
def interpolate (w : List W64) (t : Tri) (a c x y : Nat) (o : Int × Int) : W32 :=
  Config.unstated 51 ([BitVec.ofNat 32 (4 * a + c)] ++ rasterInputs w t x y o)

/-- A comparison of R334 from less-than and equality. -/
def cmpFunc (f : Nat) (lt eq gt : Bool) : Bool :=
  match f with
  | 0 => false
  | 1 => lt
  | 2 => eq
  | 3 => lt || eq
  | 4 => gt
  | 5 => !eq
  | 6 => gt || eq
  | _ => true

/-- A stencil operation (R334). -/
def stencilOp (op old ref : Nat) : Nat :=
  match op with
  | 0 => old
  | 1 => 0
  | 2 => ref
  | 3 => min 255 (old + 1)
  | 4 => old - 1
  | 5 => 255 - old
  | 6 => (old + 1) % 256
  | _ => (old + 255) % 256

/-- The depth bits that a format stores (R326, R333). -/
def depthBits (dsfmt : Nat) (z : W32) : Nat := if dsfmt = 1 then unormEncode 16 z else z.toNat

/-- The depth test of a sample against the stored pixel (R334). -/
def depthPass (w : List W64) (dsfmt stored : Nat) (z : W32) : Bool :=
  if dsfmt = 0 ∨ drZs w 63 63 = 0 then true
  else
    let f := drZs w 61 59
    let n := depthBits dsfmt z
    if dsfmt = 1 then cmpFunc f (decide (n < stored % 65536)) (decide (n = stored % 65536)) (decide (stored % 65536 < n))
    else
      let a := Num.ofFp32 z
      let b := Num.ofFp32 (BitVec.ofNat 32 stored)
      cmpFunc f (a.ltIeee b) (a.eqIeee b) (b.ltIeee a)

/-- Stencil and depth at a sample: the stored pixel after it, and whether the sample passes (R334). -/
def zsTest (w : List W64) (dsfmt stored : Nat) (z : W32) : Nat × Bool :=
  if dsfmt = 0 then (stored, true)
  else
    let old := natBits stored 39 32
    let ref := drZs w 45 38
    let rm := drZs w 37 30
    let wm := drZs w 29 22
    let on := dsfmt = 3 ∧ drZs w 58 58 = 1
    let a := ref &&& rm
    let b := old &&& rm
    let sp := if on then cmpFunc (drZs w 57 55) (decide (a < b)) (decide (a = b)) (decide (b < a)) else true
    let zp := depthPass w dsfmt stored z
    let op := if !sp then drZs w 54 52 else if !zp then drZs w 51 49 else drZs w 48 46
    let new := if on then (old &&& (255 - wm)) ||| (stencilOp op old ref &&& wm) else old
    let pass := sp && zp
    let depth := if pass ∧ drZs w 62 62 = 1 then depthBits dsfmt z else (if dsfmt = 1 then stored % 65536 else stored % 2 ^ 32)
    (if dsfmt = 3 then depth + new * 2 ^ 32 else depth, pass)

/-- A blend factor (R335) for a channel: `c` and `d` are the channel's source and destination values, `ca` and `da` the alphas. -/
def blendFactor (f : Nat) (c d ca da : W32) : W32 :=
  match f with
  | 0 => 0
  | 1 => oneF
  | 2 => c
  | 3 => fp32Sub oneF c
  | 4 => ca
  | 5 => fp32Sub oneF ca
  | 6 => d
  | 7 => fp32Sub oneF d
  | 8 => da
  | _ => fp32Sub oneF da

/-- A channel's blend (R336). -/
def blendChannel (sf df op : Nat) (c d ca da : W32) : W32 :=
  match op with
  | 3 => fp32Min c d
  | 4 => fp32Max c d
  | _ =>
    let a := fp32Mul c (blendFactor sf c d ca da)
    let b := fp32Mul d (blendFactor df c d ca da)
    if op = 0 then fp32Add a b else if op = 1 then fp32Sub a b else fp32Sub b a

/-- The colour that enters a pixel: the shader's, or its blend with what the pixel holds (R335, R336). -/
def blendColor (b : Nat) (src dst : List W32) : List W32 :=
  if natBit b 31 then
    let ca := src.getD 3 0
    let da := dst.getD 3 0
    tabulate 4 (fun c =>
      if c = 3 then blendChannel (natBits b 19 16) (natBits b 15 12) (natBits b 11 9) ca da ca da
      else blendChannel (natBits b 30 27) (natBits b 26 23) (natBits b 22 20) (src.getD c 0) (dst.getD c 0) ca da)
  else src

end Sys2Proof.Machine
end

