-- ==== Sys2Proof/Machine/Raster.lean ====
section
/-! DEFINITION. Render passes: their checks, the vertex stage, binning into the heap, tiles, fragments, spills and writeback
(spec/07 R318 to R370). Groups of a pass run one at a time for its vertex stage and one at a time for each tile (log 34). -/

namespace Sys2Proof.Machine

/-! ### Checks (R348, R351, R352) -/

/-- Whether two lists of memory ranges of a context meet in memory: page by page, in the same memory (R352). -/
def memRanges (s : State) (h : W32) (va n : Nat) : List (Target × Nat × Nat) :=
  (List.range ((va + n + 4095) / 4096 - va / 4096)).filterMap (fun i =>
    let page := (va / 4096 + i) * 4096
    let lo := max va page - page
    let hi := min (va + n) (page + 4096) - page
    (peek s h page).map (fun t => (t, lo, hi)))

def rangesMeet (a b : List (Target × Nat × Nat)) : Bool :=
  a.any (fun x => b.any (fun y => decide (x.1 = y.1 ∧ x.2.1 < y.2.2 ∧ y.2.1 < x.2.2)))

/-- The attachments that a pass uses. -/
def atts (w : List W64) : List Nat := List.range (pNcolor w)

/-- Bytes of a row of an attachment, of a resolve target and of the depth-stencil attachment. -/
def aRow (w : List W64) (n : Nat) : Nat := pWidth w * pSamples w * fmtBytes (aFormat w n)
def aResolveRow (w : List W64) (n : Nat) : Nat := pWidth w * fmtBytes (aFormat w n)
def dsRow (w : List W64) : Nat := pWidth w * pSamples w * dsBytes (pDsfmt w)

/-- Whether a pass resolves attachment `n`, and stores its samples. -/
def aResolves (w : List W64) (n : Nat) : Bool := decide (2 ≤ aStore w n)
def aStores (w : List W64) (n : Nat) : Bool := decide (aStore w n = 1 ∨ aStore w n = 3)

/-- Reserved values, of unused attachments too (R351). -/
def passReserved (w : List W64) (draws : List (List W64)) : Bool :=
  decide (bitsOf (w.getD 0 0) 35 34 = 3 ∨ 3 < pDsfmt w ∨ pDsLoad w = 3) ||
    (List.range 4).any (fun n => decide (aLoad w n = 3)) ||
    draws.any (fun d => decide (1 < drIdxfmt d ∨ drCull d = 3) || (List.range 4).any (fun n =>
      let b := drBlend d n
      decide (9 < natBits b 30 27 ∨ 9 < natBits b 26 23 ∨ 9 < natBits b 19 16 ∨ 9 < natBits b 15 12 ∨ 4 < natBits b 22 20 ∨
        4 < natBits b 11 9)))

/-- What makes a pass invalid (R351). -/
def passInvalid (w : List W64) (draws : List (List W64)) (heap : List W64) : Bool :=
  let tiles := (pWidth w + 31) / 32 * ((pHeight w + 31) / 32)
  decide (4 < pNcolor w ∨ 1 < pDsStore w ∨ 131072 < pFoot w ∨ pReserve w = 0 ∨ 16 < pReserve w) ||
    decide (pDraws w % 64 ≠ 0 ∨ bitsOf (heap.getD 0 0) 63 16 % 65536 ≠ 0 ∨ (heap.getD 1 0).toNat % 65536 ≠ 0 ∨
      bitsOf (heap.getD 2 0) 63 16 % 4096 ≠ 0) ||
    (atts w).any (fun n => decide (aBase w n % 64 ≠ 0 ∨ aPitch w n % 64 ≠ 0 ∨ aPitch w n < aRow w n) ||
      (aResolves w n && decide (pSamples w = 1 ∨ aResolve w n % 64 ≠ 0 ∨ aResolvePitch w n % 64 ≠ 0 ∨
        aResolvePitch w n < aResolveRow w n))) ||
    (decide (pDsfmt w ≠ 0) && decide (pDsBase w % 64 ≠ 0 ∨ pDsPitch w % 64 ≠ 0 ∨ pDsPitch w < dsRow w)) ||
    draws.any (fun d => decide (8 < drNattr d)) ||
    decide ((heap.getD 1 0).toNat < max (16 * 2 ^ 20) (256 * tiles + 2 ^ 20) ∨ (heap.getD 3 0).toNat < tiles * pFoot w)

/-- What a replay could not repeat: an attachment that is loaded lies in memory that the pass stores to (R352). -/
def passUnsafe (s : State) (h : W32) (w : List W64) : Bool :=
  let span (va pitch row : Nat) : List (Target × Nat × Nat) := memRanges s h va ((pHeight w - 1) * pitch + row)
  let att (n : Nat) := span (aBase w n) (aPitch w n) (aRow w n)
  let ds := span (pDsBase w) (pDsPitch w) (dsRow w)
  let loads := ((atts w).filter (fun n => decide (aLoad w n = 1))).map att ++
    (if pDsfmt w ≠ 0 ∧ pDsLoad w = 1 then [ds] else [])
  let stores := ((atts w).filter (fun n => decide (aStore w n ≠ 0))).map att ++
    ((atts w).filter (aResolves w)).map (fun n => span (aResolve w n) (aResolvePitch w n) (aResolveRow w n)) ++
    (if pDsfmt w ≠ 0 ∧ pDsStore w = 1 then [ds] else [])
  loads.any (fun a => stores.any (rangesMeet a))

/-! ### The heap descriptor (R346, R349) -/

/-- BUSY of a heap descriptor set or cleared by an atomic, over the links where another device holds it: its old value, or the status
it fails with. `pu` says what waits for a clear to be acknowledged. -/
def heapBusy (s : State) (ho : Option Holder) (h : W32) (va : Nat) (on : Bool) (pu : Purpose := .none) : (Except W16 Bool) × State :=
  match xlate s ho h .atomic (va + 32) with
  | (.error e, s) => (.error e, s)
  | (.ok (.mem a), s) =>
    match memLoadNat s a 8 with
    | (none, s) => (.error stDataError, s)
    | (some v, s) =>
      let new := v / 2 * 2 + (if on then 1 else 0)
      (.ok (decide (v % 2 = 1)), (memStoreNat s a 8 new).2)
  | (.ok (.remote d a), s) =>
    if on then
      match farSet s d a with
      | (.error e, s) => (.error e, s)
      | (.ok v, s) => (.ok (decide (v % 2 = 1)), s)
    else (.ok true, clearBusy s d a pu)
  | (.ok (.host ..), s) => (.error stAccessFault, s)

/-- The heap descriptor's counts are written and BUSY is cleared as a pass ends (R346, R349). -/
def heapEnd (s : State) (ho : Option Holder) (h : W32) (p : Pass) : State :=
  let s := (ctxStore s ho h (p.heapVa + 40) (leBytes 8 p.high ++ leBytes 8 (p.partials * 2 ^ 32)) (.store p.q)).2
  (heapBusy s ho h p.heapVa false (.store p.q)).2

/-! ### Draws at the start (R239 to R241, R351, R882) -/

/-- The 16 words at a list of bytes. -/
def words64 (n : Nat) (bs : List Byte) : List W64 := tabulate n (fun i => BitVec.ofNat 64 (leNat ((bs.drop (8 * i)).take 8)))

/-- The program of a stage, or the reason it cannot run: a status, and the address where its header cannot be read. -/
def stageProg (s : State) (h : W32) (va : Nat) (consts : List W32) : (Except (W16 × Option Nat) (Prog × Bool)) × State :=
  match readHeader s h va with
  | (.error (e, a), s) => (.error (e, some a), s)
  | (.ok w, s) =>
    match headerCheck w with
    | some st => (.error (st, none), s)
    | none => (.ok (progOf va w consts (defaultNonSat s), hReplaySafe w), s)

/-- The draws of a pass with their programs, and whether all are safe to replay. -/
def drawProgs (s : State) (ho : Option Holder) (h : W32) :
    List (List W64) → (Except (W16 × Option Nat) (List Draw × Bool)) × State
  | [] => (.ok ([], true), s)
  | d :: ds =>
    match ctxReadObj s ho h .load (drConst d) 256 with
    | (.error e, s) => (.error (e, none), s)
    | (.ok cb, s) =>
      let consts := tabulate 64 (fun i => BitVec.ofNat 32 (leNat ((cb.drop (4 * i)).take 4)))
      match stageProg s h (drVs d) consts with
      | (.error e, s) => (.error e, s)
      | (.ok (vs, r1), s) =>
        let fs : (Except (W16 × Option Nat) (Option Prog × Bool)) × State :=
          if drFs d = 0 then (Except.ok (none, true), s)
          else match stageProg s h (drFs d) consts with
            | (.error e, s) => (Except.error e, s)
            | (.ok (p, r), s) => (Except.ok (some p, r), s)
        match fs with
        | (.error e, s) => (.error e, s)
        | (.ok (fp, r2), s) =>
          match drawProgs s ho h ds with
          | (.error e, s) => (.error e, s)
          | (.ok (rest, r3), s) => (.ok ({ words := d, vs := vs, fs := fp } :: rest, r1 && r2 && r3), s)

/-! ### The vertex stage (R330) -/

/-- The draw that a pass stands at. -/
def Pass.current (p : Pass) : Option Draw := p.draws[p.draw]?

/-- Instances and draws without anything left are passed over: `fuel` bounds them. -/
def passSkip : Nat → Pass → Pass
  | 0, p => p
  | fuel + 1, p =>
    match p.current with
    | none => p
    | some d =>
      if drVcount d.words = 0 ∨ drIcount d.words ≤ p.inst then
        passSkip fuel { p with draw := p.draw + 1, inst := 0, vert := 0, tri := 0, verts := [] }
      else if drVcount d.words ≤ p.vert ∧ !p.vgroup ∧ drTris d.words ≤ p.tri then
        passSkip fuel { p with inst := p.inst + 1, vert := 0, tri := 0, verts := [] }
      else p

/-- Whether an access of a context fails at one address (R361). -/
def failsAt (s : State) (ho : Option Holder) (h : W32) (acc : Access) (a : Nat) : Bool :=
  match (xlate s ho h acc a).1 with
  | .error _ => true
  | .ok (.mem p) => s.bad p 1
  | .ok (.host k off) => decide (acc ≠ .store) || !keyAllows s k h off 1
  | .ok (.remote d p) => (routeTo s d).isNone ||
      s.far.any (fun x => decide (x.dev = d ∧ x.addr ≤ p ∧ p < x.addr + x.len ∧ x.status ≠ stOk) && x.done)

/-- The first address of `n` bytes at which an access fails, line by line (R361). -/
def firstFail (s : State) (ho : Option Holder) (h : W32) (acc : Access) (va n : Nat) : Nat :=
  ((va :: (tabulate ((va + n + 127) / 128 - va / 128 - 1) (fun i => (va / 128 + 1 + i) * 128))).find? (failsAt s ho h acc)).getD va

/-- The index of vertex `i` of a draw, read from the index buffer where there is one (R330). -/
def vertexIndex (s : State) (fe : Nat) (h : W32) (w : List W64) (i : Nat) : (Except W16 W32) × State :=
  let n := drFirst w + i
  if drIndex w = 0 then (.ok (BitVec.ofNat 32 n), s)
  else
    let b := 2 * 2 ^ drIdxfmt w
    match ctxReadObj s (some (.raster fe)) h .load (drIndex w + b * n) b with
    | (.error e, s) => (.error e, s)
    | (.ok bs, s) => (.ok (BitVec.ofNat 32 (leNat bs)), s)

/-- The indices of up to 32 consecutive vertices. -/
def vertexIndices (s : State) (fe : Nat) (h : W32) (w : List W64) : List Nat → (Except W16 (List W32)) × State
  | [] => (.ok [], s)
  | i :: is =>
    match vertexIndex s fe h w i with
    | (.error e, s) => (.error e, s)
    | (.ok v, s) =>
      match vertexIndices s fe h w is with
      | (.error e, s) => (.error e, s)
      | (.ok vs, s) => (.ok (v :: vs), s)

/-- The first address at which the indices of `n` vertices from `i` cannot be read. -/
def indexFail (s : State) (fe : Nat) (h : W32) (w : List W64) (i n : Nat) : Nat :=
  let b := 2 * 2 ^ drIdxfmt w
  firstFail s (some (.raster fe)) h .load (drIndex w + b * (drFirst w + i)) (b * n)

/-- The place for local memory of `n` bytes on a core: the first free KiB (log 27). -/
def localPlace (s : State) (core n : Nat) : Option Nat :=
  ((List.range 257).find? (fun k => localFree s core (1024 * k) n true)).map (1024 * ·)

/-- A core of a quarter with room for a group of a program; for a tile's fragments, its own core. -/
def gfxCore (s : State) (fe : Nat) (p : Pass) (pr : Prog) (only : Option Nat) : Option (Nat × Nat) :=
  let x := s.queue p.q
  (List.range 16).findSome? (fun l =>
    let core := physCore s fe l
    if unitRoom s core (p.serial % 2) 1 pr.regs &&
        (match only with
          | none => coreTakes s x fe l
          | some c => coreOpen s x fe l && decide (c = core)) then
      (localPlace s core pr.localLen).map (fun b => (core, b))
    else none)

/-- A group of a pass starts on a core. -/
def gfxStart (s : State) (fe : Nat) (p : Pass) (pr : Prog) (core base n : Nat) (g : Gfx) : State :=
  let h := (s.queue p.q).owner
  let s := s.setBlock (bKey p.q p.serial) (some { core := core, groups := 1, regs := pr.regs, base := base, len := pr.localLen })
  let s := placeGroup s (gKey p.q p.serial 0) (newGroup p.q core pr base pr.localLen n (some g))
  let s := s.setPass fe (some { p with
    serial := p.serial + 1
    waiting := p.waiting && g.fragment
    cores := if p.cores.contains core then p.cores else p.cores ++ [core] })
  markBusy (coreHold s core h) core

/-- A fault of a pass outside any shader: KIND, status, address and tile (R361). -/
def passFault (s : State) (fe : Nat) (kind : Nat) (st : W16) (addr tile core : Nat) : State :=
  match s.pass fe with
  | none => s
  | some p =>
    cmdFault s p.q { status := st, kind := kind, time := s.now, addr := addr, block := tile,
                     place := fe * 2 ^ 25 + core % 17 * 2 ^ 20, order := 64 * (17 * fe + core % 17) }

/-- A fault of a pass while no tile buffer is held by anybody: the tile and the core of its record are not stated, and are free
(R361; log 54). -/
def passFaultOpen (s : State) (fe : Nat) (kind : Nat) (st : W16) (addr : Nat) : State :=
  let (r, s) := s.fresh
  passFault s fe kind st addr (r.toNat / 32 % 2 ^ 32) (r.toNat % 17)

/-- The next vertex group of a pass starts, where one is due and a core has room. -/
def vertexKick (s : State) (fe : Nat) : State :=
  match s.pass fe with
  | none => s
  | some p =>
    let p := passSkip (2 * p.draws.length + 2 ^ 33) p
    let s := s.setPass fe (some p)
    match p.current with
    | none => s
    | some d =>
      if p.vgroup || p.binned || decide (drVcount d.words ≤ p.vert) || !issuing s p.q then s
      else
        match gfxCore s fe p d.vs none with
        | none => s.setPass fe (some { p with waiting := true })
        | some (core, base) =>
          let n := min 32 (drVcount d.words - p.vert)
          match vertexIndices s fe (s.queue p.q).owner d.words ((List.range n).map (p.vert + ·)) with
          | (.error e, s) => passFaultOpen s fe (accessKind e) e (indexFail s fe (s.queue p.q).owner d.words p.vert n)
          | (.ok vs, s) =>
            let inst := BitVec.ofNat 32 (drFirstInst d.words + p.inst)
            gfxStart s fe { p with vgroup := true } d.vs core base n
              { fe := fe, fragment := false, nattr := drNattr d.words, ncolor := pNcolor p.words,
                verts := vs.map (fun v => (v, inst)) }

/-! ### Starting a pass (R322, R349, R351) -/

/-- A pass that cannot run: its heap is no longer BUSY, and its command completes. -/
def passRefuse (s : State) (ho : Option Holder) (h : W32) (q heap : Nat) (st : W16) : State :=
  completeOn (heapBusy s ho h heap false (.store q)).2 q st

/-- The tiles of a render area. -/
def pTiles (w : List W64) : Nat := (pWidth w + 31) / 32 * ((pHeight w + 31) / 32)

/-- A RENDER begins on a front end: BUSY is set, the pass is checked, and its vertex stage starts (R318 to R322, R349 to R352,
R357, R882). -/
def renderBegin (s : State) (qi fe : Nat) : State :=
  let x := s.queue qi
  let h := x.owner
  let ho := some (Holder.raster fe)
  let ms := (s.ctx (hIndex h)).shaderMs
  let s := beginCmd s qi (some (ms * 1000000))
  if x.units.isEmpty then completeOn s qi stInvalid
  else
    match ctxReadObj s ho h .load x.object 192 with
    | (.error e, s) => completeOn s qi e
    | (.ok bs, s) =>
      let w := match replayWords s qi with
        | some (v :: vs) => v :: vs
        | _ => words64 24 bs
      if pHeap w % 64 ≠ 0 then completeOn s qi stInvalid
      else
        match heapBusy s ho h (pHeap w) true with
        | (.error e, s) => completeOn s qi e
        | (.ok true, s) => completeOn s qi stBusy
        | (.ok false, s) =>
          let refuse (s : State) (st : W16) : State := passRefuse s ho h qi (pHeap w) st
          match ctxReadObj s ho h .load (pHeap w) 64 with
          | (.error e, s) => refuse s e
          | (.ok hb, s) =>
            let heap := words64 8 hb
            match ctxReadObj s ho h .load (pDraws w) (128 * pNdraw w) with
            | (.error e, s) => refuse s e
            | (.ok db, s) =>
              let draws := tabulate (pNdraw w) (fun i => words64 16 (db.drop (128 * i)))
              if passReserved w draws then refuse s stInvalid
              else if (atts w).any (fun n => decide (8 < aFormat w n)) then refuse s stUnsupported
              else
                match drawProgs s ho h draws with
                | (.error (e, none), s) => refuse s e
                | (.error (e, some a), s) =>
                  refuse (faultRecord s (recordWords e (accessKind e) h s.now a 0 0 0 0 0)) e
                | (.ok (ds, safe), s) =>
                  if passInvalid w draws heap then refuse s stInvalid
                  else if pReplaySafe w && (!safe || passUnsafe s h w) then refuse s stInvalid
                  else
                    let act := (List.range 16).filter (fun l => !coreRetired s (physCore s fe l))
                    let p : Pass :=
                      { q := qi, words := w, heapVa := pHeap w, heapBase := bitsOf (heap.getD 0 0) 63 16,
                        heapSize := (heap.getD 1 0).toNat, spillBase := bitsOf (heap.getD 2 0) 63 16, draws := ds,
                        reserve := ((act.take (pReserve w)).map (physCore s fe)).map (fun c => (c, holdPlace s c (2 * pFoot w))), replaySafe := pReplaySafe w,
                        began := s.now, counted := s.now, fill := decide (s.fld F.gfxFillFill fe = 1) }
                    let s := s.setQueue qi { s.queue qi with replaySafe := pReplaySafe w, read := w }
                    vertexKick ((markThrottled (s.setPass fe (some p))).setFld F.gfxFeStatusBinning fe 1) fe

/-! ### Binning (R331, R347, R353, R363) -/

/-- The next triangle of a pass and its vertices' vectors, once all three have been shaded. -/
def nextTri (p : Pass) : Option (Draw × List (List W32)) :=
  match p.current with
  | none => none
  | some d =>
    if drTris d.words ≤ p.tri then none
    else
      let vs := (drTriVerts d.words p.tri).map (SMap.get [] p.verts)
      if vs.any (·.isEmpty) then none else some (d, vs)

/-- The pieces of a triangle that are set up, each with the tiles that it covers. -/
def setUp (p : Pass) (d : Draw) (vs : List (List W32)) : List (List (Int × Int) × List Nat) :=
  ((triPieces d.words (pWidth p.words) (pHeight p.words) vs).filter (fun c => !culled d.words c)).map (fun c =>
    (c, triTiles d.words (pWidth p.words) (pHeight p.words) (pSamples p.words) c))

/-- Bytes of a triangle's record (R347). -/
def recordBytes (d : Draw) : Nat := (48 * (drNattr d.words + 1) + 63) / 64 * 64

/-- Heap bytes in use: 64 KiB chunks of records and 256-byte list chunks (R347). -/
def heapUse (records chunks : Nat) : Nat := (records + 65535) / 65536 * 65536 + 256 * chunks

/-- A tile of a pass. -/
def Pass.tile (p : Pass) (i : Nat) : Tile := SMap.get {} p.tiles i
def Pass.setTile (p : Pass) (i : Nat) (t : Tile) : Pass := { p with tiles := SMap.set {} p.tiles i t }

/-- One piece in the lists: the pass after it, and the heap addresses of the record and the list entries, with their bytes. -/
def binPiece (p : Pass) (d : Draw) (vs : List (List W32)) (c : List (Int × Int)) (tiles : List Nat) :
    Pass × List (Nat × Nat) :=
  let id := p.nextTri
  let rec' := (p.heapBase + p.records, 48 * (drNattr d.words + 1))
  let p := { p with tris := SMap.set none p.tris id (some { draw := p.draw, vecs := vs, xy := c }), nextTri := id + 1,
                    records := p.records + recordBytes d }
  tiles.foldl (fun (acc : Pass × List (Nat × Nat)) i =>
    let t := acc.1.tile i
    let n := t.list.length
    let (p, t) := if n % 31 = 0 then ({ acc.1 with chunks := acc.1.chunks + 1 }, { t with chunk := acc.1.chunks }) else (acc.1, t)
    let a := p.heapBase + p.heapSize - 256 * (t.chunk + 1) + 8 * (n % 31)
    let t := { t with list := t.list ++ [id], st := if t.st = .idle then .binned else t.st }
    (p.setTile i t, acc.2 ++ [(a, 8)])) (p, [rec'])

/-- A triangle in the lists of the tiles that it covers. -/
def binTri (p : Pass) (d : Draw) (vs : List (List W32)) : Pass × List (Nat × Nat) :=
  let r := (setUp p d vs).foldl (fun (acc : Pass × List (Nat × Nat)) ct =>
    let (p, w) := binPiece acc.1 d vs ct.1 ct.2
    (p, acc.2 ++ w)) (p, [])
  ({ r.1 with high := max r.1.high (heapUse r.1.records r.1.chunks) }, r.2)

/-- Whether the heap holds a pass's lists and records. -/
def heapFits (p : Pass) : Bool := decide (heapUse p.records p.chunks ≤ p.heapSize)

/-- The tiler's writes to the heap, whose contents are its own: free bytes (R346; log 35). The first failing address stops
the pass (R361). -/
def heapWrites (s : State) (fe q : Nat) : List (Nat × Nat) → Option (W16 × Nat) × State
  | [] => (none, s)
  | (a, n) :: ws =>
    let (bs, s) := freeBytes n s
    match ctxStore s (some (.raster fe)) (s.queue q).owner a bs (.store q) with
    | (some e, s) => (some (e, firstFail s (some (.raster fe)) (s.queue q).owner .store a n), s)
    | (none, s) => heapWrites s fe q ws

/-- The tiler takes the next triangle, if the heap holds it (R331, R347, R353, R374). -/
def tilerWrite (s : State) (fe : Nat) (p : Pass) : State :=
  match nextTri p with
  | none => s
  | some (d, vs) =>
    let (p', ws) := binTri p d vs
    if !heapFits p' then s
    else
      let s := s.bump F.gfxPrimsCount fe (setUp p d vs).length
      match heapWrites s fe p.q ws with
      | (some (e, a), s) => passFaultOpen s fe 0x12 e a
      | (none, s) => vertexKick (s.setPass fe (some { p' with tri := p.tri + 1 })) fe

/-- Whether binning of a pass goes on. -/
def binning (s : State) (p : Pass) : Bool := issuing s p.q && !p.partialOn && !p.binned

/-! ### Tiles (R353 to R360) -/

/-- The tiles of a front end's status (R373). -/
def markTiles (s : State) (fe : Nat) : State :=
  match s.pass fe with
  | none => ((s.setFld F.gfxFeStatusTilesInFlight fe 0).setFld F.gfxFeStatusRendering fe 0).setFld F.gfxFeStatusBinning fe 0
  | some p => s.setFld F.gfxFeStatusTilesInFlight fe (p.tiles.filter (fun t => t.2.st.holds)).length

/-- A tile's buffer leaves its core. -/
def tileFree (s : State) (fe : Nat) (p : Pass) (i : Nat) (t : Tile) : State :=
  let s := coreFree s (p.tile i).core (s.queue p.q).owner
  markTiles (s.setPass fe (some (p.setTile i { t with core := 0, base := 0 }))) fe

/-- A pass is over: tile buffers and groups leave, the heap is released, stores drain, the fault is recorded, and the command
completes (R349, R362). -/
def passEnd (s : State) (fe : Nat) (p : Pass) : State :=
  let h := (s.queue p.q).owner
  let s := (p.tiles.filter (fun t => t.2.st.holds)).foldl (fun s t => coreFree s t.2.core h) s
  let s := drainQueue (dropGroups s p.q) p.q p.cores
  let s := heapEnd s (some (.raster fe)) h p
  let fault := match s.pass fe with
    | none => p.fault
    | some p => p.fault
  let s := writeFault s p.q fault
  let i := hIndex h
  let c := s.ctx i
  let s := s.setCtx i { c with rasterCycles := c.rasterCycles + coreCyclesIn s (s.now - p.counted) }
  let s := markTiles (s.setPass fe none) fe
  let s := s.setFld F.gfxFeStatusPartial fe 0
  let s := if s.fld F.fldScrubCfgMode = 1 then p.cores.foldl coreScrubDue s else s
  completeOn s p.q ((s.queue p.q).stopReq.getD stOk)

/-- A pass that was told to stop ends once no async operation of its shaders is left; one whose tiles are all DONE ends. -/
def passSettle (s : State) (fe : Nat) : State :=
  match s.pass fe with
  | none => s
  | some p =>
    if (s.queue p.q).phase ≠ .running ∨ ammaPending s p.q then s
    else if (s.queue p.q).stopReq.isSome then passEnd s fe p
    else if p.binned && (List.range (pTiles p.words)).all (fun i => decide ((p.tile i).st = .done)) then passEnd s fe p
    else s

/-- Whether a tile with no list and S clear may be skipped: memory would be unchanged (R353). -/
def skipRule (w : List W64) : Bool :=
  (atts w).all (fun n => decide ((aLoad w n = 1 ∧ aStore w n = 1) ∨ aStore w n = 0)) &&
    (decide (pDsfmt w = 0) || decide ((pDsLoad w = 1 ∧ pDsStore w = 1) ∨ pDsStore w = 0))

/-- Binning ends: every tile goes to WAIT_MEM or, under the skip rule, to DONE (R353). -/
def binningEnd (s : State) (fe : Nat) (p : Pass) : State :=
  let skip := skipRule p.words
  let p := (List.range (pTiles p.words)).foldl (fun (p : Pass) i =>
    let t := p.tile i
    p.setTile i { t with st := if t.st = .idle ∧ !t.spilled ∧ skip then .done else .waitMem }) p
  let s := (s.setFld F.gfxFeStatusBinning fe 0).setFld F.gfxFeStatusRendering fe 1
  passSettle (s.setPass fe (some { p with binned := true })) fe

/-- A partial render starts: every BINNED tile goes to WAIT_MEM (R353, R363). -/
def partialStart (s : State) (fe : Nat) (p : Pass) : State :=
  let p := { p with tiles := p.tiles.map (fun (i, t) => (i, if t.st = .binned then { t with st := .waitMem } else t)),
                    partialOn := true }
  ((s.setFld F.gfxFeStatusPartial fe 1).setFld F.gfxFeStatusRendering fe 1).setPass fe (some p)

/-- The heap is reset after the last spill, and binning resumes (R363). -/
def partialEnd (s : State) (fe : Nat) (p : Pass) : State :=
  let s := (s.bump F.gfxPartialCountCount fe).setFld F.gfxFeStatusPartial fe 0
  let s := (setFlag s p.q flPartial).setFld F.gfxFeStatusRendering fe 0
  s.setPass fe (some { p with partialOn := false, partials := p.partials + 1, tris := [], records := 0, chunks := 0 })

/-- The offset of attachment `n` in a tile buffer, the depth-stencil attachment last, and of a sample in it (log 36). -/
def attOffset (w : List W64) (n : Nat) : Nat :=
  1024 * pSamples w * (((List.range n).map (fun i => fmtBytes (aFormat w i))).foldl (· + ·) 0)
def attBytes (w : List W64) (n : Nat) : Nat := if n = pNcolor w then dsBytes (pDsfmt w) else fmtBytes (aFormat w n)
def sampleOffset (w : List W64) (n x y sm : Nat) : Nat :=
  attOffset w n + (((y % 32) * 32 + x % 32) * pSamples w + sm) * attBytes w n

/-- A sample of a tile buffer, and its writing. -/
def tileGet (s : State) (p : Pass) (t : Tile) (n x y sm : Nat) : Nat :=
  leNat (localBytes s t.core (t.base + sampleOffset p.words n x y sm) (attBytes p.words n))
def tileSet (s : State) (p : Pass) (t : Tile) (n x y sm v : Nat) : State :=
  setLocal s t.core (t.base + sampleOffset p.words n x y sm) (leBytes (attBytes p.words n) v)

/-- The first column and row of a tile, and how many lie in the render area. -/
def tileRect (w : List W64) (i : Nat) : Nat × Nat × Nat × Nat :=
  let cols := (pWidth w + 31) / 32
  let x := 32 * (i % cols)
  let y := 32 * (i / cols)
  (x, y, min 32 (pWidth w - x), min 32 (pHeight w - y))

/-- The clear value of attachment `n` (R324, R354). -/
def clearBits (w : List W64) (n : Nat) : Nat :=
  if n = pNcolor w then
    let z := depthBits (pDsfmt w) (BitVec.ofNat 32 (pDepthClear w))
    if pDsfmt w = 3 then z + pStencilClear w * 2 ^ 32 else z
  else aClear w n % 2 ^ (8 * fmtBytes (aFormat w n))

/-- The load operation, base and pitch of attachment `n`, the depth-stencil attachment being the last. -/
def attLoad (w : List W64) (n : Nat) : Nat := if n = pNcolor w then pDsLoad w else aLoad w n
def attBase (w : List W64) (n : Nat) : Nat := if n = pNcolor w then pDsBase w else aBase w n
def attPitch (w : List W64) (n : Nat) : Nat := if n = pNcolor w then pDsPitch w else aPitch w n

/-- The attachments of a tile buffer, the depth-stencil attachment last. -/
def tileAtts (w : List W64) : List Nat := atts w ++ (if pDsfmt w = 0 then [] else [pNcolor w])

/-- Reads of runs of bytes into a tile buffer: address, length and offset of each; the first that fails. -/
def loadRuns (s : State) (fe core base : Nat) (h : W32) : List (Nat × Nat × Nat) → Option (W16 × Nat) × State
  | [] => (none, s)
  | (va, n, off) :: rs =>
    match ctxReadObj s (some (.raster fe)) h .load va n with
    | (.error e, s) => (some (e, firstFail s (some (.raster fe)) h .load va n), s)
    | (.ok bs, s) => loadRuns (setLocal s core (base + off) bs) fe core base h rs

/-- The runs of a tile's rows in memory for attachment `n`: address, length, offset in the tile buffer (R326). -/
def attRuns (w : List W64) (i n : Nat) : List (Nat × Nat × Nat) :=
  let (x, y, nx, ny) := tileRect w i
  let b := attBytes w n * pSamples w
  tabulate ny (fun r => (attBase w n + (y + r) * attPitch w n + x * b, nx * b, sampleOffset w n 0 r 0))

/-- A tile's buffer is filled: from its spill slot, or by each attachment's load operation (R353 to R355). -/
def tileLoad (s : State) (fe : Nat) (p : Pass) (i core base : Nat) (t : Tile) : Option (W16 × Nat) × State :=
  let w := p.words
  let h := (s.queue p.q).owner
  if t.spilled then
    loadRuns (s.bump F.gfxSpillBytesCount fe (pFoot w)) fe core base h [(p.spillBase + i * pFoot w, pFoot w, 0)]
  else
    (tileAtts w).foldl (fun (acc : Option (W16 × Nat) × State) n =>
      match acc.1 with
      | some _ => acc
      | none =>
        let fill (v : Nat) (s : State) : State :=
          setLocal s core (base + attOffset w n) ((List.replicate (1024 * pSamples w) (leBytes (attBytes w n) v)).flatten)
        match attLoad w n with
        | 1 => loadRuns (fill 0 acc.2) fe core base h (attRuns w i n)
        | 2 => (none, fill (clearBits w n) acc.2)
        | _ => (none, fill 0 acc.2)) (none, s)

/-- A tile that faults stops the pass (R353, R360, R361). -/
def tileFault (s : State) (fe i kind : Nat) (e : W16) (addr : Nat) : State :=
  match s.pass fe with
  | none => s
  | some p =>
    let t := p.tile i
    let s := passFault s fe (if e = stDataError then 0x0A else kind) e addr i t.core
    match s.pass fe with
    | none => s
    | some p => passSettle (tileFree s fe p i { t with st := .faulted }) fe

/-- How many tile buffers a core holds. -/
def tilesOn (s : State) (core : Nat) : Nat :=
  ((s.passes.map (fun kv => match kv.2 with
    | none => 0
    | some p => (p.tiles.filter (fun t => t.2.st.holds && decide (t.2.core = core))).length))).foldl (· + ·) 0

/-- The lowest tile that waits for memory (R356). -/
def waitingTile (p : Pass) : Option Nat := (p.tiles.find? (fun t => decide (t.2.st = .waitMem))).map (·.1)

/-- A core grants the next tile its buffer, and it loads (R353, R354, R356). -/
def tileGrant (s : State) (fe logical base : Nat) (p : Pass) : State :=
  match waitingTile p with
  | none => s
  | some i =>
    let core := physCore s fe logical
    let x := s.queue p.q
    if coreTakes s x fe logical && decide (tilesOn s core < 2) &&
        localFree s core base (pFoot p.words) false && issuing s p.q then
      let t := p.tile i
      let cores := if p.cores.contains core then p.cores else p.cores ++ [core]
      let p := { p.setTile i { t with st := .loading, core := core, base := base, pos := 0 } with cores := cores }
      let s := markTiles ((coreHold s core x.owner).setPass fe (some p)) fe
      match tileLoad s fe p i core base t with
      | (some (e, a), s) => tileFault s fe i 0x11 e a
      | (none, s) => s
    else s

/-! ### Shading a tile (R338, R339, R342) -/

/-- One sample of a fragment enters the tile buffer: stencil, depth, then each attachment that has a colour (R334, R336,
R338). -/
def applySample (s : State) (p : Pass) (t : Tile) (d : Draw) (f : Frag) (z : W32) (colors : List (Nat × List W32)) (sm : Nat) :
    State :=
  let w := p.words
  let ds := pDsfmt w
  let old := if ds = 0 then 0 else tileGet s p t (pNcolor w) f.x f.y sm
  let (new, pass) := zsTest d.words ds old z
  let s := if ds = 0 then s else tileSet s p t (pNcolor w) f.x f.y sm new
  if !pass then s
  else
    colors.foldl (fun s c =>
      let b := drBlend d.words c.1
      let fm := aFormat w c.1
      let dst := tileGet s p t c.1 f.x f.y sm
      let src := c.2.map (fun v => v)
      tileSet s p t c.1 f.x f.y sm (pixelWrite fm (natBits b 8 5) dst (blendColor b src (pixelDecode fm dst)))) s

/-- A fragment enters the tile buffer: its samples in ascending order. -/
def applyFrag (s : State) (p : Pass) (t : Tile) (f : Frag) (zout : Option W32) (colors : List (Nat × List W32)) : State :=
  match SMap.get none p.tris f.tri with
  | none => s
  | some tr =>
    match p.draws[tr.draw]? with
    | none => s
    | some d =>
      ((List.range (pSamples p.words)).filter (natBit f.mask)).foldl (fun s sm =>
        let z := match zout with
          | some z => clampDepth z
          | none => sampleDepth d.words tr f.x f.y (samplePos (pSamples p.words) sm)
        applySample s p t d f z colors sm) s

/-- A tile's shading goes on: the next fragment group starts on its core, or fragments without a shader enter the tile buffer
at once. `fuel` bounds the triangles and groups. -/
def shadeNext : Nat → State → Nat → Nat → State
  | 0, s, _, _ => s
  | fuel + 1, s, fe, i =>
    match s.pass fe with
    | none => s
    | some p =>
      let t := p.tile i
      if t.st ≠ .shading ∨ t.busy ∨ !issuing s p.q then s
      else
        match t.frags with
        | [] =>
          match t.list[t.pos]? with
          | none => s
          | some id =>
            let fr := match SMap.get none p.tris id with
              | none => []
              | some tr => match p.draws[tr.draw]? with
                | none => []
                | some d =>
                  let cols := (pWidth p.words + 31) / 32
                  tileFrags d.words (pWidth p.words) (pHeight p.words) (pSamples p.words) tr id (i % cols) (i / cols)
            shadeNext fuel (s.setPass fe (some (p.setTile i { t with pos := t.pos + 1, frags := fr }))) fe i
        | f :: _ =>
          let batch := t.frags.take 32
          let rest := t.frags.drop 32
          let d := (SMap.get none p.tris f.tri).bind (fun tr => p.draws[tr.draw]?)
          match d.bind (fun d => d.fs), d with
          | some fs, some d =>
            match gfxCore s fe p fs (some t.core) with
            | none => s
            | some (core, base) =>
              gfxStart s fe (p.setTile i { t with frags := rest, busy := true }) fs core base batch.length
                { fe := fe, fragment := true, nattr := drNattr d.words, ncolor := pNcolor p.words, frags := batch, tile := i }
          | _, _ =>
            let s := batch.foldl (fun s f => applyFrag s p t f none []) s
            shadeNext fuel (s.setPass fe (some (p.setTile i { t with frags := rest }))) fe i

/-- A bound on the steps of `shadeNext`: triangles of the list, and fragments. -/
def shadeFuel (t : Tile) : Nat := 8192 * (t.list.length + 1)

/-- A tile's shading goes on. -/
def shadeKick (s : State) (fe i : Nat) : State :=
  match s.pass fe with
  | none => s
  | some p => shadeNext (shadeFuel (p.tile i)) s fe i

/-- What waits on a quarter's cores starts where there is now room: the vertex stage, then tiles in ascending order (R367). -/
def gfxKick (s : State) (fe : Nat) : State :=
  let s := vertexKick s fe
  match s.pass fe with
  | none => s
  | some p => (p.tiles.filter (fun t => decide (t.2.st = .shading))).foldl (fun s t => shadeKick s fe t.1) s

/-! ### Spills and writeback (R355, R358 to R360) -/

/-- A resolved pixel: the sum of its samples in ascending order, times 1/S (R359). -/
def resolvePixel (s : State) (p : Pass) (t : Tile) (n x y : Nat) : Nat :=
  let fm := aFormat p.words n
  let ss := tabulate (pSamples p.words) (fun sm => pixelDecode fm (tileGet s p t n x y sm))
  let inv := ratFp32 1 (pSamples p.words)
  let c (i : Nat) : W32 :=
    let vs := ss.map (fun v => v.getD i 0)
    match vs with
    | [] => 0
    | v :: rest => fp32Mul (rest.foldl fp32Add v) inv
  pixelWrite fm 15 0 (tabulate 4 c)

/-- A row of attachment `n` as it is written: bits [63:40] of a D32F_S8 sample are 0 (R326). -/
def rowBytesOut (w : List W64) (n : Nat) (bs : List Byte) : List Byte :=
  if n = pNcolor w ∧ pDsfmt w = 3 then (bs.zipIdx).map (fun b => if 5 ≤ b.2 % 8 then 0 else b.1) else bs

/-- The runs that a tile's writeback writes: address and bytes (R326, R358). -/
def storeRuns (s : State) (p : Pass) (i : Nat) (t : Tile) : List (Nat × List Byte) :=
  let w := p.words
  let (x, y, nx, ny) := tileRect w i
  let stored (n : Nat) : Bool := if n = pNcolor w then decide (pDsStore w = 1) else aStores w n
  ((tileAtts w).map (fun n =>
    (if stored n then (attRuns w i n).map (fun r => (r.1, rowBytesOut w n (localBytes s t.core (t.base + r.2.2) r.2.1))) else []) ++
    (if decide (n < pNcolor w) && aResolves w n then
      tabulate ny (fun r => (aResolve w n + (y + r) * aResolvePitch w n + x * fmtBytes (aFormat w n),
        ((List.range nx).map (fun k => leBytes (fmtBytes (aFormat w n)) (resolvePixel s p t n (x + k) (y + r)))).flatten))
    else []))).flatten

/-- Whether every page of some runs can be written; else the status and address of the first that cannot (R360). -/
def pagesOk (s : State) (fe : Nat) (h : W32) : List (Nat × Nat) → Option (W16 × Nat) × State
  | [] => (none, s)
  | (va, n) :: rs =>
    let pages := (List.range ((va + n + 4095) / 4096 - va / 4096)).map (fun k => max va ((va / 4096 + k) * 4096))
    let r := pages.foldl (fun (acc : Option (W16 × Nat) × State) a =>
      match acc.1 with
      | some _ => acc
      | none => match xlate acc.2 (some (.raster fe)) h .store a with
        | (.error e, s) => (some (e, a), s)
        | (.ok (.remote d _), s) => (if (routeTo s d).isSome then none else some (stAccessFault, a), s)
        | (.ok (.host k off), s) => (if keyAllows s k h off 1 then none else some (stAccessFault, a), s)
        | (.ok _, s) => (none, s)) (none, s)
    match r with
    | (some e, s) => (some e, s)
    | (none, s) => pagesOk s fe h rs

/-- The runs are written. -/
def writeRuns (s : State) (fe q : Nat) (h : W32) : List (Nat × List Byte) → Option (W16 × Nat) × State
  | [] => (none, s)
  | (va, bs) :: rs =>
    match ctxStore s (some (.raster fe)) h va bs (.store q) with
    | (some e, s) => (some (e, firstFail s (some (.raster fe)) h .store va bs.length), s)
    | (none, s) => writeRuns s fe q h rs

/-- A shaded tile spills during a partial render, and else is stored, every page translated first (R353, R355, R358, R360). -/
def tileShaded (s : State) (fe i : Nat) (p : Pass) : State :=
  let t := p.tile i
  let h := (s.queue p.q).owner
  let runs := if p.partialOn then [(p.spillBase + i * pFoot p.words, localBytes s t.core t.base (pFoot p.words))]
              else storeRuns s p i t
  let s := s.setPass fe (some (p.setTile i { t with st := if p.partialOn then .spilling else .storing }))
  match pagesOk s fe h (runs.map (fun r => (r.1, r.2.length))) with
  | (some (e, a), s) => tileFault s fe i 0x10 e a
  | (none, s) =>
    match writeRuns s fe p.q h runs with
    | (some (e, a), s) => tileFault s fe i 0x10 e a
    | (none, s) => s

/-! ### The end of a group of a pass -/

/-- The vectors that a vertex thread wrote: the position, then NATTR attributes; what was not written is 0 (R341). -/
def vertexOut (g : Gfx) (l : Nat) : List W32 :=
  tabulate (4 * (g.nattr + 1)) (fun i => SMap.get 0 g.out (l * 64 + i))

/-- The colours that a fragment thread wrote. -/
def fragColors (g : Gfx) (l : Nat) : List (Nat × List W32) :=
  let did := SMap.get 0 g.did l
  ((List.range 4).filter (natBit did)).map (fun n => (n, tabulate 4 (fun c => SMap.get 0 g.out (l * 64 + 4 * n + c))))

/-- A group of a pass ends: its vertices join the instance, or its fragments enter the tile buffer in order (R330, R338, R339). -/
def gfxDone (s : State) (gk : Nat) (g : Group) (x : Gfx) : State :=
  let s := groupDone s gk g
  match s.pass x.fe with
  | none => s
  | some p =>
    if x.fragment then
      let t := p.tile x.tile
      let s := (x.frags.zipIdx).foldl (fun s fl =>
        let did := SMap.get 0 x.did fl.2
        if natBit did 16 then s
        else
          applyFrag s p t fl.1 (if natBit did 15 then some (SMap.get 0 x.out (fl.2 * 64 + 60)) else none) (fragColors x fl.2)) s
      gfxKick (s.setPass x.fe (some (p.setTile x.tile { t with busy := false }))) x.fe
    else
      let verts := (List.range x.verts.length).foldl (fun m l => SMap.set [] m (p.vert + l) (vertexOut x l)) p.verts
      gfxKick (s.setPass x.fe (some { p with verts := verts, vert := p.vert + x.verts.length, vgroup := false })) x.fe

end Sys2Proof.Machine
end

