-- ==== Sys2Proof/Machine/RasterRows.lean ====
section
/-! DEFINITION. The commands of the raster pipeline: RENDER, the tiler, tiles, the TILE class, and the end of a group (spec/07,
spec/06 R299). -/

namespace Sys2Proof.Machine

/-- The front end that a queue's command runs on. -/
def feOf (s : State) (q : Nat) : Nat := match (s.queue q).on with
  | some (.raster f) => f.val
  | _ => 0

/-- A RENDER begins (R351). -/
def execRender (q : Fin 16384) (s : State) : Out :=
  if starting s q 3 then
    match (s.queue q).stopReq with
    | some st => .next (completeOn (forgetFar s q) q st)
    | none => .next (withFarCmd s q (fun s => renderBegin s q (feOf s q)))
  else .next s

/-- The tiler takes a triangle (R353). -/
def execTilerWrite (fe : Fin 4) (s : State) : Out :=
  match s.pass fe with
  | none => .next s
  | some p => if binning s p then .next (withFar s p.q (fun s => tilerWrite s fe p)) else .next s

/-- Binning ends (R353); a pass that was told to stop ends. -/
def execBinningEnd (fe : Fin 4) (s : State) : Out :=
  match s.pass fe with
  | none => .next s
  | some p =>
    if binning s p && p.current.isNone && !p.vgroup then .next (binningEnd s fe p) else .next (passSettle s fe)

/-- The tiler fails to obtain a chunk (R363). -/
def execPartialRender (fe : Fin 4) (s : State) : Out :=
  match s.pass fe with
  | none => .next s
  | some p =>
    match nextTri p with
    | none => .next s
    | some (d, vs) => if binning s p && !heapFits (binTri p d vs).1 then .next (partialStart s fe p) else .next s

/-- The last spill of a partial render has completed (R363); a pass that was told to stop ends. -/
def execPartialRenderEnd (fe : Fin 4) (s : State) : Out :=
  match s.pass fe with
  | none => .next s
  | some p =>
    if issuing s p.q && p.partialOn && p.tiles.all (fun t => decide (t.2.st = .idle)) then .next (partialEnd s fe p)
    else .next (passSettle s fe)

/-- A core grants a tile buffer; the device chooses the core and the place (R356). -/
def execTileBufferGrant (fe : Fin 4) (core : Fin 16) (base : Fin 257) (s : State) : Out :=
  match s.pass fe with
  | none => .next s
  | some p => .next (withFar s p.q (fun s => tileGrant s fe core (1024 * base.val) p))

/-- A tile's load completes, and it starts shading (R353). -/
def execTileLoadDone (fe : Fin 4) (tile : BitVec 18) (s : State) : Out :=
  match s.pass fe with
  | none => .next s
  | some p =>
    let t := p.tile tile.toNat
    if t.st = .loading then
      .next (shadeKick (s.setPass fe (some (p.setTile tile.toNat { t with st := .shading, pos := 0, frags := [] }))) fe tile.toNat)
    else .next s

/-- Every listed triangle of a tile has passed (R353, R360). -/
def execTileShaded (fe : Fin 4) (tile : BitVec 18) (s : State) : Out :=
  match s.pass fe with
  | none => .next s
  | some p =>
    if (p.tile tile.toNat).st = .shading ∧ (p.tile tile.toNat).shaded ∧ issuing s p.q then .next (tileShaded s fe tile.toNat p)
    else .next s

/-- A tile's spill write completes (R353, R374). -/
def execSpillDone (fe : Fin 4) (tile : BitVec 18) (s : State) : Out :=
  match s.pass fe with
  | none => .next s
  | some p =>
    let t := p.tile tile.toNat
    if t.st = .spilling then
      .next (withFar s p.q (fun s => gfxKick (tileFree (s.bump F.gfxSpillBytesCount fe (pFoot p.words)) fe p tile.toNat
        { t with st := .idle, spilled := true, list := [], pos := 0 }) fe))
    else .next s

/-- A tile's writeback completes, and the last one completes the pass (R358, R374). -/
def execWritebackDone (fe : Fin 4) (tile : BitVec 18) (s : State) : Out :=
  match s.pass fe with
  | none => .next s
  | some p =>
    let t := p.tile tile.toNat
    if t.st = .storing then
      .next (withFar s p.q (fun s =>
        passSettle (gfxKick (tileFree (s.bump F.gfxTilesCount fe) fe p tile.toNat { t with st := .done }) fe) fe))
    else .next (passSettle s fe)

/-- A group ends once all its threads have exited and its tokens have cleared (R299). -/
def execGroupEnd (g : GroupRef) (s : State) : Out :=
  let gk := groupKey g
  match s.group gk with
  | none => .next s
  | some x =>
    if x.live.isEmpty ∧ x.tokens = 0 ∧ (s.queue x.q).stopReq = none then
      match x.gfx with
      | none => .next (withFar s x.q (fun s => gfxKick (groupDone s gk x) (x.core / 17)))
      | some y => .next (withFar s x.q (fun s => gfxDone s gk x y))
    else .next s

/-! ### The TILE class (R340, R341) -/

/-- A TILE instruction is left alone by the commands of the other operations; a reserved OP is any command's. -/
def tileOther (op : Nat) (x : Issued) : Bool := decide (wOp x.word < 7 ∧ wOp x.word ≠ op)

/-- OFFSET[3:0]. -/
def wVec (w : Nat) : Nat := w % 16

/-- The data registers of a TILE operation. -/
def tileRegs (n : Nat) (x : Issued) : List Nat := (List.range n).map (wDst x.word + ·)

/-- A TILE operation of a stage: illegal in another stage, in a compute command, for a reserved OP, or for registers that the
program has not (R341, R263). -/
def tileOp (op : Nat) (fragment : Bool) (regs : Nat) (ok : Gfx → Nat → Bool) (f : State → Issued → Gfx → State) (s : State)
    (x : Issued) : State :=
  match x.g.gfx with
  | none => x.fault s 0x06 0 x.all
  | some y =>
    if wOp x.word ≠ op ∨ y.fragment ≠ fragment ∨ !ok y (wVec x.word) ∨
        !x.regsOk (tileRegs regs x) then x.fault s 0x06 0 x.all
    else f s x y

/-- The executing lanes note values of a vector, and that it was written. -/
def noteOut (x : Issued) (y : Gfx) (vec bit n : Nat) : Group :=
  let y := x.lanes.foldl (fun (y : Gfx) l =>
    let out := (List.range n).foldl (fun m c => SMap.set 0 m (l * 64 + 4 * vec + c) (x.g.reg l (wDst x.word + c))) y.out
    { y with out := out, did := SMap.set 0 y.did l (SMap.get 0 y.did l ||| 2 ^ bit) }) y
  { x.g with gfx := some y }

/-- A vertex thread reads its vertex or instance index (R340). -/
def execVin (g : GroupRef) (s : State) : Out :=
  .next (issueIf s g 0x15 (tileRegs 1) (tileOther 0) (tileOp 0 false 1 (fun _ v => decide (v < 2)) (fun s x y =>
    finishAlu s x (x.lanes.map (fun l =>
      let v := y.verts.getD l (0, 0)
      (l, .inl (if wVec x.word = 0 then v.1 else v.2)))))))

/-- A vertex thread writes its position or an attribute (R340). -/
def execVout (g : GroupRef) (s : State) : Out :=
  .next (issueIf s g 0x15 (tileRegs 4) (tileOther 1) (tileOp 1 false 4 (fun y v => decide (v ≤ y.nattr)) (fun s x y =>
    goOn s x (noteOut x y (wVec x.word) (wVec x.word) 4) x.fall)))

/-- The draw and triangle of a fragment. -/
def fragTri (s : State) (y : Gfx) (f : Frag) : Option (Draw × Tri × Pass) :=
  match s.pass y.fe with
  | none => none
  | some p => match SMap.get none p.tris f.tri with
    | none => none
    | some t => (p.draws[t.draw]?).map (fun d => (d, t, p))

/-- The first sample of a mask. -/
def firstSample (m : Nat) : Nat := ((List.range 4).find? (natBit m)).getD 0

/-- An attribute component at a fragment: at the pixel centre, or at its sample under SAMPLE_RATE; the first vertex's where the
attribute is flat (R328, R340). -/
def fragAttr (s : State) (y : Gfx) (f : Frag) (a c : Nat) : W32 :=
  match fragTri s y f with
  | none => 0
  | some (d, t, p) =>
    if natBit (drFlat d.words) a then (t.vecs.getD 0 []).getD (4 + 4 * a + c) 0
    else
      let o : Int × Int := if drSampleRate d.words then samplePos (pSamples p.words) (firstSample f.mask) else (128, 128)
      interpolate d.words t a c f.x f.y o

/-- A fragment thread reads an interpolated attribute (R340). -/
def execInterp (g : GroupRef) (s : State) : Out :=
  .next (issueIf s g 0x15 (tileRegs 4) (tileOther 2) (tileOp 2 true 4 (fun y v => decide (v < y.nattr)) (fun s x y =>
    goOn s x (x.lanes.foldl (fun (g : Group) l =>
      (List.range 4).foldl (fun (g : Group) c =>
        g.setReg l (wDst x.word + c) (fragAttr s y (y.frags.getD l { x := 0, y := 0, mask := 0, tri := 0 }) (wVec x.word) c)) g)
      x.g) x.fall)))

/-- A fragment thread writes a colour (R340). -/
def execCout (g : GroupRef) (s : State) : Out :=
  .next (issueIf s g 0x15 (tileRegs 4) (tileOther 3) (tileOp 3 true 4 (fun y v => decide (v < y.ncolor)) (fun s x y =>
    goOn s x (noteOut x y (wVec x.word) (wVec x.word) 4) x.fall)))

/-- A fragment thread writes its depth (R340). -/
def execZout (g : GroupRef) (s : State) : Out :=
  .next (issueIf s g 0x15 (tileRegs 1) (tileOther 4) (tileOp 4 true 1 (fun _ _ => true) (fun s x y =>
    goOn s x (noteOut x y 15 15 1) x.fall)))

/-- A fragment thread discards its fragment (R340). -/
def execKill (g : GroupRef) (s : State) : Out :=
  .next (issueIf s g 0x15 (tileRegs 0) (tileOther 5) (tileOp 5 true 0 (fun _ _ => true) (fun s x y =>
    goOn s x (noteOut x y 0 16 0) x.fall)))

/-- The tile buffer's value of an attachment at a fragment; where its samples differ the spec does not say which one it is: the choice is
free, and by R370 a function of the samples (log 37). -/
def tileRead (s : State) (y : Gfx) (f : Frag) (n : Nat) : List W32 × State :=
  match s.pass y.fe with
  | none => ([0, 0, 0, 0], s)
  | some p =>
    let t := p.tile y.tile
    let vs := ((List.range (pSamples p.words)).filter (natBit f.mask)).map (tileGet s p t n f.x f.y)
    match vs with
    | [] => ([0, 0, 0, 0], s)
    | v :: rest =>
      if rest.all (· = v) then (pixelDecode (aFormat p.words n) v, s)
      else (pixelDecode (aFormat p.words n) (vs.getD ((Config.unstated 53 (vs.map (BitVec.ofNat 32))).toNat % vs.length) v), s)

/-- A fragment thread reads the tile buffer (R340). -/
def execTread (g : GroupRef) (s : State) : Out :=
  .next (issueIf s g 0x15 (tileRegs 4) (tileOther 6) (tileOp 6 true 4 (fun y v => decide (v < y.ncolor)) (fun s x y =>
    let r := x.lanes.foldl (fun (acc : Group × State) l =>
      let (vs, s) := tileRead acc.2 y (y.frags.getD l { x := 0, y := 0, mask := 0, tri := 0 }) (wVec x.word)
      ((vs.zipIdx).foldl (fun (g : Group) vi => g.setReg l (wDst x.word + vi.2) vi.1) acc.1, s)) (x.g, s)
    goOn r.2 x r.1 x.fall)))

end Sys2Proof.Machine
end

