-- ==== Sys2Proof/Machine/Recovery.lean ====
section
/-! DEFINITION. The referee: budgets, stops, fences, resets of units and partitions, suspects and replay, and the destruction of a
context (spec/15 R739 to R760, spec/10 R536 to R540). -/

namespace Sys2Proof.Machine

open Sys2Proof

/-! ### Which command is active on which unit (R57, R751) -/

/-- The union of two lists without repeats. -/
def union {α : Type} [DecidableEq α] (a b : List α) : List α := a ++ b.filter (fun x => !a.contains x)

/-- Whether two lists of units meet. -/
def unitsMeet (a b : List ResetUnit) : Bool := a.any (fun u => b.contains u)

/-- Whether a command is active: it has started, and its completion is not written (R751). -/
def Queue.onUnit (q : Queue) : Bool := match q.phase with
  | .running | .halted | .draining .. | .signalling .. => true
  | _ => false

/-- The field run of a queue's command, with its partition. -/
def fieldRunOf (s : State) (qi : Nat) : Option (Nat × FieldRun) :=
  (List.range 16).findSome? (fun p => match (s.field p).run with
    | some r => if r.q = qi then some (p, r) else none
    | none => none)

/-- The render pass of a queue's command, with its front end. -/
def passOf (s : State) (qi : Nat) : Option (Nat × Pass) :=
  (List.range 4).findSome? (fun f => match s.pass f with
    | some p => if p.q = qi then some (f, p) else none
    | none => none)

/-- The units that a command is active on (R57, R320, R751). -/
def unitsOf (s : State) (qi : Nat) : List ResetUnit :=
  match (s.queue qi).on with
  | some (.courts _) | some (.quarters _) | some (.raster _) => (s.queue qi).used
  | some (.pipe p) => if (s.pipe p).applied.any (fun r => r.q = qi) then [.pipe p] else []
  | some (.channel c) => [.channel c]
  | some (.iqlPort p) => [.port p]
  | _ => []

/-- A list put in rising order of a number. -/
def sortBy {α : Type} (f : α → Nat) (l : List α) : List α :=
  l.foldr (fun x acc => acc.takeWhile (fun y => decide (f y < f x)) ++ x :: acc.dropWhile (fun y => decide (f y < f x))) []

/-- The queues whose commands are active on any of the units (R751). -/
def activeOn (s : State) (units : List ResetUnit) : List Nat :=
  (s.queues.filter (fun kv => kv.2.onUnit && unitsMeet (unitsOf s kv.1) units)).map (·.1)

/-- What the referee keeps of a suspect: whether it may be replayed (R753), and what its first run read (R755). -/
def suspectOf (s : State) (qi : Nat) (overran : Bool) : Suspect :=
  let q := s.queue qi
  { q := qi, overran := overran, began := q.firstStart.getD q.startTime, budgetEnd := q.deadline.getD s.now,
    replaySafe := q.replaySafe || !q.begun || decide (3 < q.kind), words := q.read,
    units := unitsOf s qi }

/-- Suspects with those of further queues, in submission order (R754). -/
def suspectsWith (s : State) (old : List Suspect) (qs : List Nat) : List Suspect :=
  sortBy (fun x => headSeq s x.q)
    (old ++ (qs.filter (fun q => !old.any (fun x => x.q = q))).map (fun q => suspectOf s q false))

/-! ### Stopping one command (R743 to R746) -/

/-- Whether a thread waits at a barrier or a lane instruction. -/
def Thread.stalls (t : Thread) : Bool := !t.exited && (match t.wait with
  | .group => true
  | .block => true
  | .lane .. => true
  | _ => false)

/-- The fault of R289: the lowest block and group with a waiting thread, and that group's missing threads. -/
def stallFault (s : State) (qi : Nat) : Option FaultRec :=
  ((s.groups.filterMap (fun kv => kv.2.map (fun g => (kv.1, g)))).filter (fun kg =>
      decide (kg.2.q = qi) && kg.2.threads.any (·.stalls))).head?.map (fun kg =>
    let ts := kg.2.threads
    let first := (ts.find? (·.stalls)).getD {}
    let missing := (List.range ts.length).filter (fun l =>
      let t := ts.getD l {}
      !t.exited && !t.stalls)
    let lane : Bool := match first.wait with
      | .lane .. => true
      | _ => false
    { status := stBarrierStall, kind := cond lane 0x0C 0x0B, time := s.now, pc := first.pc,
      lanes := missing.foldl (fun m l => m + 2 ^ l) 0, block := blockOf kg.1, place := placeOf kg.2.core (groupOf kg.1), order := faultOrder kg.1 kg.2 })

/-- A new recovery begins, with the next number. -/
def recoveryNew (s : State) (r : Recovery) : State :=
  refShow { s with
    recoveries := s.recoveries ++ [{ r with id := s.referee.nextId }]
    referee := { s.referee with nextId := s.referee.nextId + 1 } }

/-- The queue of a request's purpose, if it is a command's access. -/
def Purpose.queue : Purpose → Option Nat
  | .store q => some q
  | .stored q .. => some q
  | .lane q .. => some q
  | .atom q .. => some q
  | .court q .. => some q
  | .bulk q _ => some q
  | .signal q => some q
  | _ => Option.none

/-- What a stopping command's unit has not sent yet is refused: reads and writes that wait to leave, and writes in merging buffers that
hold no other command's bytes (R744). The DMA slots that a FIELD has issued complete (R743). -/
def refuseNew (s : State) (qi : Nat) : State :=
  if (s.queue qi).kind = 1 then s
  else { s with
    merge := s.merge.filter (fun e => decide (e.queues ≠ [qi]))
    txWait := s.txWait.filter (fun x => decide (x.2.queue ≠ some qi)) }

/-- A command is told to stop at context level; one that only awaits answers is held once they are in (R743). -/
def stopAtContext (s : State) (qi : Nat) : State :=
  match (s.queue qi).phase with
  | .draining _ fl => advance (s.setQueue qi { s.queue qi with phase := .draining stRefStop fl }) qi
  | _ => requestStop s qi stRefStop

/-- A command is stopped at context level (R743 to R746). -/
def contextStop (s : State) (qi : Nat) : State :=
  let q := s.queue qi
  let s := refuseNew (s.bump F.refContextStopsCount) qi
  match (if q.kind = 2 ∨ q.kind = 3 then stallFault s qi else none) with
  | some f => cmdFault (s.bump F.shaFaultCountFaults (f.place / 2 ^ 25 % 4)) qi f
  | none =>
    let x := suspectOf s qi true
    recoveryNew (stopAtContext s qi) { id := 0, level := 0, since := s.now, suspects := [x] }

/-- A replay overruns again (R756). -/
def replayStop (s : State) (qi : Nat) : State :=
  let s : State := { s with recoveries := s.recoveries.map (fun r => if r.replay = some qi then
      { r with stopAt := s.now, suspects := r.suspects.map (fun x => if x.q = qi then { x with overran := true } else x) } else r) }
  stopAtContext (refuseNew (s.bump F.refContextStopsCount) qi) qi

/-- Whether a queue's command has run past its budget and nothing stops it yet; a full ring's wait does not count (R736, R737, R740). -/
def overBudget (s : State) (qi : Nat) : Bool :=
  let q := s.queue qi
  let phaseOk : Bool := match q.phase with
    | .running => true
    | .draining st _ => decide (st = stOk) && outstanding s qi
    | _ => false
  let late : Bool := match q.deadline with
    | none => false
    | some d => decide (d ≤ s.now)
  phaseOk && late && q.stopReq.isNone

/-- The referee finds a command over its budget (R737, R740, R743). -/
def execBudgetOverrun (q : Fin 16384) (s : State) : Out :=
  if overBudget s q then
    if (s.queue q).replaying then .next (replayStop s q)
    else if (unitsOf s q).any (unitKept s) ∨ s.recoveries.any (fun r => decide (r.level = 3)) then .next s
    else .next (contextStop s q)
  else .next s

/-! ### What a reset takes from a command -/

/-- Nothing awaits the answers to a command's requests any more (R747). -/
def forgetAnswers (s : State) (qi : Nat) : State :=
  let drop (p : Purpose) : Purpose := if p.queue = some qi then .held (s.queue qi).owner else p
  let s := forgetFar s qi
  { s with
    txns := s.txns.map (fun kv => (kv.1, { kv.2 with purpose := drop kv.2.purpose }))
    qps := s.qps.map (fun kv => (kv.1, { kv.2 with reqs := kv.2.reqs.map (fun r => { r with purpose := drop r.purpose }) })) }

/-- The state that a command has on its units is gone; a render pass's heap is free again. -/
def dropCmd (s : State) (qi : Nat) : State :=
  let s : State := forgetAnswers { s with txWait := s.txWait.filter (fun x => decide (x.2.queue ≠ some qi)) } qi
  let s : State := match fieldRunOf s qi with
    | some (p, r) => dropRun s p r
    | none => s
  let s : State := if (s.launch qi).isSome then (dropGroups s qi).setLaunch qi none else s
  let s : State := match passOf s qi with
    | none => s
    | some (f, p) =>
      let h := (s.queue qi).owner
      let s := (p.tiles.filter (fun t => t.2.st.holds)).foldl (fun s t => coreFree s t.2.core h) s
      let s := heapEnd (dropGroups s qi) (some (.raster f)) h p
      rasterSettle ((markTiles (s.setPass f none) f).setFld F.gfxFeStatusPartial f 0)
  let s : State := { s with cores := s.cores.map (fun kv =>
      (kv.1, { kv.2 with ammas := kv.2.ammas.filter (fun m => m.group / 32 / 2 ^ 32 ≠ qi) })) }
  presentDrop s qi

/-- The cached translations of a unit are invalidated (R305, R748). -/
def ResetUnit.holds (u : ResetUnit) (h : Holder) : Bool :=
  match u, h with
  | .court n, .court m => decide (n = m)
  | .quarter q, .core c => decide (c / 17 = q)
  | .quarter q, .quarter r => decide (q = r)
  | .raster q, .raster r => decide (q = r)
  | .pipe p, .pipe r => decide (p = r)
  | .channel c, .channel d => decide (c = d)
  | _, _ => false

/-- An Ihlique port is reset: what it held is discarded, its transactions end, and it retrains and rekeys (R616, R641). -/
def portReset (s : State) (p : Nat) : State :=
  let s := s.setIqlPort p { expectDevice := (s.iqlPort p).expectDevice, pairBad := (s.iqlPort p).pairBad }
  let s := if s.fld F.iqlPortStatusState p = lcOn then
      ((s.setFld F.iqlPortStatusState p lcStarting).setFld F.iqlPortStatusLinkUp p 0).setFld F.iqlPortStatusKeyed p 0
    else s
  endTxns s (fun t => t.port = p)

/-- A unit's fence closes (R747, R748). -/
def unitFence (s : State) (u : ResetUnit) : State :=
  let s := { s with tlb := s.tlb.filter (fun e => !u.holds e.holder) }
  match u with
  | .port p => portReset s p
  | _ => s

/-- A unit's reset begins once its fence has drained (R379, R750). A pipe that was ON is STARTING until it is ON again (log 107). -/
def unitReset (s : State) (u : ResetUnit) : State :=
  match u with
  | .court n => if s.domOn n then courtScrubDue s n else s
  | .quarter q => if s.domOn (16 + q) then quarterScrubDue s q else s
  | .pipe p =>
    let s := if s.fld F.lyrPipeStatusState p = lcOn then s.setFld F.lyrPipeStatusState p lcStarting else s
    (s.setFld F.dpxStreamSlots p 0).setPipe p { s.pipe p with
      layers := [], applied := [], began := none, under := [], rows := [], gone := [], faulted := [], display := [], resetting := true, restarting := true }
  | _ => s

/-- Whether a unit's reset has reached its end (R641, R750). -/
def unitBack (s : State) : ResetUnit → Bool
  | .court n => decide ((s.court n).scrub = .clean)
  | .quarter q => (List.range 17).all (fun c => decide ((s.core (17 * q + c)).scrub = .clean))
  | .port p => decide (s.fld F.iqlPortStatusState p ≠ lcStarting)
  | _ => true

/-! ### Climbing (R739, R741, R751, R752) -/

/-- Whether another recovery's units or suspects are among those of `r` (R741). -/
def overlaps (r x : Recovery) : Bool :=
  decide (x.id ≠ r.id) && (unitsMeet x.units r.units || x.suspects.any (fun y =>
    !y.judged && (r.suspects.any (fun z => z.q = y.q) || r.others.contains y.q)))

/-- Two recoveries become one. -/
def mergeOf (s : State) (r x : Recovery) : Recovery :=
  { r with
    units := union r.units x.units
    first := union r.first x.first
    suspects := sortBy (fun y => headSeq s y.q) (r.suspects.filter (fun z => !x.suspects.any (fun y => y.q = z.q)) ++ x.suspects)
    others := union (r.others.filter (fun q => !x.suspects.any (fun y => y.q = q)))
      (x.others.filter (fun q => !r.suspects.any (fun y => y.q = q)))
    guilty := r.guilty || x.guilty
    dropped := r.dropped ++ x.dropped }

/-- The stopped commands no longer run; what they have on their units stays until the fence has drained. -/
def haltAll (s : State) (qs : List Nat) : State := qs.foldl (fun s q => s.setQueue q { s.queue q with phase := .halted }) s

/-- A recovery goes to a level that resets `units`: recoveries of the same units join it, the commands active on the units stop,
and the fences close. -/
def climb (s : State) (r : Recovery) (level : Nat) (units : List ResetUnit) : State :=
  let first := if level = 1 then units else r.first
  let sus := activeOn s first
  let r : Recovery := { r with
    level := level
    since := s.now
    units := union units r.units
    first := first
    suspects := suspectsWith s r.suspects sus
    drained := false
    ended := false
    replay := none }
  let r : Recovery := { r with
    others := union r.others ((activeOn s units).filter (fun q => !r.suspects.any (fun x => x.q = q))) }
  let joined := s.recoveries.filter (overlaps r)
  let r := joined.foldl (mergeOf s) r
  let s := { s with recoveries := (s.recoveries.filter (fun x => !(overlaps r x) && decide (x.id ≠ r.id))) ++ [r] }
  let stopped := (r.suspects.filter (fun x => !x.judged)).map (·.q) ++ r.others
  let s := haltAll s stopped
  let s := if units.any (fun u => match u with
      | .port _ => true
      | _ => false) then stopped.foldl forgetAnswers s else s
  let s := units.foldl unitFence s
  refShow (s.bump (if level = 1 then F.refEngineResetsCount else F.refPartitionResetsCount))

/-- The courts, quarters and front ends of a partition (R739). -/
def partUnits (s : State) (p : Nat) : List ResetUnit :=
  (partCourts s p).map .court ++ (partQuarters s p).map .quarter ++ (partRasters s p).map .raster

/-- The partition of a unit. -/
def ResetUnit.part (s : State) : ResetUnit → Option Nat
  | .court n => courtPart s n
  | .quarter q => quarterPart s q
  | .raster q => (List.range 16).find? (fun p => (partRasters s p).contains q)
  | _ => none

/-! ### Chip-level recovery begins (R742, R761 step 1) -/

/-- Every command in flight. -/
def inFlight (s : State) : List Nat := (s.queues.filter (fun kv => kv.2.runs)).map (·.1)

/-- A chip-level recovery begins: every fence closes and every other recovery joins it. A third one within 1 hour asks for a power
cycle instead (R741, R761, R766). -/
def chipBegin (s : State) (r : Recovery) (cause : Nat) : State :=
  let past := s.referee.chipTimes.filter (fun t => decide (s.now ≤ t + 3600000000000))
  let r : Recovery := { r with
    level := 3
    since := s.now
    cause := cause
    drained := false
    ended := false
    replay := none }
  let r := (s.recoveries.filter (fun x => x.id ≠ r.id)).foldl (mergeOf s) r
  let r : Recovery := { r with others := (inFlight s).filter (fun q => !r.suspects.any (fun x => decide (x.q = q) && !x.judged)) }
  let s := haltAll s (inFlight s)
  let s := flushCause (event (s.bump F.refChipResetsCount) 0x0E01 0 cause) 0
  let s := s.wr Reg.refChipLast 0 (BitVec.ofNat 64 s.now)
  refShow { s with
    recoveries := [r]
    tlb := []
    walks := []
    referee := { s.referee with
      chipTimes := past ++ [s.now]
      chipSeq := s.referee.chipSeq + 1
      modeBefore := s.fld F.feSchedCfgMode
      cycleDue := if 2 ≤ past.length then some 2 else s.referee.cycleDue }
    stw := { s.stw with recovered := true } }

/-- A chip-level recovery for a cause that no recovery in progress leads to; one in progress goes on. -/
def chipFor (s : State) (cause : Nat) : State :=
  if s.recoveries.any (fun r => decide (r.level = 3 ∧ r.ended = false)) then s
  else chipBegin { s with referee := { s.referee with nextId := s.referee.nextId + 1 } }
    { id := s.referee.nextId, level := 3, since := s.now } cause

/-- A shared unit leaves a request unanswered for 1 ms (R742). -/
def execSharedUnitTimeout (s : State) : Out := if s.fabricOn then .next (chipFor s 2) else .next s

/-! ### A level misses its bound -/

/-- The stop of a replay misses the context-level bound: its units are reset again, and the replay is guilty (R756, R757). The only
further suspects are commands that ran beside it on units that no recovery had reset (R746, R751; log 76). -/
def replayReset (s : State) (r : Recovery) (qi : Nat) : State :=
  let units := unitsOf s qi
  let beside := (activeOn s units).filter (fun q => decide (q ≠ qi) && !r.suspects.any (fun x => x.q = q))
  let r : Recovery := { r with
    level := max 1 r.level
    since := s.now
    units := union r.units units
    first := union r.first units
    suspects := suspectsWith s r.suspects beside
    drained := false
    ended := false }
  let s := { s with recoveries := s.recoveries.map (fun x => if x.id = r.id then r else x) }
  let s := haltAll s beside
  let s := (units.foldl unitFence (forgetAnswers s qi)).bump F.refEngineResetsCount
  complete (dropCmd s qi) qi stRefStop

/-- Whether a replay that was told to stop has not stopped. -/
def replayStopping (q : Queue) : Bool := match q.phase with
  | .running => decide (q.stopReq = some stRefStop)
  | .draining st _ => decide (st = stRefStop)
  | _ => false

/-- A recovery's level misses its bound, and recovery climbs (R739, R741, R757). -/
def boundMiss (s : State) (r : Recovery) : State :=
  match r.replay with
  | some qi =>
    if replayStopping (s.queue qi) ∧ r.stopAt + 1000000 ≤ s.now then
      (if (unitsOf s qi).isEmpty then chipBegin s r 2 else replayReset s r qi)
    else s
  | none =>
    match r.level with
    | 0 =>
      let us := (r.suspects.map (fun x => unitsOf s x.q)).flatten
      let halted := r.suspects.all (fun x => decide ((s.queue x.q).phase = .halted ∨ x.judged))
      if s.now < r.since + 1000000 ∨ halted then s
      else if us.isEmpty then chipBegin s r 2
      else climb s r 1 us
    | 1 =>
      if s.now < r.since + 5000000 ∨ r.ended then s
      else if r.units.isEmpty ∨ r.units.any (fun u => (ResetUnit.part s u).isNone) then chipBegin s r 0
      else climb s r 2 (((r.units.filterMap (ResetUnit.part s)).eraseDups.map (partUnits s)).flatten)
    | 2 => if s.now < r.since + 40000000 ∨ r.ended then s else chipBegin s r 1
    | _ => s

/-- A recovery level misses its bound (R739). -/
def execStopBoundMiss (id : W32) (s : State) : Out :=
  match s.recoveries.find? (fun r => r.id = id.toNat) with
  | none => .next s
  | some r => .next (boundMiss s r)

/-! ### Fences drain and resets end (R747, R750, R752, R753) -/

/-- Whether a merging-buffer entry is inside one of the units. -/
def heldIn (units : List ResetUnit) (e : MergeEntry) : Bool := units.contains (.quarter (e.core / 17))

/-- The writes held inside units, and by the commands that ran there: merging-buffer entries, staged DMA stores, and packets that
have not left, each with its unit (R747; log 76). -/
def heldWrites (s : State) (units : List ResetUnit) (qs : List Nat) : List (ResetUnit × Nat) :=
  (s.merge.filter (heldIn units)).map (fun e => (.quarter (e.core / 17), 1)) ++
  (qs.map (fun q =>
    (match fieldRunOf s q with
      | none => []
      | some (_, r) => (r.dma.filter (fun d => d.isStore && !d.sent)).map (fun d =>
          (ResetUnit.court d.court, (dmaPieces d r (d.rows * d.rowBytes) 0).length))) ++
    (match (unitsOf s q).head? with
      | none => []
      | some u => [(u, (s.txWait.filter (fun x => decide (x.1.typ = 2 ∧ x.2.queue = some q))).length)]))).flatten

/-- Dropped writes are counted (R772). -/
def dropWrites (s : State) (ws : List (ResetUnit × Nat)) : State :=
  s.bump F.refWritesDroppedCount 0 (ws.foldl (fun n w => n + w.2) 0)

/-- The commands of a recovery that its units held when their fences closed. -/
def heldCmds (r : Recovery) : List Nat := (r.suspects.filter (fun x => !x.judged)).map (·.q) ++ r.others

/-- 10 µs after the fences closed: what is still held is dropped and counted, and the units are reset. -/
def fenceDrain (s : State) (r : Recovery) : State :=
  let gone := heldWrites s r.units (heldCmds r)
  let s := dropWrites s gone
  let s := { s with merge := s.merge.filter (fun e => !heldIn r.units e) }
  let s := (heldCmds r).foldl dropCmd s
  let s := r.units.foldl unitReset s
  { s with recoveries := s.recoveries.map (fun x => if x.id = r.id then { r with drained := true, dropped := r.dropped ++ gone } else x) }

/-- A fence's drain ends (R747). -/
def execFenceDrainEnd (id : W32) (s : State) : Out :=
  match s.recoveries.find? (fun r => r.id = id.toNat) with
  | none => .next s
  | some r =>
    if (r.level = 1 ∨ r.level = 2) ∧ r.drained = false ∧ r.since + 10000 ≤ s.now then .next (fenceDrain s r) else .next s

/-- A command that its reset has ended completes with a status, and leaves its units. -/
def endWith (s : State) (qi : Nat) (st : W16) : State :=
  let q := s.queue qi
  settleUnits (advance (s.setQueue qi { q with phase := .draining st q.flags, replaying := false }) qi) q.units

/-- A suspect that is not replayed completes at once (R753); the others wait for their replay. -/
def judge (id : Nat) (s : State) (x : Suspect) : State :=
  match s.recoveries.find? (fun r => r.id = id) with
  | none => s
  | some r =>
    let c := (s.ctx (hIndex (s.queue x.q).owner)).state
    let st : Option W16 :=
      if x.judged then none
      else if c = .destroying ∨ c = .free then some stAborted
      else if c = .lost then some stContextLost
      else if x.replaySafe = false then some stResetVictim
      else none
    match st with
    | none => s
    | some st => endWith (suspectJudged s r x st) x.q st

/-- Destruction that waited for a recovery goes on (R540). -/
def resumeDestroys (s : State) : State :=
  if recovering s then s
  else (s.ctxs.filter (fun kv => decide (kv.2.state = .destroying ∧ kv.2.destroyStep = 0))).foldl
    (fun s kv => destroyBegin s kv.1) s

/-- Every reset unit is back: the fences open, what is not a suspect completes with PARTITION_RESET, and the suspects that are
not replayed complete (R750, R752, R753). -/
def resetEnd (s : State) (r : Recovery) : State :=
  let s := r.units.foldl (fun s u => match u with
    | .pipe p => s.setPipe p { s.pipe p with resetting := false }
    | _ => s) s
  let s := { s with recoveries := s.recoveries.map (fun x => if x.id = r.id then { r with others := [] } else x) }
  let s := r.others.foldl (fun s q => endWith s q stPartitionReset) s
  let s := r.suspects.foldl (judge r.id) s
  let s := match s.recoveries.find? (fun x => x.id = r.id) with
    | none => s
    | some r => recoveryPut s { r with ended := true }
  resumeDestroys s

/-- Whether a recovery's reset has reached its end; at context level, whether its command has stopped (R743, R750). -/
def resetOver (s : State) (r : Recovery) : Bool :=
  if r.level = 0 then r.suspects.all (fun x => decide ((s.queue x.q).phase = .halted ∨ x.judged))
  else r.drained && (decide (r.level = 3) || r.units.all (unitBack s))

/-- Every reset unit has scrubbed (R750). -/
def execResetEnd (id : W32) (s : State) : Out :=
  match s.recoveries.find? (fun r => r.id = id.toNat) with
  | none => .next s
  | some r => if !r.ended && resetOver s r then .next (resetEnd s r) else .next s

/-! ### Replay (R754 to R759) -/

/-- The next suspect runs again, alone on the reset units, with a fresh budget and without its wait (R754, R755). -/
def replayNext (s : State) (r : Recovery) (x : Suspect) : State :=
  let q := s.queue x.q
  let s := s.setQueue x.q { q with
    phase := .running
    begun := false
    replaying := true
    stopReq := none
    deadline := none
    firstStart := some (q.firstStart.getD x.began)
    since := s.now
    used := match q.on with
      | some (.quarters _) => []
      | _ => q.units }
  refShow { s with recoveries := s.recoveries.map (fun y => if y.id = r.id then { r with replay := some x.q } else y) }

/-- Whether no command but suspects runs on the reset units. -/
def unitsAlone (s : State) (r : Recovery) : Bool :=
  (activeOn s r.units).all (fun q => r.suspects.any (fun x => x.q = q))

/-- The referee replays the next suspect (R754); one whose context an earlier suspect's status has lost is not run (R20). -/
def execReplay (id : W32) (s : State) : Out :=
  match s.recoveries.find? (fun r => r.id = id.toNat) with
  | none => .next (resumeDestroys s)
  | some r =>
    match r.suspects.find? (fun x => !x.judged) with
    | none => .next s
    | some x =>
      if r.ended && r.replay.isNone && unitsAlone s r && decide ((s.queue x.q).phase = .halted) then
        .next (if lostFor s (s.queue x.q) then endWith (suspectJudged s r x stContextLost) x.q stContextLost else replayNext s r x)
      else .next s

/-! ### Registers (R738, R773, R774) -/

/-- A write of REF_BUDGET_MARGIN (R773). -/
def marginWrite (s : State) (v : W32) : State :=
  if v.toNat < 10000 ∨ 10000000 < v.toNat then s.answer stInvalid
  else (s.wrPlain Reg.refBudgetMargin 0 (v.setWidth 64)).answer stOk

/-- A write to REF_BUDGET_MARGIN (R738). -/
def execRefBudgetMargin (v : W32) (s : State) : Out := .next (guarded s Reg.refBudgetMargin (fun s => marginWrite s v))

/-- A write of REF_FAULT_RING (R773, R774). -/
def faultRingWrite (s : State) (v : W64) : State :=
  if (liveCtxs s).isEmpty = false then s.answer stBusy
  else if bitsOf v 3 0 < 6 ∨ 12 < bitsOf v 3 0 then s.answer stInvalid
  else (s.wrPlain Reg.refFaultRing 0 v).answer stOk

/-- A write to REF_FAULT_RING (R774). -/
def execRefFaultRing (v : W64) (s : State) : Out := .next (guarded s Reg.refFaultRing (fun s => faultRingWrite s v))

/-! ### Destroying a context (R536 to R540) -/

/-- The running commands of a context. -/
def runningOf (s : State) (h : W32) : List Nat :=
  (s.queues.filter (fun kv => kv.2.runs && decide (kv.2.owner = h))).map (·.1)

/-- Step 3 of destruction: the units that still run a command of the context are reset at engine level (R536). -/
def destroyReset (s : State) (i : Nat) : State :=
  (runningOf s (s.handleOf i)).foldl (fun s q =>
    let us := unitsOf s q
    if us.isEmpty ∨ us.any (unitKept s) then s
    else
      let r : Recovery := { id := s.referee.nextId, level := 1, since := s.now }
      climb { s with referee := { s.referee with nextId := s.referee.nextId + 1 }, recoveries := s.recoveries ++ [r] } r 1 us) s

/-- 50 ms after destruction began (R536); a destruction that waited for a recovery begins (R540). -/
def execDestroyStopTimeout (ctx : Fin 4096) (s : State) : Out :=
  let c := s.ctx ctx
  if c.state = .destroying then
    if c.destroyStep = 0 then .next (resumeDestroys s)
    else if c.destroyStep = 1 ∧ c.destroyAt + 50000000 ≤ s.now then .next (destroyReset s ctx)
    else .next s
  else .next s

/-- ABANDONED is set in the fence that an entry of the fence list names; an entry whose other bits are not 0 is skipped (R482,
R536). -/
def abandon (s : State) (e : Nat) : State :=
  let pa := natBits e 45 3 * 8
  let dev := pa / 2 ^ 40
  if e ≠ pa then s
  else if dev = s.device then
    (if s.exists? (pa % 2 ^ 40) then (fenceUpdate s (pa % 2 ^ 40) (fun v => v % 2 ^ 63 + 2 ^ 63)).2 else s)
  else (remoteAtomic s dev (pa % 2 ^ 40) 0x86 (leBytes 8 (2 ^ 63)) (.notice 0)).2

/-- The fences of a context's list are abandoned; an entry that memory refuses names none. -/
def abandonAll (s : State) (i : Nat) : State :=
  let c := s.ctx i
  (List.range c.fenceCount).foldl (fun s k =>
    let a := c.fenceList + 8 * k
    if s.exists? a then
      match memLoadNat s a 8 with
      | (some e, s) => abandon s e
      | (none, s) => s
    else s) s

/-- The composer's layers and writebacks of a context end at the next boundary, and its streams stop (R539). -/
def releaseOwned (s : State) (h : W32) : State :=
  let s := (List.range 32).foldl (fun s k =>
    if s.fld F.lyrLayerOwnerValid k = 1 ∧ s.fld F.lyrLayerOwnerHandle k = h.toNat then s.setFld F.lyrLayerOwnerValid k 0 else s) s
  let s := (List.range 4).foldl (fun s p =>
    let o := s.rd Reg.lyrWbOwner p
    let a := s.rdActive Reg.lyrWbOwner p
    let ours (v : W64) : Bool := decide (bitsOf v 32 32 = 1 ∧ bitsOf v 31 0 = h.toNat)
    if ours o || ours a then s.setPipe p { s.pipe p with wbStop := true } else s) s
  (((runningStreams s).filter (fun kv => kv.2.owner = h)).map (·.1)).foldl stopStream s

/-- Step 4 of destruction, once every queue of the context is FREE (R536, R539, R576). -/
def destroyRelease (s : State) (i : Nat) : State :=
  let h := s.handleOf i
  let s := releaseOwned (revokeOwned (abandonAll s i) h) h
  s.setCtx i { s.ctx i with destroyStep := 2 }

/-- The running commands have stopped (R536, R539). -/
def execDestroyRelease (ctx : Fin 4096) (s : State) : Out :=
  let c := s.ctx ctx
  if c.state = .destroying ∧ c.destroyStep = 1 ∧ (queuesOf s (s.handleOf ctx)).isEmpty then .next (destroyRelease s ctx)
  else .next (if c.destroyStep = 0 then resumeDestroys s else s)

/-- The layers of a pipe that a context owns until the next boundary, though it has been destroyed (R539). -/
def layersLeft (s : State) (p : Nat) (h : W32) : List Nat :=
  (List.range 8).filter (fun l =>
    let k := 8 * p + l
    decide (s.fldActive F.lyrLayerOwnerValid k = 1 ∧ s.fldActive F.lyrLayerOwnerHandle k = h.toNat))

/-- Whether a pipe's writeback ends because its owner, or the owner written for it, is a destroyed context (R539). -/
def wbLeft (s : State) (p : Nat) (h : W32) : Bool :=
  (s.pipe p).wbStop && decide (s.fldActive F.lyrWbOwnerHandle p = h.toNat ∨ s.fld F.lyrWbOwnerHandle p = h.toNat)

/-- Whether a boundary or the end of a frame is still to release something that a destroyed context owns (R539). -/
def releasesLeft (s : State) (h : W32) : Bool :=
  (List.range 4).any (fun p => decide (s.fld F.lyrPipeStatusState p ≠ lcOff) &&
    (!(layersLeft s p h).isEmpty || wbLeft s p h)) ||
  (runningStreams s).any (fun kv => kv.2.owner = h)

/-- How many lines of the frame in progress are out by now: those whose share of the frame's time has passed (log 106). -/
def linesOut (s : State) (p : Nat) : Nat :=
  match (s.pipe p).began with
  | none => 0
  | some b => min (vActive s p) ((s.now - b) * vActive s p / max 1 (framePeriod s p))

/-- Layers are disabled within a frame: what is out stays as it was composed, and their rectangles then show the background (R539). -/
def dropLayers (s : State) (p : Nat) (ls : List Nat) : State :=
  let n := linesOut s p
  let (rows, s) := composeTo s p n
  let x := s.pipe p
  let gone := ls.filterMap (fun l => (SMap.get none x.layers l).map (fun w => (n, w.2)))
  let s := s.setPipe p { x with
    rows := rows, gone := x.gone ++ (gone.filter (fun g => lrEnable g.2))
    layers := ls.foldl (fun m l => SMap.set none m l none) x.layers }
  ls.foldl (fun s l => s.latch Reg.lyrLayerOwner (8 * p + l)) s

/-- What no frame boundary has released by the bound is released at the bound (R539). -/
def releaseNow (s : State) (h : W32) : State :=
  let s := (List.range 4).foldl (fun s p =>
    let ls := layersLeft s p h
    let s := if ls.isEmpty then s else dropLayers s p ls
    if wbLeft s p h then wbEnd s p else s) s
  (((runningStreams s).filter (fun kv => kv.2.owner = h)).map (·.1)).foldl (fun s i => s.setStream i {}) s

/-- The completions of a context that still wait to be sent are stale: they are dropped and counted (R480). -/
def dropCompletions (s : State) (h : W32) : State :=
  let stale (u : Purpose) : Bool := match u with
    | .completion k _ => decide (k = h)
    | _ => false
  let n := (s.txWait.filter (fun x => stale x.2)).length
  { s with txWait := s.txWait.filter (fun x => !stale x.2) }.bump F.feStaleCountCount 0 n

/-- Step 5 of destruction (R536): the translations are dropped, the final scoreboard record is written, and the context is FREE. -/
def destructionEnds (s : State) (i : Nat) : State :=
  let h := s.handleOf i
  let s := dropCompletions (dropAll (releaseNow s h) h) h
  let s := writeScore s i
  let s := s.setCtx i { ({} : Ctx) with gen := (s.ctx i).gen }
  event s 0x0201 h

/-- Destruction ends, once the registrations of the context are revoked and what it owned is released, or, for what is not, at the bound
of 200 ms (R536, R539, R576). -/
def execDestructionEnds (ctx : Fin 4096) (s : State) : Out :=
  let c := s.ctx ctx
  if c.state = .destroying ∧ c.destroyStep = 2 ∧
     (releasesLeft s (s.handleOf ctx) = false ∨ c.destroyAt + 200000000 ≤ s.now) ∧
     s.keys.all (fun kv => !(kv.2.revoking && decide (kv.2.owner = s.handleOf ctx))) then .next (destructionEnds s ctx)
  else .next s

end Sys2Proof.Machine
end

