-- ==== Sys2Proof/Machine/Chip.lean ====
section
/-! DEFINITION. Chip-level recovery with its state capture, and the request for a power cycle (spec/15 R761 to R768, spec/16 R803 to
R805, spec/11 R598, spec/12 R644). -/

namespace Sys2Proof.Machine

open Sys2Proof

/-! ### The state capture (R803 to R805) -/

/-- The address and value of every register of a family, for each 16 bytes of a register section. -/
def famBytes (s : State) (fam base : Nat) : List Byte :=
  let d := regDesc fam
  ((List.range (d.n1 * d.n2)).map (fun i =>
    let off := d.addr + i / d.n2 * d.st1 + i % d.n2 * d.st2 - base
    leBytes 8 (off + d.width * 2 ^ 32) ++ leBytes 8 (readVal s fam i).1.toNat)).flatten

/-- The register section of a block. -/
def blockBytes (s : State) (b : Nat) : List Byte :=
  let base := 0x7F00000000 + b * 0x1000000
  ((List.range regTable.length).map (fun fam =>
    if base ≤ (regDesc fam).addr ∧ (regDesc fam).addr < base + 0x1000000 then famBytes s fam base else [])).flatten

/-- The queue section: for each queue that is not FREE, its handle and words 3 to 7 of its record as benched. -/
def queueBytes (s : State) : List Byte :=
  ((liveQueues s).map (fun kv =>
    let q := kv.2
    leBytes 8 (s.queueHandle kv.1).toNat ++ leBytes 8 (q.tail.toNat * 2 ^ 32 + q.head.toNat) ++
      leBytes 8 (q.cqHead.toNat * 2 ^ 32 + q.cqTail.toNat) ++ s.bytes (queueRecordAddr s kv.1 + 40) 24)).flatten

/-- The event ring, in the order of its places. -/
def ringBytes (s : State) : List Byte := ((List.range 4096).map (fun i => leBytes 8 (s.rd Reg.evrRing i).toNat)).flatten

/-- The scratchpads of a court, physical row-major. -/
def padBytes (c : Court) : List Byte := tabulate (136 * 65536) (fun i => SMap.get 0 c.pads i)

/-- A court's buffer. -/
def bufBytes (c : Court) : List Byte := tabulate 0x400000 (fun i => SMap.get 0 c.buf i)

/-- The courts of the units whose failure started a recovery. -/
def firstCourts (r : Recovery) : List Nat := r.first.filterMap (fun u => match u with
  | .court n => some n
  | _ => none)

/-- The sections of a capture: TYPE, UNIT and contents. -/
def sections (s : State) (r : Recovery) : List (Nat × Nat × List Byte) :=
  (List.range 16).map (fun b => (1, b, blockBytes s b)) ++
  [(2, 0, queueBytes s),
   (3, 0, s.bytes (s.fld F.refFaultRingAddr * 4096) (64 * 2 ^ s.fld F.refFaultRingLog2)),
   (4, 0, ringBytes s)] ++
  (firstCourts r).map (fun n => (5, n, padBytes (s.court n))) ++ (firstCourts r).map (fun n => (6, n, bufBytes (s.court n)))

/-- The directory entries of sections that lie one after another from `off`. -/
def directory (off : Nat) : List (Nat × Nat × List Byte) → List Byte
  | [] => []
  | x :: xs =>
    leBytes 8 (x.1 * 2 ^ 48 + x.2.1 * 2 ^ 32) ++ leBytes 8 off ++ leBytes 8 x.2.2.length ++
      leBytes 8 (crc32c x.2.2).toNat ++ directory (off + x.2.2.length) xs

/-- The context of the command that overran, or 0. -/
def overrunCtx (s : State) (r : Recovery) : Nat :=
  match r.suspects.find? (fun x => x.overran) with
  | none => 0
  | some x => (s.queue x.q).owner.toNat

/-- The bytes of a capture (R804, R805). -/
def captureBytes (s : State) (r : Recovery) : List Byte :=
  let xs := sections s r
  let n := xs.length
  let body := (xs.map (fun x => x.2.2)).flatten
  let dir := directory (64 + 32 * n) xs
  let words : List Nat :=
    [0x50424344 * 2 ^ 32 + 0x2048 * 2 ^ 16 + 0x100 + n, s.referee.chipSeq, r.since,
     r.cause * 2 ^ 56 + s.epoch * 2 ^ 48 + overrunCtx s r, 64 + dir.length + body.length, s.fld F.evrHeadCount, 0, 0]
  (words.map (leBytes 8)).flatten ++ dir ++ body

/-- The slot that a capture goes to: one that is not VALID, else the newer one (R804). -/
def captureSlot (s : State) : Nat × Bool :=
  if s.fld F.stwCaptureStatusValid0 = 0 then (0, false)
  else if s.fld F.stwCaptureStatusValid1 = 0 then (1, false)
  else (s.stw.newer, true)

/-- The state capture is written (R803, R804). -/
def capture (s : State) (r : Recovery) : State :=
  let (k, full) := captureSlot s
  let bs := captureBytes s r
  let s := (memStore s (s.captureBase + k * 0x20000000) bs).2
  let s := if full then s.bumpSat F.stwCaptureStatusOverwrites else s
  let s := s.setFld (if k = 0 then F.stwCaptureStatusValid0 else F.stwCaptureStatusValid1) 0 1
  { s with stw := { s.stw with newer := k } }

/-! ### The reset (R761 steps 4 to 7) -/

/-- The registers that keep their values across a chip-level reset besides those of the always-on domain: the referee's, those of
the composer that step 3 captures, routing and port registers, and those that say which layout, maps and ranges are in force. -/
def keptFams : List Nat :=
  [Reg.lyrPipeCtrl, Reg.lyrPipeStatus, Reg.lyrTimingH, Reg.lyrTimingV, Reg.lyrPclk, Reg.lyrBg, Reg.lyrLayerOwner,
   Reg.lyrSigCtrl, Reg.lyrSigRect, Reg.lyrSigCfg, Reg.lyrSigExpect, Reg.lyrWbCtrl, Reg.lyrWbBase, Reg.lyrWbGeom, Reg.lyrWbFence,
   Reg.lyrWbRecord, Reg.lyrWbOwner, Reg.dpxLinkCtrl, Reg.dpxLinkStatus, Reg.dpxStream,
   Reg.iqlRoute, Reg.iqlPortCtrl, Reg.iqlPortStatus, Reg.ethPortCtrl, Reg.ethPortStatus, Reg.cdeChanCtrl, Reg.cdeChanStatus,
   Reg.fldPartCfg, Reg.fldPartValid, Reg.fePartCfg, Reg.fePartUnits, Reg.fldCourtStatus, Reg.shaQuarterStatus, Reg.gfxFeStatus,
   Reg.fldSpareMap, Reg.shaSpareMap, Reg.shaCoreRetired, Reg.memSdRange, Reg.memScRetire]

/-- Whether a register family keeps its values across a chip-level reset. -/
def keptFam (fam : Nat) : Bool :=
  alwaysOnFam fam || keptFams.contains fam || decide ((regDesc fam).addr / 0x1000000 = 0x7F0E)

/-- The registers after a chip-level reset, with those of the configuration record as it set them at boot (R761). -/
def regsAfter (s : State) : SMap W64 :=
  s.stw.bootRegs.foldl (fun m kv =>
    if alwaysOnFam (kv.1 / 65536) then m else SMap.set (regReset kv.1) m kv.1 kv.2)
    (s.regs.filter (fun kv => keptFam (kv.1 / 65536)))

/-- A pipe that was ON is enabled again; every other is OFF (R761). -/
def pipeAgain (s : State) (p : Nat) : State :=
  let st := s.fld F.lyrPipeStatusState p
  let on : Bool := st = lcOn ∨ st = lcStarting ∨ st = lcPendingOn
  let s := s.setFld F.lyrPipeStatusState p (if on then lcStarting else lcOff)
  (s.setFld F.lyrPipeStatusHolding p 0).setFld F.lyrPipeStatusBlanked p 0

/-- An Ihlique port retrains and rekeys (R644). -/
def portAgain (s : State) (p : Nat) : State :=
  let s := s.setIqlPort p { expectDevice := (s.iqlPort p).expectDevice, pairBad := (s.iqlPort p).pairBad }
  let s := (s.setFld F.iqlPortStatusLinkUp p 0).setFld F.iqlPortStatusKeyed p 0
  if s.fld F.iqlPortStatusState p = lcOn then s.setFld F.iqlPortStatusState p lcStarting else s

/-- A completion or a unit's fence signal that was sent on a queue pair and not acknowledged before a chip-level reset is refused
(R541, R575, R763). -/
def sendsLost (s : State) : State :=
  ((s.qps.map (fun kv => kv.2.reqs.map (fun r => (kv.1, r)))).flatten).foldl (fun s x =>
    match x.2.purpose, x.2.body with
    | .completion h c, .write _ _ rk .. =>
      if s.staleCtx h then completionStale s else hostRefused s (hIndex h) c (keyIndexOf s x.1 rk)
    | .notice h, .write _ _ rk .. => if s.staleCtx h then s else hostGone s (hIndex h) (keyIndexOf s x.1 rk)
    | _, _ => s) s

/-- The queue pairs and streams after a chip-level reset (R598, R599). A ring entry that was being read from another device is
fetched again. -/
def netAfter (s : State) : State := { s with
  queues := s.queues.map (fun kv => (kv.1,
    match kv.2.phase with
    | .fetching => { kv.2 with phase := .empty, cmd := none }
    | _ => kv.2))
  qps := s.stw.cfgQps.foldl (fun m kv => SMap.set {} m kv.1 { kv.2 with state := .rts }) []
  streams := s.streams.map (fun kv => (kv.1, { kv.2 with running := false, stopping := false, ended := false, unsignalled := [] }))
  eth := s.eth.map (fun kv => (kv.1, { kv.2 with egress := [], held := [] }))
  txns := s.txns.map (fun kv => (kv.1, { kv.2 with busy := false }))
  txWait := []
  far := []
  jobs := [] }

/-- Courts and cores are scrubbed; what a layout left behind is released (R51, R161, R303). -/
def unitsAfter (s : State) : State :=
  let s : State := { s with
    courts := s.courts.map (fun kv => (kv.1, kv.2.scrubbed))
    fields := []
    cores := []
    launches := []
    blocks := []
    groups := []
    passes := []
    pipes := []
    dp := []
    merge := []
    tlb := []
    walks := []
    staged := []
    active := []
    heavyEnd := none }
  let s := (List.range 16).foldl (fun s n =>
    let s := (s.setFld F.fldCourtStatusBusy n 0).setFld F.fldCourtStatusScrubbing n 0
    (s.setFld F.fldCourtStatusInspecting n 0).setFld F.fldCourtStatusRemapPending n 0) s
  let s := (List.range 4).foldl (fun s q =>
    let s := (s.setFld F.shaQuarterStatusScrubbing q 0).setFld F.shaQuarterStatusInspecting q 0
    let s := (s.setFld F.shaQuarterStatusRemapPending q 0).setFld F.shaQuarterStatusCoreBusy q 0
    let s := (s.setFld F.gfxFeStatusBinning q 0).setFld F.gfxFeStatusRendering q 0
    (s.setFld F.gfxFeStatusPartial q 0).setFld F.gfxFeStatusTilesInFlight q 0) s
  let s := s.setFld F.pwrStatusHeavy 0 0
  let s := (List.range 16).foldl courtSettle s
  rasterSettle ((List.range 4).foldl quarterSettle s)

/-- A whistle under way fails: its participants are reset (R731). -/
def whistleCut (s : State) : State :=
  let s : State := { s with whistle := { s.whistle with next := [] } }
  if s.whistle.active then whistleFailed s (s.whistle.waiting.headD 0) else s

/-- Spare maps that wait for their court or quarter to hold no command take effect with the reset (R154, R306, R795; log 101). -/
def mapsApplied (s : State) : State :=
  let s := (List.range 16).foldl (fun s n => if s.fld F.fldCourtStatusRemapPending n = 1 then courtRemap s n else s) s
  (List.range 4).foldl (fun s q => if s.fld F.shaQuarterStatusRemapPending q = 1 then coreRemap s q else s) s

/-- Inspections in progress are aborted and wait again (R777). -/
def inspectsAfter (s : State) : State := { s with inspects := s.inspects.map (fun x => { x with running := false }) }

/-- EPOCH goes up by one (R640). -/
def epochUp (s : State) : State :=
  let e := (s.stw.epoch + 1) % 256
  { s.setFld F.iqlCfgEpoch 0 e with stw := { s.stw with epoch := e } }

/-- Run-time claims are released and those of the record stand (R838). -/
def claimsAgain (s : State) : State :=
  let s := (List.range 22).foldl (fun s k => (s.setFld F.stwClaimOwner k 0).setFld F.stwClaimFunction k 0) s
  s.stw.claims.foldl (fun s c => (s.setFld F.stwClaimOwner c.k c.owner).setFld F.stwClaimFunction c.k c.fn) s

/-- Steps 4 to 7 of a chip-level recovery: everything that does not survive is reset, and the registers are restored. -/
def chipRestore (s : State) : State :=
  let s := inspectsAfter (whistleCut (mapsApplied s))
  let dev := s.fld F.iqlCfgDevice
  let s : State := { s with regs := regsAfter s }
  let s := epochUp (s.setFld F.iqlCfgDevice 0 dev)
  let s := netAfter (unitsAfter s)
  let s := (List.range 4).foldl pipeAgain s
  let s := (List.range 4).foldl portAgain s
  let s := trainStart (trainStart s 0) 1
  let s := claimsAgain s
  s.setFld F.feSchedCfgMode 0 1

/-- The device gives up a recovery and asks for a power cycle (R764, R766). -/
def cycleFor (s : State) (case : Nat) : State :=
  { s with referee := { s.referee with cycleDue := some (s.referee.cycleDue.getD case) } }

/-- Every unit that a chip-level reset resets (R739). -/
def allUnits : List ResetUnit :=
  (List.range 16).map .court ++ (List.range 4).map .quarter ++ (List.range 4).map .raster ++ (List.range 4).map .pipe ++
    (List.range 4).map .channel ++ (List.range 4).map .port

/-- Steps 2 to 7 of a chip-level recovery: the queues are benched, the capture is written, and the device is reset and restored;
`benched` and `trained` say whether step 2 and step 6 succeeded (R761, R764). -/
def chipReset (s : State) (r : Recovery) (benched trained : Bool) : State :=
  if !benched then cycleFor s 1
  else
    let s := sendsLost (capture (benchAll s) r)
    let gone := heldWrites s allUnits (heldCmds r)
    let s := (heldCmds r).foldl dropCmd (dropWrites s gone)
    let s := chipRestore s
    let s := trayCause s 4
    if trained then
      let r : Recovery := { r with drained := true, dropped := r.dropped ++ gone, units := allUnits }
      refShow { s with recoveries := s.recoveries.map (fun x => if x.id = r.id then r else x) }
    else cycleFor s 1

/-- A chip-level recovery resets and restores the device (R761). -/
def execChipReset (benched trained : Bool) (s : State) : Out :=
  match s.recoveries.find? (fun r => decide (r.level = 3 ∧ r.drained = false)) with
  | none => .next s
  | some r => if s.referee.cycleDue.isSome then .next s else .next (chipReset s r benched trained)

/-- A chip-level recovery does not finish within 3 s (R766). -/
def execChipRecoveryTimeout (s : State) : Out :=
  if s.recoveries.any (fun r => decide (r.level = 3 ∧ r.since + 3000000000 ≤ s.now)) then .next (cycleFor s 0) else .next s

/-! ### The power cycle (R766 to R768) -/

/-- TRAY_REQ_N is asserted, or held back until 60 s have passed since the last assertion (R768). -/
def trayAssert (s : State) : State :=
  let last := (s.rd Reg.refTrayLast).toNat
  if last ≠ 0 ∧ s.now < last + 60000000000 then s.setFld F.refStatusTrayPending 0 1
  else ((s.setFld F.refStatusTrayPending 0 0).setFld F.refStatusTrayAsserted 0 1).wr Reg.refTrayLast 0 (BitVec.ofNat 64 s.now)

/-- The device fences every switched domain, flushes the recorder and asks for a power cycle (R767, R768). -/
def powerCycle (s : State) (case : Nat) : State :=
  let s := event s 0x0E04 0 case
  let s : State := dropSwitched { s with referee := { s.referee with cycleDue := none, cycling := true } }
  let s := trayCause (flushCause s 2) 3
  let s := match s.stw.flushDue with
    | some c => flushDone (flushBegin s c)
    | none => flushDone s
  trayAssert s

/-- The device asks for a power cycle (R767). -/
def execPowerCycleReq (s : State) : Out :=
  match s.referee.cycleDue with
  | none => .next s
  | some c => if s.power.on ∧ s.referee.cycling = false then .next (powerCycle s c) else .next s

/-- 60 s have passed since the last assertion (R768). -/
def execTrayReqHoldoffEnd (s : State) : Out :=
  if s.fld F.refStatusTrayPending = 1 then .next (trayAssert s) else .next s

/-- The steward's hardware watchdog expires (R766); an expiry before READY is counted (R818). -/
def execWatchdogExpiry (s : State) : Out :=
  if s.power.on then
    let early : Nat := if s.fld F.stwBootStatusState = 1 then 0 else 1
    .next (cycleFor { s with stw := { s.stw with misses := s.stw.misses + early } } 3)
  else .next s

end Sys2Proof.Machine
end

