-- ==== Sys2Proof/Machine/Inspect.lean ====
section
/-! DEFINITION. Inspections of courts, cores and cache ways, the repairs that follow, and the repair journal (spec/16 R775 to R784,
R792, R794, R806 to R808). -/

namespace Sys2Proof.Machine

open Sys2Proof

/-! ### Requests (R776, R808) -/

/-- Whether an inspection's unit exists (R808). -/
def unitExists (kind unit : Nat) : Bool :=
  match kind with
  | 0 => decide (unit < 16)
  | 1 => decide (unit < 68)
  | 2 => decide (unit < 16)
  | _ => false

/-- Whether a court, core or way is out of service (R779, R782, R784). -/
def unitRetired (s : State) (kind unit way : Nat) : Bool :=
  match kind with
  | 0 => decide (s.fld F.fldCourtStatusRetired unit = 1)
  | 1 => coreRetired s unit
  | _ => natBit (s.fld F.memScRetireWays unit) way

/-- When a unit was last inspected is kept under this key (R776). -/
def inspectKey (kind unit way : Nat) : Nat := kind * 65536 + unit * 16 + way

/-- A routine inspection falls due (R776). -/
def routineDue (s : State) (kind unit : Nat) : Bool :=
  let h := s.fld F.stwInspectCfgPeriodH
  let last := (SMap.get none s.inspected (inspectKey kind unit 0)).getD 0
  decide (h ≠ 0 ∧ kind < 2 ∧ last + h * 3600000000000 ≤ s.now) && unitExists kind unit && !unitRetired s kind unit 0

/-- PERIOD_H hours have passed since a court or core was last inspected (R776). -/
def execInspectionDue (kind : Fin 2) (unit : Fin 68) (s : State) : Out :=
  if s.fabricOn && routineDue s kind unit then .next (inspectQueue s { kind := kind, unit := unit, routine := true }) else .next s

/-- The inspections that wait and are not routine. -/
def waitingRequests (s : State) : Nat := (s.inspects.filter (fun x => !x.running && !x.routine)).length

/-- A write of STW_INSPECT_REQ (R808); a request for a unit whose routine inspection waits takes its place. -/
def inspectReq (s : State) (v : W32) : State :=
  let kind := bitsOf v 31 30
  let unit := bitsOf v 15 8
  let way := if kind = 2 then bitsOf v 7 4 else 0
  if !unitExists kind unit || unitRetired s kind unit way then s.answer stInvalid
  else if s.inspects.any (fun x => decide (x.kind = kind ∧ x.unit = unit ∧ x.way = way) && x.running) then s.answer stBusy
  else if 8 ≤ waitingRequests s then s.answer stBusy
  else
    let s := { s with inspects := s.inspects.filter (fun x => ¬ (x.kind = kind ∧ x.unit = unit ∧ x.way = way ∧ x.routine)) }
    (inspectQueue s { kind := kind, unit := unit, way := way }).answer stOk

/-- A write to STW_INSPECT_REQ (R808). -/
def execStwInspectReq (v : W32) (s : State) : Out := .next (guarded s Reg.stwInspectReq (fun s => inspectReq s v))

/-! ### Taking a unit (R777, R778, R780) -/

/-- Whether a partition has a field command running, or ready. -/
def fieldRunning (s : State) (p : Nat) : Bool :=
  s.queues.any (fun kv => decide ((kv.2.phase = .running ∨ kv.2.phase = .halted) ∧ kv.2.kind = 1 ∧ queuePart s kv.2 = p))
def fieldReady (s : State) (p : Nat) : Bool :=
  s.queues.any (fun kv => queueReady s kv.2 && decide (kv.2.kind = 1 ∧ queuePart s kv.2 = p))

/-- Whether 1 ms has passed in which a partition had no field command running or ready. -/
def fieldQuiet (s : State) (p : Nat) : Bool :=
  let past (t : Option Nat) : Bool := match t with
    | none => true
    | some t => decide (t + 1000000 ≤ s.now)
  !fieldReady s p && past (s.field p).idleSince && past (s.field p).readyAt

/-- Whether the referee may take a unit now (R777 to R780). -/
def mayTake (s : State) (x : Inspect) : Bool :=
  let free : Bool := !s.whistle.active && !s.recoveries.any (fun r => decide (r.level = 3)) && !unitRetired s x.kind x.unit x.way
  match x.kind with
  | 0 =>
    free && s.domOn x.unit && !unitKept s (.court x.unit) &&
      decide (s.fld F.fldCourtStatusBusy x.unit = 0 ∧ (s.court x.unit).scrub ≠ .running) &&
      (match courtPart s x.unit with
        | none => true
        | some p => !fieldRunning s p &&
            (!x.routine || (fieldQuiet s p && !natBit (s.fld F.stwInspectCfgExclude) p)))
  | 1 =>
    free && s.domOn (16 + x.unit / 17) && !unitKept s (.quarter (x.unit / 17)) && (s.core x.unit).holds.isEmpty &&
      decide ((s.core x.unit).scrub ≠ .running) && !coreReserved s x.unit
  | _ => free && s.fabricOn

/-- An inspection runs: INSPECTING reads 1 (R780), and the device leaves IDLE (R695); a way's dirty lines are written back (R778). -/
def inspectBegin (s : State) (x : Inspect) : State :=
  let s := idleLeave s
  let s := { s with inspects := s.inspects.map (fun y => if y = x then { y with running := true } else y) }
  if x.kind = 0 then s.setFld F.fldCourtStatusInspecting x.unit 1
  else if x.kind = 1 then s.setFld F.shaQuarterStatusInspecting (x.unit / 17) 1
  else writeBack s x.unit (2 ^ x.way)

/-- The inspection of a unit that waits or runs. -/
def inspectOf (s : State) (kind unit way : Nat) (running : Bool) : Option Inspect :=
  s.inspects.find? (fun x => decide (x.kind = kind ∧ x.unit = unit ∧ x.way = way ∧ x.running = running))

/-- The inspections that begin with one that is taken: the courts of its partition that are due (R777). -/
def inspectGroup (s : State) (x : Inspect) : List Inspect :=
  x :: s.inspects.filter (fun y => decide (y ≠ x ∧ x.kind = 0 ∧ y.kind = 0 ∧ y.running = false ∧
    (courtPart s x.unit).isSome = true ∧ courtPart s y.unit = courtPart s x.unit) && mayTake s y)

/-- The referee takes a due unit and inspects it (R777, R778). -/
def execInspection (kind : Fin 3) (unit : Fin 68) (way : Fin 16) (s : State) : Out :=
  match inspectOf s kind unit way false with
  | none => .next s
  | some x => if mayTake s x then .next ((inspectGroup s x).foldl inspectBegin s) else .next s

/-! ### What follows (R781 to R783) -/

/-- A repair is made and awaits its journal entry (R792). -/
def repaired (s : State) (typ unit sub : Nat) : State :=
  { s with journalDue := s.journalDue ++ [{ typ := typ, unit := unit, sub := sub, time := s.now }] }

/-- A layout's values without a court. -/
def layoutWithout (s : State) (n : Nat) : List (Nat × W64) :=
  [(Reg.key Reg.fldPartCfg 0, s.rd Reg.fldPartCfg),
   (Reg.key Reg.fldPartValid 0, putBits (s.rd Reg.fldPartValid) n n 0),
   (Reg.key Reg.fePartUnits 0, s.rd Reg.fePartUnits)] ++
  tabulate 16 (fun p => (Reg.key Reg.fePartCfg p, s.rd Reg.fePartCfg p))

/-- A court is retired (R782). -/
def retireCourt (s : State) (n : Nat) : State :=
  let s := event ((s.setFld F.fldCourtStatusRetired n 1).bump F.stwCourtsRetiredCount) 0x0E12 0 n
  let s := repaired s 2 n 0
  if (courtPart s n).isSome then whistleStart s .layout (layoutWithout s n) else stopWhenIdle s n

/-- A row's spare stands in for engine `e`, or the spare itself is retired (R152, R172). -/
def mapEngine (s : State) (n r e : Nat) : State :=
  let old := s.rdStaged Reg.fldSpareMap n
  let row := if e = 16 then natBits old.toNat (8 * r + 4) (8 * r) + 32 else 16 + e
  let s := s.stage Reg.fldSpareMap n (putBits old (8 * r + 5) (8 * r) row)
  let s := event (s.bump F.stwEngineRemapsCount) 0x0E11 0 n (r * 32 + e)
  repaired (courtRemap s n) (if e = 16 then 10 else 1) n (r * 32 + e)

/-- Whether failing engines `es` of row `r` of a court call for retiring it: the row's spare is in use or failed and an engine
fails, or two engines fail (R781). -/
def rowFatal (s : State) (n r : Nat) (es : List Nat) : Bool :=
  let map := (s.rdStaged Reg.fldSpareMap n).toNat
  let gone := natBit map (8 * r + 4) || natBit map (8 * r + 5)
  decide (2 ≤ es.length) || (gone && !es.isEmpty)

/-- A court has failed: `mask` is FAIL_MASK, and the engines are those whose CRC differs. The answer is RESULT (R781, R807). -/
def courtFailed (s : State) (n mask : Nat) (engines : List (Nat × Nat)) : Nat × State :=
  let row (r : Nat) : List Nat := (engines.filter (fun e => e.1 = r)).map (·.2)
  if mask ≠ 0 ∨ (List.range 8).any (fun r => rowFatal s n r (row r)) then (2, retireCourt s n)
  else (1, (List.range 8).foldl (fun s r => (row r).foldl (fun s e => mapEngine s n r e) s) s)

/-- A core has failed (R306, R307, R781). -/
def coreFailed (s : State) (unit : Nat) : Nat × State :=
  let q := unit / 17
  let c := unit % 17
  let map := (s.rdStaged Reg.shaSpareMap q).toNat
  if c < 16 ∧ natBit map 4 = false ∧ coreRetired s (17 * q + 16) = false then
    let s := shaSpareMapPut s q (BitVec.ofNat 64 (16 + c))
    let s := if remapFree s q then coreRemap s q else s
    (1, repaired (event (s.bump F.stwCoreRemapsCount) 0x0E13 0 q c) 3 unit 0)
  else
    let s := retireCore s unit
    (2, repaired (event (s.bump F.stwCoresRetiredCount) 0x0E14 0 q c) 4 unit 0)

/-- A cache way has failed (R447, R781). The last way stays in service; the spec states no RESULT for that, which is free
(log 47). -/
def wayFailed (s : State) (slice way : Nat) : Nat × State :=
  let ways := s.fld F.memScRetireWays slice ||| 2 ^ way
  if ways = 0xFFFF then
    let (v, s) := (event s 0x0E18 0 slice 5).fresh
    (v.toNat % 4, s)
  else
    let s := s.setFld F.memScRetireWays slice ways
    (2, repaired (event (s.bump F.stwWaysRetiredCount) 0x0E15 0 slice way) 5 slice way)

/-- A unit's scrub falls due after its inspection, and its INSPECTING falls (R161, R162, R779, R780). -/
def inspectLeave (s : State) (x : Inspect) : State :=
  let s := { s with
    inspects := s.inspects.filter (fun y => y ≠ x)
    inspected := SMap.set none s.inspected (inspectKey x.kind x.unit x.way) (some s.now) }
  if x.kind = 0 then
    (courtScrubDue s x.unit).setFld F.fldCourtStatusInspecting x.unit 0
  else if x.kind = 1 then
    let q := x.unit / 17
    let s := coreScrubDue s x.unit
    s.setFld F.shaQuarterStatusInspecting q (if s.inspects.any (fun y => y.running && decide (y.kind = 1 ∧ y.unit / 17 = q)) then 1 else 0)
  else s

/-- An inspection ends (R775, R781, R807). -/
def inspectEnd (s : State) (x : Inspect) (mask : Nat) (engines : List (Nat × Nat)) : State :=
  let s := inspectLeave (s.bump F.stwInspectionsCount) x
  let fails : Bool := mask ≠ 0 ∨ (x.kind = 0 ∧ engines ≠ [])
  let (res, s) :=
    if !fails then (0, event s 0x0E10 0 (x.kind * 256 + x.unit))
    else
      let s := s.bump F.stwInspectFailsCount
      match x.kind with
      | 0 => courtFailed s x.unit mask engines
      | 1 => coreFailed s x.unit
      | _ => wayFailed s x.unit x.way
  let s := ((s.setFld F.stwInspectStatusKind 0 x.kind).setFld F.stwInspectStatusUnit 0 x.unit).setFld F.stwInspectStatusResult 0 res
  let s := (s.setFld F.stwInspectStatusFailMask 0 mask).wr Reg.stwInspectTime 0 (BitVec.ofNat 64 s.now)
  if x.kind = 0 then courtSettle s x.unit else if x.kind = 1 then quarterSettle s (x.unit / 17) else s

/-- The CRCs of an inspection are in: FAIL_MASK, and for a court the engines, by row and number, that differ (R775, R781). -/
def execInspectionEnd (kind : Fin 3) (unit : Fin 68) (way : Fin 16) (mask : BitVec 18) (engines : List (Fin 8 × Fin 17))
    (s : State) : Out :=
  match inspectOf s kind unit way true with
  | none => .next s
  | some x => .next (inspectEnd s x mask.toNat (engines.map (fun e => (e.1.val, e.2.val))))

/-! ### The journal (R792 to R794) -/

/-- The flash offset of the calibration region, and the journal's offset in the record (R812, R839). -/
abbrev flCal : Nat := 0x02050000
abbrev calJournal : Nat := 0x15000

/-- A byte of flash: erased ones read 0xFF. -/
def State.flashByte (s : State) (a : Nat) : Byte := SMap.get 0xFF s.stw.flash a

/-- The bytes of flash from an offset. -/
def State.flashBytes (s : State) (a n : Nat) : List Byte := tabulate n (fun i => s.flashByte (a + i))

/-- Bytes programmed from an offset. -/
def State.flashPut (s : State) (a : Nat) (bs : List Byte) : State :=
  { s with stw := { s.stw with
      flash := (bs.foldl (fun (acc : SMap Byte × Nat) b => (SMap.set 0xFF acc.1 acc.2 b, acc.2 + 1)) (s.stw.flash, a)).1 } }

/-- A journal entry (R792). -/
def journalEntry (r : Repair) (seq : Nat) : List Byte :=
  let w : List Nat := [r.typ * 2 ^ 56 + r.unit * 2 ^ 48 + r.sub * 2 ^ 40 + r.addr % 2 ^ 40, r.time % 2 ^ 64, seq * 2 ^ 32]
  let bs := (w.map (leBytes 8)).flatten
  bs ++ leBytes 8 (crc32c bs).toNat

/-- The oldest repair that is not journalled is appended, or cannot be (R792, R794). -/
def journalPut (s : State) (r : Repair) : State :=
  let n := s.fld F.stwRepairJournalUsed
  if 1024 ≤ n then event s 0x0E19 0 r.typ
  else
    let bs := journalEntry r n
    let s := s.flashPut (flCal + calJournal + 32 * n) bs
    let at' := calJournal + 32 * n
    let s := { s with stw := { s.stw with cal := s.stw.cal.take at' ++ bs ++ s.stw.cal.drop (at' + 32) } }
    (s.setFld F.stwRepairJournalUsed 0 (n + 1)).setFld F.stwRepairJournalFull 0 (if n + 1 = 1024 then 1 else 0)

/-- The steward appends a repair to the journal (R792). -/
def execJournalAppend (s : State) : Out :=
  match s.journalDue with
  | [] => .next s
  | r :: rest => .next (journalPut { s with journalDue := rest } r)

/-- A write of STW_CAPTURE_STATUS frees slots (R806). -/
def captureStatusWrite (s : State) (v : W32) : State := (s.wrPlain Reg.stwCaptureStatus 0 (v.setWidth 64)).answer stOk

/-- A write to STW_CAPTURE_STATUS (R806). -/
def execStwCaptureStatus (v : W32) (s : State) : Out := .next (guarded s Reg.stwCaptureStatus (fun s => captureStatusWrite s v))

end Sys2Proof.Machine
end

