-- ==== Sys2Proof/Machine/Sha3.lean ====
section
/-! DEFINITION. SHA3-256, the hash that the spec names for images, records and reports (spec/17 R815, R844). -/

namespace Sys2Proof.Machine

/-- A lane turned left by `n` bits. -/
def rotl64 (x : W64) (n : Nat) : W64 := x.rotateLeft (n % 64)

/-- The 24 round constants of Keccak-f[1600]. -/
def keccakConsts : List W64 :=
  [0x0000000000000001, 0x0000000000008082, 0x800000000000808A, 0x8000000080008000, 0x000000000000808B, 0x0000000080000001,
   0x8000000080008081, 0x8000000000008009, 0x000000000000008A, 0x0000000000000088, 0x0000000080008009, 0x000000008000000A] ++
  [0x000000008000808B, 0x800000000000008B, 0x8000000000008089, 0x8000000000008003, 0x8000000000008002, 0x8000000000000080,
   0x000000000000800A, 0x800000008000000A, 0x8000000080008081, 0x8000000000008080, 0x0000000080000001, 0x8000000080008008]

/-- The rotations of the lanes, in the order x + 5 y. -/
def keccakTurns : List Nat :=
  [0, 1, 62, 28, 27, 36, 44, 6, 55, 20, 3, 10, 43, 25, 39, 41, 45, 15, 21, 8, 18, 2, 61, 56, 14]

/-- One round on the 25 lanes, lane (x, y) at x + 5 y. -/
def keccakRound (a : List W64) (rc : W64) : List W64 :=
  let lane (l : List W64) (x y : Nat) : W64 := l.getD (x % 5 + 5 * (y % 5)) 0
  let c := tabulate 5 (fun x => (List.range 5).foldl (fun t y => t ^^^ lane a x y) 0)
  let d := tabulate 5 (fun x => c.getD ((x + 4) % 5) 0 ^^^ rotl64 (c.getD ((x + 1) % 5) 0) 1)
  let a := tabulate 25 (fun i => a.getD i 0 ^^^ d.getD (i % 5) 0)
  let turned := tabulate 25 (fun i => rotl64 (a.getD i 0) (keccakTurns.getD i 0))
  -- lane (x, y) of the result comes from lane (x + 3 y, x)
  let b := tabulate 25 (fun i => lane turned (i % 5 + 3 * (i / 5)) (i % 5))
  let out := tabulate 25 (fun i => b.getD i 0 ^^^ (~~~(lane b (i % 5 + 1) (i / 5)) &&& lane b (i % 5 + 2) (i / 5)))
  out.set 0 (out.getD 0 0 ^^^ rc)

/-- Keccak-f[1600]. -/
def keccakF (a : List W64) : List W64 := keccakConsts.foldl keccakRound a

/-- A block of 136 bytes goes into the lanes, which are then permuted. -/
def absorbBlock (a : List W64) (blk : List Byte) : List W64 :=
  keccakF (tabulate 25 (fun i => a.getD i 0 ^^^ (if i < 17 then BitVec.ofNat 64 (leNat ((blk.drop (8 * i)).take 8)) else 0)))

/-- Whole blocks of 136 bytes, in order. `fuel` bounds them. -/
def absorbBlocks : Nat → List W64 → List Byte → List W64
  | 0, a, _ => a
  | fuel + 1, a, bs => if bs.isEmpty then a else absorbBlocks fuel (absorbBlock a (bs.take 136)) (bs.drop 136)

/-- The message padded to whole blocks. -/
def sha3Pad (bs : List Byte) : List Byte :=
  let n := 136 - bs.length % 136
  if n = 1 then bs ++ [0x86] else bs ++ [0x06] ++ List.replicate (n - 2) 0 ++ [0x80]

/-- SHA3-256: 32 bytes. -/
def sha3 (bs : List Byte) : List Byte :=
  let p := sha3Pad bs
  let a := absorbBlocks (p.length / 136) (List.replicate 25 0) p
  ((a.take 4).map (fun w => leBytes 8 w.toNat)).flatten

end Sys2Proof.Machine
end

