-- ==== Sys2Proof/Machine/Steward.lean ====
section
/-! DEFINITION. The steward: its operations on records, images, claims and keys, its registers, and the tray controller's port
(spec/17 R811 to R816, R824 to R827, R834 to R854). -/

namespace Sys2Proof.Machine

open Sys2Proof

/-! ### Flash (R812) -/

/-- The flash regions of R812 by their number in R821: offset and size. -/
def flashArea : Nat → Option (Nat × Nat)
  | 0 => some (0, 0x10000)
  | 1 => some (0x10000, 0x2000000)
  | 2 => some (0x02010000, 0x40000)
  | 3 => some (0x02050000, 0x100000)
  | 4 => some (0x02150000, 0x100000)
  | _ => none

/-- The bytes of flash from `base` become `bs`, and the rest of the `size` bytes are erased. -/
def State.flashReplace (s : State) (base size : Nat) (bs : List Byte) : State :=
  let lo := s.stw.flash.filter (fun kv => decide (kv.1 < base))
  let hi := s.stw.flash.filter (fun kv => decide (base + size ≤ kv.1))
  let mid := ((bs.take size).zipIdx.filter (fun x => decide (x.1 ≠ 0xFF))).map (fun x => (base + x.2, x.1))
  { s with stw := { s.stw with flash := lo ++ mid ++ hi } }

/-- A little-endian number within bytes. -/
def leAt (bs : List Byte) (off n : Nat) : Nat := leNat ((bs.drop off).take n)

/-- Bytes with `n` of them from an offset read as 0. -/
def zeroAt (bs : List Byte) (off n : Nat) : List Byte := bs.take off ++ List.replicate n 0 ++ bs.drop (off + n)

/-- The identity certificate: 64 bytes of header, the public key and the signature (R842). -/
def certificate (s : State) : List Byte := s.flashBytes (Config.certAt % 61741) 3796

/-- The serial number, grade and base MAC address of the directory (R842). -/
def dirSerial (s : State) : W64 := Config.dirField 0 ((certificate s).take 64)
def dirGrade (s : State) : Nat := (Config.dirField 1 ((certificate s).take 64)).toNat % 2

/-! ### Records and images -/

/-- The byte offset of the first word of a configuration record's header that breaks R827, if one does. -/
def cfgHeaderBad (bs : List Byte) : Option Nat :=
  let len := leAt bs 12 4
  if leAt bs 4 4 ≠ 0x50424346 ∨ leAt bs 2 2 ≠ 0x2048 ∨ leAt bs 1 1 ≠ 1 ∨ leAt bs 0 1 = 0 ∨ 32 < leAt bs 0 1 then some 0
  else if len < 64 ∨ 262144 < len ∨ len % 8 ≠ 0 then some 8
  else (List.range 4).findSome? (fun i => if leAt bs (32 + 8 * i) 8 = 0 then none else some (32 + 8 * i))

/-- The CRC of a configuration record (R827). -/
def cfgCrc (bs : List Byte) : Nat := (crc32c ((zeroAt bs 8 4).take (leAt bs 12 4))).toNat

/-- Whether a calibration record's header and CRC are as R839 lays them out. -/
def calHeaderOk (bs : List Byte) : Bool :=
  decide (leAt bs 4 4 = 0x5042434C ∧ leAt bs 2 2 = 0x2048 ∧ leAt bs 1 1 = 1 ∧
    leAt bs 8 4 = (crc32c ((zeroAt bs 8 4).take calJournal)).toNat)

/-- The SERIAL of a calibration record (R839). -/
def calSerial (bs : List Byte) : W64 := BitVec.ofNat 64 (leAt bs 16 8)

/-- The 32 bytes of journal entry `i` of a calibration record. -/
def journalSlot (bs : List Byte) (i : Nat) : List Byte := (bs.drop (calJournal + 32 * i)).take 32

/-- Whether a journal entry is erased; whether its CRC holds (R792). -/
def slotErased (e : List Byte) : Bool := e.all (fun b => decide (b = 0xFF))
def slotGood (e : List Byte) : Bool := decide (leAt e 24 4 = (crc32c (e.take 24)).toNat)

/-- The bytes of a calibration record. -/
abbrev calBytes : Nat := 118784

/-- The LENGTH, SVN and COMMIT_SVN of an image's header (R814). -/
def imageLength (bs : List Byte) : Nat := leAt bs 8 4
def imageSvn (bs : List Byte) : Nat := leAt bs 15 1
def imageCommit (bs : List Byte) : Bool := natBit (leAt bs 0 1) 0

/-- The checks of R815 on an image. -/
def imageOk (s : State) (bs : List Byte) : Bool :=
  let n := imageLength bs
  let key := (bs.drop 64).take 1312
  decide (leAt bs 4 4 = 0x50424657 ∧ leAt bs 2 2 = 0x2048 ∧ leAt bs 1 1 = 1 ∧ 4096 ≤ n ∧ n % 4096 = 0 ∧
    n + 2420 ≤ 0x2000000 ∧ n + 2420 ≤ bs.length ∧ sha3 key = Config.fusedKeyHash ∧ s.stw.fuses ≤ imageSvn bs) &&
  Config.verifies key (sha3 (bs.take n)) ((bs.drop n).take 2420)

/-! ### STW_OP (R854) -/

/-- An operation ends, with its status in STW_OP_RESULT. -/
def opDone (s : State) (st : W16) (value : Nat) : State :=
  (s.wr Reg.stwOpResult 0 (BitVec.ofNat 64 (st.toNat * 2 ^ 48 + value % 2 ^ 48))).answer st

/-- Whether `n` bytes lie in the usable LPDDR5X or in the stacked DRAM. -/
def bufferOk (s : State) (a n : Nat) : Bool := s.usable a && s.usable (a + n - 1) && decide (isSd a = isSd (a + n - 1))

/-- An operation on `n` bytes read at STW_OP_ARG. -/
def withInput (s : State) (n : Nat) (f : List Byte → State → State) : State :=
  let a := s.fld F.stwOpArgAddr
  if a % 64 ≠ 0 then opDone s stInvalid 0
  else if !bufferOk s a n then opDone s stAccessFault 0
  else
    match memLoad s a n with
    | (none, s) => opDone s stDataError 0
    | (some bs, s) => f bs s

/-- An operation that writes bytes at STW_OP_ARG. -/
def giveOutput (s : State) (bs : List Byte) : State :=
  let a := s.fld F.stwOpArgAddr
  if a % 64 ≠ 0 then opDone s stInvalid 0
  else if !bufferOk s a bs.length then opDone s stAccessFault 0
  else
    match memStore s a bs with
    | (true, s) => opDone s stOk bs.length
    | (false, s) => opDone s stDataError 0

/-- CAL_READ (R840). -/
def calRead (s : State) : State := giveOutput s s.stw.cal

/-- CAL_WRITE (R825, R840). -/
def calWrite (s : State) : State :=
  if s.stw.update.isSome then opDone s stBusy 0
  else withInput s calBytes (fun bs s =>
    let journal := (List.range 1024).all (fun i => slotErased (journalSlot bs i) || slotGood (journalSlot bs i))
    if calHeaderOk bs && journal && decide (calSerial bs = dirSerial s) then
      opDone (s.flashReplace flCal 0x100000 bs) stOk calBytes
    else opDone s stInvalid 0)

/-- CFG_READ (R854). -/
def cfgRead (s : State) : State := giveOutput s s.stw.cfg

/-- CFG_WRITE (R825, R826, R854). -/
def cfgWrite (s : State) : State :=
  if s.stw.update.isSome then opDone s stBusy 0
  else withInput s 64 (fun hd s =>
    if (cfgHeaderBad hd).isSome then opDone s stInvalid 0
    else
      withInput s (leAt hd 12 4) (fun bs s =>
        if cfgCrc bs = leAt bs 8 4 then opDone (s.flashReplace 0x02010000 0x40000 bs) stOk bs.length
        else opDone s stInvalid 0))

/-- An UPDATE whose image has passed verification begins: the image region is erased, and programming takes a free time within the
180 s of R824 (log 53). -/
def updateBegin (s : State) (bs : List Byte) : State :=
  let (v, s) := (s.flashReplace 0x10000 0x2000000 []).fresh
  { s.answer stOk with stw := { s.stw with update := some { image := bs, left := 1 + v.toNat % 180000000000 } } }

/-- The image has been programmed, read back and verified again: the operation ends (R824). -/
def updateEnd (s : State) (u : FlashUpdate) : State :=
  let s := s.flashReplace 0x10000 0x2000000 u.image
  let s := s.wr Reg.stwOpResult 0 (BitVec.ofNat 64 (stOk.toNat * 2 ^ 48 + u.image.length))
  { s with stw := { s.stw with update := none } }

/-- A nanosecond of an UPDATE that runs passes; a TRIPPED device programs nothing. -/
def updateTick (s : State) : State :=
  match s.stw.update with
  | none => s
  | some u =>
    if s.powerState = pwTripped then s
    else if u.left ≤ 1 then updateEnd s u
    else { s with stw := { s.stw with update := some { u with left := u.left - 1 } } }

/-- UPDATE (R824, R825): `n` is the image's bytes, its signature included. -/
def imageUpdate (s : State) (n : Nat) : State :=
  if s.stw.update.isSome then opDone s stBusy 0
  else if n < 64 ∨ 0x2000000 < n then opDone s stInvalid 0
  else
    withInput s n (fun bs s =>
      if imageOk s bs then updateBegin s bs else opDone s stInvalid 0)

/-- Whether every enabled port has MACsec on (R844). -/
def macsecAll (s : State) : Bool :=
  (List.range 8).all (fun p => decide (s.fld F.ethPortCtrlEnable p = 0 ∨ s.fld F.ethPortStatusMacsec p = 1))

/-- Word 2 of an attestation report (R844). -/
def attestWord (s : State) : Nat :=
  s.fld F.stwIdGrade * 2 ^ 56 + s.fld F.stwImageSvn * 2 ^ 48 + s.fld F.stwImageMinSvn * 2 ^ 40 + s.epoch * 2 ^ 32 +
  s.fld F.fldScrubCfgMode * 64 + s.fld F.fldScrubCfgLock * 32 + s.fld F.feSecurityLock * 16 + s.fld F.feSecurityValidate * 8 +
  (if macsecAll s then 4 else 0) + (if s.stw.recovered then 2 else 0)

/-- The 256 bytes of an attestation report over a nonce (R844). -/
def attestReport (s : State) (nonce : List Byte) : List Byte :=
  leBytes 8 (0x50424154 * 2 ^ 32 + 0x2048 * 2 ^ 16) ++ leBytes 8 (s.rd Reg.stwSerial).toNat ++ leBytes 8 (attestWord s) ++
  leBytes 8 s.now ++ nonce ++ (tabulate 4 (fun i => leBytes 8 (s.rd Reg.stwImageHash i).toNat)).flatten ++
  sha3 s.stw.cfg ++ sha3 (s.stw.cal.take calJournal) ++ List.replicate 96 0

/-- ATTEST (R844): the report and its signature take the nonce's place. -/
def attest (s : State) : State :=
  withInput s 32 (fun nonce s =>
    let r := attestReport s nonce
    giveOutput s (r ++ tabulate 2420 (Config.signature (sha3 r))))

/-- IDENTITY_READ (R854). -/
def identityRead (s : State) : State := giveOutput s (certificate s)

/-! ### Claims (R834 to R836) -/

/-- The STW_CLAIM register of a resource. -/
def claimKey (cls idx : Nat) : Nat := if cls = 0 then idx else if cls = 1 then 16 + idx else 20 + idx

/-- Whether R834 lets an owner hold a resource with a function. -/
def claimOk (cls idx fn owner : Nat) : Bool :=
  match cls with
  | 0 => decide (idx < 16) && (match owner with
    | 1 => decide (2 ≤ fn ∧ fn ≤ 6)
    | 2 => decide (fn ≤ 1)
    | 3 => decide (fn = 7)
    | _ => false)
  | 1 => decide (idx < 4 ∧ fn = 0 ∧ (owner = 1 ∨ owner = 2))
  | 2 => decide (idx < 2 ∧ fn = 0 ∧ (owner = 1 ∨ owner = 2))
  | _ => false

/-- CLAIM of the host (R836). -/
def claim (s : State) (param : Nat) : State :=
  let cls := natBits param 31 24
  let idx := natBits param 23 16
  let fn := natBits param 15 8
  if !claimOk cls idx fn 2 then opDone s stInvalid 0
  else
    let k := claimKey cls idx
    if claimOwner s k ≠ 0 then opDone s stBusy 0
    else opDone ((s.setFld F.stwClaimOwner k 2).setFld F.stwClaimFunction k fn) stOk 0

/-- RELEASE of the host (R836). -/
def release (s : State) (param : Nat) : State :=
  let cls := natBits param 31 24
  let idx := natBits param 23 16
  let k := claimKey cls idx
  if 2 < cls ∨ (if cls = 0 then 16 else if cls = 1 then 4 else 2) ≤ idx then opDone s stInvalid 0
  else if claimOwner s k ≠ 2 then opDone s stBusy 0
  else opDone ((s.setFld F.stwClaimOwner k 0).setFld F.stwClaimFunction k 0) stOk 0

/-! ### MACsec keys (R849, R850) -/

/-- A MACsec association is installed: key data words 0 to 6 are key, salt with SSCI, and SCI. -/
def macsecPut (s : State) (param : Nat) (d : List W64) : State :=
  let p := natBits param 31 29
  let an := natBits param 25 24
  let e := s.ethPort p
  let w (i : Nat) : Nat := (d.getD i 0).toNat
  let a : Assoc :=
    { key := w 0 + w 1 * 2 ^ 64 + w 2 * 2 ^ 128 + w 3 * 2 ^ 192, salt := if e.xpn then w 4 + w 5 % 2 ^ 32 * 2 ^ 64 else 0,
      ssci := if e.xpn then w 5 / 2 ^ 32 else 0, xpn := e.xpn, installed := true }
  if natBit param 28 then
    let c := natBits param 27 26
    s.setEthPort p { e with rxScis := e.rxScis.set c (d.getD 6 0)
                            rxAssocs := tabulate 16 (fun i => if i = 4 * c + an then a else e.rxAssocs.getD i {}) }
  else s.setEthPort p { e with txAssocs := e.txAssocs.set an a, txSci := d.getD 6 0 }

/-- A port's transmit association is selected: the status, and the state after (R849). -/
def macsecPick (s : State) (param : Nat) : W16 × State :=
  let p := natBits param 31 29
  let an := natBits param 25 24
  let e := s.ethPort p
  if (e.txAssocs.getD an {}).installed then (stOk, s.setEthPort p { e with txSel := some an }) else (stInvalid, s)

/-- The host's key registers are zeroed. -/
def keysZero (s : State) : State := { s with stw := { s.stw with keyData := List.replicate 7 0 } }

/-- The host's MACSEC_INSTALL and MACSEC_SELECT (R849). -/
def macsecInstall (s : State) (param : Nat) : State := opDone (keysZero (macsecPut s param s.stw.keyData)) stOk 0
def macsecSelect (s : State) (param : Nat) : State :=
  let (st, s) := macsecPick s param
  opDone (keysZero s) st 0

/-- A key command of the tray controller: its status, and its key data zeroed (R852). -/
def trayKeyDone (s : State) (st : W16) : State :=
  { s with stw := { s.stw with tray := { s.stw.tray with keyData := List.replicate 6 0, keyStatus := st } } }

/-- A write of STW_OP (R854). -/
def stwOpWrite (s : State) (v : W64) : State :=
  let param := bitsOf v 31 0
  match bitsOf v 63 56 with
  | 1 => calRead s
  | 2 => calWrite s
  | 3 => cfgRead s
  | 4 => cfgWrite s
  | 5 => imageUpdate s param
  | 6 => attest s
  | 7 => identityRead s
  | 8 => claim s param
  | 9 => release s param
  | 10 => macsecInstall s param
  | 11 => macsecSelect s param
  | _ => opDone s stInvalid 0

def execCalRead (s : State) : Out := .next (guarded s Reg.stwOp calRead)
def execCalWrite (s : State) : Out := .next (guarded s Reg.stwOp calWrite)
def execCfgRead (s : State) : Out := .next (guarded s Reg.stwOp cfgRead)
def execCfgWrite (s : State) : Out := .next (guarded s Reg.stwOp cfgWrite)
def execUpdate (param : W32) (s : State) : Out := .next (guarded s Reg.stwOp (fun s => imageUpdate s param.toNat))
def execAttest (s : State) : Out := .next (guarded s Reg.stwOp attest)
def execIdentityRead (s : State) : Out := .next (guarded s Reg.stwOp identityRead)
def execClaim (param : W32) (s : State) : Out := .next (guarded s Reg.stwOp (fun s => claim s param.toNat))
def execRelease (param : W32) (s : State) : Out := .next (guarded s Reg.stwOp (fun s => release s param.toNat))

/-- MACSEC_INSTALL by the host, or by the tray controller with the SCI of its command (R849, R850, R852). -/
def execMacsecInstall (tray : Bool) (param : W32) (sci : W64) (s : State) : Out :=
  if tray then
    if s.power.on then .next (trayKeyDone (macsecPut s param.toNat (s.stw.tray.keyData.take 6 ++ [sci])) stOk) else .next s
  else .next (guarded s Reg.stwOp (fun s => macsecInstall s param.toNat))

/-- MACSEC_SELECT by the host or by the tray controller (R849, R850, R852). -/
def execMacsecSelect (tray : Bool) (param : W32) (s : State) : Out :=
  if tray then
    if s.power.on then
      let r := macsecPick s param.toNat
      .next (trayKeyDone r.2 r.1)
    else .next s
  else .next (guarded s Reg.stwOp (fun s => macsecSelect s param.toNat))

/-! ### Registers (R853, R854) -/

/-- A write of STW_GPIO (R837, R854): the levels of the pins that the host holds as outputs. -/
def gpioWrite (s : State) (v : W32) : State :=
  let pins := (List.range 16).filter (fun k => decide (claimOwner s k = 2 ∧ claimFn s k = 1))
  if pins.isEmpty then s.answer stBusy
  else
    let bit (t k : Nat) : Nat := if pins.contains k then bitsOf v (16 + k) (16 + k) else if natBit t k then 1 else 0
    let old := s.fld F.stwGpioOut
    (s.setFld F.stwGpioOut 0 ((List.range 16).foldl (fun t k => t + bit old k * 2 ^ k) 0)).answer stOk

/-- A write of STW_TIMER_t (R834, R854). -/
def timerWrite (s : State) (t : Nat) (v : W64) : State :=
  if claimOwner s (16 + t) ≠ 2 then s.answer stBusy
  else { (s.wr Reg.stwTimer t v).answer stOk with stw := { s.stw with alarmed := s.stw.alarmed.filter (· ≠ t) } }

/-- A write of a word of the side buffers (R853, R854). -/
def sbufWrite (s : State) (i : Nat) (v : W64) : State :=
  if claimOwner s (20 + i / 2048) ≠ 2 then s.answer stBusy else (s.wr Reg.stwSbuf i v).answer stOk

/-- A write of STW_KEY_DATA_i (R853). -/
def keyDataWrite (s : State) (i : Nat) (v : W64) : State :=
  { s.answer stOk with stw := { s.stw with keyData := s.stw.keyData.set i v } }

/-- A host timer reaches its alarm time (R834). -/
def execHostTimerAlarm (timer : Fin 4) (s : State) : Out :=
  let a := (s.rd Reg.stwTimer timer).toNat
  if s.power.on ∧ claimOwner s (16 + timer) = 2 ∧ a ≠ 0 ∧ a ≤ s.now ∧ ¬ s.stw.alarmed.contains timer.val then
    .next (hostCause { s with stw := { s.stw with alarmed := s.stw.alarmed ++ [timer.val] } } 2)
  else .next s

/-! ### The tray controller's port (R851, R852) -/

/-- TRAY_STATE (R852). -/
def trayState (s : State) : Nat :=
  s.fld F.stwBootStatusState * 256 + (if s.power.thermtrip then 128 else 0) + s.fld F.refStatusTrayAsserted * 64 + s.powerState

/-- The bytes of the target map from offset 0 (R852). -/
def trayMap (s : State) : List Byte :=
  leBytes 4 (trayState s) ++ leBytes 4 (s.rd Reg.pwrTempMax).toNat ++ leBytes 8 (s.fld F.pwrAverageMwMw) ++
  leBytes 8 (s.rd Reg.stwSerial).toNat ++ leBytes 4 0 ++ leBytes 4 s.stw.tray.ibiEn ++ leBytes 4 s.stw.tray.ibiCause ++
  List.replicate 92 0 ++ leBytes 4 s.stw.tray.keyStatus.toNat

/-- An access of the tray controller to the target map. -/
def trayAccess (s : State) : TrayAccess → State
  | .wake v => if natBit v.toNat 0 then wakeEvent s 8 else s
  | .ibiEn v =>
    let t := s.stw.tray
    let en := bitsOf v 5 0
    let s := { s with stw := { s.stw with tray := { t with ibiEn := en } } }
    (List.range 6).foldl (fun s i => if natBit en i && natBit t.ibiCause i then s.emit (.ibi i) else s) s
  | .ibiCause v =>
    let t := s.stw.tray
    let keep := (List.range 6).foldl (fun n i => if natBit t.ibiCause i && !natBit v.toNat i then n + 2 ^ i else n) 0
    { s with stw := { s.stw with tray := { t with ibiCause := keep } } }
  | .keyData i v => { s with stw := { s.stw with tray := { s.stw.tray with keyData := s.stw.tray.keyData.set i v } } }
  | .read off n => s.emit (.tray (((trayMap s ++ List.replicate 512 0).drop off).take n))

/-- The tray controller accesses the target map; a write of TRAY_WAKE is a wake event (R699, R851, R852). -/
def execTrayWake (acc : TrayAccess) (s : State) : Out := if s.power.on then .next (trayAccess s acc) else .next s

/-- The target takes a dynamic address (R851). -/
def execEntdaa (addr : BitVec 7) (s : State) : Out :=
  if s.power.on then .next { s with stw := { s.stw with tray := { s.stw.tray with dynAddr := some addr.toNat } } } else .next s

end Sys2Proof.Machine
end

