-- ==== Sys2Proof/Machine/Upset.lean ====
section
/-! DEFINITION. Errors that arise in memory (spec/09 R430 to R434, R439; log 108). -/

namespace Sys2Proof.Machine

open Sys2Proof

/-- What an error code makes of an error. -/
inductive ErrorClass where
  | clean | corrected | detected | beyond
deriving DecidableEq, Repr

/-- What inline ECC makes of `n` wrong bytes in the 136-byte codeword of a line (R430). -/
def lpClass (n : Nat) : ErrorClass :=
  if n = 0 then .clean else if n ≤ 3 then .corrected else if n ≤ 5 then .detected else .beyond

/-- The 32-byte transfer of a stacked-DRAM line that an offset belongs to, its 4 check bytes behind the line's data. -/
def transferOf (off : Nat) : Nat := if off < 128 then off / 32 else (off - 128) / 4

/-- What the stacked DRAM's check bits make of the wrong bytes of a line's transfers (R434). -/
def sdClass (offs : List Nat) : ErrorClass :=
  let n (t : Nat) : Nat := (offs.filter (fun o => transferOf o = t)).length
  let worst := (List.range 4).foldl (fun m t => max m (n t)) 0
  if worst = 0 then .clean else if worst = 1 then .corrected else if worst = 2 then .detected else .beyond

/-- What the system cache's check bits make of the wrong bits of a line (R439). -/
def scClass (bits : List Nat) : ErrorClass :=
  let worst := (List.range 8).foldl (fun m t => max m (bits.filter (fun b => b / 128 = t)).length) 0
  if worst = 0 then .clean else if worst = 1 then .corrected else if worst = 2 then .detected else .beyond

/-- The data of a line change under everyone's eyes: no code has noticed. -/
def alterData (s : State) (line : Nat) (bytes : List (Nat × Byte)) : State :=
  { s with mem := (bytes.filter (fun b => decide (b.1 < 128))).foldl (fun m b => SMap.set 0 m (line * 128 + b.1) b.2) s.mem }

/-- A line holds an uncorrectable error from now on (R437). -/
def markBad (s : State) (line : Nat) : State :=
  { s with ue := if s.ue.contains line then s.ue else s.ue ++ [line], ce := s.ce.filter (· ≠ line) }

/-- Bytes of a codeword in the array change: what its code makes of all its wrong bytes (R430, R434). With inline ECC off nothing
notices (R432), nor under a line that the system cache will write back whole. Beyond the code's reach it may notice or not. -/
def upsetCells (s : State) (line : Nat) (bytes : List (Nat × Byte)) : State :=
  let sd := isSd (line * 128)
  if SMap.get false s.dirty line then s
  else if !sd && !s.eccOn then alterData s line bytes
  else
    let size := if sd then 144 else 136
    let offs := (SMap.get [] s.altered line ++ (bytes.map (·.1)).filter (fun o => decide (o < size))).eraseDups
    let t : State := { s with altered := SMap.set [] s.altered line offs }
    match (if sd then sdClass offs else lpClass offs.length) with
    | .clean => s
    | .corrected => if s.flawed line then t else { t with ce := t.ce ++ [line] }
    | .detected => markBad t line
    | .beyond =>
      let (v, t) := t.fresh
      if v.toNat % 2 = 0 then markBad t line else alterData (t.mend (fun l => decide (l = line))) line bytes

/-- A transfer fails on the bus, and its repeat too: the line is treated as uncorrectable (R433). -/
def upsetBus (s : State) (line : Nat) (again : Bool) : State := if again && !isSd (line * 128) then markBad s line else s

/-- The way of a line's slice is to be inspected, unless it is retired (R776, R779). -/
def wayInspect (s : State) (line : Nat) : State :=
  let slice := sliceOf (line * 128)
  let way := Config.scWay line % 16
  if natBit (s.fld F.memScRetireWays slice) way then s else inspectQueue s { kind := 2, unit := slice, way := way }

/-- An error in the system cache is corrected; 8 in one way of a slice within 24 hours have it inspected (R776). -/
def wayCorrected (s : State) (line : Nat) : State :=
  let key := 16 * sliceOf (line * 128) + Config.scWay line % 16
  let log := s.scLog.filter (fun e => decide (s.now < e.2 + 86400000000000)) ++ [(key, s.now)]
  let s := { s with scLog := log }
  if 8 ≤ (log.filter (fun e => e.1 = key)).length then wayInspect s line else s

/-- Bits of a line in the system cache change: a dirty line that cannot be corrected is lost, a clean one is fetched again (R439).
Beyond the code's reach it may notice or not. -/
def upsetCache (s : State) (line : Nat) (bits : List Nat) : State :=
  let lose (s : State) : State :=
    let s := wayInspect s line
    if SMap.get false s.dirty line then
      { markBad s line with lost := if s.lost.contains line then s.lost else s.lost ++ [line] }
    else s
  match scClass bits.eraseDups with
  | .clean => s
  | .corrected => wayCorrected s line
  | .detected => lose s
  | .beyond =>
    let (v, t) := s.fresh
    if v.toNat % 2 = 0 then lose t
    else alterData t line (tabulate 128 (fun o =>
      (o, (List.range 8).foldl (fun b i => if bits.contains (8 * o + i) then b ^^^ (1#8 <<< i) else b) (s.byte (line * 128 + o)))))

/-- Something goes wrong at a line that exists, or the system cache writes one back. -/
def upset (s : State) (u : Upset) : State :=
  match u with
  | .cells line bytes => if s.exists? (line * 128) then upsetCells s line bytes else s
  | .bus line again => if s.exists? (line * 128) then upsetBus s line again else s
  | .cache line bits => if s.exists? (line * 128) then upsetCache s line bits else s
  | .evict line => { s with dirty := SMap.set false s.dirty line false }

/-- What happens to memory while the device waits for a command: a free choice each time (log 108). -/
def upsetTick (s : State) : State :=
  match Config.upset s.free with
  | none => { s with free := s.free + 1 }
  | some u => upset { s with free := s.free + 1 } u

end Sys2Proof.Machine
end

