-- ==== Sys2Proof/Machine/Mgmt.lean ====
section
/-! DEFINITION. Management requests: the write of any register, the read of any register, the SENDs that carry them, and the time
step (spec/11 R577 to R579, spec/00 R12 to R16, R41 to R43). -/

namespace Sys2Proof.Machine

open Sys2Proof

/-! ### Writes -/

/-- A plain write that takes effect at once. -/
def plainWrite (s : State) (fam i : Nat) (v : W64) (locked : Bool := false) : State := (s.wrPlain fam i v locked).answer stOk

/-- A write that waits for a layout or a new map (R52, R425). -/
def stageWrite (s : State) (fam i : Nat) (v : W64) : State := (s.stage fam i (v &&& (regDesc fam).rw)).answer stOk

/-- A write of FE_OP (R484). -/
def feOpWrite (s : State) (v : W64) : State :=
  let arg := BitVec.ofNat 32 (bitsOf v 31 0)
  match bitsOf v 63 60 with
  | 1 => feCreate s arg
  | 2 => feDestroy s arg
  | 3 => feSet s arg
  | 4 => feResume s arg
  | 5 => feQuery s arg
  | 6 => queueCreate s arg
  | 7 => feQueueDestroy s arg
  | 8 => feQueueQuery s arg
  | _ => feResult s stInvalid 0 0

/-- A write of ETH_OP (R601). -/
def ethOpWrite (s : State) (v : W64) : State :=
  let arg := bitsOf v 31 0
  match bitsOf v 63 60 with
  | 1 => opQpStart s arg
  | 2 => opQpStop s arg
  | 3 => opQpQuery s arg
  | 4 => opKeyLoad s arg
  | 5 => opKeyRevoke s arg
  | 6 => opStreamStart s arg
  | 7 => opStreamStop s arg
  | _ => ethResult s stInvalid 0

/-- A write of ETH_PORT_CTRL_n (R551, R552): RATE and ROLE change only while the port is OFF, and ENABLE is a request. -/
def ethPortCtrlWrite (s : State) (p : Nat) (v : W64) : State :=
  let old := s.rd Reg.ethPortCtrl p
  if bitsOf v 5 4 = 3 then s.answer stInvalid
  else if bitsOf v 6 4 ≠ bitsOf old 6 4 ∧ s.fld F.ethPortStatusState p ≠ lcOff then s.answer stBusy
  else
    let s := s.wr Reg.ethPortCtrl p (putBits old 7 4 (bitsOf v 7 4))
    if bitsOf v 0 0 = 1 then portEnable s p else portDisable s p

/-- A write of a steward or power register (spec/14, spec/16, spec/17). -/
def stewardWrite (s : State) (fam i : Nat) (v : W64) : State :=
  let w : W32 := v.setWidth 32
  if fam = Reg.stwOp then stwOpWrite s v
  else if fam = Reg.stwKeyData then keyDataWrite s i v
  else if fam = Reg.stwGpio then gpioWrite s w
  else if fam = Reg.stwTimer then timerWrite s i v
  else if fam = Reg.stwInspectReq then inspectReq s w
  else if fam = Reg.stwCaptureStatus then captureStatusWrite s w
  else if fam = Reg.stwSbuf then sbufWrite s i v
  else if fam = Reg.pwrStateReq then targetGuarded s (bitsOf v 2 0)
  else if fam = Reg.pwrIdleCfg ∨ fam = Reg.pwrWindowMs ∨ fam = Reg.pwrVoltCfg then pwrOtherWrite s fam v
  else if fam = Reg.pwrCapMw then capWrite s w
  else if fam = Reg.pwrFixedMode then fixedWrite s w
  else if fam = Reg.pwrIssueLimit then issueWrite s w
  else if fam = Reg.pwrBoostCfg then boostWrite s w
  else if fam = Reg.pwrDomainPermit then permitWrite s w
  else if fam = Reg.pwrDomainReq then domainReq s (natBit v.toNat 31) (bitsOf v 4 0)
  else if fam = Reg.padRelease then padRelease s w
  else if fam = Reg.pwrKickCfg then rampWrite s w
  else if fam = Reg.pwrWatchCfg then watchCfgWrite s w
  else if fam = Reg.pwrWatchSave then watchSaveWrite s v
  else plainWrite s fam i v

/-- A write of a register of the front end, the field, the shader quarters or the raster front ends (spec/03, spec/06, spec/07,
spec/10). -/
def engineWrite (s : State) (fam i : Nat) (v : W64) : State :=
  let w : W32 := v.setWidth 32
  if fam = Reg.feSchedCfg then feRegWrite s .schedCfg v
  else if fam = Reg.feSecurity then plainWrite s fam 0 v (decide (s.fld F.feSecurityLock = 1))
  else if fam = Reg.feCtxTableBase then feRegWrite s .ctxTable v
  else if fam = Reg.feQueueTableBase then feRegWrite s .queueTable v
  else if fam = Reg.feDoorbellBase then feRegWrite s .doorbell v
  else if fam = Reg.feScoreBase then feRegWrite s .score v
  else if fam = Reg.feOp then feOpWrite s v
  else if fam = Reg.fePartCfg then feRegWrite s (.partCfg (Fin.ofNat 16 i)) v
  else if fam = Reg.fePartUnits ∨ fam = Reg.fldPartCfg ∨ fam = Reg.fldPartValid then stageWrite s fam i v
  else if fam = Reg.fePartCommit then partCommit s (natBit v.toNat 0)
  else if fam = Reg.fldScrubCfg then scrubCfgWrite s w
  else if fam = Reg.fldFmtDefault then fmtDefaultWrite s w
  else if fam = Reg.fldSpareMap then spareMapWrite s i v
  else if fam = Reg.shaSpareMap then shaSpareMapWrite s i w
  else plainWrite s fam i v

/-- A write of a register of the composer or of DisplayPort (spec/08). -/
def displayWrite (s : State) (fam i : Nat) (v : W64) : State :=
  let w : W32 := v.setWidth 32
  if fam = Reg.lyrPipeCtrl then pipeCtrlWrite s i (natBit v.toNat 0) (natBit v.toNat 3) (bitsOf v 2 1)
  else if fam = Reg.lyrTimingH then timingWrite s i .h v
  else if fam = Reg.lyrTimingV then timingWrite s i .v v
  else if fam = Reg.lyrPclk then timingWrite s i .pclk v
  else if fam = Reg.lyrSigCtrl then plainWrite s fam i v (sigLocked s i)
  else if fam = Reg.lyrSigRect then sigRegionWrite s (i / 16) (i % 16) .rect v
  else if fam = Reg.lyrSigCfg then sigRegionWrite s (i / 16) (i % 16) .cfg v
  else if fam = Reg.lyrSigExpect then sigRegionWrite s (i / 16) (i % 16) .expect v
  else if fam = Reg.lyrWbCtrl then wbCtrlWrite s i w
  else if fam = Reg.dpxLinkCtrl then linkCtrlWrite s i w
  else if fam = Reg.dpxStream then streamWrite s i v
  else plainWrite s fam i v

/-- A write of a register of the memory, the ports, the links, the compression engine, the referee or the event recorder (spec/09,
spec/11 to spec/13, spec/15, spec/16). -/
def fabricWrite (s : State) (fam i : Nat) (v : W64) : State :=
  let w : W32 := v.setWidth 32
  if fam = Reg.memSdCommit then sdCommit s (natBit v.toNat 0)
  else if fam = Reg.memSdRange then stageWrite s fam i v
  else if fam = Reg.memScRetire then scRetire s i w
  else if fam = Reg.memQosCfg then qosWrite s w
  else if fam = Reg.ethQpTableBase then ethTableWrite s .qp v
  else if fam = Reg.ethKeyTableBase then ethTableWrite s .key v
  else if fam = Reg.ethStreamTableBase then ethTableWrite s .stream v
  else if fam = Reg.ethOp then ethOpWrite s v
  else if fam = Reg.ethPortCtrl then ethPortCtrlWrite s i v
  else if fam = Reg.ethPortMac then ethPortMacWrite s i .mac v
  else if fam = Reg.ethPortIpLo then ethPortMacWrite s i .ipLo v
  else if fam = Reg.ethPortIpHi then ethPortMacWrite s i .ipHi v
  else if fam = Reg.timCfg then timCfgWrite s w
  else if fam = Reg.iqlCfg then iqlCfgWrite s w
  else if fam = Reg.iqlRoute then iqlRouteWrite s i w
  else if fam = Reg.iqlPortCtrl then iqlPortCtrlWrite s i w
  else if fam = Reg.cdeChanCtrl then (if natBit v.toNat 0 then channelEnable s i else channelDisable s i)
  else if fam = Reg.refBudgetMargin then marginWrite s w
  else if fam = Reg.refFaultRing then faultRingWrite s v
  else if fam = Reg.evrCfg then evrCfgWrite s w
  else if fam = Reg.evrFreeze then evrFreezeWrite s w
  else plainWrite s fam i v

/-- A write of register `i` of a family by the rules of its chapter. -/
def writeReg (s : State) (fam i : Nat) (v : W64) : State :=
  if fam < Reg.feId then stewardWrite s fam i v
  else if fam < Reg.lyrId then engineWrite s fam i v
  else if fam < Reg.memId then displayWrite s fam i v
  else fabricWrite s fam i v

/-! ### Requests (R577, R578) -/

/-- What a request comes to: its status, the value read, and what it waits for. -/
structure Reply where
  status : W16
  value : W64 := 0
  wait : Option MgmtWait := none

/-- A read or write at a local address, of 4 or 8 bytes (R12 to R14, R41 to R43, R747). -/
def registerAccess (s : State) (write : Bool) (a n : Nat) (v : W64) : Reply × State :=
  match findReg a n with
  | none =>
    if a % n ≠ 0 then ({ status := stAccessFault }, s)
    else if alwaysOnBlock ((a - 0x7F00000000) / 0x1000000) || s.fabricOn then ({ status := stOk }, s)
    else ({ status := stBusy }, s)
  | some (_, _, false) => ({ status := stAccessFault }, s)
  | some (fam, i, true) =>
    if !famResponds s fam || regFenced s fam i then ({ status := stBusy }, s)
    else if write then
      let v := if n = 4 then BitVec.ofNat 64 (bitsOf v 31 0) else v
      let t := writeReg (s.answer stOk) fam i v
      let wait : Option MgmtWait :=
        if fam = Reg.pwrStateReq ∧ s.power.huddle.isNone ∧ t.power.huddle.isSome then some .huddle
        else if fam = Reg.ethOp ∧ bitsOf v 63 60 = 5 ∧ (t.key (bitsOf v 31 0)).revoking then some (.revoke (bitsOf v 31 0))
        else if s.stw.update.isNone ∧ t.stw.update.isSome then some .update
        else none
      ({ status := t.mgmt, wait := wait }, t)
    else
      let (x, s) := readVal s fam i
      ({ status := stOk, value := x }, s)

/-- A management request of 32 bytes. -/
def request (s : State) (bs : List Byte) : Reply × State :=
  let w0 := leAt bs 0 8
  let w1 := leAt bs 8 8
  let a := natBits w1 39 0
  if natBits w0 31 2 ≠ 0 ∨ natBits w1 63 40 ≠ 0 ∨ leAt bs 24 8 ≠ 0 then ({ status := stInvalid }, s)
  else if a < 0x7F00000000 ∨ 0x7F0FFFFFFF < a then ({ status := stAccessFault }, s)
  else registerAccess s (natBit w0 0) a (if natBit w0 1 then 8 else 4) (BitVec.ofNat 64 (leAt bs 16 8))

/-- The response of 32 bytes (R578). -/
def response (tag : Nat) (st : W16) (v : W64) : List Byte :=
  leBytes 8 (tag * 2 ^ 32 + st.toNat) ++ leBytes 8 0 ++ leBytes 8 v.toNat ++ leBytes 8 0

/-- The request that a job stands at is answered. -/
def MgmtJob.answered (j : MgmtJob) (st : W16) (v : W64) : MgmtJob :=
  { j with todo := j.todo.drop 32, done := j.done ++ response (leAt j.todo 4 4) st v, wait := none }

/-- A SEND of requests goes on until one of them waits, or its responses leave in one SEND (R577): what is left of it. `fuel` bounds
the requests. -/
def jobGo : Nat → State → MgmtJob → Option MgmtJob × State
  | 0, s, j => (some j, s)
  | fuel + 1, s, j =>
    match j.wait with
    | some (.answered st) => jobGo fuel s (j.answered st 0)
    | some .huddle => (some j, s)
    | some .update => if s.stw.update.isSome then (some j, s) else jobGo fuel s (j.answered stOk 0)
    | some (.revoke k) => if (s.key k).revoking then (some j, s) else jobGo fuel s (j.answered stOk 0)
    | none =>
      if j.todo.isEmpty then (none, qpSend s j.qp j.done .none)
      else if mgmtHeld s then (some j, s)
      else
        let (r, s) := request s (j.todo.take 32)
        match r.wait with
        | some x => jobGo fuel s { j with wait := some x }
        | none => jobGo fuel s (j.answered r.status r.value)

/-- Job `k` goes on, unless an earlier one of its queue pair is not done; without its queue pair it is gone. -/
def jobAt (s : State) (k : Nat) : State :=
  match s.jobs[k]? with
  | none => s
  | some j =>
    if (s.jobs.take k).any (fun x => x.qp = j.qp) then s
    else if (s.qp j.qp).state ≠ .rts then { s with jobs := s.jobs.set k { j with qp := 1024 } }
    else
      let (r, s) := jobGo 40 s j
      { s with jobs := s.jobs.set k (r.getD { j with qp := 1024 }) }

/-- Every SEND of requests in progress goes on (R577). -/
def jobsGo (s : State) : State :=
  let s := (List.range s.jobs.length).foldl jobAt s
  { s with jobs := s.jobs.filter (fun j => decide (j.qp < 1024)) }

/-- A SEND on a queue pair (R577 to R579), by the pair's role. -/
def sendIn (s : State) (i psn : Nat) (data : List Byte) : State :=
  let took (s : State) : State := ackRequest s i psn (packets s i data.length)
  if (s.qp i).role = 1 then
    let n := data.length
    if n % 32 ≠ 0 ∨ n = 0 ∨ 512 < n then qpSend (took s) i (response 0 stInvalid 0) .none
    else
      let s := took s
      jobsGo { s with jobs := s.jobs ++ [{ qp := i, todo := data }] }
  else if (s.qp i).role = 2 then doorbellFromQp (took s) i data
  else nak s i psn nakInvalid

/-- A SEND arrives (R579, R699). -/
def execSend (qp : Fin 1024) (psn : BitVec 24) (ecn : Bool) (data : List Byte) (s : State) : Out :=
  .next (hostRequest s qp psn.toNat ecn (fun s => sendIn s qp psn.toNat data))

/-! ### Ports -/

/-- A TC10 wake-up arrives on a port (R555, R699): a sleeping link wakes, and it is a wake event. -/
def execTc10Wake (port : Fin 8) (s : State) : Out :=
  if s.power.on then
    let s := if s.fld F.ethPortStatusAsleep port = 1 then linkWoke s port else s
    .next (wakeEvent s (2 ^ (24 + port.val)))
  else .next s

/-- A frame of a talker is over, sent or dropped; a talker asked to stop ends with it (R583, R591). -/
def talkNext (s : State) (i : Nat) : State :=
  let x := s.stream i
  if x.stopping then s.setStream i {} else s.setStream i { x with frames := x.frames.drop 1, done := 0 }

/-- A packet of `n` bytes of the frame that a talker sends (R590, R591): from where the last one ended, line after line. A slot that
can no longer be read ends the stream (log 52). -/
def talkPacket (s : State) (i n : Nat) (f : TalkFrame) : State :=
  let x := s.stream i
  let pt := f.time + x.ptOffset
  if pt < s.now then talkNext (s.bump F.ethStreamCountLate i) i
  else if s.now < x.nextAt ∨ n = 0 then s
  else
    let total := f.width * f.lines
    let k := min n (min (total - x.done) (f.width - x.done % max 1 f.width))
    match ctxReadObj s (some .net) f.owner .load (f.base + x.done / max 1 f.width * f.pitch + x.done % max 1 f.width) k with
    | (.error _, s) => s.setStream i {}
    | (.ok bs, s) =>
      let seq := match x.lastSeq with
        | none => 0
        | some l => (l + 1) % 256
      let fr : Frame := { cls := 1, pcp := x.pcp, vid := x.vid, body := .avtp i seq (BitVec.ofNat 64 pt) bs }
      let s := offerFrame s x.port fr
      let s := s.setStream i { x with done := x.done + k, lastSeq := some seq, nextAt := s.now + fr.bits * 1000 / max 1 x.rateMbps }
      if total ≤ x.done + k then talkNext s i else s

/-- A talker sends the next packet of a frame of its pipe (R590, R591). -/
def execTalkerFrame (stream : Fin 64) (bytes : BitVec 14) (s : State) : Out :=
  let x := s.stream stream
  if x.running ∧ x.talker ∧ feRuns s then
    match x.frames with
    | [] => .next s
    | f :: _ => .next (withFar s (talkUnit stream) (fun s => talkPacket s stream (min bytes.toNat 9000) f))
  else .next s

/-! ### The time step -/

/-- With no command waiting, a nanosecond passes; memory may go wrong (log 108), an UPDATE, destructions and management requests that waited go on (log 2). In OFF nothing
runs. -/
def idle (s : State) : State := if s.power.on then idleNote (jobsGo (resumeDestroys (updateTick (upsetTick (queueTick (tick s)))))) else s

end Sys2Proof.Machine
end

