-- ==== Sys2Proof/Machine/Record.lean ====
section
/-! DEFINITION. The configuration record: its sections, the checks of boot, and the register values that it gives
(spec/17 R826 to R835). -/

namespace Sys2Proof.Machine

open Sys2Proof

/-! ### Sections (R828) -/

/-- A section: its offset, TYPE, COUNT and LENGTH. -/
structure Section where
  off : Nat
  typ : Nat
  count : Nat
  len : Nat
deriving DecidableEq, Repr

/-- The bytes of an entry of each TYPE; 0 for an unknown TYPE. -/
def entryBytes (typ : Nat) : Nat := [0, 16, 72, 8, 8, 8, 8].getD typ 0

/-- `n` sections end to end from `off`, up to one whose LENGTH leads nowhere. -/
def sectionsFrom (bs : List Byte) : Nat → Nat → List Section
  | 0, _ => []
  | n + 1, off =>
    let x : Section := { off := off, typ := leAt bs (off + 7) 1, count := leAt bs (off + 5) 2, len := leAt bs off 4 }
    if x.len < 8 then [x] else x :: sectionsFrom bs n (off + x.len)

/-- The sections of a record. -/
def cfgSections (bs : List Byte) : List Section := sectionsFrom bs (leAt bs 0 1) 64

/-- The entries of a TYPE, each with its number. -/
def entriesOf (bs : List Byte) (typ : Nat) : List (Nat × List Byte) :=
  match (cfgSections bs).find? (fun x => x.typ = typ) with
  | none => []
  | some x => (List.range x.count).map (fun i => (i, (bs.drop (x.off + 8 + i * entryBytes typ)).take (entryBytes typ)))

/-- The 8-byte entries of a TYPE as numbers. -/
def entryWords (bs : List Byte) (typ : Nat) : List (Nat × Nat) := (entriesOf bs typ).map (fun e => (e.1, leNat e.2))

/-! ### Registers (R829, R830) -/

/-- The fields of a register family that the configuration record loads; 0 for a family that has none. -/
def cfgMask (fam : Nat) : W64 :=
  if fam = Reg.iqlCfg then 0x3F
  else if fam ∈ [Reg.stwInspectCfg, Reg.pwrCapMw, Reg.pwrWindowMs, Reg.pwrFixedMode, Reg.pwrBoostCfg, Reg.pwrDomainPermit,
      Reg.pwrWatchCfg, Reg.pwrWatchAudio, Reg.pwrWatchSensor, Reg.pwrWatchSave, Reg.feSecurity, Reg.feCtxTableBase,
      Reg.feQueueTableBase, Reg.feDoorbellBase, Reg.feScoreBase, Reg.fldScrubCfg] ∨
    fam ∈ [Reg.memCfg, Reg.memSdRange, Reg.ethQpTableBase, Reg.ethKeyTableBase, Reg.ethStreamTableBase, Reg.ethPortCtrl,
      Reg.ethPortMac, Reg.ethPortIpLo, Reg.ethPortIpHi, Reg.ethEgress, Reg.timCfg, Reg.iqlRoute, Reg.iqlPortCtrl,
      Reg.refFaultRing] then (regDesc fam).loaded
  else 0

/-- The local address of register `i` of a family. -/
def regAddr (fam i : Nat) : Nat :=
  let d := regDesc fam
  d.addr + i / d.n2 * d.st1 + i % d.n2 * d.st2

/-- The REGISTERS entries: key, value, whether the entry names a whole register, and its address. -/
structure RegEntry where
  key : Option Nat
  val : W64
  addr : Nat

/-- The REGISTERS entries in ascending address order. -/
def regEntries (bs : List Byte) : List RegEntry :=
  let es := (entriesOf bs 1).map (fun e =>
    let w := leAt e.2 0 8
    let n := if natBit w 40 then 8 else 4
    let a := natBits w 39 0
    let key := match findReg a n with
      | some (fam, i, true) => some (Reg.key fam i)
      | _ => none
    ({ key := key, val := BitVec.ofNat 64 (leAt e.2 8 8), addr := a } : RegEntry))
  es.mergeSort (fun a b => decide (a.addr ≤ b.addr))

/-- The value of a field that the record leaves out (R830). -/
def cfgDefault (fam i : Nat) : W64 :=
  if fam = Reg.memCfg then 1
  else if fam = Reg.memSdRange then (if i = 0 then BitVec.ofNat 64 (2 ^ 63 + 0xFFFF * 2 ^ 47 + 256 * 2 ^ 24) else 0)
  else if fam = Reg.fldScrubCfg then 0x80000000
  else if fam = Reg.feSecurity then 0x80000001
  else if fam = Reg.ethEgress then BitVec.ofNat 64 (7 * 65536 + 10000)
  else if fam = Reg.timCfg then BitVec.ofNat 64 (60 * 2 ^ 20 + 3 * 65536)
  else if fam = Reg.iqlPortCtrl then 4
  else if fam = Reg.pwrCapMw then 150000
  else if fam = Reg.pwrWindowMs then 5000
  else if fam = Reg.pwrBoostCfg then 1
  else if fam = Reg.pwrDomainPermit then 0x3FFFFFF
  else if fam = Reg.pwrWatchCfg then BitVec.ofNat 64 (1000 * 2 ^ 18 + 20 * 2 ^ 11 + 2 * 128 + 8)
  else if fam = Reg.pwrWatchAudio then 107374
  else if fam = Reg.stwInspectCfg then BitVec.ofNat 64 (24 * 2 ^ 24)
  else 0

/-- The value that the record gives a register, or its default. -/
def cfgValue (es : List RegEntry) (fam i : Nat) : W64 :=
  match es.find? (fun e => e.key = some (Reg.key fam i)) with
  | some e => e.val
  | none => cfgDefault fam i

/-- Whether the record names a register. -/
def cfgNames (es : List RegEntry) (fam i : Nat) : Bool := es.any (fun e => e.key = some (Reg.key fam i))

/-- Every register that the configuration record loads, by family and number. -/
def cfgRegs : List (Nat × Nat) :=
  ((List.range regTable.length).filter (fun fam => decide (cfgMask fam ≠ 0))).flatMap (fun fam =>
    (List.range ((regDesc fam).n1 * (regDesc fam).n2)).map (fun i => (fam, i)))

/-- Whether a value obeys the rules of a write to its register (R829). `s` has the record's values in force. -/
def cfgRule (s : State) (fam : Nat) (v : W64) : Bool :=
  let w : W32 := v.setWidth 32
  if fam = Reg.pwrCapMw then
    decide (40000 ≤ bitsOf v 17 0 ∧ bitsOf v 17 0 ≤ 240000 ∧ floorMw s (s.fld F.pwrDomainPermitPermit) ≤ bitsOf v 17 0)
  else if fam = Reg.pwrWindowMs then decide (1000 ≤ bitsOf v 14 0 ∧ bitsOf v 14 0 ≤ 30000)
  else if fam = Reg.pwrWatchCfg then decide ((watchCfgWrite s w).mgmt = stOk)
  else if fam = Reg.pwrWatchSave then decide ((watchSaveWrite s v).mgmt = stOk)
  else if fam = Reg.feDoorbellBase then decide (4 ≤ bitsOf v 3 0 ∧ bitsOf v 3 0 ≤ 12)
  else if fam = Reg.fldScrubCfg then decide (bitsOf v 1 0 ≠ 3)
  else if fam = Reg.ethPortCtrl then decide (bitsOf v 5 4 ≠ 3)
  else if fam = Reg.ethEgress then decide (bitsOf v 13 0 ≤ 10000)
  else if fam = Reg.timCfg then decide (bitsOf v 31 20 ≠ 0) && !natBit (bitsOf v 15 8) (bitsOf v 2 0)
  else if fam = Reg.iqlRoute then decide (¬ (bitsOf v 7 7 = 1 ∧ bitsOf v 4 4 = 1 ∧ bitsOf v 6 5 = bitsOf v 3 2))
  else if fam = Reg.refFaultRing then decide (6 ≤ bitsOf v 3 0 ∧ bitsOf v 3 0 ≤ 12)
  else true

/-- Whether an entry obeys R829. -/
def entryOk (s : State) (es : List RegEntry) (e : RegEntry) : Bool :=
  match e.key with
  | none => false
  | some k =>
    let fam := k / 65536
    decide (cfgMask fam ≠ 0 ∧ e.val &&& ~~~(cfgMask fam) = 0 ∧ (es.filter (fun x => x.key = e.key)).length = 1) &&
      cfgRule s fam e.val

/-- Whether R830 requires a register of the record. -/
def cfgRequired (es : List RegEntry) (fam i : Nat) : Bool :=
  decide (fam ∈ [Reg.feCtxTableBase, Reg.feQueueTableBase, Reg.feDoorbellBase, Reg.feScoreBase, Reg.ethQpTableBase,
    Reg.ethKeyTableBase, Reg.ethStreamTableBase, Reg.refFaultRing]) ||
  (decide (fam ∈ [Reg.ethPortMac, Reg.ethPortIpLo, Reg.ethPortIpHi]) && natBit (cfgValue es Reg.ethPortCtrl i).toNat 0)

/-- The registers with the values of the record. PWR_FIXED_MODE takes its fraction with EN (R721). -/
def applyRegs (s : State) (es : List RegEntry) : State :=
  let s := cfgRegs.foldl (fun s r => s.wr r.1 r.2 ((s.rd r.1 r.2 &&& ~~~(cfgMask r.1)) ||| (cfgValue es r.1 r.2 &&& cfgMask r.1))) s
  s.wr Reg.pwrFixedMode 0 (fixedValue s (natBit (cfgValue es Reg.pwrFixedMode 0).toNat 0))

/-! ### Queue pairs, claims and regulators (R831, R832, R834, R835) -/

/-- The words 1 to 8 of a QUEUE_PAIRS entry. -/
def qpEntryWords (e : List Byte) : List W64 := tabulate 8 (fun i => BitVec.ofNat 64 (leAt e (8 + 8 * i) 8))

/-- Whether a QUEUE_PAIRS entry obeys R831. -/
def qpEntryOk (es : List RegEntry) (e : List Byte) : Bool :=
  let q := qpOfWords (qpEntryWords e)
  qpShapeOk (qpEntryWords e) && decide (1 ≤ q.role ∧ q.role ≤ 3 ∧ q.owner = 0) && natBit (cfgValue es Reg.ethPortCtrl q.port).toNat 0

/-- The queue pairs of a record. DOORBELL pairs are the kernel driver's (R508, R831). -/
def cfgQpsOf (bs : List Byte) : List (Nat × Qp) :=
  (entriesOf bs 2).map (fun e =>
    let q := qpOfWords (qpEntryWords e.2)
    (natBits (leAt e.2 0 8) 9 0, { q with fromCfg := true, kernel := decide (q.role = 2) }))

/-- The DETAIL of a claim in R833. -/
def claimDetail (c : Nat) : Nat := natBits c 31 24 * 65536 + natBits c 23 16 * 256

/-- Whether two claims are for one resource and differ (R835). -/
def claimsClash (a b : Nat) : Bool := decide (natBits a 31 16 = natBits b 31 16 ∧ natBits a 31 0 ≠ natBits b 31 0)

/-- The claims of a record. -/
def cfgClaims (bs : List Byte) : List ClaimRec :=
  (entryWords bs 3).map (fun c => { k := claimKey (natBits c.2 31 24) (natBits c.2 23 16), fn := natBits c.2 15 8, owner := natBits c.2 7 0 })

/-- Whether a REGULATORS entry names a regulator at all. -/
def regulatorOk (r : Nat) : Bool := decide (natBits r 31 24 ≤ 1 ∧ natBits r 7 0 ≤ 4)

/-! ### The checks, in the order of their ERROR numbers (R833) -/

/-- The ERROR and DETAIL with which a record halts the boot, or none. `s` has the record's registers in force; `silent` are the
regulators, by entry number, that do not answer. -/
def cfgError (s : State) (bs : List Byte) (silent : List Nat) : Option (Nat × Nat) :=
  let len := leAt bs 12 4
  let xs := cfgSections bs
  let es := regEntries bs
  let first (l : List Nat) (code : Nat) : Option (Nat × Nat) := l.head?.map (fun d => (code, d))
  let overrun := (xs.filter (fun x => decide (len < x.off + 8 ∨ len < x.off + x.len))).map (·.off)
  let crc := cfgCrc bs
  let badSec := xs.filter (fun x => decide (entryBytes x.typ = 0 ∨ x.len ≠ 8 + x.count * entryBytes x.typ) ||
    xs.any (fun y => decide (y.typ = x.typ ∧ y.off < x.off)))
  let badRegs := (es.filter (fun e => !entryOk s es e)).map (·.addr)
  let absent := (cfgRegs.filter (fun r => cfgRequired es r.1 r.2 && !cfgNames es r.1 r.2)).map (fun r => regAddr r.1 r.2)
  let badQps := ((entriesOf bs 2).filter (fun e => !qpEntryOk es e.2)).map (fun e => natBits (leAt e.2 0 8) 9 0)
  let noMgmt : List Nat := if (cfgQpsOf bs).any (fun q => decide (q.2.role = 1)) then [] else [1024]
  let cs := (entryWords bs 3).map (·.2)
  let clashes := (cs.filter (fun c => cs.any (claimsClash c))).map claimDetail
  let badClaims := (cs.filter (fun c =>
    !claimOk (natBits c 31 24) (natBits c 23 16) (natBits c 15 8) (natBits c 7 0))).map claimDetail
  let rs := entryWords bs 4
  let badReg := (rs.filter (fun r => !regulatorOk r.2 || silent.contains r.1)).map (·.1)
  let noAvs : List Nat := if rs.any (fun r => decide (natBits r.2 31 24 = 1 ∧ natBits r.2 7 0 = 0)) then [] else [rs.length]
  let ports := ((entryWords bs 5).filter (fun e => decide (4 ≤ natBits e.2 63 56))).map (·.1) ++
    ((entryWords bs 6).filter (fun e => decide (8 ≤ natBits e.2 63 56))).map (·.1)
  let map := tabulate 32 (fun i => cfgValue es Reg.memSdRange i)
  if bs.all (fun b => decide (b = 0xFF)) then some (1, 0)
  else match cfgHeaderBad bs with
    | some o => some (2, o)
    | none =>
      (first overrun 2).or <| (if crc = leAt bs 8 4 then none else some (3, crc)).or <| (first (badSec.map (·.off)) 4).or <|
        (first badRegs 5).or <| (first absent 6).or <| (first (badQps ++ noMgmt) 7).or <| (first clashes 8).or <|
        (first badClaims 9).or <| (first (badReg ++ noAvs) 10).or <| (if mapValid map then none else some (11, 0)).or <|
        first ports 12

end Sys2Proof.Machine
end

