-- ==== Sys2Proof/Machine/Boot.lean ====
section
/-! DEFINITION. OFF, the boot to READY, to recovery boot or to a halt, and the loss of a reference clock (spec/17 R816 to R833, R839,
spec/16 R788, R791, R793, R802, spec/18 R861, R866, R868, R874). -/

namespace Sys2Proof.Machine

open Sys2Proof

/-! ### OFF -/

/-- The device in OFF (R699, R866): what survives is the flash, the fuses, the data region, the test access port, and the level of
PWR_FAIL_N. -/
def powerOff (s : State) : State := { State.reset with
  power := { failLow := s.power.failLow }
  stw := { flash := s.stw.flash
           fuses := s.stw.fuses
           epoch := s.stw.epoch
           misses := s.stw.misses
           flushed := s.stw.flushed
           lastFlush := s.stw.lastFlush
           tap := s.stw.tap }
  outbox := s.outbox
  mgmt := s.mgmt
  free := s.free
  pending := s.pending }

/-- PORST_N is asserted (R866): no flush, and no pads held. -/
def execPorstNAssert (s : State) : Out := .next (powerOff s)

/-- The always-on supply is lost (R699). -/
def execAlwaysOnSupplyLost (s : State) : Out := .next (powerOff s)

/-! ### Step 1 of R817 -/

/-- The previous ring is the region flushed last, and the other region is erased (R802). -/
def prevRing (s : State) : State :=
  let keep : Option (SMap W64) := match s.stw.lastFlush with
    | none => none
    | some r => s.stw.flushed.getD r none
  let s := s.resetFam Reg.evrPrev
  let s := (keep.getD []).foldl (fun s kv => s.wr Reg.evrPrev kv.1 kv.2) s
  let s := s.setFld F.evrFlushStatusPrevValid 0 (if keep.isSome then 1 else 0)
  let s := s.setFld F.evrFlushStatusLast 0 (s.stw.lastFlush.getD 0)
  { s with stw := { s.stw with flushed := tabulate 2 (fun r => if s.stw.lastFlush = some r then keep else none) } }

/-- The always-on domain and the main fabric run, with the straps sampled unless the boot is a restart (R817, R822, R861). -/
def bootStart (s : State) (force role : Bool) (addr : Nat) : State :=
  let s : State :=
    if s.stw.restart then s else { s with stw := { s.stw with force := force, role := role, addr := addr } }
  let s : State := { s with power := { s.power with on := true } }
  let s := s.wr Reg.stwSerial 0 (dirSerial s)
  let s := (s.setFld F.stwIdGrade 0 (dirGrade s)).setFld F.stwImageMinSvn 0 s.stw.fuses
  prevRing (s.setFld F.pwrDomainStatusState domFabric lcOn)

/-! ### Boots that do not reach READY -/

/-- STATE, ERROR and DETAIL of STW_BOOT_STATUS. -/
def bootStatus (s : State) (st err detail : Nat) : State :=
  ((s.setFld F.stwBootStatusState 0 st).setFld F.stwBootStatusError 0 err).setFld F.stwBootStatusDetail 0 detail

/-- A domain reaches ON in the boot. -/
def domUp (s : State) (d : Nat) : State := domEvent (domEvent s d .enable) d .up

/-- Port 0 runs at 10 Gb/s for the recovery service, under the directory's base MAC address (R820). -/
def servicePort (s : State) : State :=
  let s := s.wr Reg.ethPortMac 0 (Config.dirField 2 ((certificate s).take 64) &&& 0xFFFFFFFFFFFF)
  let s := ((s.setFld F.ethPortCtrlRate 0 0).setFld F.ethPortCtrlRole 0 (if s.stw.role then 1 else 0)).setFld F.ethPortCtrlEnable 0 1
  (s.setFld F.pwrDomainStatusState domEth0 lcOn).setFld F.ethPortStatusState 0 lcOn

/-- The boot halts in a state with the recovery service (R819, R833, R852, R853). -/
def bootHalt (s : State) (st err detail : Nat) : State := trayCause (hostCause (servicePort (bootStatus s st err detail)) 3) 5

/-- Recovery boot (R819): its ERROR says why. -/
def recoveryBoot (s : State) (err : Nat) : State :=
  let s := bootHalt s 2 err 0
  event s 0x0001 0 s.stw.epoch 1

/-! ### Repairs (R788, R791 to R793, R839) -/

/-- A repair of the calibration record is in force, by its journal TYPE. -/
def repairIn (s : State) (typ unit sub addr : Nat) : State :=
  if (typ = 1 ∨ typ = 10) ∧ unit < 16 ∧ sub < 256 then
    let r := sub / 32
    let old := s.rd Reg.fldSpareMap unit
    let row := if typ = 10 then natBits old.toNat (8 * r + 4) (8 * r) + 32 else 16 + sub % 16
    let new := putBits old (8 * r + 5) (8 * r) row
    (s.wr Reg.fldSpareMap unit new).setFld F.fldCourtStatusSparesUsed unit (sparesUsed new)
  else if typ = 2 ∧ unit < 16 then s.setFld F.fldCourtStatusRetired unit 1
  else if typ = 3 ∧ unit < 68 then
    markRetired (s.wr Reg.shaSpareMap (unit / 17) (BitVec.ofNat 64 (16 + unit % 17 % 16))) (unit / 17)
  else if typ = 4 ∧ unit < 68 then retireCore s unit
  else if typ = 5 ∧ unit < 16 ∧ sub < 16 then s.setFld F.memScRetireWays unit (s.fld F.memScRetireWays unit ||| 2 ^ sub)
  else if typ = 6 ∧ unit < 64 then { s with rowMaps := s.rowMaps ++ [(unit, addr)] }
  else if typ = 7 ∧ unit < 8 then { s with rowMaps := s.rowMaps ++ [(64 + unit, addr)] }
  else if typ = 8 ∧ unit < 8 then { s with rowMaps := s.rowMaps.filter (fun e => e ≠ (64 + unit, addr)) }
  else if typ = 9 ∧ unit < 4 ∧ sub < 2 then s.setIqlPort unit { s.iqlPort unit with pairBad := some sub }
  else s

/-- The journal entries that hold, in SEQ order (R793). -/
def journalEntries (cal : List Byte) : List (List Byte) :=
  let es := ((List.range 1024).map (journalSlot cal)).filter (fun e => !slotErased e && slotGood e)
  es.mergeSort (fun a b => decide (leAt a 20 4 ≤ leAt b 20 4))

/-- Base remaps, then the journal (R793, R839). -/
def repairsIn (s : State) : State :=
  let s := (List.range 4).foldl (fun s q => s.setQuarter q { s.quarter q with retired := 0 }) s
  let s := (Config.baseRemaps s.stw.cal).foldl (fun s r => repairIn s r.1 r.2.1 r.2.2.1 r.2.2.2) s
  let s := (journalEntries s.stw.cal).foldl (fun s e =>
    let w := leAt e 0 8
    repairIn s (natBits w 63 56) (natBits w 55 48) (natBits w 47 40) (natBits w 39 0)) s
  let used := ((List.range 1024).filter (fun i => !slotErased (journalSlot s.stw.cal i))).length
  (s.setFld F.stwRepairJournalUsed 0 used).setFld F.stwRepairJournalFull 0 (if used = 1024 then 1 else 0)

/-- Post-package repair of the remapped LPDDR5X row of an address whose bank still has a repair resource (R788). -/
def packageRepair (s : State) (a : Nat) : State :=
  let e := (64 + lpController a, Config.rowOf a)
  if isSd a = false ∧ s.rowMaps.contains e then
    let rep : Repair := { typ := 8, unit := lpController a, addr := Config.rowOf a, time := s.now }
    let s : State := { s with rowMaps := s.rowMaps.filter (fun x => x ≠ e), journalDue := s.journalDue ++ [rep] }
    event (s.bump F.stwLpRowRepairsCount) 0x0E17 0 (s.fld F.iqlCfgDevice * 2 ^ 40 + a) 1
  else s

/-! ### Steps 5 to 11 of R817 -/

/-- The power model of the calibration record (R839); the always-on domain's is nominal. -/
def powerModelIn (s : State) : State := { s with
  power := { s.power with
    ceilings := tabulate 29 (Config.powerModel s.stw.cal) ++ [2000]
    shares := tabulate 16 (fun c => Config.powerModel s.stw.cal (32 + c)) } }

/-- The MACSEC entries of a record (R828, R832). -/
def macsecIn (s : State) (bs : List Byte) : State :=
  (entryWords bs 6).foldl (fun s e =>
    let p := natBits e.2 63 56
    let s := s.setFld F.ethPortStatusMacsec p (natBits e.2 55 55)
    s.setEthPort p { s.ethPort p with xpn := natBit e.2 54, replayWindow := natBits e.2 31 0 }) s

/-- The LINK_PEERS entries of a record (R828, R832). -/
def peersIn (s : State) (bs : List Byte) : State :=
  (entryWords bs 5).foldl (fun s e =>
    let p := natBits e.2 63 56
    s.setIqlPort p { s.iqlPort p with expectDevice := some (natBits e.2 55 50) }) s

/-- An enabled Ethernet port reaches ON with its domain, if that is permitted (R715, R817). -/
def portIn (s : State) (p : Nat) : State :=
  if s.fld F.ethPortCtrlEnable p = 1 ∧ s.domPermitted (ethDomain p) then
    (if s.domOn (ethDomain p) then s else domUp s (ethDomain p)).setFld F.ethPortStatusState p lcOn
  else s

/-- An enabled Ihlique port begins to start with domain 23, if that is permitted (R715, R817). -/
def linkIn (s : State) (p : Nat) : State :=
  if s.fld F.iqlPortCtrlEnable p = 1 ∧ s.domPermitted domIhlique then
    (if s.domOn domIhlique then s else domUp s domIhlique).setFld F.iqlPortStatusState p lcStarting
  else s

/-- The queue pairs of the record run on the ports that are ON (R599, R817). -/
def qpsIn (s : State) : State :=
  s.stw.cfgQps.foldl (fun s kv =>
    if s.fld F.ethPortStatusState kv.2.port = lcOn then s.setQp kv.1 { kv.2 with state := .rts } else s) s

/-- What the record in force leaves in the steward (R826, R828, R838). -/
def recordKept (s : State) (bs : List Byte) : State :=
  let s : State := { s with stw := { s.stw with
    cfg := bs.take (leAt bs 12 4)
    claims := cfgClaims bs
    regulators := (entryWords bs 4).map (·.2)
    cfgQps := cfgQpsOf bs
    bootRegs := cfgRegs.map (fun r => (Reg.key r.1 r.2, s.rd r.1 r.2)) } }
  claimsAgain (s.wr Reg.stwCfgSeq 0 (BitVec.ofNat 64 (leAt bs 24 8)))

/-- The fuses follow an image with COMMIT_SVN that reaches READY (R816). -/
def fusesRaised (s : State) (img : List Byte) : State :=
  let n := if imageCommit img then max s.stw.fuses (min 64 (imageSvn img)) else s.stw.fuses
  { s.setFld F.stwImageMinSvn 0 n with stw := { s.stw with fuses := n, misses := 0, restart := false } }

/-- Steps 6 to 11: `s` has the record's registers; the LPDDR5X rows of the addresses in `ppr` can be repaired. -/
def bootReadyUp (s : State) (img bs : List Byte) (ppr : List Nat) : State :=
  let s := permitShow (recordKept s bs)
  let s := ppr.foldl packageRepair (repairsIn s)
  let s : State := { s with mem := [], ue := [], ce := [], altered := [], dirty := [], lost := [] }
  let s := domUp (domUp s domLpddr) domStacked
  let s := epochUp (peersIn (macsecIn s bs) bs)
  let s := event s 0x0001 0 s.stw.epoch 0
  let s := qpsIn ((List.range 4).foldl linkIn ((List.range 8).foldl portIn s))
  trayCause (hostCause (bootStatus (fusesRaised s img) 1 0 0) 0) 0

/-- Step 5: the calibration record, then the configuration record, are checked (R833). -/
def bootRecords (s : State) (img : List Byte) (silent ppr : List Nat) : State :=
  let cal := s.flashBytes flCal calBytes
  if !calHeaderOk cal then bootHalt s 4 0x10 0
  else if calSerial cal ≠ dirSerial s then bootHalt s 4 0x11 0
  else
    let s := railFollow (powerModelIn { s with stw := { s.stw with cal := cal } })
    let bs := s.flashBytes 0x02010000 0x40000
    let t := applyRegs s (regEntries bs)
    match cfgError t bs silent with
    | some (err, detail) => bootHalt s 3 err detail
    | none => bootReadyUp t img bs ppr

/-- The image that has passed verification runs (R815, R853). -/
def imageIn (s : State) (img : List Byte) : State :=
  let h := sha3 (img.take (imageLength img))
  (List.range 4).foldl (fun s i => s.wr Reg.stwImageHash i (BitVec.ofNat 64 (leAt h (8 * i) 8)))
    (s.setFld F.stwImageSvn 0 (imageSvn img))

/-- The boot of R817. -/
def boot (s : State) (stuck : Bool) (silent ppr : List Nat) : State :=
  let img := s.flashBytes 0x10000 0x2000000
  if s.stw.force then recoveryBoot s 0x21
  else if 2 ≤ s.stw.misses ∧ s.stw.restart = false then recoveryBoot s 0x22
  else if !imageOk s img then recoveryBoot s 0x20
  else
    let s := imageIn s img
    if stuck then s else bootRecords s img silent ppr

/-- PORST_N is released, or a restart goes on, and the device boots (R817, R822); with PWR_FAIL_N low it waits (R868). `force`,
`role` and `addr` are the straps; a `stuck` boot stays in BOOTING; `silent` are the regulators that do not answer, by entry number;
`ppr` are addresses whose banks have a repair resource. -/
def execBoot (force role : Bool) (addr : Fin 8) (stuck : Bool) (silent : List W16) (ppr : List (BitVec 40)) (s : State) : Out :=
  if s.power.on ∨ s.power.failLow then .next s
  else .next (boot (bootStart s force role addr) stuck (silent.map (·.toNat)) (ppr.map (·.toNat)))

/-! ### A reference clock is lost (R874) -/

/-- The 100 MHz or 156.25 MHz reference is absent for 10 µs while CLK_REQ_N is low. -/
def execRefclkLost (s : State) : Out :=
  if s.power.on ∧ s.power.clkReqHigh = false ∧ s.powerState ≠ pwTripped ∧ s.referee.cycling = false then .next (chipFor s 3)
  else .next s

end Sys2Proof.Machine
end

