-- ==== Sys2Proof/Machine/Preload.lean ====
section
/-! DEFINITION. On-deck queues: what is preloaded of their next command (spec/10 R526, R527). A preload reads and checks as its command
will; what it finds changes no result (log 106). -/

namespace Sys2Proof.Machine

/-- The translations of a range are read, page by page. `fuel` bounds the pages. -/
def touchPages (fuel : Nat) (s : State) (ho : Option Holder) (h : W32) (acc : Access) (va n : Nat) : State :=
  match fuel with
  | 0 => s
  | fuel + 1 =>
    if n = 0 then s
    else
      let k := min n (4096 - va % 4096)
      touchPages fuel (xlate s ho h acc va).2 ho h acc (va + k) (n - k)

/-- Bytes are read ahead of the command that needs them. -/
def readAhead (s : State) (ho : Option Holder) (h : W32) (acc : Access) (va n : Nat) : State := (ctxReadObj s ho h acc va n).2

/-- FIELD: the playbook's header, its region and bound tables, the translations of its pages, and its row-operation tables and first
bundles. A header that R189 refuses is not followed. -/
def preloadField (s : State) (p : Nat) (h : W32) (pb arg : Nat) : State :=
  let ho := some (Holder.court ((partCourts s p).getD 0 0))
  match ctxReadObj s ho h .fetch pb 64 with
  | (.error _, s) => s
  | (.ok bs, s) =>
    let w := wordsOf bs
    let w1 := wordAt w 1
    if bitsOf (wordAt w 0) 63 8 ≠ 0x5042464C204801 ∨ headerInvalid w arg then s
    else
      let tables := 3072 * bitsOf w1 33 29
      let bundles := bitsOf (wordAt w 5) 31 0
      let s := readAhead s ho h .fetch (pb + bitsOf (wordAt w 4) 63 32) (8 * bitsOf w1 40 34)
      let s := readAhead s ho h .fetch (pb + bitsOf (wordAt w 7) 63 32) (8 * bitsOf w1 47 41)
      let s := touchPages (bundles / 4096 + 2) s ho h .fetch (pb + bitsOf (wordAt w 5) 63 32) bundles
      let s := readAhead s ho h .fetch (pb + bitsOf (wordAt w 4) 31 0) tables
      readAhead s ho h .fetch (pb + bitsOf (wordAt w 5) 63 32) (min bundles (65536 - tables))

/-- LAUNCH: the binary's header and its checks, the translations of its code pages and its first 16 KiB of code, for the quarters of the
partition. -/
def preloadLaunch (s : State) (p : Nat) (h : W32) (va : Nat) : State :=
  match readHeader s h va with
  | (.error _, s) => s
  | (.ok w, s) =>
    if (headerCheck w).isSome then s
    else
      (partQuarters s p).foldl (fun s n =>
        let ho := some (Holder.quarter n)
        let s := touchPages (hCodeBytes w / 4096 + 2) s ho h .fetch (va + hCodeOff w) (hCodeBytes w)
        readAhead s ho h .fetch (va + hCodeOff w) (min (hCodeBytes w) 16384)) s

/-- RENDER: the pass descriptor, the heap descriptor and the first 16 draw records. -/
def preloadRender (s : State) (p : Nat) (h : W32) (va : Nat) : State :=
  let ho := some (Holder.raster ((partRasters s p).getD 0 0))
  match ctxReadObj s ho h .load va 192 with
  | (.error _, s) => s
  | (.ok bs, s) =>
    let w := words64 24 bs
    let s := readAhead s ho h .load (pHeap w) 64
    readAhead s ho h .load (pDraws w) (128 * min (pNdraw w) 16)

/-- The object of a command is preloaded, by its kind (R526). -/
def preloadObject (s : State) (q : Queue) (w : List W64) : State :=
  let p := queuePart s q
  let va := bitsOf (w.getD 1 0) 63 16
  match bitsOf (w.getD 0 0) 63 56 with
  | 1 => preloadField s p q.owner va (w.getD 2 0).toNat
  | 2 => preloadLaunch s p q.owner va
  | 3 => preloadRender s p q.owner va
  | 4 => readAhead s none q.owner .load va 8
  | 5 => readAhead s none q.owner .load va 32
  | 6 => readAhead s none q.owner .load va 64
  | 7 => readAhead s none q.owner .load va 32
  | _ => s

/-- The next command of an on-deck queue is preloaded: the one behind the command that has started, or the head command while it is
blocked (R526). -/
def preloadNext (s : State) (qi : Nat) : State :=
  let q := s.queue qi
  let mark (s : State) : State := s.setQueue qi { s.queue qi with preloaded := true }
  match q.phase with
  | .waiting => mark (preloadObject s q ((q.cmd.map (·.words)).getD []))
  | .running =>
    if q.tail = q.head then s
    else
      match readEntry s q q.head.toNat with
      | (.ok (.inl bs), s) =>
        let w := wordsOf bs
        if (q.tail - q.head).toNat < occupancy (w.getD 0 0) then s
        else mark (if descriptorOk w then preloadObject s q w else s)
      | (_, s) => s
  | _ => s

/-- The next command of an on-deck queue is preloaded (R526, R527); no preload in round-robin mode (R523). -/
def execPreload (q : Fin 16384) (s : State) : Out :=
  let x := s.queue q
  if feRuns s ∧ x.ondeck ∧ x.state = .active ∧ ¬ x.preloaded ∧ ¬ roundRobin s ∧ (s.ctx (hIndex x.owner)).state = .active then
    .next (preloadNext s q)
  else .next s

end Sys2Proof.Machine
end

