-- ==== Sys2Proof/Machine/Service.lean ====
section
/-! DEFINITION. The recovery service and the test access port (spec/17 R813, R820 to R823, spec/18 R877 to R880). -/

namespace Sys2Proof.Machine

open Sys2Proof

/-! ### The recovery service -/

/-- Whether the recovery service runs: in recovery boot, and in CONFIG_ERROR and CAL_ERROR (R820). -/
def serviceRuns (s : State) : Bool := s.power.on && decide (2 ≤ s.fld F.stwBootStatusState ∧ s.fld F.stwBootStatusState ≤ 4)

/-- The header of a request (R821). -/
structure SvcReq where
  op : Nat
  region : Nat
  seq : Nat
  len : Nat
  rsv : Nat
  off : Nat
deriving DecidableEq, Repr

/-- The 16-byte header of the answer to a request (R821). -/
def SvcReq.header (r : SvcReq) (st : W16) : List Byte :=
  leBytes 8 ((128 + r.op % 128) * 2 ^ 56 + r.region * 2 ^ 48 + r.seq * 2 ^ 32 + r.len) ++
    leBytes 8 (st.toNat * 2 ^ 48 + r.rsv % 65536 * 2 ^ 32 + r.off)

/-- What a request comes to: its status, its data, and the state. -/
abbrev SvcDone := W16 × List Byte × State

/-- The service takes a request, in SEQ order (R823): the last one again gets the same answer, and any other out of order is
refused. -/
def service (s : State) (r : SvcReq) (f : State → SvcDone) : State :=
  if !serviceRuns s then s
  else if s.stw.lastSeq = some r.seq then s.emit (.recovery s.stw.lastRsp)
  else
    let due : Bool := match s.stw.lastSeq with
      | none => true
      | some q => decide (r.seq = (q + 1) % 65536)
    if due then
      let (st, data, s) := if r.rsv = 0 then f s else (stInvalid, [], s)
      let rsp := r.header st ++ data
      { s with stw := { s.stw with lastSeq := some r.seq, lastRsp := rsp } }.emit (.recovery rsp)
    else s.emit (.recovery (r.header stBusy))

/-- What the data region keeps (R812). -/
def dataFacts (s : State) : DataFacts :=
  { epoch := s.stw.epoch, misses := s.stw.misses, flushed := s.stw.flushed, lastFlush := s.stw.lastFlush }

/-- The data region is edited. -/
def dataPut (s : State) (off : Nat) (bs : Option (List Byte)) : State :=
  let d := Config.dataEdited (dataFacts s) off bs
  { s with stw := { s.stw with epoch := d.epoch, misses := d.misses, flushed := d.flushed, lastFlush := d.lastFlush } }

/-- `n` bytes of a region. -/
def regionBytes (s : State) (region base off n : Nat) : List Byte :=
  if region = 4 then tabulate n (fun i => Config.dataBytes (dataFacts s) (off + i)) else s.flashBytes (base + off) n

/-- Whether the service may erase and program a region: the image only in recovery boot, the directory never (R813, R820). -/
def regionOpen (s : State) (region : Nat) : Bool :=
  decide (2 ≤ region ∧ region ≤ 4 ∨ region = 1 ∧ s.fld F.stwBootStatusState = 2)

/-- The 72 bytes at steward offsets 0x0000 to 0x0047 (R822). -/
def statusBytes (s : State) : List Byte :=
  leBytes 8 (s.rd Reg.stwId).toNat ++ leBytes 8 (s.rd Reg.stwSerial).toNat ++ leBytes 8 (s.rd Reg.stwBootStatus).toNat ++
  leBytes 8 (s.rd Reg.stwImage).toNat ++ (tabulate 4 (fun i => leBytes 8 (s.rd Reg.stwImageHash i).toNat)).flatten ++
  leBytes 8 (s.rd Reg.stwCfgSeq).toNat

/-- Whether LEN is one that R821 allows. -/
def lenOk (r : SvcReq) : Bool := decide (1 ≤ r.len ∧ r.len ≤ 1024)

/-- STATUS, and a reserved OP (R822). -/
def svcStatus (r : SvcReq) (s : State) : SvcDone :=
  if r.op = 1 then (stOk, statusBytes s, s) else (stInvalid, [], s)

/-- READ (R822). -/
def svcRead (r : SvcReq) (s : State) : SvcDone :=
  match flashArea r.region with
  | none => (stInvalid, [], s)
  | some (base, size) =>
    if !lenOk r then (stInvalid, [], s)
    else if size < r.off + r.len then (stAccessFault, [], s)
    else (stOk, regionBytes s r.region base r.off r.len, s)

/-- ERASE: the 64 KiB at OFFSET (R821, R822). -/
def svcErase (r : SvcReq) (s : State) : SvcDone :=
  if r.off % 65536 ≠ 0 then (stInvalid, [], s)
  else if !regionOpen s r.region then (stAccessFault, [], s)
  else
    match flashArea r.region with
    | none => (stAccessFault, [], s)
    | some (base, size) =>
      if size < r.off + 65536 then (stAccessFault, [], s)
      else if r.region = 4 then (stOk, [], dataPut s r.off none)
      else (stOk, [], s.flashReplace (base + r.off) 65536 [])

/-- WRITE: programming clears bits and sets none (R822). -/
def svcWrite (r : SvcReq) (data : List Byte) (s : State) : SvcDone :=
  if !lenOk r || decide (data.length ≠ r.len) then (stInvalid, [], s)
  else if !regionOpen s r.region then (stAccessFault, [], s)
  else
    match flashArea r.region with
    | none => (stAccessFault, [], s)
    | some (base, size) =>
      if size < r.off + r.len then (stAccessFault, [], s)
      else if r.region = 4 then (stOk, [], dataPut s r.off (some data))
      else
        let old := s.flashBytes (base + r.off) r.len
        (stOk, [], s.flashPut (base + r.off) (List.zipWith (fun a b => a &&& b) old data))

/-- VERIFY (R822). -/
def svcVerify (s : State) : SvcDone :=
  (if imageOk s (s.flashBytes 0x10000 0x2000000) then stOk else stInvalid, [], s)

/-- The device stops for a restart of the boot: what always-on memory keeps stays (R822). -/
def restartOff (s : State) : State :=
  let s := dropSwitched s
  let s := (List.range 29).foldl (fun s d => s.setFld F.pwrDomainStatusState d lcOff) s
  let s := ((bootStatus s 0 0 0).wr Reg.stwImage 0 0).resetFam Reg.stwImageHash
  { s with
    power := { failLow := s.power.failLow }
    stw := { s.stw with restart := true, lastSeq := none, lastRsp := [] } }

/-- A STATUS request of the recovery service, or one with a reserved OP (R822). OPs 2 to 6 are other commands. -/
def execRecoveryStatus (op region : BitVec 8) (seq : W16) (len rsv off : W32) (s : State) : Out :=
  if 2 ≤ op.toNat ∧ op.toNat ≤ 6 then .next s
  else
    let r : SvcReq := { op := op.toNat, region := region.toNat, seq := seq.toNat, len := len.toNat, rsv := rsv.toNat, off := off.toNat }
    .next (service s r (svcStatus r))

/-- A READ request of the recovery service (R822). -/
def execRecoveryRead (region : BitVec 8) (seq : W16) (len rsv off : W32) (s : State) : Out :=
  let r : SvcReq := { op := 2, region := region.toNat, seq := seq.toNat, len := len.toNat, rsv := rsv.toNat, off := off.toNat }
  .next (service s r (svcRead r))

/-- An ERASE request of the recovery service (R822). -/
def execErase (region : BitVec 8) (seq : W16) (len rsv off : W32) (s : State) : Out :=
  let r : SvcReq := { op := 3, region := region.toNat, seq := seq.toNat, len := len.toNat, rsv := rsv.toNat, off := off.toNat }
  .next (service s r (svcErase r))

/-- A WRITE request of the recovery service (R822). -/
def execRecoveryWrite (region : BitVec 8) (seq : W16) (len rsv off : W32) (data : List Byte) (s : State) : Out :=
  let r : SvcReq := { op := 4, region := region.toNat, seq := seq.toNat, len := len.toNat, rsv := rsv.toNat, off := off.toNat }
  .next (service s r (svcWrite r data))

/-- A VERIFY request of the recovery service (R822). -/
def execVerify (region : BitVec 8) (seq : W16) (len rsv off : W32) (s : State) : Out :=
  let r : SvcReq := { op := 5, region := region.toNat, seq := seq.toNat, len := len.toNat, rsv := rsv.toNat, off := off.toNat }
  .next (service s r svcVerify)

/-- A RESTART request of the recovery service (R822): once it is answered OK, the device stops, and BOOT goes on. -/
def execRestart (region : BitVec 8) (seq : W16) (len rsv off : W32) (s : State) : Out :=
  let r : SvcReq := { op := 6, region := region.toNat, seq := seq.toNat, len := len.toNat, rsv := rsv.toNat, off := off.toNat }
  let again : Bool := decide (s.stw.lastSeq = some r.seq)
  let due : Bool := match s.stw.lastSeq with
    | none => true
    | some q => decide (r.seq = (q + 1) % 65536)
  let t := service s r (fun s => (stOk, [], s))
  .next (if serviceRuns s && due && !again && decide (r.rsv = 0) then restartOff t else t)

/-! ### The test access port (R877 to R880) -/

/-- The next state of a test access port (IEEE 1149.1). -/
def tapNext (tms : Bool) : TapState → TapState
  | .reset => if tms then .reset else .idle
  | .idle => if tms then .selectDr else .idle
  | .selectDr => if tms then .selectIr else .captureDr
  | .captureDr => if tms then .exit1Dr else .shiftDr
  | .shiftDr => if tms then .exit1Dr else .shiftDr
  | .exit1Dr => if tms then .updateDr else .pauseDr
  | .pauseDr => if tms then .exit2Dr else .pauseDr
  | .exit2Dr => if tms then .updateDr else .shiftDr
  | .updateDr => if tms then .selectDr else .idle
  | .selectIr => if tms then .reset else .captureIr
  | .captureIr => if tms then .exit1Ir else .shiftIr
  | .shiftIr => if tms then .exit1Ir else .shiftIr
  | .exit1Ir => if tms then .updateIr else .pauseIr
  | .pauseIr => if tms then .exit2Ir else .pauseIr
  | .exit2Ir => if tms then .updateIr else .shiftIr
  | .updateIr => if tms then .selectDr else .idle

/-- The low `n` bits of a number, the least significant first. -/
def bitList (n x : Nat) : List Bool := tabulate n (natBit x)

/-- The number that bits spell, the least significant first. -/
def bitsNat (bs : List Bool) : Nat := bs.foldr (fun b n => 2 * n + b.toNat) 0

/-- Whether an instruction selects the boundary register: EXTEST does only while PORST_N is low (R877, R879). -/
def tapBoundary (ir : Nat) (porstLow : Bool) : Bool := decide (ir = 1) || (decide (ir = 0) && porstLow)

/-- What the data register captures: IDCODE, the boundary cells, or the bypass bit (R877). -/
def tapCapture (ir : Nat) (porstLow : Bool) (pins : List Bool) : List Bool :=
  if ir = 2 then bitList 32 0x120482A7 else if tapBoundary ir porstLow then pins else [false]

/-- The low two bits that the instruction register captures are 01 (IEEE 1149.1); the other six are free. -/
def tapEdge (t : Tap) (porstLow tms tdi : Bool) (pins : List Bool) (free : Nat) : Tap :=
  let t : Tap := match t.st with
    | .captureDr => { t with shift := tapCapture t.ir porstLow pins }
    | .captureIr => { t with shift := bitList 8 (free % 64 * 4 + 1) }
    | .shiftDr => { t with shift := t.shift.drop 1 ++ [tdi] }
    | .shiftIr => { t with shift := t.shift.drop 1 ++ [tdi] }
    | _ => t
  let st := tapNext tms t.st
  let t : Tap := { t with st := st }
  match st with
  | .reset => { t with ir := 2, tdo := none }
  | .updateIr => { t with ir := bitsNat t.shift, tdo := none }
  | .updateDr => { t with boundary := if tapBoundary t.ir porstLow then t.shift else t.boundary, tdo := none }
  | .shiftDr => { t with tdo := t.shift.head? }
  | .shiftIr => { t with tdo := t.shift.head? }
  | _ => { t with tdo := none }

/-- A TCK cycle (R877): `pins` are the levels that the boundary cells capture, in the order of the chain. -/
def execTck (tms tdi : Bool) (pins : List Bool) (s : State) : Out :=
  let (v, s) := s.fresh
  let porstLow : Bool := !s.power.on && !s.stw.restart
  .next { s with stw := { s.stw with tap := tapEdge s.stw.tap porstLow tms tdi pins v.toNat } }

/-- TRST_N is driven low (R880). -/
def execTrstN (s : State) : Out :=
  .next { s with stw := { s.stw with tap := { s.stw.tap with st := .reset, ir := 2, tdo := none } } }

end Sys2Proof.Machine
end

