-- ==== Sys2Proof/Machine/Dispatch.lean ====
section
/-! DEFINITION. The dispatch: one arm for each command, each a direct call of its meaning. -/

namespace Sys2Proof.Machine

open Sys2Proof

/-- The effect of one command on everything but the queue. -/
def exec (i : Instr) (s : State) : Host.Outcome State Fault Refusal :=
  match i with
  | .send qp psn ecn data => Sys2Proof.Machine.execSend qp psn ecn data s
  | .rdmaWrite qp psn ecn rkey va data => Sys2Proof.Machine.execRdmaWrite qp psn ecn rkey va data s
  | .rdmaRead qp psn ecn rkey va len => Sys2Proof.Machine.execRdmaRead qp psn ecn rkey va len s
  | .compareAndSwap qp psn ecn rkey va cmp swap => Sys2Proof.Machine.execCompareAndSwap qp psn ecn rkey va cmp swap s
  | .fetchAndAdd qp psn ecn rkey va add => Sys2Proof.Machine.execFetchAndAdd qp psn ecn rkey va add s
  | .ackReceived qp psn => Sys2Proof.Machine.execAckReceived qp psn s
  | .nakReceived qp psn code => Sys2Proof.Machine.execNakReceived qp psn code s
  | .ackTimeout qp rnr => Sys2Proof.Machine.execAckTimeout qp rnr s
  | .doorbellRecord qp data => Sys2Proof.Machine.execDoorbellRecord qp data s
  | .create arg => Sys2Proof.Machine.execCreate arg s
  | .destroy h => Sys2Proof.Machine.execDestroy h s
  | .destroyStopTimeout ctx => Sys2Proof.Machine.execDestroyStopTimeout ctx s
  | .destroyRelease ctx => Sys2Proof.Machine.execDestroyRelease ctx s
  | .destructionEnds ctx => Sys2Proof.Machine.execDestructionEnds ctx s
  | .set h => Sys2Proof.Machine.execSet h s
  | .resume h => Sys2Proof.Machine.execResume h s
  | .query h => Sys2Proof.Machine.execQuery h s
  | .queueCreate arg => Sys2Proof.Machine.execQueueCreate arg s
  | .queueDestroy h => Sys2Proof.Machine.execQueueDestroy h s
  | .queueQuery h => Sys2Proof.Machine.execQueueQuery h s
  | .commandAtHead q => Sys2Proof.Machine.execCommandAtHead q s
  | .waitExamine q => Sys2Proof.Machine.execWaitExamine q s
  | .waitTimeout q => Sys2Proof.Machine.execWaitTimeout q s
  | .remoteFenceRead q value => Sys2Proof.Machine.execRemoteFenceRead q value s
  | .commandStart u => Sys2Proof.Machine.execCommandStart u s
  | .aging q => Sys2Proof.Machine.execAging q s
  | .sliceEnd => Sys2Proof.Machine.execSliceEnd s
  | .fwFallback => Sys2Proof.Machine.execFwFallback s
  | .preload q => Sys2Proof.Machine.execPreload q s
  | .benchSwap q => Sys2Proof.Machine.execBenchSwap q s
  | .benchCheck => Sys2Proof.Machine.execBenchCheck s
  | .deadlockSearch part => Sys2Proof.Machine.execDeadlockSearch part s
  | .scoreboardUpdate => Sys2Proof.Machine.execScoreboardUpdate s
  | .scoreboardWalk => Sys2Proof.Machine.execScoreboardWalk s
  | .nop q => Sys2Proof.Machine.execNop q s
  | .free q => Sys2Proof.Machine.execFree q s
  | .fePartCommit v => Sys2Proof.Machine.execFePartCommit v s
  | .whistleReport unit => Sys2Proof.Machine.execWhistleReport unit s
  | .whistleTimeout => Sys2Proof.Machine.execWhistleTimeout s
  | .fldFmtDefault v => Sys2Proof.Machine.execFldFmtDefault v s
  | .fldScrubCfg v => Sys2Proof.Machine.execFldScrubCfg v s
  | .fldSpareMap court v => Sys2Proof.Machine.execFldSpareMap court v s
  | .courtRemap court => Sys2Proof.Machine.execCourtRemap court s
  | .field q => Sys2Proof.Machine.execField q s
  | .bundle part => Sys2Proof.Machine.execBundle part s
  | .scheduleCycle part => Sys2Proof.Machine.execScheduleCycle part s
  | .networkTransferArrival part => Sys2Proof.Machine.execNetworkTransferArrival part s
  | .dmaComplete court stream => Sys2Proof.Machine.execDmaComplete court stream s
  | .heavyHoldExpiry => Sys2Proof.Machine.execHeavyHoldExpiry s
  | .fieldEnd part => Sys2Proof.Machine.execFieldEnd part s
  | .courtScrub court => Sys2Proof.Machine.execCourtScrub court s
  | .courtScrubEnd court => Sys2Proof.Machine.execCourtScrubEnd court s
  | .droopDetect site => Sys2Proof.Machine.execDroopDetect site s
  | .stretchEnd clock => Sys2Proof.Machine.execStretchEnd clock s
  | .launch q => Sys2Proof.Machine.execLaunch q s
  | .blockStart q quarter core base => Sys2Proof.Machine.execBlockStart q quarter core base s
  | .intOp g op => Sys2Proof.Machine.execIntOp g op s
  | .fp32Op g op => Sys2Proof.Machine.execFp32Op g op s
  | .fp16x2Op g op => Sys2Proof.Machine.execFp16x2Op g op s
  | .cvtOp g src dst => Sys2Proof.Machine.execCvtOp g src dst s
  | .sfuOp g op => Sys2Proof.Machine.execSfuOp g op s
  | .moveOp g op => Sys2Proof.Machine.execMoveOp g op s
  | .setteam g => Sys2Proof.Machine.execSetteam g s
  | .laneOp g op => Sys2Proof.Machine.execLaneOp g op s
  | .globalMem g op => Sys2Proof.Machine.execGlobalMem g op s
  | .localMem g op => Sys2Proof.Machine.execLocalMem g op s
  | .atomicOp g op wide => Sys2Proof.Machine.execAtomicOp g op wide s
  | .fenceOp g => Sys2Proof.Machine.execFenceOp g s
  | .sample g => Sys2Proof.Machine.execSample g s
  | .vin g => Sys2Proof.Machine.execVin g s
  | .vout g => Sys2Proof.Machine.execVout g s
  | .interp g => Sys2Proof.Machine.execInterp g s
  | .cout g => Sys2Proof.Machine.execCout g s
  | .zout g => Sys2Proof.Machine.execZout g s
  | .kill g => Sys2Proof.Machine.execKill g s
  | .tread g => Sys2Proof.Machine.execTread g s
  | .branch g => Sys2Proof.Machine.execBranch g s
  | .call g => Sys2Proof.Machine.execCall g s
  | .ret g => Sys2Proof.Machine.execRet g s
  | .exit g => Sys2Proof.Machine.execExit g s
  | .converge g => Sys2Proof.Machine.execConverge g s
  | .convergeHoldExpiry g => Sys2Proof.Machine.execConvergeHoldExpiry g s
  | .groupBarrier g => Sys2Proof.Machine.execGroupBarrier g s
  | .blockBarrier g => Sys2Proof.Machine.execBlockBarrier g s
  | .amma g => Sys2Proof.Machine.execAmma g s
  | .ammaComplete core => Sys2Proof.Machine.execAmmaComplete core s
  | .waittok g => Sys2Proof.Machine.execWaittok g s
  | .groupEnd g => Sys2Proof.Machine.execGroupEnd g s
  | .launchEnd q => Sys2Proof.Machine.execLaunchEnd q s
  | .mergeDrain core line => Sys2Proof.Machine.execMergeDrain core line s
  | .coreScrub core => Sys2Proof.Machine.execCoreScrub core s
  | .coreScrubEnd core => Sys2Proof.Machine.execCoreScrubEnd core s
  | .shaSpareMap quarter v => Sys2Proof.Machine.execShaSpareMap quarter v s
  | .coreRemap quarter => Sys2Proof.Machine.execCoreRemap quarter s
  | .render q => Sys2Proof.Machine.execRender q s
  | .tilerWrite fe => Sys2Proof.Machine.execTilerWrite fe s
  | .binningEnd fe => Sys2Proof.Machine.execBinningEnd fe s
  | .partialRender fe => Sys2Proof.Machine.execPartialRender fe s
  | .partialRenderEnd fe => Sys2Proof.Machine.execPartialRenderEnd fe s
  | .tileBufferGrant fe core base => Sys2Proof.Machine.execTileBufferGrant fe core base s
  | .tileLoadDone fe tile => Sys2Proof.Machine.execTileLoadDone fe tile s
  | .tileShaded fe tile => Sys2Proof.Machine.execTileShaded fe tile s
  | .spillDone fe tile => Sys2Proof.Machine.execSpillDone fe tile s
  | .writebackDone fe tile => Sys2Proof.Machine.execWritebackDone fe tile s
  | .pipeEnable pipe noSkip bpc => Sys2Proof.Machine.execPipeEnable pipe noSkip bpc s
  | .pipeDisable pipe noSkip bpc => Sys2Proof.Machine.execPipeDisable pipe noSkip bpc s
  | .frameBoundary pipe => Sys2Proof.Machine.execFrameBoundary pipe s
  | .present q => Sys2Proof.Machine.execPresent q s
  | .fetchUnderflow pipe x y n => Sys2Proof.Machine.execFetchUnderflow pipe x y n s
  | .layerFetch pipe layer line => Sys2Proof.Machine.execLayerFetch pipe layer line s
  | .frameRecord pipe => Sys2Proof.Machine.execFrameRecord pipe s
  | .lyrCommit pipe v => Sys2Proof.Machine.execLyrCommit pipe v s
  | .lyrLayerOwner pipe layer v => Sys2Proof.Machine.execLyrLayerOwner pipe layer v s
  | .lyrSigRegion pipe region reg v => Sys2Proof.Machine.execLyrSigRegion pipe region reg v s
  | .lyrSigCtrl pipe v => Sys2Proof.Machine.execLyrSigCtrl pipe v s
  | .lyrTiming pipe reg v => Sys2Proof.Machine.execLyrTiming pipe reg v s
  | .hotPlug tx ev => Sys2Proof.Machine.execHotPlug tx ev s
  | .linkTrainingEnd tx result => Sys2Proof.Machine.execLinkTrainingEnd tx result s
  | .trainRetry tx => Sys2Proof.Machine.execTrainRetry tx s
  | .dpxStream pipe v => Sys2Proof.Machine.execDpxStream pipe v s
  | .memSdCommit v => Sys2Proof.Machine.execMemSdCommit v s
  | .sdZeroingEnd => Sys2Proof.Machine.execSdZeroingEnd s
  | .tableWalk ho h acc va => Sys2Proof.Machine.execTableWalk ho h acc va s
  | .patrol lines => Sys2Proof.Machine.execPatrol lines s
  | .sdTempUpdate channel raw => Sys2Proof.Machine.execSdTempUpdate channel raw s
  | .memScRetire slice v => Sys2Proof.Machine.execMemScRetire slice v s
  | .memQosCfg v => Sys2Proof.Machine.execMemQosCfg v s
  | .invalRange q => Sys2Proof.Machine.execInvalRange q s
  | .invalAll q => Sys2Proof.Machine.execInvalAll q s
  | .rootSwitch q => Sys2Proof.Machine.execRootSwitch q s
  | .rowRemap a => Sys2Proof.Machine.execRowRemap a s
  | .portEnable port => Sys2Proof.Machine.execPortEnable port s
  | .portDisable port => Sys2Proof.Machine.execPortDisable port s
  | .phyPowered port => Sys2Proof.Machine.execPhyPowered port s
  | .phyPoweredDown port => Sys2Proof.Machine.execPhyPoweredDown port s
  | .linkUp port => Sys2Proof.Machine.execLinkUp port s
  | .linkDown port => Sys2Proof.Machine.execLinkDown port s
  | .tc10SleepRequest port => Sys2Proof.Machine.execTc10SleepRequest port s
  | .tc10Wake port => Sys2Proof.Machine.execTc10Wake port s
  | .tc10WakeTimeout port => Sys2Proof.Machine.execTc10WakeTimeout port s
  | .frameTransmit port => Sys2Proof.Machine.execFrameTransmit port s
  | .unclassifiedFrame port why => Sys2Proof.Machine.execUnclassifiedFrame port why s
  | .qpStart arg => Sys2Proof.Machine.execQpStart arg s
  | .qpStop arg => Sys2Proof.Machine.execQpStop arg s
  | .qpQuery arg => Sys2Proof.Machine.execQpQuery arg s
  | .keyLoad arg => Sys2Proof.Machine.execKeyLoad arg s
  | .keyRevoke arg => Sys2Proof.Machine.execKeyRevoke arg s
  | .streamStart arg => Sys2Proof.Machine.execStreamStart arg s
  | .streamStop arg => Sys2Proof.Machine.execStreamStop arg s
  | .avtpPacket stream seq ts first last samples rate data => Sys2Proof.Machine.execAvtpPacket stream seq ts first last samples rate data s
  | .talkerFrame stream bytes => Sys2Proof.Machine.execTalkerFrame stream bytes s
  | .syncMessage port gm offset => Sys2Proof.Machine.execSyncMessage port gm offset s
  | .announceMessage port gm => Sys2Proof.Machine.execAnnounceMessage port gm s
  | .peerDelayRequest port => Sys2Proof.Machine.execPeerDelayRequest port s
  | .syncTransmit => Sys2Proof.Machine.execSyncTransmit s
  | .syncTimeout => Sys2Proof.Machine.execSyncTimeout s
  | .holdoverExpiry => Sys2Proof.Machine.execHoldoverExpiry s
  | .timCfg v => Sys2Proof.Machine.execTimCfg v s
  | .ethRefclkLost => Sys2Proof.Machine.execEthRefclkLost s
  | .iqlPortEnable port => Sys2Proof.Machine.execIqlPortEnable port s
  | .iqlPortDisable port => Sys2Proof.Machine.execIqlPortDisable port s
  | .keyExchange port lanes peer peerEpoch authentic => Sys2Proof.Machine.execKeyExchange port lanes peer peerEpoch authentic s
  | .iqlPortOn port => Sys2Proof.Machine.execIqlPortOn port s
  | .iqlStartRetry port why => Sys2Proof.Machine.execIqlStartRetry port why s
  | .iqlLanesDown port => Sys2Proof.Machine.execIqlLanesDown port s
  | .iqlLinkDown port => Sys2Proof.Machine.execIqlLinkDown port s
  | .laneRetrain port lane count => Sys2Proof.Machine.execLaneRetrain port lane count s
  | .rekey port => Sys2Proof.Machine.execRekey port s
  | .linkReplay port cause => Sys2Proof.Machine.execLinkReplay port cause s
  | .read port vc p => Sys2Proof.Machine.execRead port vc p s
  | .readRsp port vc p => Sys2Proof.Machine.execReadRsp port vc p s
  | .write port vc p => Sys2Proof.Machine.execWrite port vc p s
  | .writeAck port vc p => Sys2Proof.Machine.execWriteAck port vc p s
  | .atomicPacket port vc p => Sys2Proof.Machine.execAtomicPacket port vc p s
  | .atomicRsp port vc p => Sys2Proof.Machine.execAtomicRsp port vc p s
  | .doorbell port vc p => Sys2Proof.Machine.execDoorbell port vc p s
  | .fenceNotice port vc p => Sys2Proof.Machine.execFenceNotice port vc p s
  | .announce port vc p => Sys2Proof.Machine.execAnnounce port vc p s
  | .txTimeout txid => Sys2Proof.Machine.execTxTimeout txid s
  | .iqlRoute dev v => Sys2Proof.Machine.execIqlRoute dev v s
  | .iqlPortCtrl port v => Sys2Proof.Machine.execIqlPortCtrl port v s
  | .bulk q => Sys2Proof.Machine.execBulk q s
  | .channelEnable channel => Sys2Proof.Machine.execChannelEnable channel s
  | .channelDisable channel => Sys2Proof.Machine.execChannelDisable channel s
  | .channelPowered channel => Sys2Proof.Machine.execChannelPowered channel s
  | .compress q => Sys2Proof.Machine.execCompress q s
  | .decompress q => Sys2Proof.Machine.execDecompress q s
  | .domainStart domain => Sys2Proof.Machine.execDomainStart domain s
  | .domainStop domain => Sys2Proof.Machine.execDomainStop domain s
  | .domainOn domain => Sys2Proof.Machine.execDomainOn domain s
  | .domainOff domain => Sys2Proof.Machine.execDomainOff domain s
  | .padRelease v => Sys2Proof.Machine.execPadRelease v s
  | .clockStep => Sys2Proof.Machine.execClockStep s
  | .targetActive => Sys2Proof.Machine.execTargetActive s
  | .targetStandby => Sys2Proof.Machine.execTargetStandby s
  | .targetWatch => Sys2Proof.Machine.execTargetWatch s
  | .huddleAnswer agent => Sys2Proof.Machine.execHuddleAnswer agent s
  | .huddleDelayExpiry agent => Sys2Proof.Machine.execHuddleDelayExpiry agent s
  | .watchSaveDone => Sys2Proof.Machine.execWatchSaveDone s
  | .wake => Sys2Proof.Machine.execWake s
  | .watchRestoreDone => Sys2Proof.Machine.execWatchRestoreDone s
  | .idleEntry => Sys2Proof.Machine.execIdleEntry s
  | .watchPeriod sensor samples => Sys2Proof.Machine.execWatchPeriod sensor samples s
  | .estimateTick mw => Sys2Proof.Machine.execEstimateTick mw s
  | .measuredSample mw failing => Sys2Proof.Machine.execMeasuredSample mw failing s
  | .controlTick field step next => Sys2Proof.Machine.execControlTick field step next s
  | .recal => Sys2Proof.Machine.execRecal s
  | .recalRetry => Sys2Proof.Machine.execRecalRetry s
  | .pwrCapMw v => Sys2Proof.Machine.execPwrCapMw v s
  | .pwrDomainPermit v => Sys2Proof.Machine.execPwrDomainPermit v s
  | .pwrFixedMode v => Sys2Proof.Machine.execPwrFixedMode v s
  | .issueLimit v => Sys2Proof.Machine.execIssueLimit v s
  | .rampCycles v => Sys2Proof.Machine.execRampCycles v s
  | .pwrWatchSave v => Sys2Proof.Machine.execPwrWatchSave v s
  | .pwrWatchCfg v => Sys2Proof.Machine.execPwrWatchCfg v s
  | .sensorRead sensor raw => Sys2Proof.Machine.execSensorRead sensor raw s
  | .throttleStepUp => Sys2Proof.Machine.execThrottleStepUp s
  | .throttleStepDown => Sys2Proof.Machine.execThrottleStepDown s
  | .railFault => Sys2Proof.Machine.execRailFault s
  | .porstNAssert => Sys2Proof.Machine.execPorstNAssert s
  | .pwrFail => Sys2Proof.Machine.execPwrFail s
  | .powerRestored => Sys2Proof.Machine.execPowerRestored s
  | .budgetOverrun q => Sys2Proof.Machine.execBudgetOverrun q s
  | .stopBoundMiss id => Sys2Proof.Machine.execStopBoundMiss id s
  | .fenceDrainEnd id => Sys2Proof.Machine.execFenceDrainEnd id s
  | .resetEnd id => Sys2Proof.Machine.execResetEnd id s
  | .replay id => Sys2Proof.Machine.execReplay id s
  | .sharedUnitTimeout => Sys2Proof.Machine.execSharedUnitTimeout s
  | .chipReset benched trained => Sys2Proof.Machine.execChipReset benched trained s
  | .chipRecoveryTimeout => Sys2Proof.Machine.execChipRecoveryTimeout s
  | .powerCycleReq => Sys2Proof.Machine.execPowerCycleReq s
  | .trayReqHoldoffEnd => Sys2Proof.Machine.execTrayReqHoldoffEnd s
  | .watchdogExpiry => Sys2Proof.Machine.execWatchdogExpiry s
  | .refBudgetMargin v => Sys2Proof.Machine.execRefBudgetMargin v s
  | .refFaultRing v => Sys2Proof.Machine.execRefFaultRing v s
  | .inspectionDue kind unit => Sys2Proof.Machine.execInspectionDue kind unit s
  | .stwInspectReq v => Sys2Proof.Machine.execStwInspectReq v s
  | .inspection kind unit way => Sys2Proof.Machine.execInspection kind unit way s
  | .inspectionEnd kind unit way mask engines => Sys2Proof.Machine.execInspectionEnd kind unit way mask engines s
  | .journalAppend => Sys2Proof.Machine.execJournalAppend s
  | .tokenRefill => Sys2Proof.Machine.execTokenRefill s
  | .evrCfg v => Sys2Proof.Machine.execEvrCfg v s
  | .freeze v => Sys2Proof.Machine.execFreeze v s
  | .thaw v => Sys2Proof.Machine.execThaw v s
  | .freezeTimeout => Sys2Proof.Machine.execFreezeTimeout s
  | .flush => Sys2Proof.Machine.execFlush s
  | .flushDone => Sys2Proof.Machine.execFlushDone s
  | .stwCaptureStatus v => Sys2Proof.Machine.execStwCaptureStatus v s
  | .boot force role addr stuck silent ppr => Sys2Proof.Machine.execBoot force role addr stuck silent ppr s
  | .recoveryStatus op region seq len rsv off => Sys2Proof.Machine.execRecoveryStatus op region seq len rsv off s
  | .recoveryRead region seq len rsv off => Sys2Proof.Machine.execRecoveryRead region seq len rsv off s
  | .erase region seq len rsv off => Sys2Proof.Machine.execErase region seq len rsv off s
  | .recoveryWrite region seq len rsv off data => Sys2Proof.Machine.execRecoveryWrite region seq len rsv off data s
  | .verify region seq len rsv off => Sys2Proof.Machine.execVerify region seq len rsv off s
  | .restart region seq len rsv off => Sys2Proof.Machine.execRestart region seq len rsv off s
  | .calRead => Sys2Proof.Machine.execCalRead s
  | .calWrite => Sys2Proof.Machine.execCalWrite s
  | .cfgRead => Sys2Proof.Machine.execCfgRead s
  | .cfgWrite => Sys2Proof.Machine.execCfgWrite s
  | .update param => Sys2Proof.Machine.execUpdate param s
  | .attest => Sys2Proof.Machine.execAttest s
  | .identityRead => Sys2Proof.Machine.execIdentityRead s
  | .claim param => Sys2Proof.Machine.execClaim param s
  | .release param => Sys2Proof.Machine.execRelease param s
  | .macsecInstall tray param sci => Sys2Proof.Machine.execMacsecInstall tray param sci s
  | .macsecSelect tray param => Sys2Proof.Machine.execMacsecSelect tray param s
  | .hostTimerAlarm timer => Sys2Proof.Machine.execHostTimerAlarm timer s
  | .trayWake acc => Sys2Proof.Machine.execTrayWake acc s
  | .entdaa addr => Sys2Proof.Machine.execEntdaa addr s
  | .dpxLinkCtrl tx v => Sys2Proof.Machine.execDpxLinkCtrl tx v s
  | .lossOfLock tx => Sys2Proof.Machine.execLossOfLock tx s
  | .iqlLinkRetrain port up => Sys2Proof.Machine.execIqlLinkRetrain port up s
  | .retrainEnd port lanes => Sys2Proof.Machine.execRetrainEnd port lanes s
  | .lpTempUpdate controller temp rate => Sys2Proof.Machine.execLpTempUpdate controller temp rate s
  | .refclkLost => Sys2Proof.Machine.execRefclkLost s
  | .alwaysOnSupplyLost => Sys2Proof.Machine.execAlwaysOnSupplyLost s
  | .tck tms tdi pins => Sys2Proof.Machine.execTck tms tdi pins s
  | .trstN => Sys2Proof.Machine.execTrstN s
  | .feCtxTableBase reg v => Sys2Proof.Machine.execFeCtxTableBase reg v s
  | .ethQpTableBase table v => Sys2Proof.Machine.execEthQpTableBase table v s
  | .ethPortMac port reg v => Sys2Proof.Machine.execEthPortMac port reg v s
  | .lyrWbCtrl pipe v => Sys2Proof.Machine.execLyrWbCtrl pipe v s
  | .iqlCfg v => Sys2Proof.Machine.execIqlCfg v s
  | .invalidRequest qp psn ecn => Sys2Proof.Machine.execInvalidRequest qp psn ecn s

end Sys2Proof.Machine
end

