-- ==== Sys2Proof/Safety.lean ====
section
/-! DEFINITION. The terms in which statements about the device are made: which runs are safe, when the device serves a management
write, and when it takes a request of the host. -/

namespace Sys2Proof.Safety

open Sys2Proof.Machine

/-- Every step from a state with `P` that answers a next state answers one with `P`. -/
def Kept (P : State → Prop) : Prop := ∀ s t, P s → step s = .next t → P t

/-- A state that steps reach from another. -/
inductive Reaches : State → State → Prop where
  | refl (s : State) : Reaches s s
  | step (s t u : State) : Reaches s t → Sys2Proof.Machine.step t = .next u → Reaches s u

/-- No step from a state with `P` ends in a fault or a refusal. -/
def NeverStops (P : State → Prop) : Prop := ∀ s, P s → ∃ t, step s = .next t

/-- The device serves a management write of a register of family `fam`: it is on, READY, not stopped for a power cycle, holds no
requests (R700, R765), and the family's block responds (R42, R43). -/
def Serves (s : State) (fam : Nat) : Prop :=
  s.power.on = true ∧ bootReady s = true ∧ s.referee.cycling = false ∧ mgmtHeld s = false ∧
    (alwaysOnFam fam || s.fabricOn) = true

/-- The same for a register of unit `u`, which no fence closes (R747). -/
def ServesUnit (s : State) (fam : Nat) (u : ResetUnit) : Prop := Serves s fam ∧ unitFenced s u = false

/-- A request of the host is next on a queue pair in RTS, and the device holds no requests and has no huddle under way. -/
def TakesRequest (s : State) (qp psn : Nat) : Prop :=
  (s.qp qp).state = .rts ∧ psn = (s.qp qp).rpsn ∧ psn < 2 ^ 24 ∧ mgmtHeld s = false ∧ s.power.huddle = none

/-- The group that `ref` names has its turn on its issue unit (R247) and gathers the threads of `x` at one address, picked by R248 and
R249; the word that the context's translations fetch there is legal, and its executing threads have no access unanswered; `u` is the
state with the issue noted, the pipe taken and the budget running. -/
def Gathers (s : State) (ref : Sys2Proof.GroupRef) (x : Issued) (u : State) : Prop :=
  ∃ g pc bs v, s.group (groupKey ref) = some g ∧ g.pick = some pc ∧ hasTurn s (groupKey ref) g = true ∧ pc < g.prog.codeBytes ∧
    ctxRead s (some (.core g.core)) (s.queue g.q).owner .fetch (g.prog.code + pc) 8 = (.ok (.inl bs), v) ∧
    wIllegal (leNat bs) = false ∧
    x = { gk := groupKey ref
          g := { g.mapLanes (g.at' pc) (fun t => { t with since := g.issues + 1, wait := .ready }) with issues := g.issues + 1 }
          q := g.q
          pc := pc
          word := leNat bs
          all := g.at' pc
          lanes := (g.at' pc).filter (fun l => ((g.thread l).pred (wPreg (leNat bs))) ^^ wPneg (leNat bs)) } ∧
    (∀ l ∈ x.lanes, (g.thread l).owed = []) ∧
    u = startBudget (takeTurn (v.setGroup (groupKey ref) (some x.g)) (groupKey ref) g (leNat bs)) g.q

/-- What an instruction of a class whose OP numbers the spec does not give makes: `t`, or ILLEGAL where its OP is reserved (R263; log
105). -/
def unlessReservedOp (u : State) (x : Issued) (t : State) : State :=
  if Config.opReserved (wClass x.word) (wOp x.word) then x.fault u 0x06 0 x.all else t

/-- Every address that threads go to lies in the program. -/
def Within (x : Issued) (dest : List (Nat × Int)) : Prop := ∀ lp ∈ dest, 0 ≤ lp.2 ∧ lp.2 < (x.g.prog.codeBytes : Int)

/-- The state once the threads of an instruction have gone to their addresses, with `g` as the group. -/
def moved (s : State) (x : Issued) (g : Group) (dest : List (Nat × Int)) : State :=
  s.setGroup x.gk (some ((dest.foldl (fun (g : Group) lp => g.goto lp.1 lp.2.toNat) g).converge))

/-- No line of `n` bytes at a local address holds an error. -/
def Clean (s : State) (a n : Nat) : Bool := (linesOf a n).all (fun l => !s.ue.contains l && !s.ce.contains l)

end Sys2Proof.Safety
end

