-- ==== Sys2Proof/WellFormed.lean ====
section
/-! DEFINITION. Which commands are well formed: those whose operands lie in the ranges that the spec's encodings give them. Most
operands cannot lie elsewhere, because their types have exactly the range of the field. -/

namespace Sys2Proof

/-- An Ihlique packet whose fields fit the header of R617, and whose payload is as long as R618 allows. -/
def Packet.wf (p : Packet) : Bool :=
  decide (p.typ < 16 ∧ p.dst < 64 ∧ p.src < 64 ∧ p.epoch < 256 ∧ p.txid < 4096 ∧ p.txgen < 4096 ∧ p.len < 2048 ∧
    p.hops < 16 ∧ p.op < 256 ∧ p.laddr < 2 ^ 40 ∧ p.payload.length ≤ 1040 ∧ p.cls < 4)

/-- A court below 16, a core below 68, or a way of a slice below 16 (R808). -/
def inspectUnitOk (kind : Fin 3) (unit : Fin 68) (way : Fin 16) : Bool :=
  decide ((kind.val = 1 ∨ unit.val < 16) ∧ (kind.val = 2 ∨ way.val = 0))

/-- Whether a command is well formed. -/
def Instr.wf : Instr → Bool
  | .send _ _ _ data => decide (data.length ≤ 65536)
  | .rdmaWrite _ _ _ _ _ data => decide (data.length < 2 ^ 32)
  | .rdmaRead _ _ _ _ _ len => decide (len.toNat < 2 ^ 31)
  | .compareAndSwap .. => true
  | .fetchAndAdd .. => true
  | .ackReceived .. => true
  | .nakReceived .. => true
  | .ackTimeout .. => true
  | .doorbellRecord _ data => decide (data.length ≤ 1040)
  | .create .. => true
  | .destroy .. => true
  | .destroyStopTimeout .. => true
  | .destroyRelease .. => true
  | .destructionEnds .. => true
  | .set .. => true
  | .resume .. => true
  | .query .. => true
  | .queueCreate .. => true
  | .queueDestroy .. => true
  | .queueQuery .. => true
  | .commandAtHead .. => true
  | .waitExamine .. => true
  | .waitTimeout .. => true
  | .remoteFenceRead .. => true
  | .commandStart .. => true
  | .aging .. => true
  | .sliceEnd .. => true
  | .fwFallback .. => true
  | .preload .. => true
  | .benchSwap .. => true
  | .benchCheck .. => true
  | .deadlockSearch .. => true
  | .scoreboardUpdate .. => true
  | .scoreboardWalk .. => true
  | .nop .. => true
  | .free .. => true
  | .fePartCommit .. => true
  | .whistleReport .. => true
  | .whistleTimeout .. => true
  | .fldFmtDefault .. => true
  | .fldScrubCfg .. => true
  | .fldSpareMap .. => true
  | .courtRemap .. => true
  | .field .. => true
  | .bundle .. => true
  | .scheduleCycle .. => true
  | .networkTransferArrival .. => true
  | .dmaComplete .. => true
  | .heavyHoldExpiry .. => true
  | .fieldEnd .. => true
  | .courtScrub .. => true
  | .courtScrubEnd .. => true
  | .droopDetect .. => true
  | .stretchEnd .. => true
  | .launch .. => true
  | .blockStart .. => true
  | .intOp .. => true
  | .fp32Op .. => true
  | .fp16x2Op .. => true
  | .cvtOp .. => true
  | .sfuOp .. => true
  | .moveOp .. => true
  | .setteam .. => true
  | .laneOp .. => true
  | .globalMem .. => true
  | .localMem .. => true
  | .atomicOp .. => true
  | .fenceOp .. => true
  | .sample .. => true
  | .vin .. => true
  | .vout .. => true
  | .interp .. => true
  | .cout .. => true
  | .zout .. => true
  | .kill .. => true
  | .tread .. => true
  | .branch .. => true
  | .call .. => true
  | .ret .. => true
  | .exit .. => true
  | .converge .. => true
  | .convergeHoldExpiry .. => true
  | .groupBarrier .. => true
  | .blockBarrier .. => true
  | .amma .. => true
  | .ammaComplete .. => true
  | .waittok .. => true
  | .groupEnd .. => true
  | .launchEnd .. => true
  | .mergeDrain .. => true
  | .coreScrub .. => true
  | .coreScrubEnd .. => true
  | .shaSpareMap .. => true
  | .coreRemap .. => true
  | .render .. => true
  | .tilerWrite .. => true
  | .binningEnd .. => true
  | .partialRender .. => true
  | .partialRenderEnd .. => true
  | .tileBufferGrant .. => true
  | .tileLoadDone .. => true
  | .tileShaded .. => true
  | .spillDone .. => true
  | .writebackDone .. => true
  | .pipeEnable .. => true
  | .pipeDisable .. => true
  | .frameBoundary .. => true
  | .present .. => true
  | .fetchUnderflow _ _ _ n => decide (1 ≤ n.toNat)
  | .layerFetch .. => true
  | .frameRecord .. => true
  | .lyrCommit .. => true
  | .lyrLayerOwner .. => true
  | .lyrSigRegion .. => true
  | .lyrSigCtrl .. => true
  | .lyrTiming .. => true
  | .hotPlug .. => true
  | .linkTrainingEnd .. => true
  | .trainRetry .. => true
  | .dpxStream .. => true
  | .memSdCommit .. => true
  | .sdZeroingEnd .. => true
  | .tableWalk .. => true
  | .patrol .. => true
  | .sdTempUpdate .. => true
  | .memScRetire .. => true
  | .memQosCfg .. => true
  | .invalRange .. => true
  | .invalAll .. => true
  | .rootSwitch .. => true
  | .rowRemap .. => true
  | .portEnable .. => true
  | .portDisable .. => true
  | .phyPowered .. => true
  | .phyPoweredDown .. => true
  | .linkUp .. => true
  | .linkDown .. => true
  | .tc10SleepRequest .. => true
  | .tc10Wake .. => true
  | .tc10WakeTimeout .. => true
  | .frameTransmit .. => true
  | .unclassifiedFrame .. => true
  | .qpStart .. => true
  | .qpStop .. => true
  | .qpQuery .. => true
  | .keyLoad .. => true
  | .keyRevoke .. => true
  | .streamStart .. => true
  | .streamStop .. => true
  | .avtpPacket _ _ _ _ _ _ _ data => decide (data.length ≤ 9000)
  | .talkerFrame .. => true
  | .syncMessage .. => true
  | .announceMessage .. => true
  | .peerDelayRequest .. => true
  | .syncTransmit .. => true
  | .syncTimeout .. => true
  | .holdoverExpiry .. => true
  | .timCfg .. => true
  | .ethRefclkLost .. => true
  | .iqlPortEnable .. => true
  | .iqlPortDisable .. => true
  | .keyExchange .. => true
  | .iqlPortOn .. => true
  | .iqlStartRetry .. => true
  | .iqlLanesDown .. => true
  | .iqlLinkDown .. => true
  | .laneRetrain .. => true
  | .rekey .. => true
  | .linkReplay .. => true
  | .read _ _ p => p.wf && decide (p.typ = 0)
  | .readRsp _ _ p => p.wf && decide (p.typ = 1)
  | .write _ _ p => p.wf && decide (p.typ = 2)
  | .writeAck _ _ p => p.wf && decide (p.typ = 3)
  | .atomicPacket _ _ p => p.wf && decide (p.typ = 4)
  | .atomicRsp _ _ p => p.wf && decide (p.typ = 5)
  | .doorbell _ _ p => p.wf && decide (p.typ = 6)
  | .fenceNotice _ _ p => p.wf && decide (p.typ = 7)
  | .announce _ _ p => p.wf && decide (p.typ = 8)
  | .txTimeout .. => true
  | .iqlRoute .. => true
  | .iqlPortCtrl .. => true
  | .bulk .. => true
  | .channelEnable .. => true
  | .channelDisable .. => true
  | .channelPowered .. => true
  | .compress .. => true
  | .decompress .. => true
  | .domainStart .. => true
  | .domainStop .. => true
  | .domainOn .. => true
  | .domainOff .. => true
  | .padRelease .. => true
  | .clockStep .. => true
  | .targetActive .. => true
  | .targetStandby .. => true
  | .targetWatch .. => true
  | .huddleAnswer .. => true
  | .huddleDelayExpiry .. => true
  | .watchSaveDone .. => true
  | .wake .. => true
  | .watchRestoreDone .. => true
  | .idleEntry .. => true
  | .watchPeriod _ samples => decide (samples.length ≤ 65536)
  | .estimateTick .. => true
  | .measuredSample .. => true
  | .controlTick .. => true
  | .recal .. => true
  | .recalRetry .. => true
  | .pwrCapMw .. => true
  | .pwrDomainPermit .. => true
  | .pwrFixedMode .. => true
  | .issueLimit .. => true
  | .rampCycles .. => true
  | .pwrWatchSave .. => true
  | .pwrWatchCfg .. => true
  | .sensorRead .. => true
  | .throttleStepUp .. => true
  | .throttleStepDown .. => true
  | .railFault .. => true
  | .porstNAssert .. => true
  | .pwrFail .. => true
  | .powerRestored .. => true
  | .budgetOverrun .. => true
  | .stopBoundMiss .. => true
  | .fenceDrainEnd .. => true
  | .resetEnd .. => true
  | .replay .. => true
  | .sharedUnitTimeout .. => true
  | .chipReset .. => true
  | .chipRecoveryTimeout .. => true
  | .powerCycleReq .. => true
  | .trayReqHoldoffEnd .. => true
  | .watchdogExpiry .. => true
  | .refBudgetMargin .. => true
  | .refFaultRing .. => true
  | .inspectionDue kind unit => decide (kind.val = 1 ∨ unit.val < 16)
  | .stwInspectReq .. => true
  | .inspection kind unit way => inspectUnitOk kind unit way
  | .inspectionEnd kind unit way _ _ => inspectUnitOk kind unit way
  | .journalAppend .. => true
  | .tokenRefill .. => true
  | .evrCfg .. => true
  | .freeze .. => true
  | .thaw .. => true
  | .freezeTimeout .. => true
  | .flush .. => true
  | .flushDone .. => true
  | .stwCaptureStatus .. => true
  | .boot _ _ _ _ silent _ => decide (silent.length ≤ 65535)
  | .recoveryStatus op _ _ _ _ _ => decide (op.toNat < 2 ∨ 6 < op.toNat)
  | .recoveryRead .. => true
  | .erase .. => true
  | .recoveryWrite _ _ _ _ _ data => decide (data.length ≤ 1024)
  | .verify .. => true
  | .restart .. => true
  | .calRead .. => true
  | .calWrite .. => true
  | .cfgRead .. => true
  | .cfgWrite .. => true
  | .update .. => true
  | .attest .. => true
  | .identityRead .. => true
  | .claim .. => true
  | .release .. => true
  | .macsecInstall .. => true
  | .macsecSelect .. => true
  | .hostTimerAlarm .. => true
  | .trayWake .. => true
  | .entdaa .. => true
  | .dpxLinkCtrl .. => true
  | .lossOfLock .. => true
  | .iqlLinkRetrain .. => true
  | .retrainEnd .. => true
  | .lpTempUpdate .. => true
  | .refclkLost .. => true
  | .alwaysOnSupplyLost .. => true
  | .tck .. => true
  | .trstN .. => true
  | .feCtxTableBase .. => true
  | .ethQpTableBase .. => true
  | .ethPortMac .. => true
  | .lyrWbCtrl .. => true
  | .iqlCfg .. => true
  | .invalidRequest .. => true

end Sys2Proof
end

