-- ==== Sys2Proof/Certificates/Slice0/Obligations.lean ====
section
/-! DEFINITION. The statements for the provers. -/

open Sys2Proof Sys2Proof.Machine Sys2Proof.Safety

/-! ### The machine as a whole -/

/-- A step takes the command at the front of the queue and runs it on the state with the queue's rest. -/
def Obligations.StepRunsFrontCommand : Prop :=
  ∀ (s : State) (c : Instr) (rest : List Instr), s.pending = c :: rest → step s = exec c { s with pending := rest }

/-- With no command waiting, a nanosecond of network time passes and what waited goes on; in OFF nothing happens (the model's
choice, log 2). No command stops the device: from every state, every command answers a next state. -/
def Obligations.EveryStepAnswers : Prop :=
  (∀ s : State, s.pending = [] →
     (s.power.on = false → step s = .next s) ∧
     (s.power.on = true → step s = .next (idleNote (jobsGo (resumeDestroys (updateTick (upsetTick (queueTick (tick s)))))))) ∧
     (s.now + 1 < 2 ^ 64 → (tick s).now = s.now + 1)) ∧
  (∀ (c : Instr) (s : State), ∃ t, exec c s = .next t)

/-- After reset: every register at its reset value, the device OFF and BOOTING, no domain ON, all memory reading 0 (log 4),
no command waiting, and the boundary-scan port with IDCODE selected (R853, R877). -/
def Obligations.ResetLeaves : Prop :=
  (∀ fam i, State.reset.rd fam i = regReset (Reg.key fam i)) ∧ State.reset.power.on = false ∧
  State.reset.fld F.stwBootStatusState = 0 ∧ (∀ d, d < 29 → State.reset.domOn d = false) ∧ (∀ a, State.reset.byte a = 0) ∧
  State.reset.pending = [] ∧ State.reset.stw.tap.st = .reset ∧ State.reset.stw.tap.ir = 2 ∧
  State.reset.fld F.stwIdDevice = 0x2048 ∧ State.reset.fld F.pwrStatusArithMhz = 1250

/-- The memory of every state that a step reaches from one with canonical memory is canonical. -/
def Obligations.MemoryStaysCanonical : Prop := Kept (fun s => Memory.wf s.mem = true)

/-- Memory is canonical after reset. -/
def Obligations.ResetMemoryCanonical : Prop := Memory.wf State.reset.mem = true

/-- The anti-rollback fuses (R816): no step lowers their number; an image with COMMIT_SVN that reaches READY, and whose SVN passed the
check against them, leaves as many blown as its SVN; and MIN_SVN shows their number at every boot. -/
def Obligations.FusesNeverFall : Prop :=
  (∀ s t : State, step s = .next t → s.stw.fuses ≤ t.stw.fuses) ∧
  (∀ (s : State) (img bs : List Byte) (ppr : List Nat), imageCommit img = true → s.stw.fuses ≤ imageSvn img → imageSvn img ≤ 64 →
    (bootReadyUp s img bs ppr).stw.fuses = imageSvn img ∧
    (bootReadyUp s img bs ppr).fld F.stwImageMinSvn = imageSvn img) ∧
  (∀ (s : State) (f r : Bool) (a : Nat), s.stw.fuses ≤ 64 →
    (bootStart s f r a).fld F.stwImageMinSvn = (bootStart s f r a).stw.fuses)

/-- A management write has no effect while the device is OFF, has not booted, has stopped for a power cycle or holds requests, and
is refused with RESOURCE_BUSY while the register's block does not respond. -/
def Obligations.HeldWritesDoNothing : Prop :=
  ∀ (s : State) (v : W32) (w : W64) (q : Fin 4) (c : Fin 16),
    (s.power.on = false ∨ bootReady s = false ∨ s.referee.cycling = true ∨ mgmtHeld s = true →
      exec (.pwrCapMw v) s = .next s ∧ exec (.calRead) s = .next s ∧ exec (.evrCfg v) s = .next s ∧
      exec (.create v) s = .next s ∧ exec (.qpStart v) s = .next s ∧ exec (.fldSpareMap c w) s = .next s ∧
      exec (.iqlPortCtrl q v) s = .next s ∧ exec (.channelEnable q) s = .next s ∧ exec (.pipeEnable q true 0) s = .next s ∧
      exec (.refFaultRing w) s = .next s ∧ exec (.memQosCfg v) s = .next s) ∧
    (s.power.on = true → bootReady s = true → s.referee.cycling = false → mgmtHeld s = false → s.fabricOn = false →
      exec (.create v) s = .next (s.answer stBusy) ∧ exec (.qpStart v) s = .next (s.answer stBusy) ∧
      exec (.fldSpareMap c w) s = .next (s.answer stBusy) ∧ exec (.refFaultRing w) s = .next (s.answer stBusy) ∧
      exec (.memQosCfg v) s = .next (s.answer stBusy) ∧ exec (.pipeEnable q true 0) s = .next (s.answer stBusy) ∧
      exec (.channelEnable q) s = .next (s.answer stBusy) ∧ exec (.iqlPortCtrl q v) s = .next (s.answer stBusy))

/-! ### Contexts and queues (spec/10) -/

/-- CREATE, SET and QUEUE_CREATE with records that pass their checks: the new context or queue, the outcome in FE_OP_RESULT and as
the management status. Reading the record may correct lines (R435), which changes no context, queue or byte. -/
def Obligations.RecordsMakeContextsAndQueues : Prop :=
  ∀ (s : State) (arg : W32), Serves s Reg.feOp →
    (arg.toNat ≤ 4095 → (s.ctx arg.toNat).state = .free → s.fld F.memSdCommitGo = 0 →
      s.exists? (ctxRecordAddr s arg.toNat) = true → s.bad (ctxRecordAddr s arg.toNat) 64 = false →
      ∀ w, w = tabulate 8 (fun i => s.word (ctxRecordAddr s arg.toNat + 8 * i)) →
        ctxRootsOk s w = true → ctxWordsOk s (w.getD 2 0) (w.getD 3 0) (w.getD 4 0) = true →
        ∃ t, exec (.create arg) s = .next t ∧ t.mgmt = stOk ∧
          t.rd Reg.feOpResult = (mkHandle arg.toNat (nextGen 20 (s.ctx arg.toNat).gen)).setWidth 64 ∧
          t.ctx arg.toNat =
            (({ state := .active, gen := nextGen 20 (s.ctx arg.toNat).gen, root0 := pteAddr (w.getD 0 0),
                root1 := pteAddr (w.getD 1 0), sel := bitsOf (w.getD 1 0) 0 0 = 1,
                part := bitsOf (w.getD 2 0) 63 60 } : Ctx).limits (w.getD 2 0) (w.getD 3 0) (w.getD 4 0)) ∧
          (∀ j, j ≠ arg.toNat → t.ctx j = s.ctx j) ∧ (∀ j, t.queue j = s.queue j) ∧ (∀ a, t.byte a = s.byte a)) ∧
    (s.staleCtx arg = false → (s.ctx (hIndex arg)).state = .active → (s.ctx (hIndex arg)).newPart = none →
      s.exists? (ctxRecordAddr s (hIndex arg) + 16) = true → s.bad (ctxRecordAddr s (hIndex arg) + 16) 24 = false →
      ∀ w, w = tabulate 3 (fun i => s.word (ctxRecordAddr s (hIndex arg) + 16 + 8 * i)) →
        ctxWordsOk s (w.getD 0 0) (w.getD 1 0) (w.getD 2 0) = true →
        ∃ t, exec (.set arg) s = .next t ∧ t.mgmt = stOk ∧ t.rd Reg.feOpResult = 0 ∧
          (t.ctx (hIndex arg)).waitMs = (if bitsOf (w.getD 0 0) 59 40 = 0 then 10000 else bitsOf (w.getD 0 0) 59 40) ∧
          (t.ctx (hIndex arg)).shaderMs = (if bitsOf (w.getD 0 0) 39 24 = 0 then 2000 else bitsOf (w.getD 0 0) 39 24) ∧
          (t.ctx (hIndex arg)).part =
            (if ctxRunning s (s.handleOf (hIndex arg)) then (s.ctx (hIndex arg)).part else bitsOf (w.getD 0 0) 63 60) ∧
          (t.ctx (hIndex arg)).state = .active ∧ (∀ j, j ≠ hIndex arg → t.ctx j = s.ctx j) ∧
          (∀ a, (∀ kv ∈ s.queues, kv.2.slot.isSome = true → a < queueRecordAddr s kv.1 + 24 ∨ queueRecordAddr s kv.1 + 64 ≤ a) →
            t.byte a = s.byte a)) ∧
    (arg.toNat ≤ 16383 → (s.queue arg.toNat).state = .free →
      s.exists? (queueRecordAddr s arg.toNat) = true → s.bad (queueRecordAddr s arg.toNat) 64 = false →
      ∀ w, w = tabulate 8 (fun i => s.word (queueRecordAddr s arg.toNat + 8 * i)) →
        s.staleCtx (BitVec.ofNat 32 (bitsOf (w.getD 0 0) 63 32)) = false →
        (s.ctx (hIndex (BitVec.ofNat 32 (bitsOf (w.getD 0 0) 63 32)))).state = .active →
        queueWordsOk w = true →
        (bitsOf (w.getD 0 0) 29 29 = 1 → bitsOf (w.getD 0 0) 31 30 = 0 ∧ ondeckCount s < 8) →
        ∃ t, exec (.queueCreate arg) s = .next t ∧ t.mgmt = stOk ∧
          t.rd Reg.feOpResult = (mkQHandle arg.toNat (nextGen 18 (s.queue arg.toNat).gen)).setWidth 64 ∧
          (bitsOf (w.getD 0 0) 29 29 = 0 ∨ roundRobin s = true →
            t.queue arg.toNat =
              { state := .active, gen := nextGen 18 (s.queue arg.toNat).gen,
                owner := BitVec.ofNat 32 (bitsOf (w.getD 0 0) 63 32), priority := bitsOf (w.getD 0 0) 31 30,
                ondeck := bitsOf (w.getD 0 0) 29 29 = 1, remoteDb := bitsOf (w.getD 0 0) 28 28 = 1,
                ringLog2 := bitsOf (w.getD 0 0) 27 23, cqLog2 := bitsOf (w.getD 0 0) 22 18, ring := bitsOf (w.getD 1 0) 63 16,
                cq := bitsOf (w.getD 2 0) 63 16, since := s.now } ∧
            (∀ j, j ≠ arg.toNat → t.queue j = s.queue j) ∧ (∀ j, t.ctx j = s.ctx j) ∧ (∀ a, t.byte a = s.byte a)) ∧
          (bitsOf (w.getD 0 0) 29 29 = 1 → roundRobin s = false →
            ∀ sl, freeSlot s (s.ctx (hIndex (BitVec.ofNat 32 (bitsOf (w.getD 0 0) 63 32)))).part = some sl →
              (t.queue arg.toNat).slot = some sl ∧ (t.queue arg.toNat).ondeck = true ∧ (t.queue arg.toNat).state = .active ∧
              (∀ j, j ≠ arg.toNat → t.queue j = s.queue j) ∧ (∀ a, t.byte a = s.byte a)))

/-- DESTROY, RESUME, QUERY, QUEUE_DESTROY and QUEUE_QUERY of handles in force: their effect and outcome, and that a stale handle is
counted and refused with INVALID_COMMAND. -/
def Obligations.HandleOperations : Prop :=
  ∀ (s : State) (h : W32), Serves s Reg.feOp →
    (s.staleCtx h = true → ∀ c ∈ [Instr.destroy h, .set h, .resume h, .query h],
      exec c s = .next (feResult (s.bump F.feStaleCountCount) stInvalid 0 0)) ∧
    (s.staleQueue h = true → ∀ c ∈ [Instr.queueDestroy h, .queueQuery h],
      exec c s = .next (feResult (s.bump F.feStaleCountCount) stInvalid 0 0)) ∧
    (s.staleCtx h = false →
      (exec (.query h) s = .next (feResult s stOk (s.ctx (hIndex h)).state.code (s.ctx (hIndex h)).fbCount)) ∧
      ((s.ctx (hIndex h)).state ≠ .destroying →
        exec (.destroy h) s = .next (feResult
          (let u := s.setCtx (hIndex h)
             { s.ctx (hIndex h) with state := .destroying, destroyAt := s.now, destroyStep := 0, useFb := false }
           let v := (queuesOf u h).foldl advance (placeHeld u (hIndex h))
           if recovering v then v else destroyBegin v (hIndex h)) stOk 0 0)) ∧
      ((s.ctx (hIndex h)).state = .hostlost →
        ∀ u, u = flushHeld (s.ctx (hIndex h)).held.length
            (s.setCtx (hIndex h) { s.ctx (hIndex h) with state := .active, useFb := false, fbCount := 0 }) (hIndex h) →
          exec (.resume h) s = .next (feResult ((queuesOf u h).foldl (fun v qi =>
            if (v.queue qi).phase = .waiting then v.setQueue qi { v.queue qi with since := v.now } else advance v qi) u)
            stOk 0 0))) ∧
    (s.staleQueue h = false →
      (exec (.queueQuery h) s = .next (feResult s stOk (if (s.queue (qIndex h)).state = .active then 1 else 2) 0)) ∧
      ((s.queue (qIndex h)).state = .active →
        exec (.queueDestroy h) s = .next (feResult (stopQueue s (qIndex h)) stOk 0 0)))

/-- The steps of a destruction (R536 to R540), each under its conditions. -/
def Obligations.DestructionSteps : Prop :=
  ∀ (s : State) (i : Fin 4096), (s.ctx i).state = .destroying →
    ((s.ctx i).destroyStep = 1 → (s.ctx i).destroyAt + 50000000 ≤ s.now →
      exec (.destroyStopTimeout i) s = .next (destroyReset s i)) ∧
    ((s.ctx i).destroyStep = 1 → (s.ctx i).destroyAt + 50000000 > s.now → exec (.destroyStopTimeout i) s = .next s) ∧
    ((s.ctx i).destroyStep = 1 → queuesOf s (s.handleOf i) = [] → exec (.destroyRelease i) s = .next (destroyRelease s i)) ∧
    ((s.ctx i).destroyStep = 2 →
      (releasesLeft s (s.handleOf i) = false ∨ (s.ctx i).destroyAt + 200000000 ≤ s.now) → (∀ kv ∈ s.keys, kv.2.revoking = true → kv.2.owner ≠ s.handleOf i) →
      ∃ t, exec (.destructionEnds i) s = .next t ∧ t = destructionEnds s i ∧ (t.ctx i).state = .free)

/-- Fetching, waits and starts of head commands (R496, R497, R509, R513, R514, R518), and a completion by time-out. -/
def Obligations.HeadCommands : Prop :=
  ∀ (s : State) (q : Fin 16384), feRuns s = true →
    ((s.queue q).phase = .empty → fetches s (s.queue q) = true → cqFull (s.queue q) = false → served s (s.queue q) = true →
      exec (.commandAtHead q) s = .next (fetchOn 2 s q)) ∧
    ((s.queue q).phase = .waiting → blockedWait s (s.queue q) = true → served s (s.queue q) = true →
      (∀ a u, xlate s none (s.queue q).owner .load (s.queue q).waitAddr = (.ok (.mem a), u) → u.bad a 8 = false →
        (∃ t, exec (.waitExamine q) s = .next t ∧
          ((s.queue q).waitValue ≤ u.readNat a 8 % 2 ^ 63 → (t.queue q).phase = .ready) ∧
          (u.readNat a 8 < 2 ^ 63 → u.readNat a 8 < (s.queue q).waitValue → (t.queue q).phase = .waiting))) ∧
      ((s.queue q).waitMs * 1000000 ≤ (s.queue q).waited →
        exec (.waitTimeout q) s = .next (complete (s.bump F.feWaitTimeoutsCount) q stTimeout)) ∧
      (∀ v : W64, fenceReadOut s q = true → (s.queue q).waitValue ≤ v.toNat % 2 ^ 63 →
        ∃ t, exec (.remoteFenceRead q (some v)) s = .next t ∧ (t.queue q).phase = .ready)) ∧
    (∀ u : UnitRef, pick s u = some q.val →
      (roundRobin s = true → (s.queue q).slot.getD 0 = s.rrSlot → sliceLeft s = true) →
      (∀ c, u = .channel c → s.fld F.cdeChanStatusState c = lcOn) →
      ∃ t, exec (.commandStart u) s = .next t ∧
        t.queue q =
          { s.queue q with phase := .running, on := some u, begun := false, startTime := s.now,
                           startSeq := s.startSeq + 1, since := s.now, preloaded := false,
                           units := startUnits s u (queuePart s (s.queue q)),
                           used := match u with
                             | .quarters _ => []
                             | _ => startUnits s u (queuePart s (s.queue q)) } ∧
        (∀ j, j ≠ q.val → t.queue j = s.queue j) ∧ (∀ a, t.byte a = s.byte a) ∧ t.regs = s.regs)

/-- The scheduler's slots: aging, the end of a visit, the fallback of the scheduler's firmware, preloads, the bench, the deadlock
search and the scoreboard (R519, R523, R527, R529 to R535, R544, R545). -/
def Obligations.SchedulerWork : Prop :=
  ∀ (s : State) (q : Fin 16384) (part : Fin 16),
    ((s.queue q).phase = .ready → 2 ≤ (s.queue q).priority → roundRobin s = false →
      s.fld F.feSchedCfgAgeMs * 1000000 < (s.queue q).readyFor →
      exec (.aging q) s = .next (s.setQueue q { s.queue q with aged := true })) ∧
    (roundRobin s = true → s.rrSince.isSome = true → sliceLeft s = false →
      exec .sliceEnd s = .next { s with rrSlot := (s.rrSlot + 1) % 128, rrSince := none }) ∧
    (feRuns s = true →
      (∃ t, exec .fwFallback s = .next t ∧ t.fld F.feSchedCfgMode = 1 ∧ t.fld F.feSchedCfgFwFallback = 1) ∧
      ((s.queue q).ondeck = true → (s.queue q).state = .active → roundRobin s = false →
        (s.ctx (hIndex (s.queue q).owner)).state = .active → (s.queue q).preloaded = false →
        exec (.preload q) s = .next (preloadNext s q) ∧
        ((s.queue q).phase = .waiting → ∃ t, exec (.preload q) s = .next t ∧
          t.queue q = { s.queue q with preloaded := true } ∧ (∀ j, j ≠ q.val → t.queue j = s.queue j))) ∧
      (roundRobin s = false → (s.queue q).state = .active → (s.queue q).slot = none → condOf s (s.queue q) = .ready →
        ∀ sl, freeSlot s (queuePart s (s.queue q)) = some sl →
          exec (.benchSwap q) s = .next (placeQueue s q sl) ∧
          ((placeQueue s q sl).queue q).slot = some sl ∧ (∀ j, j ≠ q.val → (placeQueue s q sl).queue j = s.queue j) ∧
          ((s.exists? (queueRecordAddr s q + 24) = true → s.bad (queueRecordAddr s q + 24) 16 = false →
            ((placeQueue s q sl).queue q).tail.toNat = s.readNat (queueRecordAddr s q + 28) 4 ∧
            ((placeQueue s q sl).queue q).head.toNat = s.readNat (queueRecordAddr s q + 24) 4))) ∧
      (roundRobin s = false →
        exec .benchCheck s = .next ((List.range 16).foldl (fun s p => match benchedReady s p with
          | none => s
          | some qi => if (residents s p).isEmpty then s else swapIn s qi true) s)) ∧
      exec (.deadlockSearch part) s = .next (deadlockSearch s part) ∧
      exec .scoreboardUpdate s = .next ((liveCtxs s).foldl writeScore (usageSettle s))) ∧
    (∃ t, exec .scoreboardWalk s = .next t ∧ t.mem = s.mem ∧ t.regs = s.regs ∧ t.queues = s.queues ∧
      ∀ i, t.ctx i = if i ∈ liveCtxs s then
          { s.ctx i with
            sdBytes := (mappedBytes s 3 (if (s.ctx i).sel then (s.ctx i).root1 else (s.ctx i).root0)).1
            lpBytes := (mappedBytes s 3 (if (s.ctx i).sel then (s.ctx i).root1 else (s.ctx i).root0)).2 }
        else s.ctx i)

/-- NOP and FREE on the front end (R496): a NOP completes with SUCCESS, or with what asked it to stop; a FREE completes once every
command submitted before it has, and only begins until then. -/
def Obligations.NopAndFree : Prop :=
  ∀ (s : State) (q : Fin 16384),
    (starting s q 0 = true →
      exec (.nop q) s = .next (complete (beginCmd s q none) q ((s.queue q).stopReq.getD stOk))) ∧
    ((s.queue q).phase = .running → (s.queue q).kind = 8 → (s.queue q).stopReq = none →
      ∀ n u, n = seqOf (s.queue q) (match (s.queue q).cmd with
          | none => (s.queue q).head
          | some c => c.entry) →
        u = (if (s.queue q).begun then s else beginCmd s q none) →
        exec (.free q) s = .next (if earlierDone u (s.queue q).owner n q then complete u q stOk else u))

/-- The registers of the front end (R525, R547): the bases while no context lives, FE_SCHED_CFG, and FE_PART_CFG staged. A
doorbell record with one submission: its bytes land in the next slot of the doorbell ring and TAIL moves; nothing outside the
slot is stored but the pointers in the record of a queue that holds no slot (R488, R505 to R507). -/
def Obligations.FrontEndRegistersAndDoorbells : Prop :=
  (∀ (s : State) (v : W64) (p : Fin 16), Serves s Reg.feCtxTableBase →
     (liveCtxs s = [] →
       exec (.feCtxTableBase .ctxTable v) s = .next ((s.wrPlain Reg.feCtxTableBase 0 v).answer stOk) ∧
       exec (.feCtxTableBase .queueTable v) s = .next ((s.wrPlain Reg.feQueueTableBase 0 v).answer stOk) ∧
       exec (.feCtxTableBase .score v) s = .next ((s.wrPlain Reg.feScoreBase 0 v).answer stOk) ∧
       (4 ≤ bitsOf v 3 0 → bitsOf v 3 0 ≤ 12 →
         exec (.feCtxTableBase .doorbell v) s = .next ((s.wrPlain Reg.feDoorbellBase 0 v).answer stOk)) ∧
       (bitsOf v 3 0 < 4 ∨ 12 < bitsOf v 3 0 →
         exec (.feCtxTableBase .doorbell v) s = .next (s.answer stInvalid))) ∧
     (liveCtxs s ≠ [] → ∀ r ∈ [FeReg.ctxTable, .queueTable, .doorbell, .score],
       exec (.feCtxTableBase r v) s = .next (s.answer stBusy)) ∧
     (bitsOf v 31 24 = 0 ∨ bitsOf v 23 8 = 0 → exec (.feCtxTableBase .schedCfg v) s = .next (s.answer stInvalid)) ∧
     (s.fld F.fePartCommitGo = 1 → exec (.fePartCommit (v.setWidth 32 ||| 1)) s = .next (s.answer stBusy)) ∧
     (bitsOf v 31 24 ≠ 0 → bitsOf v 23 8 ≠ 0 →
       exec (.feCtxTableBase .schedCfg v) s = .next ((s.wrPlain Reg.feSchedCfg 0 v).answer stOk)) ∧
     (bitsOf v 7 0 ≤ 128 →
       exec (.feCtxTableBase (.partCfg p) v) s = .next ((s.stage Reg.fePartCfg p (v &&& 0xFF#64)).answer stOk)) ∧
     (128 < bitsOf v 7 0 → exec (.feCtxTableBase (.partCfg p) v) s = .next (s.answer stInvalid))) ∧
  (∀ (s : State) (qp : Fin 1024) (h v : W32) (data : List Byte),
     data = leBytes 8 1 ++ leBytes 8 0 ++ leBytes 8 h.toNat ++ leBytes 8 v.toNat →
     (s.validate = true → (s.qp qp).kernel = true) → s.staleQueue h = false → (s.queue (qIndex h)).state = .active →
     (v - (s.queue (qIndex h)).tail).toNat < 2 ^ 31 →
     (v - (s.queue (qIndex h)).head).toNat ≤ 2 ^ (s.queue (qIndex h)).ringLog2 →
     ∃ t, exec (.doorbellRecord qp data) s = .next t ∧ (t.queue (qIndex h)).tail = v ∧
       (t.queue (qIndex h)).head = (s.queue (qIndex h)).head ∧ (∀ j, j ≠ qIndex h → t.queue j = s.queue j) ∧
       t.doorSlot = (s.doorSlot + 1) % 2 ^ s.fld F.feDoorbellBaseSlotsLog2 ∧
       (∀ a, (a < s.fld F.feDoorbellBaseAddr * 2048 + 2048 * s.doorSlot ∨
         s.fld F.feDoorbellBaseAddr * 2048 + 2048 * s.doorSlot + 32 ≤ a) →
         ((s.queue (qIndex h)).slot.isSome = true ∨ a < queueRecordAddr s (qIndex h) + 24 ∨
           queueRecordAddr s (qIndex h) + 40 ≤ a) → t.byte a = s.byte a))
/-! ### The whistle (spec/14) and the courts (spec/03) -/

/-- A participant's report: it is no longer awaited; the last report of a whistle that carries one FLD_FMT_DEFAULT write, with
none waiting behind it, brings the value into force and raises the epoch (R94, R731). A whistle unreported for 1 ms fails
(R731). One that carries a write of FLD_SCRUB_CFG sets MODE, and then LOCK where the write set it (R15, R164, R165). Writes that the
whistle carries: accepted at once, with the register unchanged until the whistle ends (R94, R169, R516, R729). -/
def Obligations.Whistles : Prop :=
  (∀ (s : State) (u : Fin 28), s.whistle.active = true →
     (u.val ∈ s.whistle.waiting → s.whistle.waiting.filter (· ≠ u.val) ≠ [] →
       exec (.whistleReport u) s =
         .next { s with whistle := { s.whistle with waiting := s.whistle.waiting.filter (· ≠ u.val) } }) ∧
     (∀ v : W64, s.whistle.waiting = [u.val] → s.whistle.next = [] →
       s.whistle.carries = [{ change := .fmtDefault, vals := [(Reg.key Reg.fldFmtDefault 0, v)] }] →
       ∃ t, exec (.whistleReport u) s = .next t ∧ t.whistle.active = false ∧ t.fld F.whistleStatusState = 0 ∧
         t.rd Reg.fldFmtDefault = v ∧
         t.fld F.whistleEpochEpoch = (s.fld F.whistleEpochEpoch + 1) % 2 ^ 64 ∧ (∀ a, t.byte a = s.byte a)) ∧
     (∀ (m : Fin 3) (k : Bool), s.whistle.waiting = [u.val] → s.whistle.next = [] →
       s.whistle.carries = [{ change := .scrubMode, vals := [(Reg.key Reg.fldScrubCfg 0, BitVec.ofNat 64 m)], lock := k }] →
       ∃ t, exec (.whistleReport u) s = .next t ∧ t.whistle.active = false ∧ t.fld F.fldScrubCfgMode = m ∧
         t.fld F.fldScrubCfgLock = (if k then 1 else s.fld F.fldScrubCfgLock)) ∧
     (∀ w ws, s.whistle.waiting = w :: ws → w < 256 → (∀ x ∈ ws, w ≤ x) → s.whistle.next = [] →
       s.whistle.began + 1000000 ≤ s.now →
       ∃ t, exec .whistleTimeout s = .next t ∧ t.whistle.active = false ∧ t.whistle.carries = [] ∧
         t.fld F.whistleStatusState = 2 ∧ t.fld F.whistleStatusUnit = w ∧ t.rd Reg.fldFmtDefault = s.rd Reg.fldFmtDefault)) ∧
  (∀ (s : State) (v : W32), s.whistle.active = false →
     (Serves s Reg.fldFmtDefault →
       ∃ t, exec (.fldFmtDefault v) s = .next t ∧ t.mgmt = stOk ∧ t.whistle.active = true ∧
         t.whistle.carries =
           [{ change := .fmtDefault, vals := [(Reg.key Reg.fldFmtDefault 0, BitVec.ofNat 64 (v.toNat % 2))] }] ∧
         t.rd Reg.fldFmtDefault = s.rd Reg.fldFmtDefault) ∧
     (Serves s Reg.fldScrubCfg → bitsOf v 1 0 ≠ 3 →
       (scrubLocked s = false →
         ∃ t, exec (.fldScrubCfg v) s = .next t ∧ t.mgmt = stOk ∧ t.whistle.active = true ∧
           t.whistle.carries =
             [{ change := .scrubMode, vals := [(Reg.key Reg.fldScrubCfg 0, BitVec.ofNat 64 (bitsOf v 1 0))],
                lock := natBit v.toNat 31 }] ∧ t.rd Reg.fldScrubCfg = s.rd Reg.fldScrubCfg) ∧
       (s.fld F.fldScrubCfgLock = 1 →
         ∃ t, exec (.fldScrubCfg v) s = .next t ∧ t.mgmt = stOk ∧ t.whistle = s.whistle ∧
           t.fld F.fldScrubCfgMode = s.fld F.fldScrubCfgMode ∧ t.fld F.fldScrubCfgLock = 1)) ∧
     (Serves s Reg.fePartCommit → natBit v.toNat 0 = true → s.fld F.fePartCommitGo = 0 → layoutReject s (layoutNext s) = none →
       layoutUnpermitted s (layoutOf (layoutVals s)) = none →
       ∃ t, exec (.fePartCommit v) s = .next t ∧ t.mgmt = stOk ∧ t.fld F.fePartCommitGo = 1 ∧ t.whistle.active = true ∧
         t.whistle.carries = [{ change := .layout, vals := layoutVals s }] ∧
         t.rd Reg.fldPartCfg = s.rd Reg.fldPartCfg ∧ t.rd Reg.fePartUnits = s.rd Reg.fePartUnits) ∧
     (Serves s Reg.fePartCommit → natBit v.toNat 0 = true → s.fld F.fePartCommitGo = 0 →
       ∀ st, layoutReject s (layoutNext s) = some st →
         exec (.fePartCommit v) s = .next ((s.setFld F.fePartCommitFailed 0 1).answer st)))

/-- The courts: the pending spare map and its taking effect (R154, R172), scrubs (R160 to R162), a droop detector and the end of
its stretch (R152, R690), and the end of the voltage offset after heavy phases (R689). The upkeep of cores: scrubs, whose end
leaves a core with nothing in it, and its quarter to the partition that a layout gave it to (R51, R301 to R303), the pending spare map and its taking effect (R306, R315). -/
def Obligations.UnitUpkeep : Prop :=
  (∀ (s : State) (c : Fin 16) (v : W64),
     (ServesUnit s Reg.fldSpareMap (.court c) →
       (∀ r, r < 8 → natBit v.toNat (8 * r + 4) = true → natBit v.toNat (8 * r + 5) = false) →
       exec (.fldSpareMap c v) s = .next
         (((s.stage Reg.fldSpareMap c (v &&& 0x3F3F3F3F3F3F3F3F#64)).setFld F.fldCourtStatusRemapPending c 1).answer stOk)) ∧
     (s.fld F.fldCourtStatusRemapPending c = 1 → s.fld F.fldCourtStatusBusy c = 0 →
       ∃ t, exec (.courtRemap c) s = .next t ∧ t.rd Reg.fldSpareMap c = s.rdStaged Reg.fldSpareMap c ∧
         t.fld F.fldCourtStatusRemapPending c = 0 ∧
         t.fld F.fldCourtStatusSparesUsed c = sparesUsed (s.rdStaged Reg.fldSpareMap c) ∧
         (∀ n, n ≠ c.val → t.court n = s.court n) ∧ (∀ a, t.byte a = s.byte a)) ∧
     (s.domOn c = true → s.fld F.fldCourtStatusBusy c = 0 → (s.court c).scrub = .due →
       ∃ t, exec (.courtScrub c) s = .next t ∧ (t.court c).scrub = .running ∧ t.fld F.fldCourtStatusScrubbing c = 1 ∧
         (∀ n, n ≠ c.val → t.court n = s.court n) ∧ (∀ a, t.byte a = s.byte a)) ∧
     ((s.court c).scrub = .running →
       exec (.courtScrubEnd c) s =
         .next (courtSettle ((s.setCourt c (s.court c).scrubbed).setFld F.fldCourtStatusScrubbing c 0) c)) ∧
     (∀ p, s.domOn c = true → courtPart s c = some p →
       exec (.droopDetect (c.castLE (by decide))) s =
         .next ((s.bump F.pwrDroopCountCount).setField p { s.field p with stretched := true })) ∧
     (∀ q : Fin 4, s.domOn (16 + q.val) = true →
       exec (.droopDetect ⟨16 + q.val, by omega⟩) s =
         .next ((s.bump F.pwrDroopCountCount).setQuarter q { s.quarter q with stretched := true })) ∧
     (exec (.stretchEnd (.partition c)) s = .next (s.setField c { s.field c with stretched := false })) ∧
     (∀ q : Fin 4, exec (.stretchEnd (.quarter q)) s = .next (s.setQuarter q { s.quarter q with stretched := false })) ∧
     (∀ h, s.heavyEnd = some h → h + s.fld F.pwrVoltCfgHoldUs * 1000 ≤ s.now →
       exec .heavyHoldExpiry s = .next (railFollow { s.setFld F.pwrStatusHeavy 0 0 with heavyEnd := none }))) ∧
  (∀ (s : State) (c : CoreRef) (k : Fin 4) (v : W32),
     (s.domOn (16 + c.quarter.val) = true → (s.core (coreKey c)).holds = [] → (s.core (coreKey c)).scrub = .due →
       ∃ t, exec (.coreScrub c) s = .next t ∧ (t.core (coreKey c)).scrub = .running ∧
         t.fld F.shaQuarterStatusScrubbing c.quarter = 1 ∧ (∀ n, n ≠ coreKey c → t.core n = s.core n)) ∧
     ((s.core (coreKey c)).scrub = .running → (s.quarter c.quarter).leaving = false →
       (∀ p, quarterPart s c.quarter = some p → ∀ o, (s.quarter c.quarter).lastPart = some o → o = p) →
       ∃ t, exec (.coreScrubEnd c) s = .next t ∧
         t.core (coreKey c) = { unit0 := (s.core (coreKey c)).unit0, unit1 := (s.core (coreKey c)).unit1 } ∧
         (∀ n, n ≠ coreKey c → t.core n = s.core n) ∧ (∀ a, t.byte a = s.byte a)) ∧
     ((s.core (coreKey c)).scrub = .running →
       exec (.coreScrubEnd c) s = .next (quarterSettle (markScrubbing (s.setCore (coreKey c)
         { unit0 := (s.core (coreKey c)).unit0, unit1 := (s.core (coreKey c)).unit1 }) c.quarter) c.quarter)) ∧
     (ServesUnit s Reg.shaSpareMap (.quarter k) →
       exec (.shaSpareMap k v) s = .next (((s.stage Reg.shaSpareMap k (BitVec.ofNat 64 (v.toNat % 32))).setFld
         F.shaQuarterStatusRemapPending k 1).answer stOk)) ∧
     (s.fld F.shaQuarterStatusRemapPending k = 1 →
       (∀ l ∈ remapAffects s k, (s.core (physCore s k l)).holds = []) →
       ∃ t, exec (.coreRemap k) s = .next t ∧ t.rd Reg.shaSpareMap k = s.rdStaged Reg.shaSpareMap k ∧
         t.fld F.shaQuarterStatusRemapPending k = 0 ∧ (∀ a, t.byte a = s.byte a)))
/-! ### Field commands (spec/03, spec/04) -/

/-- FIELD whose file, read through the owner's translations from local memory, passes the checks of R189 and R190 and whose footprint
has a place, and whose streams start on 16-byte boundaries: the run begins with what the file says, its tables are in the courts' playbook
caches, the courts of the partition hold it, and its budget runs (R115, R171, R180, R211, R223).
Mark: the model's reads of other devices' memory lie outside this statement (log 32). -/
def Obligations.FieldBegins : Prop :=
  ∀ (s : State) (q : Fin 16384) (p : Nat) (courts : List Nat) (x : Queue) (ho : Option Holder) (w : List W64)
    (bs pb bb rb tb bw : List Byte) (u0 u1 u2 u3 u4 u5 u6 : State) (shift : Nat) (tableOf : Nat → List Nat),
    starting s q 1 = true → courtsReady s (courtsIn (s.queue q).units) (queuePart s (s.queue q)) (s.queue q).owner = true →
    (s.queue q).stopReq = none → replayWords s q = none →
    x = s.queue q → p = queuePart s x → courts = courtsIn x.units → courts ≠ [] → ho = some (Holder.court (courts.getD 0 0)) →
    u0 = beginCmd { s with farUnit := some q.val, farMiss := [], farLack := false } q none →
    ctxReadObj u0 ho x.owner .fetch x.object 64 = (.ok bs, u1) → w = wordsOf bs →
    bitsOf (wordAt w 0) 63 32 = 0x5042464C → bitsOf (wordAt w 0) 31 16 = 0x2048 → bitsOf (wordAt w 0) 15 8 = 1 →
    headerInvalid w x.arg.toNat = false →
    ctxReadObj u1 ho x.owner .load (bitsOf x.arg 63 16) (8 * bitsOf (wordAt w 1) 47 41) = (.ok pb, u2) →
    ctxReadObj u2 ho x.owner .fetch (x.object + bitsOf (wordAt w 7) 63 32) (8 * bitsOf (wordAt w 1) 47 41) = (.ok bb, u3) →
    ctxReadObj u3 ho x.owner .fetch (x.object + bitsOf (wordAt w 4) 63 32) (8 * bitsOf (wordAt w 1) 40 34) = (.ok rb, u4) →
    ctxReadObj u4 ho x.owner .fetch (x.object + bitsOf (wordAt w 4) 31 0) (3072 * bitsOf (wordAt w 1) 33 29) = (.ok tb, u5) →
    ctxReadObj u5 ho x.owner .fetch (x.object + bitsOf (wordAt w 5) 63 32) (bitsOf (wordAt w 5) 31 0) = (.ok bw, u6) →
    u6.farLack = false →
    (∀ n, tableOf n = (tablesOf tb (bitsOf (wordAt w 1) 33 29)).getD (bitsOf (wordAt w 6) (4 * n + 3) (4 * n)) []) →
    (∀ t ∈ tablesOf tb (bitsOf (wordAt w 1) 33 29), ∀ e ∈ t.drop 1, entryInvalid e = false ∧ entryUnsupported e = false) →
    (heldByWhistle u5 x true = false ∨ fieldUsesDefault u5 x = true) →
    paramsInvalid (wordsOf pb) (wordsOf bb) (wordsOf rb) = false → placeFoot (bitsOf (wordAt w 1) 63 48) courts = some shift →
    (natBit (wordAt w 1).toNat 0 = true → replayUnsafe (wordsOf pb) (wordsOf rb) = false) →
    bundlesAligned (bitsOf (wordAt w 5) 31 0 / 8)
      { q := q, handle := x.owner, playbook := x.object, params := wordsOf pb, bounds := wordsOf bb, regions := wordsOf rb,
        foot := bitsOf (wordAt w 1) 63 48, courts := courts, shift := shift, bundleOff := bitsOf (wordAt w 5) 63 32,
        bundleBytes := bitsOf (wordAt w 5) 31 0, decl := (wordAt w 2).toNat, replaySafe := natBit (wordAt w 1).toNat 0 }
      tableOf (wordsOf bw) = true →
    ∃ t r, exec (.field q) s = .next t ∧ (t.field p).run = some r ∧ r.q = q.val ∧ r.handle = x.owner ∧ r.params = wordsOf pb ∧
      r.regions = wordsOf rb ∧ r.nonSat = decide (u6.fld F.fldFmtDefaultOvfNan = 1) ∧ r.courts = courts ∧ r.shift = shift ∧
      r.decl = (wordAt w 2).toNat ∧ r.pos = 0 ∧ r.bun = none ∧ (t.queue q).begun = true ∧
      (t.queue q).deadline = some ((u6.queue q).startTime + fieldBudget (wordAt w 2).toNat (bitsOf (wordAt w 3) 63 32)
        (u6.fld F.refBudgetMarginNs) (granted u6) (min 1250 (u6.fld F.pwrStatusArithMhz))) ∧
      (∀ l ∈ r.logical, (t.court (l + shift)).cacheTable = tableOf l) ∧
      (∀ n ∈ courts, t.fld F.fldCourtStatusBusy n = 1 ∧ t.fld F.fldCourtStatusCtxIndex n = hIndex x.owner)

/-- The sequencer and a partition's clock: decoding the next bundle (R191 to R193), a schedule cycle where issue takes place and
nothing holds it (R143, R192, R203), stalls, late slots among them (R144, R220, R222), flits that land (R127), DMA (R134, R137) and the
end (R204). -/
def Obligations.FieldRuns : Prop :=
  ∀ (s : State) (p c : Fin 16) (m : Fin 2) (r : FieldRun),
    (s.field p).run = some r → r.failed = none → (s.queue r.q).stopReq = none →
    (r.bun = none → r.ended = false → r.pos + 8 ≤ r.bundleBytes →
      ∀ (hb bs : List Byte) (u v : State) (n : Nat) (b : Bundle),
        ctxReadObj { s with farUnit := some r.q, farMiss := [], farLack := false } (some (Holder.court (r.courts.getD 0 0))) r.handle
          .fetch (r.playbook + r.bundleOff + r.pos) 8 = (.ok hb, u) →
        n = 8 + 16 * (((List.range 16).filter (natBit (bitsOf (wordAt (wordsOf hb) 0) 47 32))).length +
          bitsOf (wordAt (wordsOf hb) 0) 31 27) →
        r.pos + n ≤ r.bundleBytes →
        ctxReadObj u (some (Holder.court (r.courts.getD 0 0))) r.handle .fetch (r.playbook + r.bundleOff + r.pos) n =
          (.ok bs, v) →
        decodeBundle r (wordsOf bs) = .ok b →
        ∃ t, t = courtClock (setRun (cacheSlots (heavySignal v r.heavy b.heavy (otherHeavy v p)) r b) p
          { r with pos := r.pos + n, bunPos := r.pos, bun := some b, left := b.trips, first := true, syncWait := b.sync,
                   toIssue := if b.trips = 0 then [] else b.dmas, tried := false, heavy := b.heavy }) p ∧
          (t.farLack = false → exec (.bundle p) s = .next { t with farUnit := none, far := t.far.filter (fun x => x.unit ≠ r.q) })) ∧
    (r.bun = none → r.ended = false →
      exec (.scheduleCycle p) s = .next (setRun ((countCycles s p r 1).bump F.fldPartStallLateCycles p) p { r with clk := r.clk + 1 })) ∧
    (∀ b u, r.bun = some b → r.ended = false → u = countCycles s p r 1 →
      (r.syncWait = true → r.dma ≠ [] →
        exec (.scheduleCycle p) s = .next (setRun (u.bump F.fldPartStallLateCycles p) p { r with clk := r.clk + 1 })) ∧
      (r.syncWait = false → r.left ≠ 0 → 0 < r.stagger →
        exec (.scheduleCycle p) s =
          .next (setRun (u.bump F.fldPartStallThrottleCycles p) p { r with clk := r.clk + 1, stagger := r.stagger - 1 })) ∧
      (r.syncWait = false → r.left ≠ 0 → r.stagger = 0 → r.tried = false → consumeLate r = true →
        exec (.scheduleCycle p) s = .next (setRun (u.bump F.fldPartStallLateCycles p) p (r.pass 1))) ∧
      (r.syncWait = false → r.left ≠ 0 → r.stagger = 0 → r.tried = false → consumeLate r = false →
        issues (rampFraction (granted s) r.ramp) (r.clk % 64) = false →
        exec (.scheduleCycle p) s = .next (setRun (u.bump F.fldPartStallThrottleCycles p) p (r.pass 1))) ∧
      (r.syncWait = false → 1 < r.left → r.stagger = 0 → issues (rampFraction (granted s) r.ramp) (r.clk % 64) = true →
        r.toIssue = [] → consumeLate r = false → r.net = [] →
        ∀ v r', v = scheduleCycle (landFlits (setRun u p ({ r with tried := true }.pass 1)) p) p ({ r with tried := true }.pass 1) →
          (v.field p).run = some r' → r'.failed = none → r'.left = r.left - 1 →
          exec (.scheduleCycle p) s = .next (setRun v p r') ∧ r'.cycle = r.cycle + 1)) ∧
    (∀ x k bytes t, r.net = [x] → x.air = [(t, k, bytes)] → t < r.cycle → x.read < x.flits →
      exec (.networkTransferArrival p) s =
        .next (setRun (s.setCourt x.dst ((s.court x.dst).setBuf (x.dstAddr + 64 * k) bytes)) p
          { r with net := [{ x with air := [] }] })) ∧
    (dmaPart s c m = some p.val → r.net = [] → (s.queue r.q).phase ≠ .halted →
      ∀ d u v ps, r.dma.find? (fun d => decide (d.court = c.val ∧ d.stream = m.val)) = some d → d.sent = false →
        ps = dmaPieces d r (d.rows * d.rowBytes) 0 →
        (if d.isStore then dmaStoreCheck (landFlits s p) r d ps else (none, landFlits s p)) = (none, u) →
        dmaRun u p r d ps 0 = (.ok 0, v) →
        exec (.dmaComplete c m) s = .next (setRun v p { r with dma := r.dma.filter (fun x => decide (x.id ≠ d.id)) })) ∧
    (r.ended = true → r.dma = [] → r.net = [] →
      exec (.fieldEnd p) s =
        .next (completeOn (dropRun (drainRun 64 s (closeRows r)) p r) r.q stOk))

/-! ### Launches and cores (spec/06) -/

/-- LAUNCH with a header that passes its checks, and a block's start: the launch holds what the header and the arguments say; the
block takes its core, its groups start at ENTRY with every register 0 (R239, R242 to R245). -/
def Obligations.LaunchesBegin : Prop :=
  ∀ (s : State) (q : Fin 16384), (s.queue q).stopReq = none →
    (∀ w u ws v, starting s q 2 = true →
      readHeader (beginCmd { s with farUnit := some q.val, farMiss := [], farLack := false } q none) (s.queue q).owner
        (s.queue q).object = (.ok w, u) → headerCheck w = none →
      quartersIn (s.queue q).units ≠ [] → launchWords u q = (.ok ws, v) → v.farLack = false →
      ∃ t, exec (.launch q) s = .next { t with farUnit := none, far := t.far.filter (fun f => f.unit ≠ q.val) } ∧
      t = markThrottled ((v.setQueue q { v.queue q with replaySafe := hReplaySafe w, read := ws }).setLaunch q (some
        { prog := { code := (s.queue q).object + bitsOf (w.getD 2 0) 63 32, codeBytes := bitsOf (w.getD 2 0) 31 0,
                    entry := bitsOf (w.getD 3 0) 63 32, regs := 8 * bitsOf (w.getD 1 0) 63 58, consts := constsOf ws,
                    localLen := 1024 * bitsOf (w.getD 1 0) 52 44, nonSat := decide (v.fld F.fldFmtDefaultOvfNan = 1) },
          groups := bitsOf (w.getD 1 0) 57 53 + 1, localBytes := 1024 * bitsOf (w.getD 1 0) 52 44,
          replaySafe := bitsOf (w.getD 1 0) 0 0 = 1,
          grid := (bitsOf (s.queue q).arg 63 44 + 1, bitsOf (s.queue q).arg 43 32 + 1,
                   bitsOf (s.queue q).arg 31 20 + 1) }))) ∧
    (∀ (l : Launch) (k : Fin 4) (c : Fin 16) (base : Fin 257), s.launch q = some l → (s.queue q).phase = .running →
      unitKept s (.quarter k) = false → blockFits s q l k c (1024 * base.val) = true → blockAhead s q k c = false → l.groups ≤ 32 → l.next < 2 ^ 32 →
      ∃ t, exec (.blockStart q k c base) s = .next t ∧
        (t.launch q).map (·.next) = some (l.next + 1) ∧
        t.block (bKey q l.next) = some { core := physCore s k c, groups := l.groups, regs := l.prog.regs,
                                         base := 1024 * base.val, len := l.localBytes } ∧
        (∀ i, i < l.groups → ∃ g, t.group (gKey q l.next i) = some g ∧ g.core = physCore s k c ∧ g.regs = [] ∧
          g.threads = tabulate 32 (fun _ => { pc := l.prog.entry, exited := false })) ∧
        (∀ a, t.byte a = s.byte a))

/-- The ends of groups and launches, and the merging buffers (R280, R299, R452). -/
def Obligations.LaunchesEnd : Prop :=
  ∀ (s : State) (q : Fin 16384) (r : GroupRef) (c : CoreRef) (line : BitVec 33),
    (∀ g, s.group (groupKey r) = some g → g.live = [] → g.tokens = 0 → g.gfx = none → (s.queue g.q).stopReq = none →
      exec (.groupEnd r) s = .next (withFar s g.q (fun s => gfxKick (groupDone s (groupKey r) g) (g.core / 17)))) ∧
    (∀ l, s.launch q = some l → (s.queue q).phase = .running → (s.queue q).stopReq = none → l.next = l.total →
      (∀ kv ∈ s.blocks, kv.1 / 2 ^ 32 ≠ q.val) → ammaPending s q = false →
      ∃ u, exec (.launchEnd q) s = .next (completeOn u q ((u.queue q).stopReq.getD stOk)) ∧ u.launch q = none) ∧
    (exec (.mergeDrain c line) s =
      .next ((s.merge.filter (fun e => decide (e.core = 17 * c.quarter.val + c.core.val ∧ e.line = line.toNat) &&
        mergeAged s e)).foldl drainEntry s)) ∧
    (∀ e, s.merge = [e] → e.core = 17 * c.quarter.val + c.core.val → e.line = line.toNat → mergeAged s e = true →
      s.ue = [] → s.ce = [] →
      ∃ t, exec (.mergeDrain c line) s = .next t ∧ t.merge = [] ∧ t.regs = s.regs ∧
        (∀ a, (∀ b ∈ e.bytes, a ≠ line.toNat * 128 + b.1) → t.byte a = s.byte a) ∧
        (∀ b, e.bytes = [b] → t.byte (line.toNat * 128 + b.1) = b.2))
/-! ### Instructions of thread groups (spec/06) -/

/-- Arithmetic and moves (R257, R258, R265 to R269): every executing lane's destination, a register or a predicate, takes the result
of the operation on its sources; no other register changes, nothing is stored, and the gathered threads go on by 8 bytes. -/
def Obligations.ArithmeticLanes : Prop :=
  ∀ (s u : State) (g : GroupRef) (x : Issued) (c : Instr) (cls : Nat) (m : Bool → Bool → W32 → W32)
    (f : W32 → W32 → W32 → Option AluOut) (regs : List Nat),
    Gathers s g x u → wClass x.word = cls → Within x x.fall → x.regsOk regs = true → (f 0 0 0).isSome = true →
    ((∃ op, c = .intOp g op ∧ cls = 0 ∧ m = modInt ∧ f = intAlu op ∧
        regs = x.srcRegs true (decide (op ≠ .not)) (decide (op = .mad)) ++
          (match op with
            | .cmp .. => []
            | _ => [wDst x.word])) ∨
     (∃ op, c = .fp32Op g op ∧ cls = 1 ∧ m = modFp32 ∧ f = fp32Alu op ∧
        regs = x.srcRegs true true (decide (op = .fma)) ++ (if fpPred op then [] else [wDst x.word])) ∨
     (∃ op, c = .fp16x2Op g op ∧ cls = 2 ∧ m = modFp16x2 ∧ f = fp16Alu op ∧
        regs = x.srcRegs true true (decide (op = .fma)) ++ (if fpPred op then [] else [wDst x.word])) ∨
     (∃ src dst, c = .cvtOp g src dst ∧ cls = 3 ∧ natBits x.word 55 54 ≠ 3 ∧ m = modCvt src ∧
        f = (fun a _ _ => (cvt src dst (cvtNonSat x) a).map Sum.inl) ∧
        regs = x.srcRegs true false false ++ [wDst x.word]) ∨
     (∃ op, c = .sfuOp g op ∧ cls = 4 ∧ m = modFp32 ∧ f = (fun a _ _ => (sfu op a).map Sum.inl) ∧
        regs = x.srcRegs true false false ++ [wDst x.word])) →
    ∃ t h, exec c s = .next t ∧ t.group x.gk = some h ∧
      (∀ l ∈ x.lanes, ∀ v, f (x.modded m l).1 (x.modded m l).2 (x.srcC l) = some (.inl v) → h.reg l (wDst x.word) = v) ∧
      (∀ l ∈ x.lanes, ∀ b, f (x.modded m l).1 (x.modded m l).2 (x.srcC l) = some (.inr b) → wPdst x.word ≠ 7 →
        (h.thread l).pred (wPdst x.word) = b) ∧
      (∀ l r, r < 256 → (l ∉ x.lanes ∨ r ≠ wDst x.word) → h.reg l r = x.g.reg l r) ∧
      (∀ l ∈ x.all, (h.thread l).pc = x.pc + 8) ∧ t.mem = u.mem ∧ t.regs = u.regs

/-- MOVE, SETTEAM and the CONTROL class where every thread stays in the program (R251, R253, R257, R262, R265): moves and selects write the
destination, predicate logic its predicate, a branch takes the executing threads to its target, a call leaves the return
address, a return goes where its register says. -/
def Obligations.MovesAndControl : Prop :=
  ∀ (s u : State) (g : GroupRef) (x : Issued), Gathers s g x u →
    (wClass x.word = 5 → Within x x.fall →
      (x.regsOk (x.srcRegs true false false ++ [wDst x.word]) = true →
        exec (.moveOp g .movA) s = .next (moved u x
          (x.lanes.foldl (fun (h : Group) l => h.setReg l (wDst x.word) (x.modded modFree l).1) x.g) x.fall)) ∧
      (x.regsOk (x.srcRegs false true false ++ [wDst x.word]) = true →
        exec (.moveOp g .movB) s = .next (moved u x
          (x.lanes.foldl (fun (h : Group) l => h.setReg l (wDst x.word) (x.modded modFree l).2) x.g) x.fall)) ∧
      (∀ p, x.regsOk (x.srcRegs true true false ++ [wDst x.word]) = true →
        exec (.moveOp g (.sel p)) s = .next (moved u x (x.lanes.foldl (fun (h : Group) l =>
          h.setReg l (wDst x.word) 
            (if (x.g.thread l).pred p.val then (x.modded modFree l).1 else (x.modded modFree l).2)) x.g) x.fall)) ∧
      (∀ f p q, exec (.moveOp g (.pred f p q)) s = .next (moved u x (x.lanes.foldl (fun (h : Group) l =>
          h.mapThread l (fun t => t.setPred (wPdst x.word)
            (predAlu f ((x.g.thread l).pred p.val) ((x.g.thread l).pred q.val)))) x.g) x.fall)) ∧
      (x.regsOk (x.srcRegs true false false) = true →
        exec (.setteam g) s = .next (settleTeams (moved u x (x.lanes.foldl (fun (h : Group) l =>
          h.mapThread l (fun t => { t with team := (x.modded modFree l).1.toNat % 4 })) x.g) x.fall) x.gk))) ∧
    (wClass x.word = 0x18 →
      (Within x (x.branchTo (fun _ => x.target)) →
        exec (.branch g) s = .next (unlessReservedOp u x (moved u x x.g (x.branchTo (fun _ => x.target)))) ∧
        (x.regsOk [wDst x.word] = true →
          exec (.call g) s = .next (unlessReservedOp u x (moved u x (x.lanes.foldl (fun (h : Group) l =>
            h.setReg l (wDst x.word) (BitVec.ofNat 32 (x.pc + 8))) x.g) (x.branchTo (fun _ => x.target)))))) ∧
      (Within x (x.branchTo (fun l => ((x.g.reg l (wSa x.word)).toNat : Nat))) → x.regsOk [wSa x.word] = true →
        (∀ l ∈ x.lanes, (x.g.reg l (wSa x.word)).toNat % 8 = 0) →
        exec (.ret g) s = .next (unlessReservedOp u x (moved u x x.g (x.branchTo (fun l => ((x.g.reg l (wSa x.word)).toNat : Nat)))))) ∧
      (Within x (x.fallBut x.lanes) →
        exec (.exit g) s = .next (unlessReservedOp u x (settleAll (moved u x
          (x.g.mapLanes x.lanes (fun t => { t with exited := true, convs := [] })) (x.fallBut x.lanes)) x.gk))) ∧
      (Within x x.fall → 0 ≤ x.target →
        exec (.converge g) s = .next (unlessReservedOp u x (moved u x (x.g.mapLanes x.lanes (fun t =>
          if t.convs.contains (x.pc, x.target.toNat) then t
          else { t with convs := t.convs ++ [(x.pc, x.target.toNat)] })) x.fall)))) ∧
    (exec (.convergeHoldExpiry g) s = .next (match s.group (groupKey g) with
      | none => s
      | some h => s.setGroup (groupKey g) (some { h with threads := h.threads.map (fun t => match t.hold with
        | some (_, n) => if n + 256 ≤ h.issues then { t with hold := none, since := h.issues } else t
        | none => t) })))

/-- A global load, a store and an atomic of one executing lane at an address in local memory (R270 to R272, R283, R452): the load
reads the line behind its merging buffer, the store enters the buffer, the atomic changes memory and returns the prior value. -/
def Obligations.GlobalMemoryLane : Prop :=
  ∀ (s u v : State) (g : GroupRef) (x : Issued) (l a : Nat) (k : Fin 5) (sg : Bool),
    Gathers s g x u → x.lanes = [l] → Within x x.fall → wRelease x.word = false →
    (wClass x.word = 0x10 → x.memOk (2 ^ k.val) = true →
      (laneTargets u x .load (2 ^ k.val) = (.ok [(l, .mem a)], v) →
        ∀ w, w = drainLine v x.g.core (a / 128) → Clean w a (2 ^ k.val) = true →
        exec (.globalMem g (.load k sg)) s =
          .next (moved w x (x.g.setRegBytes l (wDst x.word) sg (w.bytes a (2 ^ k.val))) x.fall)) ∧
      (laneTargets u x .store (2 ^ k.val) = (.ok [(l, .mem a)], v) →
        ∀ w, w = mergeStore (moved v x x.g x.fall) x.g.core x.q a (x.g.regBytes l (wDst x.word) (2 ^ k.val)) →
        exec (.globalMem g (.store k)) s = .next (if wAcquire x.word then drainLine w x.g.core (a / 128) else w))) ∧
    (wClass x.word = 0x12 → ∀ (op : AtomFn), x.memOk (4 * atomWords op false) = true →
      laneTargets u x .atomic 4 = (.ok [(l, .mem a)], v) →
      ∀ w, w = drainLine v x.g.core (a / 128) → Clean w a 4 = true → a % 4 = 0 →
      exec (.atomicOp g op false) s =
        .next (moved (w.setNat a 4 (atomAt x op false (w.readNat a 4) [l]).1) x
          (x.g.setRegBytes l (wDst x.word) false (w.bytes a 4)) x.fall))

/-- Local memory, fences and the sample unit (R271, R273, R275, R282, R297, R343). -/
def Obligations.LocalMemoryAndFences : Prop :=
  ∀ (s u : State) (g : GroupRef) (x : Issued) (l : Nat) (k : Fin 5) (sg : Bool),
    Gathers s g x u → Within x x.fall →
    (wClass x.word = 0x11 → x.lanes = [l] → wRelease x.word = false → localFaults x (2 ^ k.val) = none →
      x.localOk (2 ^ k.val) = true →
      (touchesD u x.g (x.localAddr l).toNat (2 ^ k.val) = false →
        exec (.localMem g (.load k sg)) s = .next (moved u x (x.g.setRegBytes l (wDst x.word) sg
          (localBytes u x.g.core (x.g.base + (x.localAddr l).toNat) (2 ^ k.val))) x.fall)) ∧
      exec (.localMem g (.store k)) s = .next (moved
        (writeLocal u x.g (x.localAddr l).toNat (x.g.regBytes l (wDst x.word) (2 ^ k.val))) x x.g x.fall)) ∧
    (wClass x.word = 0x13 → wScope x.word < 3 →
      exec (.fenceOp g) s = .next (unlessReservedOp u x (moved u x x.g x.fall))) ∧
    (wClass x.word = 0x13 → 3 ≤ wScope x.word → x.lanes ≠ [] →
      exec (.fenceOp g) s = .next (unlessReservedOp u x (moved (drainCore u x.g.core) x x.g x.fall)))

/-- Lane instructions, barriers and asynchronous operations (R253, R254, R286, R287, R290, R296): the executing threads wait,
and go on once all that they wait for have come; WAITTOK passes at once where its tokens are clear. The oldest asynchronous
operation of a core writes D, leaves the core, and its token clears (R296, R298). -/
def Obligations.WaitsOfThreadsAndMatrixWork : Prop :=
  (∀ (s u : State) (g : GroupRef) (x : Issued), Gathers s g x u →
     (∀ op, wClass x.word = 6 → laneKnown op = true → x.regsOk (laneRegs op x) = true → Within x (x.fallBut x.lanes) →
       exec (.laneOp g op) s = .next (settleTeams (moved u x
         (x.g.mapLanes x.lanes (fun t => { t with wait := .lane op x.word })) (x.fallBut x.lanes)) x.gk)) ∧
     (wClass x.word = 0x19 → Within x x.fall → ∀ h, (moved u x x.g x.fall).group x.gk = some h →
       (wOp x.word = 0 → exec (.groupBarrier g) s = .next (settleGroupBar ((moved u x x.g x.fall).setGroup x.gk
         (some (h.mapLanes x.lanes (fun t => { t with wait := .group })))) x.gk)) ∧
       (wOp x.word = 1 → exec (.blockBarrier g) s = .next (settleBlockBar ((moved u x x.g x.fall).setGroup x.gk
         (some (h.mapLanes x.lanes (fun t => { t with wait := .block })))) x.gk))) ∧
     (wClass x.word = 0x1A →
       (x.regsOk [wSa x.word] = true → Within x (x.fallBut x.lanes) →
         exec (.amma g) s = .next (unlessReservedOp u x (settleAmma (moved u x
           (x.g.mapLanes x.lanes (fun t => { t with wait := .amma x.word })) (x.fallBut x.lanes)) x.gk))) ∧
       (Within x x.fall → x.g.tokens &&& (wDst x.word % 256) = 0 →
         exec (.waittok g) s = .next (unlessReservedOp u x (moved u x x.g x.fall))) ∧
       (Within x (x.fallBut x.lanes) → x.g.tokens &&& (wDst x.word % 256) ≠ 0 →
         exec (.waittok g) s = .next (unlessReservedOp u x (moved u x
           (x.g.mapLanes x.lanes (fun t => { t with wait := .tokens (wDst x.word % 256) })) (x.fallBut x.lanes)))))) ∧
  (∀ (s v w : State) (c : CoreRef) (m : Amma) (ms : List Amma) (h : Group),
     (s.core (coreKey c)).ammas = m :: ms → v = ammaRun s (coreKey c) m → v.group m.group = some h →
     w = (v.setCore (coreKey c) { v.core (coreKey c) with ammas := (v.core (coreKey c)).ammas.drop 1 }).setGroup m.group
       (some (h.tokenClear m.token)) →
     exec (.ammaComplete c) s = .next ((groupsOn w (coreKey c)).foldl settleAmma w) ∧ (v.core (coreKey c)).ammas = m :: ms ∧
       v.mem = s.mem ∧ v.regs = s.regs)
/-! ### Render passes (spec/07) -/

/-- RENDER whose descriptor, heap descriptor, draws and shader headers pass the checks of R351, with a heap that was not BUSY: the pass
begins on its front end with what they say (R318, R322, R349). Reads of other devices' memory lie outside (log 32). -/
def Obligations.RenderBegins : Prop :=
  ∀ (s : State) (q : Fin 16384) (fe : Fin 4) (h : W32) (ho : Option Holder) (w heap : List W64) (draws : List (List W64))
    (ds : List Draw) (safe : Bool) (bs hb db : List Byte) (u0 u1 u2 u3 u4 u5 v : State) (p : Pass),
    starting s q 3 = true → (s.queue q).stopReq = none → (s.queue q).on = some (.raster fe) → replayWords s q = none →
    h = (s.queue q).owner → ho = some (Holder.raster fe) →
    u0 = beginCmd { s with farUnit := some q.val, farMiss := [], farLack := false } q
      (some ((s.ctx (hIndex h)).shaderMs * 1000000)) →
    (s.queue q).units ≠ [] →
    ctxReadObj u0 ho h .load (s.queue q).object 192 = (.ok bs, u1) → w = words64 24 bs → pHeap w % 64 = 0 →
    heapBusy u1 ho h (pHeap w) true = (.ok false, u2) →
    ctxReadObj u2 ho h .load (pHeap w) 64 = (.ok hb, u3) → heap = words64 8 hb →
    ctxReadObj u3 ho h .load (pDraws w) (128 * pNdraw w) = (.ok db, u4) →
    draws = tabulate (pNdraw w) (fun i => words64 16 (db.drop (128 * i))) →
    passReserved w draws = false → (∀ n ∈ atts w, aFormat w n ≤ 8) → drawProgs u4 ho h draws = (.ok (ds, safe), u5) →
    passInvalid w draws heap = false → (pReplaySafe w = true → safe = true ∧ passUnsafe u5 h w = false) →
    p = { q := q, words := w, heapVa := pHeap w, heapBase := bitsOf (heap.getD 0 0) 63 16, heapSize := (heap.getD 1 0).toNat,
          spillBase := bitsOf (heap.getD 2 0) 63 16, draws := ds,
          reserve := ((((List.range 16).filter (fun l => !coreRetired u5 (physCore u5 fe l))).take (pReserve w)).map
            (physCore u5 fe)).map (fun c => (c, holdPlace u5 c (2 * pFoot w))),
          replaySafe := pReplaySafe w, began := u5.now, counted := u5.now, fill := decide (u5.fld F.gfxFillFill fe = 1) } →
    v = vertexKick ((markThrottled ((u5.setQueue q { u5.queue q with replaySafe := pReplaySafe w, read := w }).setPass fe
      (some p))).setFld F.gfxFeStatusBinning fe 1) fe → v.farLack = false →
    exec (.render q) s = .next { v with farUnit := none, far := v.far.filter (fun x => x.unit ≠ q.val) } ∧
      (∃ r, v.pass fe = some r ∧ r.q = q.val ∧ r.words = w ∧ r.draws = ds ∧ r.heapVa = pHeap w) ∧
      v.fld F.gfxFeStatusBinning fe = 1

/-- The tiler and the phases of a pass (R331, R347, R353, R363): the next triangle enters the lists where the heap holds it, a
partial render where it does not, the end of binning, and the end of a partial render. A tile's way (R353 to R358): its buffer,
its load, its shading's end, and the spill or writeback that frees the core. -/
def Obligations.PassPhases : Prop :=
  (∀ (s : State) (fe : Fin 4) (p : Pass), s.pass fe = some p →
     (∀ d vs u v k, binning s p = true → nextTri p = some (d, vs) → heapFits (binTri p d vs).1 = true →
       u = ({ s with farUnit := some p.q, farMiss := [], farLack := false } : State).bump F.gfxPrimsCount fe (setUp p d vs).length →
       heapWrites u fe p.q (binTri p d vs).2 = (none, v) →
       k = vertexKick (v.setPass fe (some { (binTri p d vs).1 with tri := p.tri + 1 })) fe → k.farLack = false →
       exec (.tilerWrite fe) s = .next { k with farUnit := none, far := k.far.filter (fun x => x.unit ≠ p.q) }) ∧
     (∀ d vs, binning s p = true → nextTri p = some (d, vs) → heapFits (binTri p d vs).1 = false →
       ∃ t r, exec (.partialRender fe) s = .next t ∧ t.pass fe = some r ∧ r.partialOn = true ∧ r.words = p.words ∧
         t.fld F.gfxFeStatusPartial fe = 1 ∧ t.fld F.gfxFeStatusRendering fe = 1 ∧ (∀ a, t.byte a = s.byte a)) ∧
     (binning s p = true → p.current = none → p.vgroup = false → exec (.binningEnd fe) s = .next (binningEnd s fe p)) ∧
     (issuing s p.q = true → p.partialOn = true → (∀ t ∈ p.tiles, t.2.st = .idle) →
       ∃ t r, exec (.partialRenderEnd fe) s = .next t ∧ t.pass fe = some r ∧ r.partialOn = false ∧ r.records = 0 ∧
         r.chunks = 0 ∧ r.partials = p.partials + 1 ∧ t.fld F.gfxFeStatusPartial fe = 0 ∧
         t.fld F.gfxFeStatusRendering fe = 0 ∧ t.fld F.gfxPartialCountCount fe = (s.fld F.gfxPartialCountCount fe + 1) % 2 ^ 64)) ∧
  (∀ (s : State) (fe : Fin 4) (p : Pass), s.pass fe = some p →
     (∀ (c : Fin 16) (base : Fin 257) (i : Nat) (core : Nat) (p' : Pass) (u v : State), waitingTile p = some i →
       core = physCore s fe c → coreTakes s (s.queue p.q) fe c = true → tilesOn s core < 2 →
       localFree s core (1024 * base.val) (pFoot p.words) false = true → issuing s p.q = true →
       p' = { p.setTile i { p.tile i with st := .loading, core := core, base := 1024 * base.val, pos := 0 } with
              cores := if p.cores.contains core then p.cores else p.cores ++ [core] } →
       u = markTiles ((coreHold { s with farUnit := some p.q, farMiss := [], farLack := false } core
         (s.queue p.q).owner).setPass fe (some p')) fe →
       tileLoad u fe p' i core (1024 * base.val) (p.tile i) = (none, v) → v.farLack = false →
       exec (.tileBufferGrant fe c base) s =
         .next { v with farUnit := none, far := v.far.filter (fun x => x.unit ≠ p.q) }) ∧
     (∀ i : BitVec 18, (p.tile i.toNat).st = .loading →
       exec (.tileLoadDone fe i) s = .next (shadeKick (s.setPass fe
         (some (p.setTile i.toNat { p.tile i.toNat with st := .shading, pos := 0, frags := [] }))) fe i.toNat)) ∧
     (∀ (i : BitVec 18) (runs : List (Nat × List Byte)) (u v : State), (p.tile i.toNat).st = .shading →
       (p.tile i.toNat).shaded = true → issuing s p.q = true → p.partialOn = false → runs = storeRuns s p i.toNat (p.tile i.toNat) →
       pagesOk (s.setPass fe (some (p.setTile i.toNat { p.tile i.toNat with st := .storing }))) fe (s.queue p.q).owner
         (runs.map (fun r => (r.1, r.2.length))) = (none, u) →
       writeRuns u fe p.q (s.queue p.q).owner runs = (none, v) → exec (.tileShaded fe i) s = .next v) ∧
     (∀ i : BitVec 18, (p.tile i.toNat).st = .spilling →
       exec (.spillDone fe i) s = .next (withFar s p.q (fun s =>
         gfxKick (tileFree (s.bump F.gfxSpillBytesCount fe (pFoot p.words)) fe p i.toNat
           { p.tile i.toNat with st := .idle, spilled := true, list := [], pos := 0 }) fe))) ∧
     (∀ i : BitVec 18, (p.tile i.toNat).st = .storing →
       exec (.writebackDone fe i) s = .next (withFar s p.q (fun s =>
         passSettle (gfxKick (tileFree (s.bump F.gfxTilesCount fe) fe p i.toNat { p.tile i.toNat with st := .done }) fe) fe))))

/-- The TILE class in its stages (R340, R341), SAMPLE, and the end of a group of a pass. SAMPLE of one executing lane (R343):
the values that the image gives enter four registers. -/
def Obligations.TileInstructionsAndSamples : Prop :=
  (∀ (s u : State) (g : GroupRef) (x : Issued) (y : Gfx), Gathers s g x u → x.g.gfx = some y → Within x x.fall →
     (wClass x.word = 0x15 →
       (wOp x.word = 0 → y.fragment = false → wVec x.word < 2 → x.regsOk [wDst x.word] = true →
         exec (.vin g) s = .next (moved u x (x.lanes.foldl (fun (h : Group) l => h.setReg l (wDst x.word)
           (if wVec x.word = 0 then (y.verts.getD l (0, 0)).1 else (y.verts.getD l (0, 0)).2)) x.g) x.fall)) ∧
       (x.regsOk [wDst x.word, wDst x.word + 1, wDst x.word + 2, wDst x.word + 3] = true →
         (wOp x.word = 1 → y.fragment = false → wVec x.word ≤ y.nattr →
           exec (.vout g) s = .next (moved u x (noteOut x y (wVec x.word) (wVec x.word) 4) x.fall)) ∧
         (wOp x.word = 2 → y.fragment = true → wVec x.word < y.nattr →
           exec (.interp g) s = .next (moved u x (x.lanes.foldl (fun (h : Group) l =>
             (List.range 4).foldl (fun (h : Group) c => h.setReg l (wDst x.word + c)
               (fragAttr u y (y.frags.getD l { x := 0, y := 0, mask := 0, tri := 0 }) (wVec x.word) c)) h) x.g) x.fall)) ∧
         (wOp x.word = 3 → y.fragment = true → wVec x.word < y.ncolor →
           exec (.cout g) s = .next (moved u x (noteOut x y (wVec x.word) (wVec x.word) 4) x.fall)) ∧
         (wOp x.word = 6 → y.fragment = true → wVec x.word < y.ncolor → ∀ l, x.lanes = [l] →
           ∀ vs v, tileRead u y (y.frags.getD l { x := 0, y := 0, mask := 0, tri := 0 }) (wVec x.word) = (vs, v) →
           exec (.tread g) s = .next (moved v x ((vs.zipIdx).foldl (fun (h : Group) vi =>
             h.setReg l (wDst x.word + vi.2) vi.1) x.g) x.fall))) ∧
       (wOp x.word = 4 → y.fragment = true → x.regsOk [wDst x.word] = true →
         exec (.zout g) s = .next (moved u x (noteOut x y 15 15 1) x.fall)) ∧
       (wOp x.word = 5 → y.fragment = true →
         exec (.kill g) s = .next (moved u x (noteOut x y 0 16 0) x.fall)))) ∧
  (∀ (s u v : State) (g : GroupRef) (x : Issued) (l : Nat) (vs : List W32),
     Gathers { s with farUnit := some (groupUnit (groupKey g)), farMiss := [], farLack := false } g x u → Within x x.fall →
     wClass x.word = 0x14 → wOp x.word ≤ 1 → wSa x.word % 2 = 0 → x.lanes = [l] →
     x.regsOk [wSa x.word, wSa x.word + 1, wDst x.word, wDst x.word + 1, wDst x.word + 2, wDst x.word + 3] = true →
     sampleLane u x l = (.ok vs, v) → v.farLack = false →
     exec (.sample g) s = .next { moved v x ((vs.zipIdx).foldl (fun (h : Group) vi => h.setReg l (wDst x.word + vi.2) vi.1) x.g)
       x.fall with farUnit := none, far := v.far.filter (fun f => f.unit ≠ groupUnit (groupKey g)) })

/-! ### The composer and the displays (spec/08) -/

/-- A pipe's enable and disable (R375, R419): from OFF with usable timing it starts, and its domain with it; from ON it stops; the
state codes follow R375 in every state, and a reserved OUT_BPC is refused. -/
def Obligations.PipeControl : Prop :=
  ∀ (s : State) (p : Fin 4) (ns : Bool) (bpc : Fin 4), ServesUnit s Reg.lyrPipeCtrl (.pipe p) →
    (bpc.val < 2 →
      (s.fld F.lyrPipeStatusState p = lcOff → timingHOk (s.rd Reg.lyrTimingH p) = true →
        timingVOk (s.rd Reg.lyrTimingV p) = true → pclkOk (s.fld F.lyrPclkKhz p) = true → s.domPermitted domComposer = true →
        ∃ t, exec (.pipeEnable p ns bpc) s = .next t ∧ t.mgmt = stOk ∧ t.fld F.lyrPipeStatusState p = lcStarting ∧
          t.fld F.lyrPipeCtrlEnable p = 1 ∧ t.fld F.lyrPipeCtrlOutBpc p = bpc ∧
          t.fld F.lyrPipeCtrlNoSkip p = (if ns then 1 else 0) ∧
          (s.domState domComposer = lcOff → t.domState domComposer = lcStarting)) ∧
      (s.fld F.lyrPipeStatusState p = lcOn →
        ∃ t, exec (.pipeDisable p ns bpc) s = .next t ∧ t.mgmt = stOk ∧ t.fld F.lyrPipeStatusState p = lcStopping ∧
          t.fld F.lyrPipeCtrlEnable p = 0 ∧ t.fld F.lyrPipeCtrlOutBpc p = s.fld F.lyrPipeCtrlOutBpc p ∧
          (∀ a, t.byte a = s.byte a))) ∧
    (2 ≤ bpc.val → exec (.pipeEnable p ns bpc) s = .next (s.answer stInvalid) ∧
      exec (.pipeDisable p ns bpc) s = .next (s.answer stInvalid))

/-- A frame boundary (R375, R380, R383): a pipe that starts is ON with FRAME_SEQ raised and its frame begun; one that stops is OFF, and
shows nothing. Presents (R388, R390): checked, then held until the pipe is ON; one that has begun on an ON pipe enters the
shadow state. -/
def Obligations.FramesAndPresents : Prop :=
  ∀ (s : State) (p : Fin 4) (q : Fin 16384),
    (s.domOn domComposer = true → (s.pipe p).resetting = false → (s.pipe p).began = none →
      (s.pipe p).applied = [] → (s.pipe p).held = [] →
      (s.fld F.lyrPipeStatusState p = lcStarting →
        ∃ t, exec (.frameBoundary p) s = .next t ∧ t.fld F.lyrPipeStatusState p = lcOn ∧
          t.fld F.lyrFrameSeqSeq p = (s.fld F.lyrFrameSeqSeq p + 1) % 2 ^ 64 ∧ (t.pipe p).began = some s.now ∧
          (∀ a, t.byte a = s.byte a)) ∧
      (s.fld F.lyrPipeStatusState p = lcStopping →
        ∃ t, exec (.frameBoundary p) s = .next t ∧ t.fld F.lyrPipeStatusState p = lcOff ∧
          t.fld F.lyrPipeStatusHolding p = 0 ∧ t.fld F.lyrPipeStatusBlanked p = 0 ∧ (∀ a, t.byte a = s.byte a))) ∧
    ((s.queue q).phase = .running → (s.queue q).kind = 4 → (s.queue q).stopReq = none → (s.queue q).begun = false →
      ∀ (b0 bs : List Byte) (head : W64) (u v : State) (ls : List (Nat × List W64)),
        ctxReadObj { s with farUnit := some q.val, farMiss := [], farLack := false } none (s.queue q).owner .load
          (s.queue q).object 8 = (.ok b0, u) → head = (wordsOf b0).getD 0 0 → bitsOf head 1 0 = p.val →
        retarget u q (.pipe p) = none → ctxReadObj (setOn u q (.pipe p)) (some (.pipe p)) (s.queue q).owner .load ((s.queue q).object + 8)
          (32 * ((List.range 8).filter (natBit (bitsOf head 31 24))).length) = (.ok bs, v) → v.farLack = false →
        ls = presentLayers (bitsOf head 31 24) (wordsOf bs) → presentRefused v p (s.queue q).owner head ls = none →
        (v.fld F.lyrPipeStatusState p = lcStarting →
          ∃ t, exec (.present q) s = .next t ∧ (t.queue q).begun = true ∧
            (t.pipe p).held = (v.pipe p).held ++
              [{ q := q, target := bitsOf head 63 32, handle := (s.queue q).owner, layers := ls }]) ∧
        (v.fld F.lyrPipeStatusState p = lcOn → bitsOf head 63 32 = 0 →
          ∃ t, exec (.present q) s = .next t ∧ (t.queue q).begun = true ∧ (t.queue q).deadline.isSome = true ∧
            (t.pipe p).applied = (v.pipe p).applied ++
              [{ q := q, target := 0, handle := (s.queue q).owner, layers := ls }]))

/-- Underflows, the fetch of a line and the record of a written slot (R399, R400, R412). -/
def Obligations.PipeFetches : Prop :=
  ∀ (s : State) (p : Fin 4),
    (∀ x y n : W16, (s.pipe p).began.isSome = true → 0 < n.toNat → x.toNat + n.toNat ≤ hActive s p → y.toNat < vActive s p →
      exec (.fetchUnderflow p x y n) s = .next (underflow s p x.toNat y.toNat n.toNat)) ∧
    (∀ (l : Fin 8) (line : W16) (h : W32) (w : List W64), (s.pipe p).began.isSome = true → line.toNat < vActive s p →
      SMap.get none (s.pipe p).layers l = some (h, w) →
      exec (.layerFetch p l line) s =
        .next (fetchLine s p l line.toNat h w (layerPixels s p l line.toNat))) ∧
    (∀ r rest, (s.pipe p).recs = r :: rest → frameOpen s p r.seq = true → exec (.frameRecord p) s = .next s) ∧
    (∀ r rest u v, (s.pipe p).recs = r :: rest → s.staleCtx r.owner = false → frameOpen s p r.seq = false → r.recorded = false →
      ctxStore (s.setPipe p { s.pipe p with recs := rest }) (some (.pipe p)) r.owner r.recordAt (frameRecordBytes r)
        (.frame p r.seq) = (none, u) → frameOpen u p r.seq = false →
      unitSignal u (some (.pipe p)) r.owner r.fence r.seq = (none, v) →
      exec (.frameRecord p) s = .next (talkersFrame v p r))

/-- The composer's registers (R382, R387, R403, R404, R408, R419): each takes what its access codes let through, with LOCK set none of
the signature registers, and timing only while the pipe is OFF. -/
def Obligations.ComposerRegisters : Prop :=
  ∀ (s : State) (p : Fin 4) (v : W32) (x : W64) (l : Fin 8) (r : Fin 16),
    (ServesUnit s Reg.lyrCommit (.pipe p) →
      exec (.lyrCommit p v) s = .next ((s.wrPlain Reg.lyrCommit p (v.setWidth 64)).answer stOk)) ∧
    (ServesUnit s Reg.lyrLayerOwner (.pipe p) →
      exec (.lyrLayerOwner p l x) s = .next ((s.wrPlain Reg.lyrLayerOwner (8 * p.val + l.val) x).answer stOk)) ∧
    (ServesUnit s Reg.lyrSigCtrl (.pipe p) →
      exec (.lyrSigCtrl p v) s =
        .next ((s.wrPlain Reg.lyrSigCtrl p (v.setWidth 64) (decide (s.fld F.lyrSigCtrlLock p = 1))).answer stOk)) ∧
    (ServesUnit s Reg.lyrSigRect (.pipe p) →
      (s.fld F.lyrSigCtrlLock p = 0 → rectInside s p x = true →
        exec (.lyrSigRegion p r .rect x) s =
          .next ((s.wrPlain Reg.lyrSigRect (16 * p.val + r.val) x).answer stOk)) ∧
      (s.fld F.lyrSigCtrlLock p = 1 →
        exec (.lyrSigRegion p r .rect x) s =
          .next ((s.wrPlain Reg.lyrSigRect (16 * p.val + r.val) x true).answer stOk))) ∧
    (ServesUnit s Reg.lyrTimingH (.pipe p) →
      (s.fld F.lyrPipeStatusState p = lcOff → timingHOk x = true → s.fld F.lyrSigCtrlLock p = 0 →
        exec (.lyrTiming p .h x) s = .next ((s.wrPlain Reg.lyrTimingH p x).answer stOk)) ∧
      (s.fld F.lyrPipeStatusState p = lcOff → pclkOk (bitsOf x 31 0) = true →
        exec (.lyrTiming p .pclk x) s = .next ((s.wrPlain Reg.lyrPclk p x).answer stOk)) ∧
      (s.fld F.lyrPipeStatusState p ≠ lcOff → ∀ reg, exec (.lyrTiming p reg x) s = .next (s.answer stBusy))) ∧
    (ServesUnit s Reg.lyrWbCtrl (.pipe p) → bitsOf v 7 4 ∈ [2, 4, 5, 9] → bitsOf v 3 1 ≠ 0 →
      exec (.lyrWbCtrl p v) s = .next ((s.wrPlain Reg.lyrWbCtrl p (v.setWidth 64)).answer stOk))

/-- DisplayPort links (R414, R415, R420, R421): training starts with hot-plug detect on an enabled transmitter, ends at a rate and lane
count or fails and is tried again a second later, and a loss of lock starts it again. -/
def Obligations.DisplayLinks : Prop :=
  ∀ (s : State) (t : Fin 2) (p : Fin 4),
    (s.power.on = true →
      (s.fld F.dpxLinkCtrlEn t = 1 → ∃ u, exec (.hotPlug t .assert) s = .next u ∧ u.fld F.dpxLinkStatusHpd t = 1 ∧
        (u.dpTx t).training = true ∧ u.fld F.dpxLinkStatusTrained t = 0) ∧
      (∃ u, exec (.hotPlug t .deassert) s = .next u ∧ u.fld F.dpxLinkStatusHpd t = 0 ∧ u.fld F.dpxLinkStatusTrained t = 0 ∧
        u.dpTx t = {})) ∧
    ((s.dpTx t).training = true →
      (∀ (r : Fin 7) (l : Fin 3), s.domOn domComposer = true → s.fld F.pwrDomainStatusPadsHeld domComposer = 0 →
        r.val ≤ s.fld F.dpxLinkCtrlMaxRate t → l.val ≤ s.fld F.dpxLinkCtrlMaxLanes t →
        ∃ u, exec (.linkTrainingEnd t (some (r, l))) s = .next u ∧ u.fld F.dpxLinkStatusTrained t = 1 ∧
          u.fld F.dpxLinkStatusRate t = r ∧ u.fld F.dpxLinkStatusLanes t = l ∧ (u.dpTx t).training = false) ∧
      (∃ u, exec (.linkTrainingEnd t none) s = .next u ∧ (u.dpTx t).failedAt = some s.now ∧
        u.fld F.dpxLinkStatusTrainFails t =
          (s.fld F.dpxLinkStatusTrainFails t + 1) % 2 ^ (F.dpxLinkStatusTrainFails.hi + 1 - F.dpxLinkStatusTrainFails.lo))) ∧
    (∀ k, (s.dpTx t).failedAt = some k → k + 1000000000 ≤ s.now → s.fld F.dpxLinkCtrlEn t = 1 → s.fld F.dpxLinkStatusHpd t = 1 →
      ∃ u, exec (.trainRetry t) s = .next u ∧ (u.dpTx t).training = true) ∧
    (s.fld F.dpxLinkStatusTrained t = 1 → s.fld F.dpxLinkCtrlEn t = 1 → s.fld F.dpxLinkStatusHpd t = 1 →
      ∃ u, exec (.lossOfLock t) s = .next u ∧ (u.dpTx t).training = true ∧ u.fld F.dpxLinkStatusTrained t = 0) ∧
    (∀ v : W32, Serves s Reg.dpxLinkCtrl → bitsOf v 15 12 < 7 → bitsOf v 11 10 ≠ 3 → natBit v.toNat 0 = true →
      s.fld F.dpxLinkCtrlEn t = 1 →
      exec (.dpxLinkCtrl t v) s = .next ((s.wrPlain Reg.dpxLinkCtrl t (v.setWidth 64)).answer stOk)) ∧
    (∀ v : W64, Serves s Reg.dpxStream →
      (s.fld F.lyrPipeStatusState p = lcOff → (bitsOf v 28 28 = 1 → 128 ≤ bitsOf v 25 17 ∧ bitsOf v 25 17 ≤ 384) →
        exec (.dpxStream p v) s = .next ((s.wrPlain Reg.dpxStream p v).answer stOk)) ∧
      (s.fld F.lyrPipeStatusState p = lcOff → bitsOf v 28 28 = 1 → bitsOf v 25 17 < 128 ∨ 384 < bitsOf v 25 17 →
        exec (.dpxStream p v) s = .next (s.answer stInvalid)) ∧
      (s.fld F.lyrPipeStatusState p ≠ lcOff → exec (.dpxStream p v) s = .next (s.answer stBusy)))

/-! ### Memory and translation (spec/09) -/

/-- The stacked-DRAM map (R424 to R426): a valid map goes to the whistle, an invalid one is refused, and once the zeroing ends every
byte of the stacked DRAM reads 0 and no other byte has changed. -/
def Obligations.StackedMap : Prop :=
  ∀ (s : State) (v : W32),
    (Serves s Reg.memSdCommit → natBit v.toNat 0 = true → s.fld F.memSdCommitGo = 0 → liveCtxs s = [] →
      s.whistle.active = false →
      (mapValid (tabulate 32 (fun i => s.rdStaged Reg.memSdRange i)) = true →
        ∃ t, exec (.memSdCommit v) s = .next t ∧ t.mgmt = stOk ∧ t.fld F.memSdCommitGo = 1 ∧ t.whistle.active = true ∧
          t.whistle.carries.map (·.change) = [.sdMap] ∧ (∀ i, i < 32 → t.rd Reg.memSdRange i = s.rd Reg.memSdRange i)) ∧
      (mapValid (tabulate 32 (fun i => s.rdStaged Reg.memSdRange i)) = false →
        exec (.memSdCommit v) s = .next ((s.setFld F.memSdCommitFailed 0 1).answer stInvalid))) ∧
    (s.zeroing = true → SMap.wf 0 s.mem = true →
      ∃ t, exec .sdZeroingEnd s = .next t ∧ t.zeroing = false ∧ t.fld F.memSdCommitGo = 0 ∧
        (∀ a, 0x4000000000 ≤ a → a < 0x4800000000 → t.byte a = 0) ∧
        (∀ a, a < 0x4000000000 ∨ 0x4800000000 ≤ a → t.byte a = s.byte a) ∧
        (∀ l ∈ t.ue, isSd (l * 128) = false))

/-- Walks, the patrol, retired ways, errors and service classes (R430, R438, R447, R460, R476): a walk serves the access as R461 says
and stores nothing; the patrol moves on by the lines that it reads; up to 3 wrong bytes of a line of LPDDR5X under inline ECC are
correctable, 4 or 5 are not. A failing row is remapped where its table has room (R785 to
R787, R790): the entry, the journal and the counter. -/
def Obligations.MemoryServicesAndRepairs : Prop :=
  (∀ (s : State) (ho : HolderRef) (h : W32) (acc : WalkFor) (va : W64) (n : BitVec 36) (i : Fin 16) (v : W32),
     (s.staleCtx h = false →
       ∃ t, exec (.tableWalk ho h acc va) s = .next t ∧
         t = (xlate s (some (holderOf ho)) h (accessOf acc) va.toNat).2 ∧ (∀ a, t.byte a = s.byte a) ∧
         (∀ j, t.ctx j = s.ctx j) ∧
         (s.tlb = [] → va.toNat < 2 ^ 48 → t.fld F.mmuWalksCount = (s.fld F.mmuWalksCount + 1) % 2 ^ 64)) ∧
     (s.fld F.memPatrolCfgHours ≠ 0 → s.domOn domLpddr = true → s.domOn domStacked = true →
       ∃ t, exec (.patrol n) s = .next t ∧ t.patrol = (s.patrol + n.toNat) % dramLines s ∧ (∀ a, t.byte a = s.byte a) ∧
         (s.ce = [] → s.ue = [] → t = { s with patrol := (s.patrol + n.toNat) % dramLines s })) ∧
     (Serves s Reg.memScRetire →
       exec (.memScRetire i v) s = .next (((writeBack s i (bitsOf (v.setWidth 64) 15 0)).wrPlain Reg.memScRetire i
         (v.setWidth 64)).answer stOk) ∧
       (∀ l, SMap.wf false s.dirty = true → SMap.get false (writeBack s i (bitsOf (v.setWidth 64) 15 0)).dirty l =
         (SMap.get false s.dirty l &&
           !(decide (sliceOf (l * 128) = i.val) && natBit (bitsOf (v.setWidth 64) 15 0) (Config.scWay l % 16))))) ∧
     (∀ (line : Nat) (bytes : List (Nat × Byte)), s.exists? (line * 128) = true → isSd (line * 128) = false → s.eccOn = true →
       SMap.get false s.dirty line = false → s.flawed line = false → SMap.get [] s.altered line = [] →
       (bytes.map (·.1)).Nodup → (∀ b ∈ bytes, b.1 < 136) →
       (1 ≤ bytes.length → bytes.length ≤ 3 → (upset s (.cells line bytes)).ce = s.ce ++ [line] ∧
         (∀ a, (upset s (.cells line bytes)).byte a = s.byte a)) ∧
       (4 ≤ bytes.length → bytes.length ≤ 5 → (upset s (.cells line bytes)).ue = s.ue ++ [line])) ∧
     (Serves s Reg.memQosCfg →
       ((∀ k, k < 4 → natBits v.toNat (8 * k + 7) (8 * k) ≠ 0) →
         exec (.memQosCfg v) s = .next ((s.wrPlain Reg.memQosCfg 0 (v.setWidth 64)).answer stOk)) ∧
       (∀ k, k < 4 → natBits v.toNat (8 * k + 7) (8 * k) = 0 → exec (.memQosCfg v) s = .next (s.answer stInvalid)))) ∧
  (∀ (s : State) (a : BitVec 40), s.exists? a.toNat = true → rowFailing s a.toNat = true →
     (isSd a.toNat = true ∨ s.eccOn = true) →
     s.rowMaps.contains (rowPlace s a.toNat, Config.rowOf a.toNat) = false →
     (s.rowMaps.filter (fun e => e.1 = rowPlace s a.toNat)).length < (if isSd a.toNat then 32 else 64) →
     ∃ t, exec (.rowRemap a) s = .next t ∧ t.rowMaps = s.rowMaps ++ [(rowPlace s a.toNat, Config.rowOf a.toNat)] ∧
       t.journalDue.length = s.journalDue.length + 1 ∧ rowFailing t a.toNat = false ∧ (∀ b, t.byte b = s.byte b) ∧
       (isSd a.toNat = true → t.fld F.stwSdRowRemapsCount = (s.fld F.stwSdRowRemapsCount + 1) % 2 ^ 64) ∧
       (isSd a.toNat = false → t.fld F.stwLpRowRepairsCount = (s.fld F.stwLpRowRepairsCount + 1) % 2 ^ 64))

/-- The translation commands, with their record read from memory and no access of the context unanswered (R469 to R471): no cached
translation of the context that they name is left, ROOT_SWITCH takes the other root, and the command is counted. -/
def Obligations.TranslationCommands : Prop :=
  ∀ (s u : State) (q : Fin 16384) (bs : List Byte) (va len : Nat),
    translating s q = true → (s.queue q).begun = false → (s.queue q).stopReq = none →
    ctxReadObj { s with farUnit := some q.val, farMiss := [], farLack := false } none (s.queue q).owner .load
      (s.queue q).object 32 = (.ok bs, u) → u.farLack = false → ctxOutstanding u (s.queue q).owner = false →
    (xlateRecord (wordsOf bs) = some (1, va, len) →
      ∃ t, exec (.invalRange q) s = .next t ∧
        (∀ e ∈ t.tlb, e.handle = (s.queue q).owner → ¬(e.base < va + len ∧ va < e.base + 2 ^ e.log2))) ∧
    (xlateRecord (wordsOf bs) = some (2, va, len) →
      ∃ t, exec (.invalAll q) s = .next t ∧ (∀ e ∈ t.tlb, e.handle ≠ (s.queue q).owner)) ∧
    (xlateRecord (wordsOf bs) = some (3, va, len) →
      ∃ t, exec (.rootSwitch q) s = .next t ∧ (∀ e ∈ t.tlb, e.handle ≠ (s.queue q).owner) ∧
        (t.ctx (hIndex (s.queue q).owner)).sel = !(s.ctx (hIndex (s.queue q).owner)).sel)

/-! ### Ethernet (spec/11) -/

/-- The host's accesses (R565, R570 to R573) to a window of the device's own, on memory without errors: a write stores its bytes and no
others, a read sends the bytes of memory, an atomic replaces the 64-bit word and sends the old one; each takes its sequence
numbers. What a key does not allow is refused with a NAK and counted, and an unsupported operation with another. -/
def Obligations.HostRequests : Prop :=
  ∀ (s : State) (qp : Fin 1024) (psn : BitVec 24) (ecn : Bool) (rkey : W32) (va : W64),
    TakesRequest s qp psn.toNat →
    (∀ data k, keyFor s qp rkey .write (va.toNat - k.base) data.length = some k → k.base ≤ va.toNat → k.owner = 0 →
      (∀ a, va.toNat ≤ a → a < va.toNat + data.length → s.exists? a = true) → Clean s va.toNat data.length = true →
      ∃ t, exec (.rdmaWrite qp psn ecn rkey va data) s = .next t ∧ t.bytes va.toNat data.length = data ∧
        (∀ a, a < va.toNat ∨ va.toNat + data.length ≤ a → t.byte a = s.byte a) ∧
        (t.qp qp).rpsn = ((s.qp qp).rpsn + packets s qp data.length) % 2 ^ 24 ∧ t.ctxs = s.ctxs ∧ t.queues = s.queues) ∧
    (∀ (len : W32) k, keyFor s qp rkey .read (va.toNat - k.base) len.toNat = some k → k.base ≤ va.toNat → k.owner = 0 →
      (∀ a, va.toNat ≤ a → a < va.toNat + len.toNat → s.exists? a = true) → Clean s va.toNat len.toNat = true →
      exec (.rdmaRead qp psn ecn rkey va len) s =
        .next (qpFrame (takePsn (received s qp ecn) qp (packets s qp len.toNat)) qp
          (.readRsp qp psn.toNat (s.bytes va.toNat len.toNat)))) ∧
    (∀ (x y : W64) k, keyFor s qp rkey .atomic (va.toNat - k.base) 8 = some k → k.base ≤ va.toNat → k.owner = 0 →
      va.toNat % 8 = 0 → s.exists? va.toNat = true → Clean s va.toNat 8 = true →
      (∃ t, exec (.compareAndSwap qp psn ecn rkey va x y) s = .next t ∧
        t.word va.toNat = (if s.word va.toNat = x then y else s.word va.toNat) ∧
        (∀ a, a < va.toNat ∨ va.toNat + 8 ≤ a → t.byte a = s.byte a) ∧
        t.eth = (qpFrame (received s qp ecn) qp (.atomicRsp qp psn.toNat (s.word va.toNat))).eth) ∧
      (∃ t, exec (.fetchAndAdd qp psn ecn rkey va x) s = .next t ∧ t.word va.toNat = s.word va.toNat + x ∧
        (∀ a, a < va.toNat ∨ va.toNat + 8 ≤ a → t.byte a = s.byte a) ∧
        t.eth = (qpFrame (received s qp ecn) qp (.atomicRsp qp psn.toNat (s.word va.toNat))).eth)) ∧
    (∀ data, (∀ k, k.base ≤ va.toNat → keyFor s qp rkey .write (va.toNat - k.base) data.length ≠ some k) →
      exec (.rdmaWrite qp psn ecn rkey va data) s = .next (refuseAccess (received s qp ecn) qp psn.toNat)) ∧
    exec (.invalidRequest qp psn ecn) s = .next (nak (received s qp ecn) qp psn.toNat nakInvalid)

/-- The SENDs and answers of queue pairs (R568, R577 to R579): a malformed SEND of requests is answered INVALID, a request is answered
under its tag with its status and value, a doorbell pair's SEND rings; an acknowledgement retires what it covers, a sequence NAK
and a timeout use a retry, and a pair whose retries are used up, or that gets another NAK, is in ERROR. -/
def Obligations.QueuePairTraffic : Prop :=
  ∀ (s : State) (qp : Fin 1024) (psn : BitVec 24) (ecn : Bool) (data : List Byte),
    (TakesRequest s qp psn.toNat →
      ∀ v, v = ackRequest (received s qp ecn) qp psn.toNat (packets s qp data.length) →
      ((s.qp qp).role = 1 → data.length % 32 ≠ 0 ∨ data.length = 0 ∨ 512 < data.length →
        exec (.send qp psn ecn data) s = .next (qpSend v qp (response 0 stInvalid 0) .none)) ∧
      ((s.qp qp).role = 1 → data.length = 32 → s.jobs = [] →
        ∀ r u, request { v with jobs := [{ qp := qp, todo := data }] } data = (r, u) → r.wait = none →
          ∃ t, exec (.send qp psn ecn data) s = .next t ∧
            t.qps = (qpSend u qp (response (leAt data 4 4) r.status r.value) .none).qps) ∧
      ((s.qp qp).role = 2 → exec (.send qp psn ecn data) s = .next (doorbellFromQp v qp data)) ∧
      ((s.qp qp).role ≠ 1 → (s.qp qp).role ≠ 2 →
        exec (.send qp psn ecn data) s = .next (nak (received s qp ecn) qp psn.toNat nakInvalid))) ∧
    (s.keys = [] → (∀ r ∈ (s.qp qp).reqs, r.purpose = .none) →
      ((s.qp qp).state = .rts →
        exec (.ackReceived qp psn) s =
          .next (s.setQp qp { s.qp qp with reqs := (s.qp qp).reqs.filter (fun r => !psnLe r.psn psn.toNat) })) ∧
      (∀ r rest, (s.qp qp).reqs = r :: rest → (s.qp qp).state = .rts → r.retries ≠ 0 →
        exec (.ackTimeout qp false) s =
          .next (resend (s.setQp qp { s.qp qp with reqs := { r with retries := r.retries - 1 } :: rest }) qp) ∧
        ((∀ x ∈ (s.qp qp).reqs, x.psn = psn.toNat ∨ psnLe x.psn psn.toNat = false) →
          exec (.nakReceived qp psn 0) s =
            .next (resend (s.setQp qp { s.qp qp with reqs := { r with retries := r.retries - 1 } :: rest }) qp))) ∧
      (∀ r rest, (s.qp qp).reqs = r :: rest → (s.qp qp).state = .rts →
        (r.retries = 0 → ∃ t, exec (.ackTimeout qp false) s = .next t ∧ (t.qp qp).state = .error) ∧
        (∀ code : Fin 32, code.val ≠ 0 → (∀ x ∈ (s.qp qp).reqs, x.psn = psn.toNat ∨ psnLe x.psn psn.toNat = false) →
          ∃ t, exec (.nakReceived qp psn code) s = .next t ∧ (t.qp qp).state = .error)))

/-- ETH_OP and the table bases (R568 to R573, R576, R583, R601): a queue pair, key or stream comes from its checked record; queue pairs
stop through DRAINING, an unused key is revoked at once, and a stream between two slots stops at once. -/
def Obligations.EthernetOperations : Prop :=
  ∀ (s : State) (arg : W32), Serves s Reg.ethOp →
    (arg.toNat ≤ 1023 →
      (∀ w u, (s.qp arg.toNat).state = .reset →
        readRecord s (s.fld F.ethQpTableBaseAddr * 65536 + 64 * arg.toNat) 8 = (.ok w, u) → qpWordsOk u w = true →
        ∃ t, exec (.qpStart arg) s = .next t ∧ t.mgmt = stOk ∧ (t.qp arg.toNat).state = .rts ∧ (t.qp arg.toNat).reqs = [] ∧
          (t.qp arg.toNat).spsn = bitsOf (w.getD 4 0) 23 0 ∧ (t.qp arg.toNat).remoteQpn = bitsOf (w.getD 0 0) 23 0 ∧
          (∀ j, j ≠ arg.toNat → t.qp j = u.qp j)) ∧
      ((s.qp arg.toNat).state ≠ .reset → exec (.qpStart arg) s = .next (ethResult s stBusy 0)) ∧
      ((s.qp arg.toNat).state = .rts →
        ∃ t, exec (.qpStop arg) s = .next t ∧ t.mgmt = stOk ∧
          (t.qp arg.toNat).state = (if (s.qp arg.toNat).reqs.isEmpty then .reset else .draining)) ∧
      ((s.qp arg.toNat).state = .error → ∃ t, exec (.qpStop arg) s = .next t ∧ (t.qp arg.toNat).state = .reset) ∧
      (∃ t, exec (.qpQuery arg) s = .next t ∧ t.mgmt = stOk ∧ bitsOf (t.rd Reg.ethOpResult) 47 44 = (s.qp arg.toNat).state.code ∧
        t.qps = s.qps)) ∧
    (arg.toNat ≤ 4095 →
      (∀ w u, readRecord s (s.fld F.ethKeyTableBaseAddr * 65536 + 32 * arg.toNat) 4 = (.ok w, u) →
        keyWordsOk u arg.toNat w = true →
        ∃ t, exec (.keyLoad arg) s = .next t ∧ t.mgmt = stOk ∧ t.key arg.toNat = keyOfWords w ∧
          (∀ j, j ≠ arg.toNat → t.key j = u.key j)) ∧
      ((s.key arg.toNat).loaded = true → keyBusy s (s.key arg.toNat) = false →
        ∃ t, exec (.keyRevoke arg) s = .next t ∧ t.mgmt = stOk ∧ (t.key arg.toNat).loaded = false ∧
          (∀ j, j ≠ arg.toNat → t.key j = s.key j))) ∧
    (arg.toNat ≤ 63 →
      (∀ w u, (s.stream arg.toNat).running = false →
        readRecord s (s.fld F.ethStreamTableBaseAddr * 65536 + 64 * arg.toNat) 8 = (.ok w, u) → streamCheck u w = stOk →
        ∃ t, exec (.streamStart arg) s = .next t ∧ t.mgmt = stOk ∧ t.stream arg.toNat = streamOfWords w) ∧
      ((s.stream arg.toNat).running = true → (s.stream arg.toNat).done = 0 → (s.stream arg.toNat).discard = false →
        (s.stream arg.toNat).frames = [] → (s.stream arg.toNat).unsignalled = [] →
        ∃ t, exec (.streamStop arg) s = .next t ∧ t.mgmt = stOk ∧ t.stream arg.toNat = {})) ∧
    (∀ v, s.qps = [] → s.streams = [] → Serves s Reg.ethQpTableBase →
      exec (.ethQpTableBase .qp v) s = .next ((s.wrPlain Reg.ethQpTableBase 0 v).answer stOk) ∧
      exec (.ethQpTableBase .key v) s = .next ((s.wrPlain Reg.ethKeyTableBase 0 v).answer stOk) ∧
      exec (.ethQpTableBase .stream v) s = .next ((s.wrPlain Reg.ethStreamTableBase 0 v).answer stOk))

/-- The ports (R550 to R555, R557, R559, R561, R601, R699, R715): their life cycle with their domain's, their queue pairs in ERROR once
they stop, the link's state, TC10 sleep and wake, the frame that leaves, and the frames dropped. -/
def Obligations.EthernetPorts : Prop :=
  ∀ (s : State) (p : Fin 8),
    (Serves s Reg.ethPortCtrl →
      (s.fld F.ethPortStatusState p = lcOff → s.domPermitted (ethDomain p) = true →
        ∃ t, exec (.portEnable p) s = .next t ∧ t.mgmt = stOk ∧ t.fld F.ethPortStatusState p = lcStarting ∧
          t.fld F.ethPortCtrlEnable p = 1 ∧
          (s.domState (ethDomain p) = lcOff → t.domState (ethDomain p) = lcStarting)) ∧
      (s.fld F.ethPortStatusState p = lcOff → s.domPermitted (ethDomain p) = false →
        exec (.portEnable p) s = .next (s.answer stBusy)) ∧
      (∀ i q, s.fld F.ethPortStatusState p = lcOn → s.streams = [] → s.keys = [] → s.qps = [(i, q)] → q.port = p.val →
        q.state = .rts → q.role ≠ 3 → q.reqs = [] →
        ∃ t, exec (.portDisable p) s = .next t ∧ t.mgmt = stOk ∧ t.fld F.ethPortStatusState p = lcStopping ∧
          t.fld F.ethPortCtrlEnable p = 0 ∧ (t.qp i).state = .error ∧ (∀ a, t.byte a = s.byte a)) ∧
      (∀ v, s.fld F.ethPortStatusState p = lcOff → Serves s Reg.ethPortMac →
        exec (.ethPortMac p .mac v) s = .next ((s.wrPlain Reg.ethPortMac p v).answer stOk) ∧
        exec (.ethPortMac p .ipLo v) s = .next ((s.wrPlain Reg.ethPortIpLo p v).answer stOk) ∧
        exec (.ethPortMac p .ipHi v) s = .next ((s.wrPlain Reg.ethPortIpHi p v).answer stOk)) ∧
      (∀ reg v, s.fld F.ethPortStatusState p ≠ lcOff → exec (.ethPortMac p reg v) s = .next (s.answer stBusy))) ∧
    (s.domOn (ethDomain p) = true → s.fld F.ethPortStatusState p = lcStarting →
      exec (.phyPowered p) s = .next (s.setFld F.ethPortStatusState p lcOn)) ∧
    (s.fld F.ethPortStatusState p = lcStopping →
      ∃ t, exec (.phyPoweredDown p) s = .next t ∧ t.fld F.ethPortStatusState p = lcOff ∧ t.fld F.ethPortStatusLinkUp p = 0 ∧
        t.qps = s.qps ∧ (∀ a, t.byte a = s.byte a)) ∧
    (s.fld F.ethPortStatusState p = lcOn →
      exec (.linkUp p) s = .next (s.setFld F.ethPortStatusLinkUp p 1) ∧
      (s.fld F.ethPortCtrlSleepOk p = 1 → s.streams = [] → s.qps = [] →
        exec (.tc10SleepRequest p) s = .next (s.setFld F.ethPortStatusAsleep p 1)) ∧
      exec (.unclassifiedFrame p .tooLongOrFcs) s = .next (s.bump F.ethRxFcsErrorsCount p) ∧
      exec (.unclassifiedFrame p .macsec) s = .next (s.bump F.ethMacsecDropsCount p) ∧
      exec (.unclassifiedFrame p .unclassified) s = .next (s.bump F.ethRxUnclassifiedCount p)) ∧
    (s.fld F.ethPortStatusLinkUp p = 1 →
      ∃ t, exec (.linkDown p) s = .next t ∧ t.fld F.ethPortStatusLinkUp p = 0 ∧
        (s.fld F.timCfgSlavePort = p.val → s.timeState = tmLocked → t.timeState = tmHoldover)) ∧
    (s.power.on = true → s.fld F.ethPortStatusAsleep p = 1 → s.powerState = pwActive → s.power.huddle = none →
      s.power.entering = none →
      ∃ t, exec (.tc10Wake p) s = .next t ∧ t.fld F.ethPortStatusAsleep p = 0 ∧ (t.ethPort p).held = [] ∧
        (t.ethPort p).egress = (s.ethPort p).egress ++ (s.ethPort p).held.map (·.2)) ∧
    (∃ t, exec (.tc10WakeTimeout p) s = .next t ∧ (∀ h ∈ (t.ethPort p).held, s.now < h.1 + 10000000) ∧
      (t.ethPort p).egress = (s.ethPort p).egress) ∧
    (∀ f limit, s.fld F.ethPortStatusState p = lcOn → s.fld F.ethPortStatusAsleep p = 0 → s.fld F.ethPortStatusLinkUp p = 1 →
      nextFrame (s.ethPort p).egress = some f → natBit (s.fld F.ethEgressClasses p) f.cls = true →
      limit = s.fld F.ethEgressLimitMbps p → limit ≠ 0 → limit * 1000 ≤ (s.ethPort p).tokens →
      s.fld F.ethPortStatusMacsec p = 0 →
      ∃ t, exec (.frameTransmit p) s = .next t ∧ t.outbox = s.outbox ++ [.eth p f none] ∧
        (t.ethPort p).egress = (s.ethPort p).egress.erase f)

/-- Network time (R592 to R597, R874): what Sync, Announce and silence make of the time state, the answer to a peer, what goes out on
the master ports, TIM_CFG, and the loss of the reference. -/
def Obligations.NetworkTime : Prop :=
  ∀ (s : State) (p : Fin 8) (gm offset : W64),
    (gptpOn s p = true →
      (s.fld F.timCfgSlavePort = p.val →
        (s.timeState = tmFreeRun → s.time.entered = true → s.time.left = true →
          ∃ t, exec (.syncMessage p gm offset) s = .next t ∧ t.timeState = tmAcquiring ∧ t.rd Reg.timGmId = gm ∧
            t.fld F.timOffsetNsOffset = offset.toNat ∧ t.now = s.now) ∧
        (s.timeState = tmAcquiring → s.time.left = true → s.time.run = 15 → (signed 64 offset.toNat).natAbs ≤ 100 →
          ∃ t, exec (.syncMessage p gm offset) s = .next t ∧ t.timeState = tmLocked ∧ t.fld F.timStatusEverLocked = 1) ∧
        (s.timeState = tmAcquiring → s.time.entered = true → s.time.left = false → s.fld F.timStatusEverStepped = 0 →
          liveCtxs s = [] → 1000000 < (signed 64 offset.toNat).natAbs →
          ∃ t, exec (.syncMessage p gm offset) s = .next t ∧
            t.now = (((s.now : Int) + signed 64 offset.toNat) % 2 ^ 64).toNat ∧ t.fld F.timStatusEverStepped = 1) ∧
        (s.timeState = tmLocked → s.rd Reg.timGmId ≠ gm →
          ∃ t, exec (.announceMessage p gm) s = .next t ∧ t.timeState = tmAcquiring ∧ t.rd Reg.timGmId = gm)) ∧
      (s.fld F.timCfgSlavePort ≠ p.val → exec (.announceMessage p gm) s = .next (s.bump F.timIgnoredCount)) ∧
      exec (.peerDelayRequest p) s = .next (offerFrame s p { cls := 2, pcp := 7, vid := 0, body := .pdelay })) ∧
    (s.timeState = tmLocked → s.fld F.timCfgMasterMask = 2 ^ p.val → gptpOn s p = true →
      exec .syncTransmit s =
        .next (offerFrame (offerFrame s p { cls := 2, pcp := 7, vid := 0, body := .sync s.now }) p
          { cls := 2, pcp := 7, vid := 0, body := .announce (s.rd Reg.timGmId) })) ∧
    (3 * 1000000000 ≤ (s.now - s.time.lastSync) * 2 ^ s.fld F.timCfgSyncExp →
      (s.timeState = tmLocked → ∃ t, exec .syncTimeout s = .next t ∧ t.timeState = tmHoldover ∧ t.time.holdSince = s.now) ∧
      (s.timeState = tmAcquiring → ∃ t, exec .syncTimeout s = .next t ∧ t.timeState = tmFreeRun)) ∧
    (s.timeState = tmHoldover → s.fld F.timCfgHoldoverS * 1000000000 ≤ s.now - s.time.holdSince →
      ∃ t, exec .holdoverExpiry s = .next t ∧ t.timeState = tmFreeRun ∧
        t.rd Reg.timHoldoverNs = BitVec.ofNat 64 (s.now - s.time.holdSince)) ∧
    (∀ v : W32, Serves s Reg.timCfg →
      (bitsOf v 31 20 = 0 ∨ natBit (bitsOf v 15 8) (bitsOf v 2 0) = true →
        exec (.timCfg v) s = .next (s.answer stInvalid)) ∧
      (bitsOf v 31 20 ≠ 0 → natBit (bitsOf v 15 8) (bitsOf v 2 0) = false →
        ∃ t, exec (.timCfg v) s = .next t ∧ t.mgmt = stOk ∧ t.fld F.timCfgSlavePort = bitsOf v 2 0 ∧
          (s.fld F.timCfgSlavePort ≠ bitsOf v 2 0 → t.timeState = tmAcquiring))) ∧
    (s.power.on = true → s.referee.cycling = false →
      ∃ t, exec .ethRefclkLost s = .next t ∧ (∀ i, i < 8 → t.fld F.ethPortStatusLinkUp i = 0) ∧
        (∀ a, t.byte a = s.byte a))

/-- Media streams (R584 to R591): a packet's bytes go into the listener's slot where it stands, with nothing missing before them; a
talker's packet carries bytes of its frame under the next sequence number. -/
def Obligations.MediaStreams : Prop :=
  ∀ (s : State) (i : Fin 64),
    (∀ (seq : BitVec 8) (ts : W32) (first last : Bool) (fb : AvSamples) (rate : W32) (data : List Byte) (u v : State) (x : Stream),
      x = s.stream i → x.running = true → x.talker = false → x.rvf = true → x.ended = false → 0 < x.done → x.discard = false → first = false →
      last = false → x.lastSeq = some ((seq.toNat + 255) % 256) → data ≠ [] → x.done + data.length ≤ x.slotBytes →
      u = (s.bump F.ethRxFramesCount x.port).setStream i
        { x with lastSeq := some seq.toNat, nextPt := some (extendTs s.now ts +
          (if fb.frameBytes.toNat = 0 ∨ rate.toNat = 0 then 0 else data.length / fb.frameBytes.toNat * 1000000000 / rate.toNat)) } →
      ctxStore u (some .net) x.owner (x.ring + x.slot % x.nslots * x.slotBytes + x.done) data (.slot i x.slot) = (none, v) →
      exec (.avtpPacket i seq ts first last fb rate data) s =
        .next (v.setStream i { u.stream i with done := x.done + data.length })) ∧
    (∀ (n : BitVec 14) f rest x bs u k sq b, x = s.stream i → x.running = true → x.talker = true → feRuns s = true →
      x.frames = f :: rest → s.now ≤ f.time + x.ptOffset → x.nextAt ≤ s.now → 0 < n.toNat →
      sq = (match x.lastSeq with
        | none => 0
        | some l => (l + 1) % 256) →
      b = FrameBody.avtp i sq (BitVec.ofNat 64 (f.time + x.ptOffset)) bs →
      k = min (min n.toNat 9000) (min (f.width * f.lines - x.done) (f.width - x.done % max 1 f.width)) →
      ctxReadObj { s with farUnit := some (talkUnit i), farMiss := [], farLack := false } (some .net) f.owner .load
        (f.base + x.done / max 1 f.width * f.pitch + x.done % max 1 f.width) k = (.ok bs, u) → u.farLack = false →
      ∃ t, exec (.talkerFrame i n) s = .next t ∧
        t.outbox = (offerFrame u x.port { cls := 1, pcp := x.pcp, vid := x.vid, body := b }).outbox ∧
        (x.done + k < f.width * f.lines → (t.stream i).done = x.done + k ∧ (t.stream i).frames = x.frames))

/-! ### Ihlique (spec/12) -/

/-- A packet that arrives on a port that is up is counted and numbered (R616); a packet for this device with the EPOCH held for its
sender is served (R618 to R622): a READ's bytes go back, a WRITE's are stored before its acknowledgement, an ATOMIC changes its
word and returns the old one; a response that names no outstanding transaction is dropped and counted, and one that does ends it
(R630); doorbells ring, notices are examined, a new EPOCH is taken (R642). A packet for another device goes on by its route with one
hop more (R623, R624). A packet leaves only with credit for its whole frame, which it spends, and is else held (R615). -/
def Obligations.LinkPackets : Prop :=
  ∀ (s u : State) (port : Fin 4) (vc : Fin 8) (p : Packet), portUp s port = true →
    (s.iqlPort port).accepts s.now p = true → u = (frameIn s port vc p).bump F.iqlRxPacketsCount port →
    (p.dst = s.device → s.fld F.iqlEpochKnown p.src = 1 → s.fld F.iqlEpochEpoch p.src = p.epoch →
      (rangeOk p.laddr p.len = true → rangeUsable s p.laddr p.len = true → p.cls = 0 ∨ p.cls = 3 →
        Clean s p.laddr p.len = true →
        exec (.read port vc p) s = .next (respond u { p with typ := 0 } 0 (s.bytes p.laddr p.len)) ∧
        (p.payload.length = p.len →
          ∃ t, exec (.write port vc p) s = .next t ∧ t.bytes p.laddr p.len = p.payload ∧
            (∀ a, a < p.laddr ∨ p.laddr + p.len ≤ a → t.byte a = s.byte a) ∧
            t.outbox = (respond u { p with typ := 2 } 0 []).outbox)) ∧
      (rangeOk p.laddr p.len = false → exec (.read port vc p) s = .next (respond u { p with typ := 0 } 2 [])) ∧
      (∀ new, p.op = 128 + p.op % 16 → p.op % 16 ≠ 10 → p.cls = 0 → p.laddr % 8 = 0 → p.payload.length = 8 → p.len = 8 →
        rangeUsable s p.laddr 8 = true → Clean s p.laddr 8 = true →
        atomicFn (p.op % 16) 64 (s.readNat p.laddr 8) (leNat p.payload) (leNat p.payload) = some new →
        ∃ t, exec (.atomicPacket port vc p) s = .next t ∧ t.readNat p.laddr 8 = new % 2 ^ 64 ∧
          (∀ a, a < p.laddr ∨ p.laddr + 8 ≤ a → t.byte a = s.byte a) ∧
          t.outbox = (respond u { p with typ := 4 } 0 (leBytes 8 (s.readNat p.laddr 8))).outbox) ∧
      ((s.txn p.txid).busy = false →
        exec (.readRsp port vc p) s = .next (u.bump F.iqlStaleDropsCount port) ∧
        exec (.writeAck port vc p) s = .next (u.bump F.iqlStaleDropsCount port) ∧
        exec (.atomicRsp port vc p) s = .next (u.bump F.iqlStaleDropsCount port)) ∧
      (∀ x, x = s.txn p.txid → x.busy = true → x.gen = p.txgen → x.purpose = .none → s.txWait = [] → p.op = 0 →
        exec (.readRsp port vc p) s = .next (u.setTxn p.txid { x with busy := false }) ∧
        exec (.writeAck port vc p) s = .next (u.setTxn p.txid { x with busy := false }) ∧
        exec (.atomicRsp port vc p) s = .next (u.setTxn p.txid { x with busy := false })) ∧
      (s.validate = false → exec (.doorbell port vc p) s = .next (doorbellIn u true (p.payload.take p.len))) ∧
      exec (.fenceNotice port vc p) s = .next (examineFence u (leNat (p.payload.take 8))) ∧
      exec (.announce port vc p) s = .next u) ∧
    (p.dst = s.device → s.fld F.iqlEpochEpoch p.src ≠ p.epoch → s.txns = [] →
      exec (.announce port vc p) s =
        .next ((u.setFld F.iqlEpochKnown p.src 1).setFld F.iqlEpochEpoch p.src p.epoch)) ∧
    (∀ out, p.dst ≠ s.device → p.hops + 1 < 15 → routeTo s p.dst = some out →
      exec (.write port vc p) s =
        .next (portSend u out (leavingVc s p.cls out (some (port.val, vc.val))) { p with typ := 2, hops := p.hops + 1 })) ∧
    (∀ (out v : Nat) (q : Packet), (s.iqlPort out).retraining = false → (s.iqlPort out).traffic = [] →
      ((s.iqlPort out).credit.getD v 0 < frameUnits q →
        (portSend s out v q).outbox = s.outbox ∧ ((portSend s out v q).iqlPort out).traffic = [(v, q)]) ∧
      (frameUnits q ≤ (s.iqlPort out).credit.getD v 0 → v < 8 →
        ((portSend s out v q).iqlPort out).traffic = [] ∧
        ((portSend s out v q).iqlPort out).credit.getD v 0 = (s.iqlPort out).credit.getD v 0 - frameUnits q))

/-- The ports of the links (R605 to R616, R715, R832): their life cycle, their keys, the link's fall and retraining, rekeying and
replay; a transaction without a response (R631). -/
def Obligations.LinkPorts : Prop :=
  ∀ (s : State) (p : Fin 4),
    (ServesUnit s Reg.iqlPortCtrl (.port p) →
      (s.fld F.iqlPortStatusState p = lcOff → s.domPermitted domIhlique = true →
        ∃ t, exec (.iqlPortEnable p) s = .next t ∧ t.mgmt = stOk ∧ t.fld F.iqlPortStatusState p = lcStarting ∧
          t.fld F.iqlPortCtrlEnable p = 1) ∧
      (s.fld F.iqlPortStatusState p = lcOn →
        ∃ t, exec (.iqlPortDisable p) s = .next t ∧ t.mgmt = stOk ∧ t.fld F.iqlPortStatusState p = lcStopping ∧
          t.fld F.iqlPortCtrlEnable p = 0 ∧ (∀ a, t.byte a = s.byte a))) ∧
    (∀ (lanes : BitVec 4) (peer : Fin 64) (pe : BitVec 8), iqlPadsFree s = true →
      widthOf (usableLanes (s.iqlPort p) lanes.toNat) (decide (s.fld F.iqlPortCtrlAllowX2 p = 1)) ≠ 0 →
      iqlStarting s p = true → usableLanes (s.iqlPort p) lanes.toNat < 16 →
      ((s.iqlPort p).expectDevice = some peer.val →
        ∃ t, exec (.keyExchange p lanes peer pe true) s = .next t ∧ t.fld F.iqlPortStatusKeyed p = 1 ∧
          t.fld F.iqlPortStatusPeerDevice p = peer ∧ t.fld F.iqlPortStatusPeerEpoch p = pe.toNat ∧
          t.fld F.iqlPortStatusLanesOk p = usableLanes (s.iqlPort p) lanes.toNat) ∧
      ((s.iqlPort p).expectDevice ≠ some peer.val →
        exec (.keyExchange p lanes peer pe true) s = .next (if s.fld F.iqlPortStatusState p = lcPendingOff then
          (authFailed s p).setFld F.iqlPortStatusState p lcStopping else authFailed s p))) ∧
    (s.fld F.iqlPortStatusState p = lcStarting →
      (s.fld F.iqlPortStatusKeyed p = 1 → s.fld F.iqlPortStatusWidth p ≠ 0 →
        ∃ t, exec (.iqlPortOn p) s = .next t ∧ t.fld F.iqlPortStatusState p = lcOn ∧ t.fld F.iqlPortStatusLinkUp p = 1) ∧
      exec (.iqlStartRetry p .training) s = .next (s.bump F.iqlRetrainsCount p)) ∧
    (s.fld F.iqlPortStatusState p = lcStopping →
      ∃ t, exec (.iqlLanesDown p) s = .next t ∧ t.fld F.iqlPortStatusState p = lcOff ∧ t.fld F.iqlPortStatusLinkUp p = 0 ∧
        t.fld F.iqlPortStatusKeyed p = 0 ∧ t.fld F.iqlPortStatusLanesOk p = 0 ∧ t.fld F.iqlPortStatusWidth p = 0) ∧
    (s.fld F.iqlPortStatusState p = lcOn →
      exec (.iqlLinkDown p) s = .next (s.setFld F.iqlPortStatusLinkUp p 0) ∧
      (s.fld F.iqlPortStatusLinkUp p = 0 →
        exec (.iqlLinkRetrain p false) s = .next (s.bump F.iqlRetrainsCount p) ∧
        ((s.iqlPort p).retraining = false → exec (.iqlLinkRetrain p true) s =
          .next (releaseTraffic ((s.bump F.iqlRetrainsCount p).setFld F.iqlPortStatusLinkUp p 1) p))) ∧
      (∀ (lane : Fin 4) (n : W32), s.fld F.iqlPortStatusWidth p = 2 → 16 < n.toNat → s.fld F.iqlPortCtrlAllowX2 p = 1 →
        ∃ t, exec (.laneRetrain p lane n) s = .next t ∧ (t.iqlPort p).retraining = true ∧
          (t.iqlPort p).pairBad = some (lane.val / 2) ∧ t.journalDue.length = s.journalDue.length + 1) ∧
      (s.fld F.iqlPortStatusLinkUp p = 1 → exec (.linkReplay p .gap) s =
        .next ((s.bump F.iqlLinkRetriesCount p).emit (.iqlReplayReq p (s.iqlPort p).rxSeq))) ∧
      (s.fld F.iqlPortStatusLinkUp p = 1 → (s.iqlPort p).failRun = 15 → ∃ t, exec (.linkReplay p .failedFrame) s = .next t ∧
        t.fld F.iqlPortStatusKeyed p = 0 ∧ (t.iqlPort p).retraining = true)) ∧
    (∀ lanes : BitVec 4, (s.iqlPort p).retraining = true → (s.iqlPort p).pairBad = none → lanes = 15 →
      s.fld F.iqlPortStatusKeyed p = 1 →
      ∃ t, exec (.retrainEnd p lanes) s = .next t ∧ t.fld F.iqlPortStatusWidth p = 2 ∧ (t.iqlPort p).retraining = false ∧
        ((s.iqlPort p).traffic = [] → (t.iqlPort p).traffic = []) ∧
        (∀ v q, (s.iqlPort p).traffic = [(v, q)] → frameUnits q ≤ (s.iqlPort p).credit.getD v 0 →
          (t.iqlPort p).traffic = [] ∧ (t.iqlPort p).txSeq = ((s.iqlPort p).txSeq + 1) % 2 ^ 24)) ∧
    (s.fld F.iqlPortStatusKeyed p = 1 → 2 ^ 40 ≤ (s.iqlPort p).frames →
      ∃ t, exec (.rekey p) s = .next t ∧ (t.iqlPort p).keyPhase = (!(s.iqlPort p).keyPhase) ∧
        (t.iqlPort p).oldKey = some (s.iqlPort p).key ∧ (t.iqlPort p).frames = 0) ∧
    (∀ i : Fin 4096, (s.txn i).busy = true → (s.txn i).purpose = .none → s.txWait = [] →
      s.fld F.iqlCfgTxTimeoutUs * 1000 ≤ s.now - (s.txn i).sentAt →
      exec (.txTimeout i) s = .next (s.setTxn i { s.txn i with busy := false }))

/-- The registers of the links and BULK (R625, R636 to R639, R646, R647): a transfer to another device reads local memory and ends when
every piece is on its way, one with both ends here is INVALID. -/
def Obligations.LinkRegistersAndBulk : Prop :=
  ∀ (s : State) (v : W32),
    (∀ d : Fin 64, Serves s Reg.iqlRoute →
      (bitsOf v 7 7 = 0 ∨ bitsOf v 4 4 = 0 ∨ bitsOf v 6 5 ≠ bitsOf v 3 2 →
        exec (.iqlRoute d v) s = .next ((s.wrPlain Reg.iqlRoute d (v.setWidth 64)).answer stOk)) ∧
      (bitsOf v 7 7 = 1 → bitsOf v 4 4 = 1 → bitsOf v 6 5 = bitsOf v 3 2 →
        exec (.iqlRoute d v) s = .next (s.answer stInvalid))) ∧
    (∀ p : Fin 4, ServesUnit s Reg.iqlPortCtrl (.port p) → bitsOf v 0 0 = 0 →
      (s.fld F.iqlPortStatusState p = lcOff →
        ∃ t, exec (.iqlPortCtrl p v) s = .next t ∧ t.mgmt = stOk ∧ bitsOf (t.rd Reg.iqlPortCtrl p) 3 2 = bitsOf v 3 2 ∧
          t.fld F.iqlPortStatusState p = lcOff) ∧
      (s.fld F.iqlPortStatusState p ≠ lcOff → bitsOf v 3 2 ≠ bitsOf (s.rd Reg.iqlPortCtrl p) 3 2 →
        exec (.iqlPortCtrl p v) s = .next (s.answer stBusy))) ∧
    (Serves s Reg.iqlCfg →
      (bitsOf v 19 6 ≠ 0 → exec (.iqlCfg v) s = .next ((s.wrPlain Reg.iqlCfg 0 (v.setWidth 64)).answer stOk)) ∧
      (bitsOf v 19 6 = 0 → exec (.iqlCfg v) s = .next (s.answer stInvalid))) ∧
    (∀ (q : Fin 16384) bs src dst n u0 u1 u2 u3, starting s q 7 = true → (s.queue q).stopReq = none →
      u0 = { s with farUnit := some q.val, farMiss := [], farLack := false } →
      ctxReadObj u0 none (s.queue q).owner .load (s.queue q).object 32 = (.ok bs, u1) →
      bulkFields (wordsOf bs) = some (src, dst, n) →
      (∀ x d y w, xlate u1 none (s.queue q).owner .load src = (.ok (.mem x), u2) →
        xlate u2 none (s.queue q).owner .store dst = (.ok (.remote d y), u3) →
        (bulkPort u3 d).bind (retarget u3 q) = none →
        bulkMove (n / 16 + 1) (beginCmd (bulkOn u3 q d) q (some (n / 4 + 1000000))) q true d src dst n = (none, w) → (complete w q stOk).farLack = false →
        exec (.bulk q) s = .next { complete w q stOk with
          farUnit := none, far := (complete w q stOk).far.filter (fun x => x.unit ≠ q.val) }) ∧
      (∀ d x y w, xlate u1 none (s.queue q).owner .load src = (.ok (.remote d x), u2) →
        xlate u2 none (s.queue q).owner .store dst = (.ok (.mem y), u3) →
        (bulkPort u3 d).bind (retarget u3 q) = none →
        bulkMove (n / 16 + 1) (beginCmd (bulkOn u3 q d) q (some (n / 4 + 1000000))) q false d src dst n = (none, w) → (complete w q stOk).farLack = false →
        exec (.bulk q) s = .next { complete w q stOk with
          farUnit := none, far := (complete w q stOk).far.filter (fun x => x.unit ≠ q.val) }) ∧
      (∀ x y, xlate u1 none (s.queue q).owner .load src = (.ok (.mem x), u2) →
        xlate u2 none (s.queue q).owner .store dst = (.ok (.mem y), u3) → (complete u3 q stInvalid).farLack = false →
        exec (.bulk q) s = .next { complete u3 q stInvalid with
          farUnit := none, far := (complete u3 q stInvalid).far.filter (fun x => x.unit ≠ q.val) }))

/-! ### The compression engine (spec/13) -/

/-- Channels (R651, R652, R715): enabled from OFF they start, powered they are ON, disabled they stop, at once when no command
runs on them. A COMPRESS or DECOMPRESS whose descriptor and destination list pass R654 and R656, and that resumes from nothing:
it reads its dictionary and its source, and its coder's output, its state record, its counters and its completion follow (R659,
R664, R667, R674). How a compression command ends, once its output and its state record are
stored (R664, R669, R674): the channel's counters rise by what it took and gave, an error names its status, and what it took and
gave is its context's. What the work gives, whatever its stream (R658, R663, R667): never more output than there is room for; all its
input taken where it stops for the input's sake, and every destination byte written where it stops for the output's; a block never
longer than in its stored form; and the check values of zlib, of gzip and of a Zstandard frame with ZCHECK at the packed stream's end. -/
def Obligations.CompressionEngine : Prop :=
  (∀ (s : State) (c : Fin 4),
     (ServesUnit s Reg.cdeChanCtrl (.channel c) →
       (s.fld F.cdeChanStatusState c = lcOff → s.domPermitted domCompression = true →
         ∃ t, exec (.channelEnable c) s = .next t ∧ t.mgmt = stOk ∧ t.fld F.cdeChanStatusState c = lcStarting ∧
           t.fld F.cdeChanCtrlEnable c = 1) ∧
       (s.fld F.cdeChanStatusState c = lcOn →
         ∃ t, exec (.channelDisable c) s = .next t ∧ t.mgmt = stOk ∧ t.fld F.cdeChanCtrlEnable c = 0 ∧
           t.fld F.cdeChanStatusState c = (if channelBusy s c then lcStopping else lcOff) ∧ (∀ a, t.byte a = s.byte a))) ∧
     (s.domOn domCompression = true → s.fld F.cdeChanStatusState c = lcStarting →
       exec (.channelPowered c) s = .next (s.setFld F.cdeChanStatusState c lcOn))) ∧
  ((∀ (s : State) (q : Fin 16384) (c : Fin 4) (h : W32) (ho : Option Holder) (bs ls dict input : List Byte)
      (u0 u1 u2 u3 u4 u5 v : State) (d : Cde),
      starting s q 6 = true → (s.queue q).stopReq = none → (s.queue q).on = some (.channel c) → h = (s.queue q).owner →
      ho = some (Holder.channel c) → u0 = { s with farUnit := some q.val, farMiss := [], farLack := false } →
      ctxReadObj u0 ho h .load (s.queue q).object 64 = (.ok bs, u1) → d.w = wordsOf bs → d.headOk = true → d.resume = false →
      ctxReadObj u1 ho h .load d.dstList (16 * d.ndst) = (.ok ls, u2) → d.dst = dstEntries (wordsOf ls) →
      dstOk (wordsOf ls) = true → d.apart = true → (u2.queue q).owner = h →
      u3 = (beginCmd u2 q (some d.budget)).setFld F.cdeChanStatusCtxIndex c (hIndex h) →
      ctxReadObj u3 ho h .load d.dict d.dictLen = (.ok dict, u4) → ctxReadObj u4 ho h .load d.src d.srcLen = (.ok input, u5) →
      v = cdeEnd u5 q c d (cdeRun d {} dict input) → v.farLack = false →
      (d.op = 0 → exec (.compress q) s = .next { v with farUnit := none, far := v.far.filter (fun x => x.unit ≠ q.val) }) ∧
      (d.op = 1 → exec (.decompress q) s = .next { v with farUnit := none, far := v.far.filter (fun x => x.unit ≠ q.val) })) ∧
   (∀ (s u v : State) (q : Fin 16384) (c : Fin 4) (d : Cde) (e : CdeEnd) (x : Ctx),
      scatter s q c (s.queue q).owner d.dst e.out = (none, u) →
      ctxStore u (some (.channel c)) (s.queue q).owner d.stateOut (stateBytes e) (.store q) = (none, v) →
      x = v.ctx (hIndex (s.queue q).owner) →
      ∃ w : State, cdeEnd s q c d e = channelSettle (complete w q (cdeStatus e.error)) c ∧ w.mem = v.mem ∧
        w.fld F.cdeInBytesCount c = (v.fld F.cdeInBytesCount c + e.used) % 2 ^ 64 ∧
        w.fld F.cdeOutBytesCount c = (v.fld F.cdeOutBytesCount c + e.out.length) % 2 ^ 64 ∧
        w.fld F.cdeCommandsCount c = (v.fld F.cdeCommandsCount c + 1) % 2 ^ 64 ∧
        (w.ctx (hIndex (s.queue q).owner)).cdeBytes = x.cdeBytes + e.used + e.out.length ∧
        (e.error = 0 → cdeStatus e.error = stOk) ∧ (e.error = 6 → cdeStatus e.error = stUnsupported))) ∧
  ((∀ (d : Cde) (r : Resumed) (dict input : List Byte) (e : CdeEnd), e = cdeRun d r dict input →
      e.out.length ≤ d.room ∧ e.used ≤ input.length ∧ (e.reason = 1 → e.used = input.length ∧ e.error = 0) ∧
      (e.reason = 2 → e.out.length = d.room ∧ e.error = 0) ∧ (e.reason = 0 → d.flush = 2 ∨ r.coder.final = true)) ∧
   (∀ (m : Matcher) (h : Hist) (n : Nat) (bs : List Byte) (last : Bool) (z : ZPacked),
      (deflateBlock m h n bs).length ≤ (storedBits false n bs).length ∧
      (zstdPut m last z bs).bytes.length ≤ z.bytes.length + 3 + bs.length) ∧
   (∀ (p : PackParams) (bs : List Byte) (flushes : List Nat), ∃ body : List Byte,
      (p.format = 1 → packed p bs flushes true = body ++ (leBytes 4 (adler32 bs)).reverse) ∧
      (p.format = 2 → packed p bs flushes true = body ++ leBytes 4 (crc32 bs) ++ leBytes 4 bs.length) ∧
      (p.format = 3 → p.zcheck = 1 → packed p bs flushes true = body ++ leBytes 4 (xxh64 bs).toNat)))
/-! ### Power (spec/14) -/

/-- Domains, pads and the clock (R677 to R682, R685, R715, R732, R733): a permitted domain starts, one that is not is refused; a stop is
refused while a partition holds the unit and else begins once the unit is idle; ON and OFF; pads are released only in ON domains;
and the clock takes one step of 25 MHz toward its goal. -/
def Obligations.PowerDomains : Prop :=
  ∀ (s : State),
    (∀ d : Fin 32, d.val ≤ 20 → Serves s Reg.pwrDomainReq →
      (s.domState d = lcOff → s.domPermitted d = true →
        ∃ t, exec (.domainStart d) s = .next t ∧ t.mgmt = stOk ∧ t.domState d = lcStarting ∧ (∀ a, t.byte a = s.byte a)) ∧
      (s.domPermitted d = false → exec (.domainStart d) s = .next (s.answer stBusy)) ∧
      (domInPartition s d = true → exec (.domainStop d) s = .next (s.answer stBusy)) ∧
      (d.val < 16 → domInPartition s d = false → courtIdle s d = true → s.domState d = lcOn → s.whistle.active = false →
        ∃ t, exec (.domainStop d) s = .next t ∧ t.mgmt = stOk ∧ t.domState d = lcStopping ∧
          t.fld F.fldCourtStatusDomainOn d = 0)) ∧
    (∀ d : Fin 29, s.whistle.active = false →
      (s.power.on = true → s.domState d = lcStarting → s.power.waking = false →
        ∃ t, exec (.domainOn d) s = .next t ∧ t.domState d = lcOn ∧
          (s.power.padsLow.contains d.val = false → t.fld F.pwrDomainStatusPadsHeld d = 0) ∧
          (d.val < 16 → t.court d = (s.court d).scrubbed ∧ t.fld F.fldCourtStatusDomainOn d = 1)) ∧
      (s.domState d = lcStopping → s.power.entering = none →
        ∃ t, exec (.domainOff d) s = .next t ∧ t.domState d = lcOff ∧ (∀ a, t.byte a = s.byte a))) ∧
    (∀ v : W32, Serves s Reg.padRelease →
      (∀ d, d < 29 → natBit v.toNat d = true → s.fld F.pwrDomainStatusPadsHeld d = 1 → s.domOn d = true) →
      ∃ t, exec (.padRelease v) s = .next t ∧ t.mgmt = stOk ∧
        ∀ d, d < 29 → t.fld F.pwrDomainStatusPadsHeld d =
          (if natBit v.toNat d then 0 else s.fld F.pwrDomainStatusPadsHeld d)) ∧
    (s.power.on = true → s.power.stepAt = none →
      (s.fld F.pwrStatusArithMhz < min s.power.goal (clockCap s) →
        ∃ t, exec .clockStep s = .next t ∧ t.fld F.pwrStatusArithMhz = s.fld F.pwrStatusArithMhz + 25 ∧
          t.power.stepAt = some s.now) ∧
      (min s.power.goal (clockCap s) < s.fld F.pwrStatusArithMhz →
        ∃ t, exec .clockStep s = .next t ∧ t.fld F.pwrStatusArithMhz = s.fld F.pwrStatusArithMhz - 25))

/-- The huddle, entry and wake (R694 to R708): TARGET starts a huddle, wakes, or wakes nothing; each answer counts, a refusal ends the
huddle with its agent and reason, and the last acceptance begins the entry; the copies between stacked DRAM and the save area; the
wake; and the watch state's own readings. -/
def Obligations.PowerStates : Prop :=
  ∀ (s : State),
    (s.power.on = true → bootReady s = true → s.referee.cycling = false → s.powerState = pwActive → chipRecovers s = false →
      s.power.huddle = none → s.power.entering = none →
      exec .targetActive s = .next (s.answer stOk) ∧
      exec .targetStandby s = .next { s.setFld F.pwrStateStatusHuddle 0 1 with
        power := { s.power with huddle := some { target := pwStandby, asked := huddleAgents } } } ∧
      exec .targetWatch s = .next { s.setFld F.pwrStateStatusHuddle 0 1 with
        power := { s.power with huddle := some { target := pwWatch, asked := huddleAgents } } }) ∧
    (∀ (a : HuddleAgent) (h : Huddle), s.power.huddle = some h → agentBlock a ∈ h.asked →
      (∀ r, huddleSays s h.target a = .refuse r → r < 256 →
        ∃ t, exec (.huddleAnswer a) s = .next t ∧ t.power.huddle = none ∧ t.fld F.pwrStateStatusResult = 2 ∧
          t.fld F.pwrStateStatusRefuser = agentBlock a ∧ t.fld F.pwrStateStatusReason = r ∧ t.powerState = pwActive) ∧
      (huddleSays s h.target a = .delay → SMap.get 0 h.delays (agentBlock a) < 3 →
        ∃ t k, exec (.huddleAnswer a) s = .next t ∧ t.power.huddle = some k ∧ agentBlock a ∈ k.delayed ∧
          agentBlock a ∉ k.asked ∧ SMap.get 0 k.delays (agentBlock a) = SMap.get 0 h.delays (agentBlock a) + 1) ∧
      (huddleSays s h.target a = .accept → h.asked.filter (· ≠ agentBlock a) ≠ [] →
        exec (.huddleAnswer a) s =
          .next { s with power := { s.power with huddle := some { h with asked := h.asked.filter (· ≠ agentBlock a) } } }) ∧
      (huddleSays s h.target a = .accept → h.asked.filter (· ≠ agentBlock a) = [] → h.delayed = [] → s.domOn domFabric = true →
        ∃ t, exec (.huddleAnswer a) s = .next t ∧ t.power.huddle = none ∧ t.power.entering = some h.target ∧
          t.power.saving = decide (h.target = pwWatch) ∧ t.power.before = (List.range 29).filter s.domOn)) ∧
    (∀ (a : HuddleAgent) (h : Huddle), s.power.huddle = some h → agentBlock a ∈ h.delayed →
      exec (.huddleDelayExpiry a) s = .next { s with
        power := { s.power with
          huddle := some { h with delayed := h.delayed.filter (· ≠ agentBlock a), asked := h.asked ++ [agentBlock a] } } }) ∧
    (s.power.saving = true → s.qps = [] → s.streams = [] →
      ∃ t, exec .watchSaveDone s = .next t ∧ t.power.saving = false ∧
        (∀ k, k < 0x800000000 → t.byte (saveBase s + k) = s.byte (0x4000000000 + k)) ∧
        (∀ a, a < saveBase s ∨ saveBase s + 0x800000000 ≤ a → t.byte a = s.byte a)) ∧
    (s.power.wake ≠ 0 → s.power.entering = none → s.power.waking = false → s.powerState = pwStandby ∨ s.powerState = pwWatch →
      ∃ t, exec .wake s = .next t ∧ t.power.waking = true ∧ t.power.wake = 0 ∧ t.power.clkReqHigh = false ∧
        t.rd Reg.pwrWakeCause = s.rd Reg.pwrWakeCause ||| BitVec.ofNat 64 s.power.wake ∧
        (s.domState domFabric = lcOff → t.domState domFabric = lcStarting)) ∧
    (s.power.waking = true → s.powerState = pwWatch → allBack s = true →
      ∃ t, exec .watchRestoreDone s = .next t ∧ t.powerState = pwActive ∧ t.power.waking = false ∧
        (∀ k, k < 0x800000000 → t.byte (0x4000000000 + k) = s.byte (saveBase s + k)) ∧
        (∀ kv ∈ s.stw.cfgQps, (∀ kw ∈ s.stw.cfgQps, kw.1 = kv.1 → kw = kv) → t.qp kv.1 = { kv.2 with state := .rts })) ∧
    (s.power.on = true → s.fld F.pwrIdleCfgAutoIdle = 1 → s.powerState = pwActive → s.power.huddle = none →
      s.power.entering = none → workNow s = false → idleDue s = true →
      exec .idleEntry s = .next (s.setFld F.pwrStateStatusState 0 pwIdle)) ∧
    (∀ (v : W16) (xs : List (BitVec 24)) (c : W64) (rest : List W64), s.powerState = pwWatch → s.power.waking = false →
      s.power.entering = none → s.power.watch = c :: rest →
      (bitsOf c 3 3 = 0 → bitsOf c 4 4 = 1 →
        ∃ t, exec (.watchPeriod (some v) []) s = .next t ∧ t.fld F.pwrWatchLastSensor = v.toNat) ∧
      (bitsOf c 3 3 = 1 → bitsOf c 4 4 = 0 → xs.length = 32 * bitsOf c 17 11 →
        ∃ t, exec (.watchPeriod none xs) s = .next t ∧ t.fld F.pwrWatchLastEnergy = windowEnergy xs % 2 ^ 32))

/-- Average power and temperature (R440, R441, R685, R703, R709 to R714, R718 to R728, R734): estimates, samples and control ticks,
with the fraction granted within its limits; the registers with their ranges; the throttle's steps; and TRIPPED, with every domain
OFF, at 115 °C or on a rail fault. -/
def Obligations.PowerControl : Prop :=
  ∀ (s : State) (mw : W32) (v : W32),
    (s.power.on = true → s.powerState ≠ pwTripped →
      exec (.estimateTick mw) s =
        .next { (shareEnergy (usageSettle s) (mw.toNat * 10000)).setFld F.pwrEstimateMwMw 0 mw.toNat with
          power := { s.power with estSum := s.power.estSum + mw.toNat, estCount := s.power.estCount + 1 } } ∧
      (s.fld F.pwrFixedModeEn = 0 →
        ∃ t, exec (.measuredSample mw []) s = .next t ∧ t.fld F.pwrMeasuredMwMw = mw.toNat ∧
          t.fld F.pwrStatusTrust = trustOf t ∧ t.power.estCount = 0) ∧
      (∀ field step next : W32, 1 ≤ grantLimit s → s.fld F.pwrStatusTrust = 0 →
        ∃ t, exec (.controlTick field step next) s = .next t ∧ 1 ≤ t.fld F.pwrStatusGranted ∧
          t.fld F.pwrStatusGranted ≤ grantLimit s) ∧
      (∀ (i : Fin 32) (raw : W16),
        (corrected s i raw < 100 →
          ∃ t, exec (.sensorRead i raw) s = .next t ∧ t.fld F.pwrTempTemp i = toBits 8 (corrected s i raw) ∧
            t.fld F.pwrStatusThermalStep = s.fld F.pwrStatusThermalStep) ∧
        (100 ≤ corrected s i raw → corrected s i raw < 115 → s.fld F.pwrStatusThermalStep = 0 →
          ∃ t, exec (.sensorRead i raw) s = .next t ∧ t.fld F.pwrStatusThermalStep = 1 ∧
            t.fld F.pwrStatusGranted ≤ 32 ∧ t.fld F.pwrStatusArithMhz ≤ 1000) ∧
        (115 ≤ corrected s i raw →
          ∃ t, exec (.sensorRead i raw) s = .next t ∧ t.powerState = pwTripped ∧ t.power.thermtrip = true ∧
            (∀ d, d < 29 → t.domState d = lcOff))) ∧
      (∃ t, exec .railFault s = .next t ∧ t.powerState = pwTripped ∧ (∀ d, d < 29 → t.domState d = lcOff) ∧
        t.power.huddle = none ∧ t.ctxs = [] ∧ t.mem = [])) ∧
    (Serves s Reg.pwrBoostCfg → exec .recal s = .next ((fitBegin s).answer stOk)) ∧
    (s.power.fitting = true → s.power.fitAt + 10000000000 ≤ s.now → exec .recalRetry s = .next (fitBegin s)) ∧
    (Serves s Reg.pwrCapMw →
      (40000 ≤ bitsOf v 17 0 → bitsOf v 17 0 ≤ 240000 → s.fld F.pwrFloorMwMw ≤ bitsOf v 17 0 → fixedComing s = false →
        exec (.pwrCapMw v) s = .next ((s.setFld F.pwrCapMwCap 0 (bitsOf v 17 0)).answer stOk)) ∧
      (bitsOf v 17 0 < 40000 ∨ 240000 < bitsOf v 17 0 ∨ bitsOf v 17 0 < s.fld F.pwrFloorMwMw →
        exec (.pwrCapMw v) s = .next (s.answer stInvalid))) ∧
    (Serves s Reg.pwrDomainPermit → floorMw s (bitsOf v 25 0) ≤ s.fld F.pwrCapMwCap → fixedComing s = false →
      exec (.pwrDomainPermit v) s =
        .next ((permitShow (s.setFld F.pwrDomainPermitPermit 0 (bitsOf v 25 0))).answer stOk)) ∧
    (s.whistle.active = false →
      (Serves s Reg.pwrFixedMode → natBit v.toNat 31 = false →
        ∃ t, exec (.pwrFixedMode v) s = .next t ∧ t.mgmt = stOk ∧ t.whistle.active = true ∧ t.whistle.carries =
          [{ change := .fixedMode, vals := [(Reg.key Reg.pwrFixedMode 0, fixedValue s (natBit v.toNat 0))] }]) ∧
      (Serves s Reg.pwrIssueLimit → 1 ≤ bitsOf v 6 0 → bitsOf v 6 0 ≤ 64 →
        ∃ t, exec (.issueLimit v) s = .next t ∧ t.mgmt = stOk ∧ t.whistle.active = true ∧ t.whistle.carries =
          [{ change := .issueLimit, vals := [(Reg.key Reg.pwrIssueLimit 0, BitVec.ofNat 64 (bitsOf v 6 0))] }]) ∧
      (Serves s Reg.pwrKickCfg → 256 ≤ bitsOf v 12 0 → bitsOf v 12 0 ≤ 4096 →
        ∃ t, exec (.rampCycles v) s = .next t ∧ t.mgmt = stOk ∧ t.whistle.active = true ∧ t.whistle.carries =
          [{ change := .rampCycles, vals := [(Reg.key Reg.pwrKickCfg 0, BitVec.ofNat 64 (bitsOf v 12 0))] }])) ∧
    (∀ x : W64, Serves s Reg.pwrWatchSave → bitsOf x 0 0 = 0 →
      exec (.pwrWatchSave x) s = .next ((s.wrPlain Reg.pwrWatchSave 0 x).answer stOk)) ∧
    (Serves s Reg.pwrWatchCfg → 10 ≤ bitsOf v 31 18 → bitsOf v 31 18 ≤ 10000 → 1 ≤ bitsOf v 17 11 → bitsOf v 17 11 ≤ 100 →
      bitsOf v 17 11 ≤ bitsOf v 31 18 → bitsOf v 10 7 ≠ 0 → bitsOf v 4 3 ≠ 0 →
      exec (.pwrWatchCfg v) s = .next ((s.wrPlain Reg.pwrWatchCfg 0 (v.setWidth 64)).answer stOk)) ∧
    (∀ k, s.power.hotSince = some k → 1 ≤ s.fld F.pwrStatusThermalStep → s.fld F.pwrStatusThermalStep < 3 →
      k + 10000000 ≤ s.now →
      ∃ t, exec .throttleStepUp s = .next t ∧ t.fld F.pwrStatusThermalStep = s.fld F.pwrStatusThermalStep + 1) ∧
    (∀ k, s.power.coolSince = some k → 1 ≤ s.fld F.pwrStatusThermalStep → k + 100000000 ≤ s.now →
      ∃ t, exec .throttleStepDown s = .next t ∧ t.fld F.pwrStatusThermalStep = s.fld F.pwrStatusThermalStep - 1) ∧
    (∀ (c : Fin 64) (raw : W16), s.domOn domStacked = true →
      ∃ t, exec (.sdTempUpdate c raw) s = .next t ∧ t.fld F.memSdChanTemp c = toBits 8 (corrected s (32 + c.val) raw) ∧
        t.fld F.memSdChanRefresh c = refreshOf (s.fld F.memSdChanRefresh c) (corrected s (32 + c.val) raw)) ∧
    (∀ (c : Fin 8) (temp : BitVec 8) (rate : Fin 3), s.domOn domLpddr = true →
      exec (.lpTempUpdate c temp rate) s =
        .next ((s.setFld F.memLpChanTemp c temp.toNat).setFld F.memLpChanRefresh c rate))

/-! ### The referee (spec/15, spec/16) -/

/-- Recoveries begin (R737, R740, R743, R739, R742, R761, R766 to R768, R818, R874): a command over its budget is asked to stop at
context level, a stop that takes more than 1 ms goes to the engine level, a shared unit or a lost reference to the chip level, and
what that cannot mend to the tray controller. -/
def Obligations.RecoveryBegins : Prop :=
  ∀ (s : State),
    (∀ q : Fin 16384, overBudget s q = true → (s.queue q).replaying = false → (s.queue q).phase = .running →
      (s.queue q).kind ≠ 2 → (s.queue q).kind ≠ 3 → (unitsOf s q).any (unitKept s) = false →
      s.recoveries.any (fun r => decide (r.level = 3)) = false →
      ∃ t x, exec (.budgetOverrun q) s = .next t ∧ (t.queue q).stopReq = some stRefStop ∧ x.q = q.val ∧ x.overran = true ∧
        t.recoveries = s.recoveries ++ [{ id := s.referee.nextId, level := 0, since := s.now, suspects := [x] }] ∧
        t.fld F.refContextStopsCount = (s.fld F.refContextStopsCount + 1) % 2 ^ 64) ∧
    (∀ (id : W32) r x, s.recoveries = [r] → r.id = id.toNat → r.level = 0 → r.replay = none → r.suspects = [x] →
      r.units = [] → r.others = [] → x.judged = false → (s.queue x.q).phase = .running → unitsOf s x.q ≠ [] →
      (∀ u ∈ unitsOf s x.q, ∀ p, u ≠ .port p) → r.since + 1000000 ≤ s.now →
      ∃ t r', exec (.stopBoundMiss id) s = .next t ∧ t.recoveries = [r'] ∧ r'.id = r.id ∧ r'.level = 1 ∧ r'.since = s.now ∧
        r'.first = unitsOf s x.q ∧ (t.queue x.q).phase = .halted ∧
        t.fld F.refEngineResetsCount = (s.fld F.refEngineResetsCount + 1) % 2 ^ 64) ∧
    (s.recoveries.any (fun r => decide (r.level = 3 ∧ r.ended = false)) = false →
      (s.fabricOn = true →
        ∃ t, exec .sharedUnitTimeout s = .next t ∧ t.recoveries.map (·.level) = [3] ∧ t.tlb = [] ∧ t.walks = [] ∧
          t.stw.recovered = true ∧ t.rd Reg.refChipLast = BitVec.ofNat 64 s.now) ∧
      (s.power.on = true → s.power.clkReqHigh = false → s.powerState ≠ pwTripped → s.referee.cycling = false →
        ∃ t, exec .refclkLost s = .next t ∧ t.recoveries.map (·.level) = [3] ∧ t.stw.recovered = true)) ∧
    (s.power.on = true →
      ∃ t, exec .watchdogExpiry s = .next t ∧ t.referee.cycleDue = some (s.referee.cycleDue.getD 3) ∧
        t.stw.misses = s.stw.misses + (if s.fld F.stwBootStatusState = 1 then 0 else 1)) ∧
    (s.recoveries.any (fun r => decide (r.level = 3 ∧ r.since + 3000000000 ≤ s.now)) = true →
      exec .chipRecoveryTimeout s = .next (cycleFor s 0)) ∧
    (∀ c, s.referee.cycleDue = some c → s.power.on = true → s.referee.cycling = false →
      ∃ t, exec .powerCycleReq s = .next t ∧ t.referee.cycling = true ∧ t.referee.cycleDue = none ∧ t.ctxs = [] ∧
        (t.fld F.refStatusTrayAsserted = 1 ∨ t.fld F.refStatusTrayPending = 1)) ∧
    (s.fld F.refStatusTrayPending = 1 → (s.rd Reg.refTrayLast).toNat + 60000000000 ≤ s.now →
      ∃ t, exec .trayReqHoldoffEnd s = .next t ∧ t.fld F.refStatusTrayAsserted = 1 ∧ t.fld F.refStatusTrayPending = 0 ∧
        t.rd Reg.refTrayLast = BitVec.ofNat 64 s.now)

/-- Recoveries go on (R20, R747, R750, R754, R755, R759 to R761, R764, R773, R774): a drained fence lets the units' scrubs begin, the
last scrub ends the reset, a suspect is replayed or, its context lost, completes with CONTEXT_LOST, and a chip-level reset restores the
device with its next EPOCH; the referee's registers. -/
def Obligations.RecoveryGoesOn : Prop :=
  ∀ (s : State) (id : W32) (r : Recovery), s.recoveries = [r] → r.id = id.toNat →
    (∀ n : Fin 16, r.level = 1 → r.drained = false → r.suspects = [] → r.others = [] → r.units = [.court n] →
      r.since + 10000 ≤ s.now → s.domOn n = true →
      ∃ t, exec (.fenceDrainEnd id) s = .next t ∧ (t.court n).scrub = .due ∧ t.fld F.fldCourtStatusScrubbing n = 1 ∧
        t.recoveries = [{ r with drained := true }] ∧ (∀ a, t.byte a = s.byte a)) ∧
    (∀ n : Fin 16, r.level = 1 → r.drained = true → r.ended = false → r.replay = none → r.suspects = [] → r.others = [] →
      r.units = [.court n] → (s.court n).scrub = .clean → s.ctxs = [] →
      ∃ t, exec (.resetEnd id) s = .next t ∧ t.recoveries = [] ∧ t.fld F.refStatusLevel = 0 ∧
        t.fld F.refStatusRecovering = 0 ∧ (∀ a, t.byte a = s.byte a)) ∧
    (∀ x, r.suspects = [x] → x.judged = false → r.ended = true → r.replay = none → unitsAlone s r = true →
      (s.queue x.q).phase = .halted → lostFor s (s.queue x.q) = false →
      ∃ t, exec (.replay id) s = .next t ∧ (t.queue x.q).phase = .running ∧ (t.queue x.q).begun = false ∧
        (t.queue x.q).replaying = true ∧ (t.queue x.q).stopReq = none ∧ (t.queue x.q).deadline = none ∧
        t.recoveries = [{ r with replay := some x.q }]) ∧
    (∀ x, r.suspects = [x] → x.judged = false → r.ended = true → r.replay = none → unitsAlone s r = true →
      (s.queue x.q).phase = .halted → lostFor s (s.queue x.q) = true →
      exec (.replay id) s = .next (endWith (suspectJudged s r x stContextLost) x.q stContextLost)) ∧
    (r.level = 3 → r.drained = false → s.referee.cycleDue = none →
      exec (.chipReset false true) s = .next (cycleFor s 1) ∧
      ∃ t, exec (.chipReset true true) s = .next t ∧ t.stw.epoch = (s.stw.epoch + 1) % 256 ∧
        t.fld F.feSchedCfgMode = 1 ∧ t.fields = [] ∧ t.groups = [] ∧ t.passes = []) ∧
    (∀ v : W32, Serves s Reg.refBudgetMargin →
      (10000 ≤ v.toNat → v.toNat ≤ 10000000 →
        exec (.refBudgetMargin v) s = .next ((s.wrPlain Reg.refBudgetMargin 0 (v.setWidth 64)).answer stOk)) ∧
      (v.toNat < 10000 ∨ 10000000 < v.toNat → exec (.refBudgetMargin v) s = .next (s.answer stInvalid))) ∧
    (∀ v : W64, Serves s Reg.refFaultRing →
      (liveCtxs s = [] → 6 ≤ bitsOf v 3 0 → bitsOf v 3 0 ≤ 12 →
        exec (.refFaultRing v) s = .next ((s.wrPlain Reg.refFaultRing 0 v).answer stOk)) ∧
      (liveCtxs s = [] → bitsOf v 3 0 < 6 ∨ 12 < bitsOf v 3 0 → exec (.refFaultRing v) s = .next (s.answer stInvalid)) ∧
      (liveCtxs s ≠ [] → exec (.refFaultRing v) s = .next (s.answer stBusy)))

/-- Inspections and the journal (R775 to R782, R792, R794, R807, R808): a unit falls due or is asked for, is taken, and its end is
shown; a court that fails is retired; a repair takes the journal's next place and changes no other byte of flash. -/
def Obligations.Inspections : Prop :=
  ∀ (s : State) (u : Fin 68),
    (∀ k : Fin 2, s.fabricOn = true → routineDue s k u = true →
      s.inspects.any (fun y => decide (y.kind = k.val ∧ y.unit = u.val ∧ y.way = 0)) = false →
      exec (.inspectionDue k u) s =
        .next { s with inspects := s.inspects ++ [{ kind := k, unit := u, routine := true }] }) ∧
    (∀ v : W32, Serves s Reg.stwInspectReq → bitsOf v 31 30 < 2 → unitExists (bitsOf v 31 30) (bitsOf v 15 8) = true →
      unitRetired s (bitsOf v 31 30) (bitsOf v 15 8) 0 = false → s.inspects = [] →
      exec (.stwInspectReq v) s =
        .next ({ s with inspects := [{ kind := bitsOf v 31 30, unit := bitsOf v 15 8 }] }.answer stOk)) ∧
    (∀ (w : Fin 16) x, s.inspects = [x] → x.kind = 0 → x.unit = u.val → x.way = w.val → x.running = false → mayTake s x = true →
      ∃ t, exec (.inspection 0 u w) s = .next t ∧ t.inspects = [{ x with running := true }] ∧
        t.fld F.fldCourtStatusInspecting u = 1) ∧
    (∀ (w : Fin 16) (mask : BitVec 18) x, s.inspects = [x] → x.kind = 0 → x.unit = u.val → x.way = w.val →
      x.running = true →
      (s.domOn u = true →
        ∃ t, exec (.inspectionEnd 0 u w 0 []) s = .next t ∧ t.inspects = [] ∧ t.fld F.fldCourtStatusInspecting u = 0 ∧
        (t.court u).scrub = .due ∧ t.fld F.fldCourtStatusScrubbing u = 1 ∧ t.fld F.stwInspectStatusResult = 0 ∧
        t.fld F.stwInspectStatusKind = 0 ∧ t.fld F.stwInspectStatusUnit = u ∧
        t.fld F.stwInspectionsCount = (s.fld F.stwInspectionsCount + 1) % 2 ^ 64) ∧
      (mask ≠ 0 → courtPart s u = none →
        ∃ t, exec (.inspectionEnd 0 u w mask []) s = .next t ∧ t.fld F.fldCourtStatusRetired u = 1 ∧
          t.fld F.stwInspectStatusResult = 2 ∧ t.fld F.stwInspectStatusFailMask = mask.toNat ∧
          t.fld F.stwInspectFailsCount = (s.fld F.stwInspectFailsCount + 1) % 2 ^ 64 ∧
          t.fld F.stwCourtsRetiredCount = (s.fld F.stwCourtsRetiredCount + 1) % 2 ^ 64)) ∧
    (∀ r rest n, s.journalDue = r :: rest → n = s.fld F.stwRepairJournalUsed → n < 1024 →
      ∃ t, exec .journalAppend s = .next t ∧ t.journalDue = rest ∧ t.fld F.stwRepairJournalUsed = n + 1 ∧
        t.flashBytes (flCal + calJournal + 32 * n) 32 = journalEntry r n ∧
        (∀ a, a < flCal + calJournal + 32 * n ∨ flCal + calJournal + 32 * n + 32 ≤ a → t.flashByte a = s.flashByte a))

/-! ### The event recorder and the steward (spec/16, spec/17, spec/18) -/

/-- The event recorder (R798 to R802, R806, R810): tokens return, a freeze holds the ring and a thaw or its time limit ends it with one
record, a flush takes an erased region and leaves the ring's words in it, and the power-fail pin asks for a flush. -/
def Obligations.EventRecorder : Prop :=
  ∀ (s : State) (v : W32),
    (SMap.wf {} s.buckets = true →
      ∃ t, exec .tokenRefill s = .next t ∧
        (∀ c, SMap.get {} t.buckets c = (SMap.get {} s.buckets c).back s.now (s.fld F.evrCfgRate)) ∧ t.regs = s.regs) ∧
    (Serves s Reg.evrCfg →
      (1 ≤ bitsOf v 31 16 → bitsOf v 31 16 ≤ 1000 → 1 ≤ bitsOf v 15 0 → bitsOf v 15 0 ≤ 1024 →
        ∃ t, exec (.evrCfg v) s = .next t ∧ t.mgmt = stOk ∧ t.fld F.evrCfgRate = bitsOf v 31 16 ∧
          t.fld F.evrCfgBurst = bitsOf v 15 0) ∧
      (bitsOf v 31 16 = 0 ∨ 1000 < bitsOf v 31 16 ∨ bitsOf v 15 0 = 0 ∨ 1024 < bitsOf v 15 0 →
        exec (.evrCfg v) s = .next (s.answer stInvalid))) ∧
    (Serves s Reg.evrFreeze → bitsOf v 23 8 = 0 ∨ 60000 < bitsOf v 23 8 →
      exec (.freeze v) s = .next (s.answer stInvalid) ∧ exec (.thaw v) s = .next (s.answer stInvalid)) ∧
    (Serves s Reg.evrFreeze → 1 ≤ bitsOf v 23 8 → bitsOf v 23 8 ≤ 60000 →
      (s.fld F.evrFreezeFrozen = 1 → natBit v.toNat 1 = false →
        exec (.freeze v) s = .next ((s.setFld F.evrFreezeFreezeMaxMs 0 (bitsOf v 23 8)).answer stOk)) ∧
      (s.fld F.evrFreezeFrozen = 0 → natBit v.toNat 0 = false →
        exec (.thaw v) s = .next ((s.setFld F.evrFreezeFreezeMaxMs 0 (bitsOf v 23 8)).answer stOk))) ∧
    (Serves s Reg.evrFreeze → 1 ≤ bitsOf v 23 8 → bitsOf v 23 8 ≤ 60000 →
      (s.fld F.evrFreezeFrozen = 0 →
        ∃ t, exec (.freeze v) s = .next t ∧ t.mgmt = stOk ∧ t.fld F.evrFreezeFrozen = 1 ∧
          t.fld F.evrFreezeFreezeMaxMs = bitsOf v 23 8 ∧ t.stw.frozenAt = s.now ∧ t.fld F.evrHeadCount = s.fld F.evrHeadCount) ∧
      (s.fld F.evrFreezeFrozen = 1 → s.flushing = false →
        ∃ t, exec (.thaw v) s = .next t ∧ t.mgmt = stOk ∧ t.fld F.evrFreezeFrozen = 0 ∧ t.unwritten = 0 ∧
          t.fld F.evrHeadCount = (s.fld F.evrHeadCount + 1) % 2 ^ 64)) ∧
    (s.fld F.evrFreezeFrozen = 1 → s.flushing = false →
      s.stw.frozenAt + s.fld F.evrFreezeFreezeMaxMs * 1000000 ≤ s.now →
      ∃ t, exec .freezeTimeout s = .next t ∧ t.fld F.evrFreezeFrozen = 0 ∧ t.unwritten = 0) ∧
    (∀ c, s.stw.flushDue = some c →
      (s.stw.flushed.getD 0 none = none →
        ∃ t, exec .flush s = .next t ∧ t.flushing = true ∧ t.stw.flushRegion = some 0 ∧ t.stw.flushDue = none ∧
          t.fld F.evrFreezeFrozen = 0) ∧
      (s.stw.flushed.getD 0 none ≠ none → s.stw.flushed.getD 1 none ≠ none →
        exec .flush s = .next (({ s with stw := { s.stw with flushDue := none } } : State).bumpSat F.evrFlushStatusFlushSkips))) ∧
    (∀ r, s.flushing = true → s.stw.flushRegion = some r → r < s.stw.flushed.length → r < 2 →
      ∃ t, exec .flushDone s = .next t ∧ t.flushing = false ∧ t.stw.lastFlush = some r ∧
        t.stw.flushed.getD r none = some (ringWords s) ∧ t.fld F.evrFlushStatusLast = r) ∧
    (s.power.on = true → s.power.failLow = false →
      ∃ t, exec .pwrFail s = .next t ∧ t.power.failLow = true ∧
        (s.flushing = false → s.stw.flushDue = none → t.stw.flushDue = some 1)) ∧
    (s.power.on = true → s.power.failLow = true →
      ∃ t, exec .powerRestored s = .next t ∧ t.power.failLow = false ∧
        t.fld F.evrHeadCount = (s.fld F.evrHeadCount + 1) % 2 ^ 64) ∧
    (Serves s Reg.stwCaptureStatus →
      exec (.stwCaptureStatus v) s = .next ((s.wrPlain Reg.stwCaptureStatus 0 (v.setWidth 64)).answer stOk))

/-- OFF and the boot (R699, R815, R817 to R820, R822, R853, R861, R866, R868): PORST_N and the loss of the always-on supply leave the
flash, the fuses and the data region; a boot under the force strap, or after two misses, or of an image that does not verify, is a
recovery boot that names why, and a verified image goes on to the records; a boot that reaches READY has memory as after power-on,
the next EPOCH, and fuses no lower than before. -/
def Obligations.BootAndOff : Prop :=
  (∀ (s : State), ∃ t, exec .porstNAssert s = .next t ∧ exec .alwaysOnSupplyLost s = .next t ∧ t.power.on = false ∧
    t.regs = [] ∧ t.mem = [] ∧ t.ctxs = [] ∧ t.stw.flash = s.stw.flash ∧ t.stw.fuses = s.stw.fuses ∧
    t.stw.epoch = s.stw.epoch) ∧
  (∀ (s u : State) (force role : Bool) (addr : Fin 8), s.power.on = false → s.power.failLow = false →
    u = bootStart s force role addr →
    (force = true → s.stw.restart = false →
      ∃ t, exec (.boot force role addr false [] []) s = .next t ∧ t.power.on = true ∧ t.fld F.stwBootStatusState = 2 ∧
        t.fld F.stwBootStatusError = 0x21 ∧ t.fld F.ethPortStatusState 0 = lcOn) ∧
    (force = false → s.stw.restart = false → 2 ≤ s.stw.misses →
      ∃ t, exec (.boot force role addr false [] []) s = .next t ∧ t.fld F.stwBootStatusState = 2 ∧
        t.fld F.stwBootStatusError = 0x22) ∧
    (force = false → s.stw.restart = false → s.stw.misses < 2 →
      ∃ t, exec (.boot force role addr false [] []) s = .next t ∧ t.power.on = true ∧
        (imageOk u (u.flashBytes 0x10000 0x2000000) = false →
          t.fld F.stwBootStatusState = 2 ∧ t.fld F.stwBootStatusError = 0x20) ∧
        (imageOk u (u.flashBytes 0x10000 0x2000000) = true →
          t = bootRecords (imageIn u (u.flashBytes 0x10000 0x2000000)) (u.flashBytes 0x10000 0x2000000) [] []))) ∧
  (∀ (u : State) (img bs : List Byte) (ppr : List Nat), (bootReadyUp u img bs ppr).fld F.stwBootStatusState = 1 ∧
    (bootReadyUp u img bs ppr).mem = [] ∧ (bootReadyUp u img bs ppr).stw.epoch = (u.stw.epoch + 1) % 256 ∧
    (u.domState domLpddr = lcOff → (bootReadyUp u img bs ppr).domOn domLpddr = true) ∧ u.stw.fuses ≤ (bootReadyUp u img bs ppr).stw.fuses)

/-- In OFF nothing but BOOT turns the device on (R866). -/
def Obligations.OffUntilBoot : Prop :=
  ∀ (i : Instr) (s t : State), s.power.on = false → exec i s = .next t →
    (∀ f r a k x p, i ≠ .boot f r a k x p) → t.power.on = false

/-- The recovery service (R820 to R823): a request in order is answered under its SEQ, READ with the flash's bytes; ERASE sets 64 KiB to
0xFF and WRITE clears bits and sets none, each outside no other byte; RESTART stops the device; the last request again gets the same
answer, and one out of order BUSY. -/
def Obligations.RecoveryServiceRequests : Prop :=
  ∀ (s : State) (region any : BitVec 8) (seq : W16) (len off : W32) (base size : Nat), serviceRuns s = true →
    flashArea region.toNat = some (base, size) →
    ((∀ q, s.stw.lastSeq = some q → seq.toNat = (q + 1) % 65536) →
      (∃ t, exec (.recoveryStatus 1 any seq len 0 off) s = .next t ∧ t.stw.lastSeq = some seq.toNat ∧
        t.outbox = s.outbox ++ [.recovery t.stw.lastRsp] ∧
        t.stw.lastRsp = SvcReq.header
          { op := 1, region := any.toNat, seq := seq.toNat, len := len.toNat, rsv := 0, off := off.toNat } stOk ++
            statusBytes s) ∧
      (region.toNat < 4 → 1 ≤ len.toNat → len.toNat ≤ 1024 → off.toNat + len.toNat ≤ size →
        ∃ t, exec (.recoveryRead region seq len 0 off) s = .next t ∧
          t.outbox = s.outbox ++ [.recovery (SvcReq.header
            { op := 2, region := region.toNat, seq := seq.toNat, len := len.toNat, rsv := 0, off := off.toNat } stOk ++
              s.flashBytes (base + off.toNat) len.toNat)] ∧ t.stw.flash = s.stw.flash) ∧
      (region.toNat = 2 ∨ region.toNat = 3 → off.toNat % 65536 = 0 → off.toNat + 65536 ≤ size →
        ∃ t, exec (.erase region seq len 0 off) s = .next t ∧
          (∀ a, base + off.toNat ≤ a → a < base + off.toNat + 65536 → t.flashByte a = 0xFF) ∧
          (∀ a, a < base + off.toNat ∨ base + off.toNat + 65536 ≤ a → t.flashByte a = s.flashByte a)) ∧
      (∀ data : List Byte, region.toNat = 2 ∨ region.toNat = 3 → 1 ≤ len.toNat → len.toNat ≤ 1024 → data.length = len.toNat →
        off.toNat + len.toNat ≤ size →
        ∃ t, exec (.recoveryWrite region seq len 0 off data) s = .next t ∧
          (∀ i, i < data.length →
            t.flashByte (base + off.toNat + i) = s.flashByte (base + off.toNat + i) &&& data.getD i 0) ∧
          (∀ a, a < base + off.toNat ∨ base + off.toNat + len.toNat ≤ a → t.flashByte a = s.flashByte a)) ∧
      (∃ t, exec (.verify any seq len 0 off) s = .next t ∧ t.stw.flash = s.stw.flash ∧
        t.stw.lastRsp = SvcReq.header
          { op := 5, region := any.toNat, seq := seq.toNat, len := len.toNat, rsv := 0, off := off.toNat }
          (if imageOk s (s.flashBytes 0x10000 0x2000000) then stOk else stInvalid)) ∧
      (∃ t, exec (.restart any seq len 0 off) s = .next t ∧ t.power.on = false ∧ t.stw.restart = true ∧
        t.stw.flash = s.stw.flash ∧ t.outbox.length = s.outbox.length + 1)) ∧
    (s.stw.lastSeq = some seq.toNat →
      exec (.recoveryRead region seq len 0 off) s = .next (s.emit (.recovery s.stw.lastRsp)) ∧
      exec (.erase region seq len 0 off) s = .next (s.emit (.recovery s.stw.lastRsp))) ∧
    (∀ q, s.stw.lastSeq = some q → seq.toNat ≠ q → seq.toNat ≠ (q + 1) % 65536 →
      exec (.erase region seq len 0 off) s = .next (s.emit (.recovery (SvcReq.header
        { op := 3, region := region.toNat, seq := seq.toNat, len := len.toNat, rsv := 0, off := off.toNat } stBusy))))

/-- The steward's operations (R824 to R826, R834 to R836, R840, R844, R849, R854), with a buffer that is aligned, usable and without
errors: what they give is stored there and nowhere else, and what they take goes to flash once its checks pass; an
UPDATE runs for at most 180 s and turns another, CFG_WRITE and CAL_WRITE away; claims and MACsec associations. -/
def Obligations.StewardOperations : Prop :=
  ∀ (s : State) (a : Nat) (param : W32), Serves s Reg.stwOp → a = s.fld F.stwOpArgAddr → a % 64 = 0 →
    (∀ (i : Instr) (bs : List Byte),
      (i = .calRead ∧ bs = s.stw.cal) ∨ (i = .cfgRead ∧ bs = s.stw.cfg) ∨ (i = .identityRead ∧ bs = certificate s) →
      bufferOk s a bs.length = true → Clean s a bs.length = true →
      ∃ t, exec i s = .next t ∧ t.mgmt = stOk ∧ t.bytes a bs.length = bs ∧
        (∀ b, b < a ∨ a + bs.length ≤ b → t.byte b = s.byte b)) ∧
    (∀ r bs : List Byte, bufferOk s a 32 = true → r = attestReport s (s.bytes a 32) →
      bs = r ++ tabulate 2420 (Config.signature (sha3 r)) → bufferOk s a bs.length = true → Clean s a bs.length = true →
      ∃ t, exec .attest s = .next t ∧ t.mgmt = stOk ∧ t.bytes a bs.length = bs ∧
        (∀ b, b < a ∨ a + bs.length ≤ b → t.byte b = s.byte b)) ∧
    (s.stw.update = none → bufferOk s a calBytes = true → Clean s a calBytes = true →
      ∃ t, exec .calWrite s = .next t ∧ (t.mgmt = stOk ∨ t.mgmt = stInvalid) ∧
        (t.mgmt = stInvalid → t.stw.flash = s.stw.flash) ∧
        (t.mgmt = stOk → t.flashBytes flCal calBytes = s.bytes a calBytes ∧
          calHeaderOk (s.bytes a calBytes) = true ∧ calSerial (s.bytes a calBytes) = dirSerial s)) ∧
    (∀ n, s.stw.update = none → bufferOk s a 64 = true → cfgHeaderBad (s.bytes a 64) = none → n = leAt (s.bytes a 64) 12 4 →
      bufferOk s a n = true → Clean s a n = true → cfgCrc (s.bytes a n) = leAt (s.bytes a n) 8 4 →
      ∃ t, exec .cfgWrite s = .next t ∧ t.mgmt = stOk ∧ t.flashBytes 0x02010000 n = s.bytes a n) ∧
    (s.stw.update = none → 64 ≤ param.toNat → param.toNat ≤ 0x2000000 → bufferOk s a param.toNat = true →
      Clean s a param.toNat = true →
      exec (.update param) s = .next (if imageOk s (s.bytes a param.toNat) then updateBegin s (s.bytes a param.toNat)
        else opDone s stInvalid 0) ∧
      (∀ u, (updateBegin s (s.bytes a param.toNat)).stw.update = some u → u.left ≤ 180000000000 ∧
        (updateEnd s u).flashBytes 0x10000 param.toNat = s.bytes a param.toNat ∧ (updateEnd s u).stw.update = none ∧
        (updateEnd s u).fld F.stwOpResultStatus = 0)) ∧
    (s.stw.update ≠ none → ∀ i, i = .update param ∨ i = .calWrite ∨ i = .cfgWrite → exec i s = .next (opDone s stBusy 0)) ∧
    (∀ k, k = claimKey (bitsOf param 31 24) (bitsOf param 23 16) →
      (claimOk (bitsOf param 31 24) (bitsOf param 23 16) (bitsOf param 15 8) 2 = true → claimOwner s k = 0 →
        ∃ t, exec (.claim param) s = .next t ∧ t.mgmt = stOk ∧ claimOwner t k = 2 ∧ claimFn t k = bitsOf param 15 8) ∧
      (claimOk (bitsOf param 31 24) (bitsOf param 23 16) (bitsOf param 15 8) 2 = true → claimOwner s k ≠ 0 →
        exec (.claim param) s = .next (opDone s stBusy 0)) ∧
      (claimOk (bitsOf param 31 24) (bitsOf param 23 16) (bitsOf param 15 8) 2 = true → claimOwner s k = 2 →
        ∃ t, exec (.release param) s = .next t ∧ t.mgmt = stOk ∧ claimOwner t k = 0)) ∧
    (∀ p an sci, p = bitsOf param 31 29 → an = bitsOf param 25 24 → (s.ethPort p).txAssocs.length = 4 →
      (natBit param.toNat 28 = false →
        ∃ t, exec (.macsecInstall false param sci) s = .next t ∧ t.mgmt = stOk ∧
          ((t.ethPort p).txAssocs.getD an {}).installed = true ∧ ((t.ethPort p).txAssocs.getD an {}).nextPn = 1 ∧
          t.stw.keyData = List.replicate 7 0 ∧ (∀ j, j ≠ p → t.ethPort j = s.ethPort j)) ∧
      (((s.ethPort p).txAssocs.getD an {}).installed = true →
        ∃ t, exec (.macsecSelect false param) s = .next t ∧ t.mgmt = stOk ∧ (t.ethPort p).txSel = some an ∧
          t.stw.keyData = List.replicate 7 0))

/-- The host's timers, the tray controller's port and the test access port (R834, R851, R852, R877, R879, R880): an alarm is raised
once; what a tray access changes; a TCK cycle moves the port by TMS, shifts TDI in, and captures the IDCODE; TRST_N
leaves it in Test-Logic-Reset with IDCODE selected. -/
def Obligations.TrayAndTestPorts : Prop :=
  ∀ (s : State),
    (∀ k : Fin 4, s.power.on = true → claimOwner s (16 + k.val) = 2 → (s.rd Reg.stwTimer k).toNat ≠ 0 →
      (s.rd Reg.stwTimer k).toNat ≤ s.now → k.val ∉ s.stw.alarmed →
      ∃ t, exec (.hostTimerAlarm k) s = .next t ∧ natBit (t.fld F.stwIrqCauseCause) 2 = true ∧ k.val ∈ t.stw.alarmed) ∧
    (s.power.on = true →
      (∀ v : W32, natBit v.toNat 0 = true → s.power.huddle = none → s.power.waking = false → s.power.entering = none →
        s.powerState = pwStandby ∨ s.powerState = pwWatch →
        exec (.trayWake (.wake v)) s = .next { s with power := { s.power with wake := s.power.wake ||| 8 } }) ∧
      (∀ v, ∃ t, exec (.trayWake (.ibiEn v)) s = .next t ∧ t.stw.tray.ibiEn = bitsOf v 5 0) ∧
      (∀ v i, i < 6 → ∃ t, exec (.trayWake (.ibiCause v)) s = .next t ∧
        natBit t.stw.tray.ibiCause i = (natBit s.stw.tray.ibiCause i && !natBit v.toNat i)) ∧
      (∀ i v, ∃ t, exec (.trayWake (.keyData i v)) s = .next t ∧
        t.stw.tray.keyData = s.stw.tray.keyData.set i v) ∧
      (∀ off n, exec (.trayWake (.read off n)) s =
        .next (s.emit (.tray (((trayMap s ++ List.replicate 512 0).drop off).take n)))) ∧
      (∀ addr : BitVec 7, ∃ t, exec (.entdaa addr) s = .next t ∧ t.stw.tray.dynAddr = some addr.toNat)) ∧
    (∀ (tms tdi : Bool) (pins : List Bool), ∃ t, exec (.tck tms tdi pins) s = .next t ∧
      t.stw.tap.st = tapNext tms s.stw.tap.st ∧ t.mem = s.mem ∧ t.regs = s.regs ∧ t.ctxs = s.ctxs ∧
      (s.stw.tap.st = .captureDr → s.stw.tap.ir = 2 → t.stw.tap.shift = bitList 32 0x120482A7) ∧
      (s.stw.tap.st = .shiftDr → t.stw.tap.shift = s.stw.tap.shift.drop 1 ++ [tdi]) ∧
      (t.stw.tap.st = .reset → t.stw.tap.ir = 2 ∧ t.stw.tap.tdo = none)) ∧
    (∃ t, exec .trstN s = .next t ∧ t.stw.tap.st = .reset ∧ t.stw.tap.ir = 2 ∧ t.stw.tap.tdo = none)

/-! ### Rules of the whole device -/

/-- The test access port is reset by TRST_N and by five TCK cycles with TMS high, from every state, and four are not enough from some
(R880); a TCK cycle that ends in Test-Logic-Reset has TMS high, and no other command, PORST_N among them, changes the port. -/
def Obligations.TestPortResets : Prop :=
  (∀ (c : Instr) (s t : State), exec c s = .next t → c ≠ .trstN → (∀ m d p, c ≠ .tck m d p) → t.stw.tap = s.stw.tap) ∧
  (∀ s : State, ∃ t, exec .trstN s = .next t ∧ t.stw.tap.st = .reset ∧ t.stw.tap.tdo = none) ∧
  (∀ (s t : State) (tms tdi : Bool) (pins : List Bool), exec (.tck tms tdi pins) s = .next t → t.stw.tap.st = .reset →
    tms = true) ∧
  (∀ (s : Fin 6 → State) (tdi : Fin 5 → Bool) (pins : Fin 5 → List Bool),
    (∀ k : Fin 5, exec (.tck true (tdi k) (pins k)) (s k.castSucc) = .next (s k.succ)) →
    (s 5).stw.tap.st = .reset ∧ (s 5).stw.tap.ir = 2 ∧ (s 5).stw.tap.tdo = none) ∧
  (∃ st, tapNext true (tapNext true (tapNext true (tapNext true st))) ≠ .reset)

/-- A creation takes the next generation of its index (R479): the previous one plus 1, or 1 after the largest; generation 0 is never
issued and names nothing. -/
def Obligations.GenerationsAdvance : Prop :=
  (∀ (s t : State) (arg : W32), exec (.create arg) s = .next t →
    ∀ i, (s.ctx i).state = .free → (t.ctx i).state ≠ .free → (t.ctx i).gen = nextGen 20 (s.ctx i).gen) ∧
  (∀ (s t : State) (arg : W32), exec (.queueCreate arg) s = .next t →
    ∀ i, (s.queue i).state = .free → (t.queue i).state ≠ .free → (t.queue i).gen = nextGen 18 (s.queue i).gen) ∧
  (∀ w g, 1 ≤ w → (g < 2 ^ w - 1 → nextGen w g = g + 1) ∧ (g = 2 ^ w - 1 → nextGen w g = 1)) ∧
  (∀ w g, nextGen w g ≠ 0) ∧
  (∀ (s : State) (h : W32), (hGen h = 0 → s.staleCtx h = true) ∧ (qGen h = 0 → s.staleQueue h = true))
end

