-- ==== Sys2Proof/Laws/Map.lean ====
section
/-! SUPPORT. What the operations of the sparse map do: reads after writes, and the canonical form that each of them keeps. -/

namespace Sys2Proof.Machine.SMap

variable {α : Type}

/-! ### Reads after writes -/

@[simp] theorem get_nil (d : α) (k : Nat) : SMap.get d [] k = d := rfl

theorem get_erase_same (d : α) (m : SMap α) (k : Nat) : SMap.get d (SMap.erase m k) k = d := by
  induction m with
  | nil => rfl
  | cons kv m ih =>
    obtain ⟨a, v⟩ := kv
    by_cases h : k = a
    · simp [SMap.erase, h]; simpa [h] using ih
    · simp [SMap.erase, h, SMap.get, ih]

theorem get_erase_ne (d : α) (m : SMap α) {k j : Nat} (h : j ≠ k) : SMap.get d (SMap.erase m k) j = SMap.get d m j := by
  induction m with
  | nil => rfl
  | cons kv m ih =>
    obtain ⟨a, v⟩ := kv
    by_cases h1 : k = a
    · subst h1; simp [SMap.erase, SMap.get, h, ih]
    · by_cases h2 : j = a <;> simp [SMap.erase, SMap.get, h1, h2]
      simpa using ih

theorem get_insert_same (d : α) (m : SMap α) (k : Nat) (v : α) (hm : ∀ kv ∈ m, kv.1 ≠ k) :
    SMap.get d (SMap.insert m k v) k = v := by
  induction m with
  | nil => simp [SMap.insert, SMap.get]
  | cons kv m ih =>
    obtain ⟨a, w⟩ := kv
    have ha : k ≠ a := fun h => hm (a, w) (by simp) h.symm
    by_cases h : k < a
    · simp [SMap.insert, h, SMap.get]
    · simp [SMap.insert, h, SMap.get, ha]
      exact ih (fun kv hk => hm kv (by simp [hk]))

theorem get_insert_ne (d : α) (m : SMap α) {k j : Nat} (v : α) (h : j ≠ k) :
    SMap.get d (SMap.insert m k v) j = SMap.get d m j := by
  induction m with
  | nil => simp [SMap.insert, SMap.get, h]
  | cons kv m ih =>
    obtain ⟨a, w⟩ := kv
    by_cases h1 : k < a
    · simp [SMap.insert, h1, SMap.get, h]
    · by_cases h2 : j = a <;> simp [SMap.insert, h1, SMap.get, h2]
      simpa using ih

theorem erase_ne (m : SMap α) (k : Nat) : ∀ kv ∈ SMap.erase m k, kv.1 ≠ k := by
  induction m with
  | nil => simp [SMap.erase]
  | cons kv m ih =>
    obtain ⟨a, w⟩ := kv
    by_cases h : k = a
    · simpa [SMap.erase, h] using (by simpa [h] using ih)
    · intro kv hk
      simp [SMap.erase, h] at hk
      rcases hk with rfl | hk
      · exact fun e => h e.symm
      · exact ih kv hk

/-- A key reads what was last written to it. -/
@[simp] theorem get_set_same [DecidableEq α] (d : α) (m : SMap α) (k : Nat) (v : α) :
    SMap.get d (SMap.set d m k v) k = v := by
  unfold SMap.set
  split
  · rename_i h; rw [get_erase_same, h]
  · exact get_insert_same d _ k v (erase_ne m k)

/-- A write leaves every other key alone, whatever default each is read with. -/
theorem get_set_ne [DecidableEq α] (d e : α) (m : SMap α) {k j : Nat} (v : α) (h : j ≠ k) :
    SMap.get e (SMap.set d m k v) j = SMap.get e m j := by
  unfold SMap.set
  split
  · exact get_erase_ne e m h
  · rw [get_insert_ne e _ v h, get_erase_ne e m h]

theorem get_set [DecidableEq α] (d : α) (m : SMap α) (k j : Nat) (v : α) :
    SMap.get d (SMap.set d m k v) j = if j = k then v else SMap.get d m j := by
  by_cases h : j = k
  · simp [h]
  · simp [h, get_set_ne d d m v h]

/-- A cleared range reads the default; the rest is as before. -/
theorem get_clear (d : α) (m : SMap α) (lo hi j : Nat) :
    SMap.get d (SMap.clear m lo hi) j = if lo ≤ j ∧ j < hi then d else SMap.get d m j := by
  induction m with
  | nil => simp [SMap.clear]
  | cons kv m ih =>
    obtain ⟨a, w⟩ := kv
    by_cases h : lo ≤ a ∧ a < hi
    · by_cases hj : j = a
      · subst hj; simp [SMap.clear, h, ih]
      · simp [SMap.clear, h, ih, SMap.get, hj]
    · by_cases hj : j = a
      · subst hj; simp [SMap.clear, h, SMap.get]
      · simp [SMap.clear, h, SMap.get, hj, ih]

/-! ### The canonical form -/

variable [DecidableEq α]

/-- The canonical form as a proposition: keys strictly rising from above `b`, no default value. -/
def Above (d : α) (b : Option Nat) (m : SMap α) : Prop :=
  m.Pairwise (fun x y => x.1 < y.1) ∧ (∀ kv ∈ m, kv.2 ≠ d) ∧ ∀ j, b = some j → ∀ kv ∈ m, j < kv.1

theorem wfAbove_iff (d : α) (m : SMap α) (b : Option Nat) : SMap.wfAbove d b m = true ↔ Above d b m := by
  induction m generalizing b with
  | nil => simp [SMap.wfAbove, Above]
  | cons kv m ih =>
    obtain ⟨k, v⟩ := kv
    have e : SMap.wfAbove d b ((k, v) :: m) = true ↔ (∀ j, b = some j → j < k) ∧ v ≠ d ∧ Above d (some k) m := by
      cases b <;> simp [SMap.wfAbove, ih, and_assoc]
    rw [e]
    constructor
    · rintro ⟨h1, h2, h3, h4, h5⟩
      refine ⟨List.pairwise_cons.2 ⟨fun y hy => h5 k rfl y hy, h3⟩, ?_, ?_⟩
      · intro kv hk
        rcases List.mem_cons.1 hk with rfl | hk
        · exact h2
        · exact h4 kv hk
      · intro j hj kv hk
        rcases List.mem_cons.1 hk with rfl | hk
        · exact h1 j hj
        · exact lt_trans (h1 j hj) (h5 k rfl kv hk)
    · rintro ⟨h1, h2, h3⟩
      refine ⟨fun j hj => h3 j hj (k, v) (by simp), h2 (k, v) (by simp), (List.pairwise_cons.1 h1).2,
        fun kv hk => h2 kv (by simp [hk]), ?_⟩
      intro j hj kv hk
      cases hj
      exact (List.pairwise_cons.1 h1).1 kv hk

theorem wf_iff (d : α) (m : SMap α) :
    SMap.wf d m = true ↔ m.Pairwise (fun x y => x.1 < y.1) ∧ ∀ kv ∈ m, kv.2 ≠ d := by
  simp [SMap.wf, wfAbove_iff, Above]

/-- A part of a canonical map, in its order, is canonical. -/
theorem wf_sublist {d : α} {m n : SMap α} (h : n.Sublist m) (hm : SMap.wf d m = true) : SMap.wf d n = true := by
  rw [wf_iff] at hm ⊢
  exact ⟨hm.1.sublist h, fun kv hk => hm.2 kv (h.subset hk)⟩

theorem wf_filter {d : α} {m : SMap α} (p : Nat × α → Bool) (hm : SMap.wf d m = true) : SMap.wf d (m.filter p) = true :=
  wf_sublist List.filter_sublist hm

omit [DecidableEq α] in
theorem erase_sublist (m : SMap α) (k : Nat) : (SMap.erase m k).Sublist m := by
  induction m with
  | nil => exact List.Sublist.refl _
  | cons kv m ih =>
    obtain ⟨a, w⟩ := kv
    by_cases h : k = a
    · simp only [SMap.erase, h, if_true]; subst h; exact ih.cons _
    · simp only [SMap.erase, h, if_false]; exact ih.cons_cons _

omit [DecidableEq α] in
theorem clear_sublist (m : SMap α) (lo hi : Nat) : (SMap.clear m lo hi).Sublist m := by
  induction m with
  | nil => exact List.Sublist.refl _
  | cons kv m ih =>
    obtain ⟨a, w⟩ := kv
    by_cases h : lo ≤ a ∧ a < hi
    · simp only [SMap.clear, h, and_self, if_true]; exact ih.cons _
    · simp only [SMap.clear, h, if_false]; exact ih.cons_cons _

theorem wf_clear {d : α} {m : SMap α} (lo hi : Nat) (hm : SMap.wf d m = true) : SMap.wf d (SMap.clear m lo hi) = true :=
  wf_sublist (clear_sublist m lo hi) hm

omit [DecidableEq α] in
theorem mem_insert (m : SMap α) (k : Nat) (v : α) (kv : Nat × α) :
    kv ∈ SMap.insert m k v → kv = (k, v) ∨ kv ∈ m := by
  induction m with
  | nil => simp [SMap.insert]
  | cons x m ih =>
    obtain ⟨a, w⟩ := x
    by_cases h : k < a
    · simp [SMap.insert, h]
    · simp only [SMap.insert, h, if_false, List.mem_cons]
      rintro (rfl | hk)
      · exact .inr (.inl rfl)
      · rcases ih hk with h1 | h1
        · exact .inl h1
        · exact .inr (.inr h1)

theorem wf_insert {d : α} {m : SMap α} (k : Nat) (v : α) (hv : v ≠ d) (hk : ∀ kv ∈ m, kv.1 ≠ k)
    (hm : SMap.wf d m = true) : SMap.wf d (SMap.insert m k v) = true := by
  rw [wf_iff] at hm ⊢
  refine ⟨?_, ?_⟩
  · induction m with
    | nil => simp [SMap.insert]
    | cons x m ih =>
      obtain ⟨a, w⟩ := x
      have h1 := List.pairwise_cons.1 hm.1
      by_cases h : k < a
      · simp only [SMap.insert, h, if_true]
        refine List.pairwise_cons.2 ⟨?_, hm.1⟩
        intro y hy
        rcases List.mem_cons.1 hy with rfl | hy
        · exact h
        · exact lt_trans h (h1.1 y hy)
      · simp only [SMap.insert, h, if_false]
        refine List.pairwise_cons.2 ⟨?_, ih (fun kv hh => hk kv (by simp [hh])) ⟨h1.2, fun kv hh => hm.2 kv (by simp [hh])⟩⟩
        intro y hy
        rcases mem_insert m k v y hy with rfl | hy
        · have := hk (a, w) (by simp)
          simp only at this ⊢
          omega
        · exact h1.1 y hy
  · intro kv hh
    rcases mem_insert m k v kv hh with rfl | hh
    · exact hv
    · exact hm.2 kv hh

/-- A write keeps the canonical form. -/
theorem wf_set {d : α} {m : SMap α} (k : Nat) (v : α) (hm : SMap.wf d m = true) : SMap.wf d (SMap.set d m k v) = true := by
  unfold SMap.set
  split
  · exact wf_sublist (erase_sublist m k) hm
  · rename_i h
    exact wf_insert k v h (erase_ne m k) (wf_sublist (erase_sublist m k) hm)

@[simp] theorem wf_nil (d : α) : SMap.wf d ([] : SMap α) = true := rfl

end Sys2Proof.Machine.SMap
end

