-- ==== Sys2Proof/Laws/State.lean ====
section
/-! SUPPORT. Each named update of the state leaves every other field alone. -/

namespace Sys2Proof.Machine.State

variable (s : State)

section
variable (fam i : Nat) (v : W64)

@[simp] theorem wr_staged : (s.wr fam i v).staged = s.staged := by rw [wr]
@[simp] theorem wr_active : (s.wr fam i v).active = s.active := by rw [wr]
@[simp] theorem wr_mem : (s.wr fam i v).mem = s.mem := by rw [wr]
@[simp] theorem wr_ue : (s.wr fam i v).ue = s.ue := by rw [wr]
@[simp] theorem wr_ce : (s.wr fam i v).ce = s.ce := by rw [wr]
@[simp] theorem wr_altered : (s.wr fam i v).altered = s.altered := by rw [wr]
@[simp] theorem wr_dirty : (s.wr fam i v).dirty = s.dirty := by rw [wr]
@[simp] theorem wr_lost : (s.wr fam i v).lost = s.lost := by rw [wr]
@[simp] theorem wr_repairs : (s.wr fam i v).repairs = s.repairs := by rw [wr]
@[simp] theorem wr_ceLog : (s.wr fam i v).ceLog = s.ceLog := by rw [wr]
@[simp] theorem wr_scLog : (s.wr fam i v).scLog = s.scLog := by rw [wr]
@[simp] theorem wr_rowMaps : (s.wr fam i v).rowMaps = s.rowMaps := by rw [wr]
@[simp] theorem wr_patrol : (s.wr fam i v).patrol = s.patrol := by rw [wr]
@[simp] theorem wr_journalDue : (s.wr fam i v).journalDue = s.journalDue := by rw [wr]
@[simp] theorem wr_tlb : (s.wr fam i v).tlb = s.tlb := by rw [wr]
@[simp] theorem wr_walks : (s.wr fam i v).walks = s.walks := by rw [wr]
@[simp] theorem wr_merge : (s.wr fam i v).merge = s.merge := by rw [wr]
@[simp] theorem wr_ctxs : (s.wr fam i v).ctxs = s.ctxs := by rw [wr]
@[simp] theorem wr_queues : (s.wr fam i v).queues = s.queues := by rw [wr]
@[simp] theorem wr_subSeq : (s.wr fam i v).subSeq = s.subSeq := by rw [wr]
@[simp] theorem wr_startSeq : (s.wr fam i v).startSeq = s.startSeq := by rw [wr]
@[simp] theorem wr_slotLast : (s.wr fam i v).slotLast = s.slotLast := by rw [wr]
@[simp] theorem wr_doorSlot : (s.wr fam i v).doorSlot = s.doorSlot := by rw [wr]
@[simp] theorem wr_rrSlot : (s.wr fam i v).rrSlot = s.rrSlot := by rw [wr]
@[simp] theorem wr_rrSince : (s.wr fam i v).rrSince = s.rrSince := by rw [wr]
@[simp] theorem wr_courts : (s.wr fam i v).courts = s.courts := by rw [wr]
@[simp] theorem wr_fields : (s.wr fam i v).fields = s.fields := by rw [wr]
@[simp] theorem wr_quarters : (s.wr fam i v).quarters = s.quarters := by rw [wr]
@[simp] theorem wr_cores : (s.wr fam i v).cores = s.cores := by rw [wr]
@[simp] theorem wr_launches : (s.wr fam i v).launches = s.launches := by rw [wr]
@[simp] theorem wr_blocks : (s.wr fam i v).blocks = s.blocks := by rw [wr]
@[simp] theorem wr_groups : (s.wr fam i v).groups = s.groups := by rw [wr]
@[simp] theorem wr_passes : (s.wr fam i v).passes = s.passes := by rw [wr]
@[simp] theorem wr_pipes : (s.wr fam i v).pipes = s.pipes := by rw [wr]
@[simp] theorem wr_dp : (s.wr fam i v).dp = s.dp := by rw [wr]
@[simp] theorem wr_streamStates : (s.wr fam i v).streamStates = s.streamStates := by rw [wr]
@[simp] theorem wr_rasterLeaving : (s.wr fam i v).rasterLeaving = s.rasterLeaving := by rw [wr]
@[simp] theorem wr_heavyEnd : (s.wr fam i v).heavyEnd = s.heavyEnd := by rw [wr]
@[simp] theorem wr_zeroing : (s.wr fam i v).zeroing = s.zeroing := by rw [wr]
@[simp] theorem wr_inspects : (s.wr fam i v).inspects = s.inspects := by rw [wr]
@[simp] theorem wr_inspected : (s.wr fam i v).inspected = s.inspected := by rw [wr]
@[simp] theorem wr_eth : (s.wr fam i v).eth = s.eth := by rw [wr]
@[simp] theorem wr_qps : (s.wr fam i v).qps = s.qps := by rw [wr]
@[simp] theorem wr_keys : (s.wr fam i v).keys = s.keys := by rw [wr]
@[simp] theorem wr_streams : (s.wr fam i v).streams = s.streams := by rw [wr]
@[simp] theorem wr_time : (s.wr fam i v).time = s.time := by rw [wr]
@[simp] theorem wr_iql : (s.wr fam i v).iql = s.iql := by rw [wr]
@[simp] theorem wr_txns : (s.wr fam i v).txns = s.txns := by rw [wr]
@[simp] theorem wr_txWait : (s.wr fam i v).txWait = s.txWait := by rw [wr]
@[simp] theorem wr_far : (s.wr fam i v).far = s.far := by rw [wr]
@[simp] theorem wr_farUnit : (s.wr fam i v).farUnit = s.farUnit := by rw [wr]
@[simp] theorem wr_farMiss : (s.wr fam i v).farMiss = s.farMiss := by rw [wr]
@[simp] theorem wr_farLack : (s.wr fam i v).farLack = s.farLack := by rw [wr]
@[simp] theorem wr_whistle : (s.wr fam i v).whistle = s.whistle := by rw [wr]
@[simp] theorem wr_buckets : (s.wr fam i v).buckets = s.buckets := by rw [wr]
@[simp] theorem wr_unwritten : (s.wr fam i v).unwritten = s.unwritten := by rw [wr]
@[simp] theorem wr_flushing : (s.wr fam i v).flushing = s.flushing := by rw [wr]
@[simp] theorem wr_jobs : (s.wr fam i v).jobs = s.jobs := by rw [wr]
@[simp] theorem wr_power : (s.wr fam i v).power = s.power := by rw [wr]
@[simp] theorem wr_stw : (s.wr fam i v).stw = s.stw := by rw [wr]
@[simp] theorem wr_recoveries : (s.wr fam i v).recoveries = s.recoveries := by rw [wr]
@[simp] theorem wr_referee : (s.wr fam i v).referee = s.referee := by rw [wr]
@[simp] theorem wr_outbox : (s.wr fam i v).outbox = s.outbox := by rw [wr]
@[simp] theorem wr_mgmt : (s.wr fam i v).mgmt = s.mgmt := by rw [wr]
@[simp] theorem wr_free : (s.wr fam i v).free = s.free := by rw [wr]
@[simp] theorem wr_pending : (s.wr fam i v).pending = s.pending := by rw [wr]
end

section
variable (a : Nat) (b : Byte)

@[simp] theorem setByte_regs : (s.setByte a b).regs = s.regs := by rw [setByte]
@[simp] theorem setByte_staged : (s.setByte a b).staged = s.staged := by rw [setByte]
@[simp] theorem setByte_active : (s.setByte a b).active = s.active := by rw [setByte]
@[simp] theorem setByte_ue : (s.setByte a b).ue = s.ue := by rw [setByte]
@[simp] theorem setByte_ce : (s.setByte a b).ce = s.ce := by rw [setByte]
@[simp] theorem setByte_altered : (s.setByte a b).altered = s.altered := by rw [setByte]
@[simp] theorem setByte_lost : (s.setByte a b).lost = s.lost := by rw [setByte]
@[simp] theorem setByte_repairs : (s.setByte a b).repairs = s.repairs := by rw [setByte]
@[simp] theorem setByte_ceLog : (s.setByte a b).ceLog = s.ceLog := by rw [setByte]
@[simp] theorem setByte_scLog : (s.setByte a b).scLog = s.scLog := by rw [setByte]
@[simp] theorem setByte_rowMaps : (s.setByte a b).rowMaps = s.rowMaps := by rw [setByte]
@[simp] theorem setByte_patrol : (s.setByte a b).patrol = s.patrol := by rw [setByte]
@[simp] theorem setByte_journalDue : (s.setByte a b).journalDue = s.journalDue := by rw [setByte]
@[simp] theorem setByte_tlb : (s.setByte a b).tlb = s.tlb := by rw [setByte]
@[simp] theorem setByte_walks : (s.setByte a b).walks = s.walks := by rw [setByte]
@[simp] theorem setByte_merge : (s.setByte a b).merge = s.merge := by rw [setByte]
@[simp] theorem setByte_ctxs : (s.setByte a b).ctxs = s.ctxs := by rw [setByte]
@[simp] theorem setByte_queues : (s.setByte a b).queues = s.queues := by rw [setByte]
@[simp] theorem setByte_subSeq : (s.setByte a b).subSeq = s.subSeq := by rw [setByte]
@[simp] theorem setByte_startSeq : (s.setByte a b).startSeq = s.startSeq := by rw [setByte]
@[simp] theorem setByte_slotLast : (s.setByte a b).slotLast = s.slotLast := by rw [setByte]
@[simp] theorem setByte_doorSlot : (s.setByte a b).doorSlot = s.doorSlot := by rw [setByte]
@[simp] theorem setByte_rrSlot : (s.setByte a b).rrSlot = s.rrSlot := by rw [setByte]
@[simp] theorem setByte_rrSince : (s.setByte a b).rrSince = s.rrSince := by rw [setByte]
@[simp] theorem setByte_courts : (s.setByte a b).courts = s.courts := by rw [setByte]
@[simp] theorem setByte_fields : (s.setByte a b).fields = s.fields := by rw [setByte]
@[simp] theorem setByte_quarters : (s.setByte a b).quarters = s.quarters := by rw [setByte]
@[simp] theorem setByte_cores : (s.setByte a b).cores = s.cores := by rw [setByte]
@[simp] theorem setByte_launches : (s.setByte a b).launches = s.launches := by rw [setByte]
@[simp] theorem setByte_blocks : (s.setByte a b).blocks = s.blocks := by rw [setByte]
@[simp] theorem setByte_groups : (s.setByte a b).groups = s.groups := by rw [setByte]
@[simp] theorem setByte_passes : (s.setByte a b).passes = s.passes := by rw [setByte]
@[simp] theorem setByte_pipes : (s.setByte a b).pipes = s.pipes := by rw [setByte]
@[simp] theorem setByte_dp : (s.setByte a b).dp = s.dp := by rw [setByte]
@[simp] theorem setByte_streamStates : (s.setByte a b).streamStates = s.streamStates := by rw [setByte]
@[simp] theorem setByte_rasterLeaving : (s.setByte a b).rasterLeaving = s.rasterLeaving := by rw [setByte]
@[simp] theorem setByte_heavyEnd : (s.setByte a b).heavyEnd = s.heavyEnd := by rw [setByte]
@[simp] theorem setByte_zeroing : (s.setByte a b).zeroing = s.zeroing := by rw [setByte]
@[simp] theorem setByte_inspects : (s.setByte a b).inspects = s.inspects := by rw [setByte]
@[simp] theorem setByte_inspected : (s.setByte a b).inspected = s.inspected := by rw [setByte]
@[simp] theorem setByte_eth : (s.setByte a b).eth = s.eth := by rw [setByte]
@[simp] theorem setByte_qps : (s.setByte a b).qps = s.qps := by rw [setByte]
@[simp] theorem setByte_keys : (s.setByte a b).keys = s.keys := by rw [setByte]
@[simp] theorem setByte_streams : (s.setByte a b).streams = s.streams := by rw [setByte]
@[simp] theorem setByte_time : (s.setByte a b).time = s.time := by rw [setByte]
@[simp] theorem setByte_iql : (s.setByte a b).iql = s.iql := by rw [setByte]
@[simp] theorem setByte_txns : (s.setByte a b).txns = s.txns := by rw [setByte]
@[simp] theorem setByte_txWait : (s.setByte a b).txWait = s.txWait := by rw [setByte]
@[simp] theorem setByte_far : (s.setByte a b).far = s.far := by rw [setByte]
@[simp] theorem setByte_farUnit : (s.setByte a b).farUnit = s.farUnit := by rw [setByte]
@[simp] theorem setByte_farMiss : (s.setByte a b).farMiss = s.farMiss := by rw [setByte]
@[simp] theorem setByte_farLack : (s.setByte a b).farLack = s.farLack := by rw [setByte]
@[simp] theorem setByte_whistle : (s.setByte a b).whistle = s.whistle := by rw [setByte]
@[simp] theorem setByte_buckets : (s.setByte a b).buckets = s.buckets := by rw [setByte]
@[simp] theorem setByte_unwritten : (s.setByte a b).unwritten = s.unwritten := by rw [setByte]
@[simp] theorem setByte_flushing : (s.setByte a b).flushing = s.flushing := by rw [setByte]
@[simp] theorem setByte_jobs : (s.setByte a b).jobs = s.jobs := by rw [setByte]
@[simp] theorem setByte_power : (s.setByte a b).power = s.power := by rw [setByte]
@[simp] theorem setByte_stw : (s.setByte a b).stw = s.stw := by rw [setByte]
@[simp] theorem setByte_recoveries : (s.setByte a b).recoveries = s.recoveries := by rw [setByte]
@[simp] theorem setByte_referee : (s.setByte a b).referee = s.referee := by rw [setByte]
@[simp] theorem setByte_outbox : (s.setByte a b).outbox = s.outbox := by rw [setByte]
@[simp] theorem setByte_mgmt : (s.setByte a b).mgmt = s.mgmt := by rw [setByte]
@[simp] theorem setByte_free : (s.setByte a b).free = s.free := by rw [setByte]
@[simp] theorem setByte_pending : (s.setByte a b).pending = s.pending := by rw [setByte]
end

section
variable (fam i : Nat) (v : W64)

@[simp] theorem stage_regs : (s.stage fam i v).regs = s.regs := by rw [stage]
@[simp] theorem stage_active : (s.stage fam i v).active = s.active := by rw [stage]
@[simp] theorem stage_mem : (s.stage fam i v).mem = s.mem := by rw [stage]
@[simp] theorem stage_ue : (s.stage fam i v).ue = s.ue := by rw [stage]
@[simp] theorem stage_ce : (s.stage fam i v).ce = s.ce := by rw [stage]
@[simp] theorem stage_altered : (s.stage fam i v).altered = s.altered := by rw [stage]
@[simp] theorem stage_dirty : (s.stage fam i v).dirty = s.dirty := by rw [stage]
@[simp] theorem stage_lost : (s.stage fam i v).lost = s.lost := by rw [stage]
@[simp] theorem stage_repairs : (s.stage fam i v).repairs = s.repairs := by rw [stage]
@[simp] theorem stage_ceLog : (s.stage fam i v).ceLog = s.ceLog := by rw [stage]
@[simp] theorem stage_scLog : (s.stage fam i v).scLog = s.scLog := by rw [stage]
@[simp] theorem stage_rowMaps : (s.stage fam i v).rowMaps = s.rowMaps := by rw [stage]
@[simp] theorem stage_patrol : (s.stage fam i v).patrol = s.patrol := by rw [stage]
@[simp] theorem stage_journalDue : (s.stage fam i v).journalDue = s.journalDue := by rw [stage]
@[simp] theorem stage_tlb : (s.stage fam i v).tlb = s.tlb := by rw [stage]
@[simp] theorem stage_walks : (s.stage fam i v).walks = s.walks := by rw [stage]
@[simp] theorem stage_merge : (s.stage fam i v).merge = s.merge := by rw [stage]
@[simp] theorem stage_ctxs : (s.stage fam i v).ctxs = s.ctxs := by rw [stage]
@[simp] theorem stage_queues : (s.stage fam i v).queues = s.queues := by rw [stage]
@[simp] theorem stage_subSeq : (s.stage fam i v).subSeq = s.subSeq := by rw [stage]
@[simp] theorem stage_startSeq : (s.stage fam i v).startSeq = s.startSeq := by rw [stage]
@[simp] theorem stage_slotLast : (s.stage fam i v).slotLast = s.slotLast := by rw [stage]
@[simp] theorem stage_doorSlot : (s.stage fam i v).doorSlot = s.doorSlot := by rw [stage]
@[simp] theorem stage_rrSlot : (s.stage fam i v).rrSlot = s.rrSlot := by rw [stage]
@[simp] theorem stage_rrSince : (s.stage fam i v).rrSince = s.rrSince := by rw [stage]
@[simp] theorem stage_courts : (s.stage fam i v).courts = s.courts := by rw [stage]
@[simp] theorem stage_fields : (s.stage fam i v).fields = s.fields := by rw [stage]
@[simp] theorem stage_quarters : (s.stage fam i v).quarters = s.quarters := by rw [stage]
@[simp] theorem stage_cores : (s.stage fam i v).cores = s.cores := by rw [stage]
@[simp] theorem stage_launches : (s.stage fam i v).launches = s.launches := by rw [stage]
@[simp] theorem stage_blocks : (s.stage fam i v).blocks = s.blocks := by rw [stage]
@[simp] theorem stage_groups : (s.stage fam i v).groups = s.groups := by rw [stage]
@[simp] theorem stage_passes : (s.stage fam i v).passes = s.passes := by rw [stage]
@[simp] theorem stage_pipes : (s.stage fam i v).pipes = s.pipes := by rw [stage]
@[simp] theorem stage_dp : (s.stage fam i v).dp = s.dp := by rw [stage]
@[simp] theorem stage_streamStates : (s.stage fam i v).streamStates = s.streamStates := by rw [stage]
@[simp] theorem stage_rasterLeaving : (s.stage fam i v).rasterLeaving = s.rasterLeaving := by rw [stage]
@[simp] theorem stage_heavyEnd : (s.stage fam i v).heavyEnd = s.heavyEnd := by rw [stage]
@[simp] theorem stage_zeroing : (s.stage fam i v).zeroing = s.zeroing := by rw [stage]
@[simp] theorem stage_inspects : (s.stage fam i v).inspects = s.inspects := by rw [stage]
@[simp] theorem stage_inspected : (s.stage fam i v).inspected = s.inspected := by rw [stage]
@[simp] theorem stage_eth : (s.stage fam i v).eth = s.eth := by rw [stage]
@[simp] theorem stage_qps : (s.stage fam i v).qps = s.qps := by rw [stage]
@[simp] theorem stage_keys : (s.stage fam i v).keys = s.keys := by rw [stage]
@[simp] theorem stage_streams : (s.stage fam i v).streams = s.streams := by rw [stage]
@[simp] theorem stage_time : (s.stage fam i v).time = s.time := by rw [stage]
@[simp] theorem stage_iql : (s.stage fam i v).iql = s.iql := by rw [stage]
@[simp] theorem stage_txns : (s.stage fam i v).txns = s.txns := by rw [stage]
@[simp] theorem stage_txWait : (s.stage fam i v).txWait = s.txWait := by rw [stage]
@[simp] theorem stage_far : (s.stage fam i v).far = s.far := by rw [stage]
@[simp] theorem stage_farUnit : (s.stage fam i v).farUnit = s.farUnit := by rw [stage]
@[simp] theorem stage_farMiss : (s.stage fam i v).farMiss = s.farMiss := by rw [stage]
@[simp] theorem stage_farLack : (s.stage fam i v).farLack = s.farLack := by rw [stage]
@[simp] theorem stage_whistle : (s.stage fam i v).whistle = s.whistle := by rw [stage]
@[simp] theorem stage_buckets : (s.stage fam i v).buckets = s.buckets := by rw [stage]
@[simp] theorem stage_unwritten : (s.stage fam i v).unwritten = s.unwritten := by rw [stage]
@[simp] theorem stage_flushing : (s.stage fam i v).flushing = s.flushing := by rw [stage]
@[simp] theorem stage_jobs : (s.stage fam i v).jobs = s.jobs := by rw [stage]
@[simp] theorem stage_power : (s.stage fam i v).power = s.power := by rw [stage]
@[simp] theorem stage_stw : (s.stage fam i v).stw = s.stw := by rw [stage]
@[simp] theorem stage_recoveries : (s.stage fam i v).recoveries = s.recoveries := by rw [stage]
@[simp] theorem stage_referee : (s.stage fam i v).referee = s.referee := by rw [stage]
@[simp] theorem stage_outbox : (s.stage fam i v).outbox = s.outbox := by rw [stage]
@[simp] theorem stage_mgmt : (s.stage fam i v).mgmt = s.mgmt := by rw [stage]
@[simp] theorem stage_free : (s.stage fam i v).free = s.free := by rw [stage]
@[simp] theorem stage_pending : (s.stage fam i v).pending = s.pending := by rw [stage]
end

section
variable (fam i : Nat)

@[simp] theorem dropStaged_regs : (s.dropStaged fam i).regs = s.regs := by rw [dropStaged]
@[simp] theorem dropStaged_active : (s.dropStaged fam i).active = s.active := by rw [dropStaged]
@[simp] theorem dropStaged_mem : (s.dropStaged fam i).mem = s.mem := by rw [dropStaged]
@[simp] theorem dropStaged_ue : (s.dropStaged fam i).ue = s.ue := by rw [dropStaged]
@[simp] theorem dropStaged_ce : (s.dropStaged fam i).ce = s.ce := by rw [dropStaged]
@[simp] theorem dropStaged_altered : (s.dropStaged fam i).altered = s.altered := by rw [dropStaged]
@[simp] theorem dropStaged_dirty : (s.dropStaged fam i).dirty = s.dirty := by rw [dropStaged]
@[simp] theorem dropStaged_lost : (s.dropStaged fam i).lost = s.lost := by rw [dropStaged]
@[simp] theorem dropStaged_repairs : (s.dropStaged fam i).repairs = s.repairs := by rw [dropStaged]
@[simp] theorem dropStaged_ceLog : (s.dropStaged fam i).ceLog = s.ceLog := by rw [dropStaged]
@[simp] theorem dropStaged_scLog : (s.dropStaged fam i).scLog = s.scLog := by rw [dropStaged]
@[simp] theorem dropStaged_rowMaps : (s.dropStaged fam i).rowMaps = s.rowMaps := by rw [dropStaged]
@[simp] theorem dropStaged_patrol : (s.dropStaged fam i).patrol = s.patrol := by rw [dropStaged]
@[simp] theorem dropStaged_journalDue : (s.dropStaged fam i).journalDue = s.journalDue := by rw [dropStaged]
@[simp] theorem dropStaged_tlb : (s.dropStaged fam i).tlb = s.tlb := by rw [dropStaged]
@[simp] theorem dropStaged_walks : (s.dropStaged fam i).walks = s.walks := by rw [dropStaged]
@[simp] theorem dropStaged_merge : (s.dropStaged fam i).merge = s.merge := by rw [dropStaged]
@[simp] theorem dropStaged_ctxs : (s.dropStaged fam i).ctxs = s.ctxs := by rw [dropStaged]
@[simp] theorem dropStaged_queues : (s.dropStaged fam i).queues = s.queues := by rw [dropStaged]
@[simp] theorem dropStaged_subSeq : (s.dropStaged fam i).subSeq = s.subSeq := by rw [dropStaged]
@[simp] theorem dropStaged_startSeq : (s.dropStaged fam i).startSeq = s.startSeq := by rw [dropStaged]
@[simp] theorem dropStaged_slotLast : (s.dropStaged fam i).slotLast = s.slotLast := by rw [dropStaged]
@[simp] theorem dropStaged_doorSlot : (s.dropStaged fam i).doorSlot = s.doorSlot := by rw [dropStaged]
@[simp] theorem dropStaged_rrSlot : (s.dropStaged fam i).rrSlot = s.rrSlot := by rw [dropStaged]
@[simp] theorem dropStaged_rrSince : (s.dropStaged fam i).rrSince = s.rrSince := by rw [dropStaged]
@[simp] theorem dropStaged_courts : (s.dropStaged fam i).courts = s.courts := by rw [dropStaged]
@[simp] theorem dropStaged_fields : (s.dropStaged fam i).fields = s.fields := by rw [dropStaged]
@[simp] theorem dropStaged_quarters : (s.dropStaged fam i).quarters = s.quarters := by rw [dropStaged]
@[simp] theorem dropStaged_cores : (s.dropStaged fam i).cores = s.cores := by rw [dropStaged]
@[simp] theorem dropStaged_launches : (s.dropStaged fam i).launches = s.launches := by rw [dropStaged]
@[simp] theorem dropStaged_blocks : (s.dropStaged fam i).blocks = s.blocks := by rw [dropStaged]
@[simp] theorem dropStaged_groups : (s.dropStaged fam i).groups = s.groups := by rw [dropStaged]
@[simp] theorem dropStaged_passes : (s.dropStaged fam i).passes = s.passes := by rw [dropStaged]
@[simp] theorem dropStaged_pipes : (s.dropStaged fam i).pipes = s.pipes := by rw [dropStaged]
@[simp] theorem dropStaged_dp : (s.dropStaged fam i).dp = s.dp := by rw [dropStaged]
@[simp] theorem dropStaged_streamStates : (s.dropStaged fam i).streamStates = s.streamStates := by rw [dropStaged]
@[simp] theorem dropStaged_rasterLeaving : (s.dropStaged fam i).rasterLeaving = s.rasterLeaving := by rw [dropStaged]
@[simp] theorem dropStaged_heavyEnd : (s.dropStaged fam i).heavyEnd = s.heavyEnd := by rw [dropStaged]
@[simp] theorem dropStaged_zeroing : (s.dropStaged fam i).zeroing = s.zeroing := by rw [dropStaged]
@[simp] theorem dropStaged_inspects : (s.dropStaged fam i).inspects = s.inspects := by rw [dropStaged]
@[simp] theorem dropStaged_inspected : (s.dropStaged fam i).inspected = s.inspected := by rw [dropStaged]
@[simp] theorem dropStaged_eth : (s.dropStaged fam i).eth = s.eth := by rw [dropStaged]
@[simp] theorem dropStaged_qps : (s.dropStaged fam i).qps = s.qps := by rw [dropStaged]
@[simp] theorem dropStaged_keys : (s.dropStaged fam i).keys = s.keys := by rw [dropStaged]
@[simp] theorem dropStaged_streams : (s.dropStaged fam i).streams = s.streams := by rw [dropStaged]
@[simp] theorem dropStaged_time : (s.dropStaged fam i).time = s.time := by rw [dropStaged]
@[simp] theorem dropStaged_iql : (s.dropStaged fam i).iql = s.iql := by rw [dropStaged]
@[simp] theorem dropStaged_txns : (s.dropStaged fam i).txns = s.txns := by rw [dropStaged]
@[simp] theorem dropStaged_txWait : (s.dropStaged fam i).txWait = s.txWait := by rw [dropStaged]
@[simp] theorem dropStaged_far : (s.dropStaged fam i).far = s.far := by rw [dropStaged]
@[simp] theorem dropStaged_farUnit : (s.dropStaged fam i).farUnit = s.farUnit := by rw [dropStaged]
@[simp] theorem dropStaged_farMiss : (s.dropStaged fam i).farMiss = s.farMiss := by rw [dropStaged]
@[simp] theorem dropStaged_farLack : (s.dropStaged fam i).farLack = s.farLack := by rw [dropStaged]
@[simp] theorem dropStaged_whistle : (s.dropStaged fam i).whistle = s.whistle := by rw [dropStaged]
@[simp] theorem dropStaged_buckets : (s.dropStaged fam i).buckets = s.buckets := by rw [dropStaged]
@[simp] theorem dropStaged_unwritten : (s.dropStaged fam i).unwritten = s.unwritten := by rw [dropStaged]
@[simp] theorem dropStaged_flushing : (s.dropStaged fam i).flushing = s.flushing := by rw [dropStaged]
@[simp] theorem dropStaged_jobs : (s.dropStaged fam i).jobs = s.jobs := by rw [dropStaged]
@[simp] theorem dropStaged_power : (s.dropStaged fam i).power = s.power := by rw [dropStaged]
@[simp] theorem dropStaged_stw : (s.dropStaged fam i).stw = s.stw := by rw [dropStaged]
@[simp] theorem dropStaged_recoveries : (s.dropStaged fam i).recoveries = s.recoveries := by rw [dropStaged]
@[simp] theorem dropStaged_referee : (s.dropStaged fam i).referee = s.referee := by rw [dropStaged]
@[simp] theorem dropStaged_outbox : (s.dropStaged fam i).outbox = s.outbox := by rw [dropStaged]
@[simp] theorem dropStaged_mgmt : (s.dropStaged fam i).mgmt = s.mgmt := by rw [dropStaged]
@[simp] theorem dropStaged_free : (s.dropStaged fam i).free = s.free := by rw [dropStaged]
@[simp] theorem dropStaged_pending : (s.dropStaged fam i).pending = s.pending := by rw [dropStaged]
end

section
variable (fam i : Nat)

@[simp] theorem latch_regs : (s.latch fam i).regs = s.regs := by rw [latch]
@[simp] theorem latch_staged : (s.latch fam i).staged = s.staged := by rw [latch]
@[simp] theorem latch_mem : (s.latch fam i).mem = s.mem := by rw [latch]
@[simp] theorem latch_ue : (s.latch fam i).ue = s.ue := by rw [latch]
@[simp] theorem latch_ce : (s.latch fam i).ce = s.ce := by rw [latch]
@[simp] theorem latch_altered : (s.latch fam i).altered = s.altered := by rw [latch]
@[simp] theorem latch_dirty : (s.latch fam i).dirty = s.dirty := by rw [latch]
@[simp] theorem latch_lost : (s.latch fam i).lost = s.lost := by rw [latch]
@[simp] theorem latch_repairs : (s.latch fam i).repairs = s.repairs := by rw [latch]
@[simp] theorem latch_ceLog : (s.latch fam i).ceLog = s.ceLog := by rw [latch]
@[simp] theorem latch_scLog : (s.latch fam i).scLog = s.scLog := by rw [latch]
@[simp] theorem latch_rowMaps : (s.latch fam i).rowMaps = s.rowMaps := by rw [latch]
@[simp] theorem latch_patrol : (s.latch fam i).patrol = s.patrol := by rw [latch]
@[simp] theorem latch_journalDue : (s.latch fam i).journalDue = s.journalDue := by rw [latch]
@[simp] theorem latch_tlb : (s.latch fam i).tlb = s.tlb := by rw [latch]
@[simp] theorem latch_walks : (s.latch fam i).walks = s.walks := by rw [latch]
@[simp] theorem latch_merge : (s.latch fam i).merge = s.merge := by rw [latch]
@[simp] theorem latch_ctxs : (s.latch fam i).ctxs = s.ctxs := by rw [latch]
@[simp] theorem latch_queues : (s.latch fam i).queues = s.queues := by rw [latch]
@[simp] theorem latch_subSeq : (s.latch fam i).subSeq = s.subSeq := by rw [latch]
@[simp] theorem latch_startSeq : (s.latch fam i).startSeq = s.startSeq := by rw [latch]
@[simp] theorem latch_slotLast : (s.latch fam i).slotLast = s.slotLast := by rw [latch]
@[simp] theorem latch_doorSlot : (s.latch fam i).doorSlot = s.doorSlot := by rw [latch]
@[simp] theorem latch_rrSlot : (s.latch fam i).rrSlot = s.rrSlot := by rw [latch]
@[simp] theorem latch_rrSince : (s.latch fam i).rrSince = s.rrSince := by rw [latch]
@[simp] theorem latch_courts : (s.latch fam i).courts = s.courts := by rw [latch]
@[simp] theorem latch_fields : (s.latch fam i).fields = s.fields := by rw [latch]
@[simp] theorem latch_quarters : (s.latch fam i).quarters = s.quarters := by rw [latch]
@[simp] theorem latch_cores : (s.latch fam i).cores = s.cores := by rw [latch]
@[simp] theorem latch_launches : (s.latch fam i).launches = s.launches := by rw [latch]
@[simp] theorem latch_blocks : (s.latch fam i).blocks = s.blocks := by rw [latch]
@[simp] theorem latch_groups : (s.latch fam i).groups = s.groups := by rw [latch]
@[simp] theorem latch_passes : (s.latch fam i).passes = s.passes := by rw [latch]
@[simp] theorem latch_pipes : (s.latch fam i).pipes = s.pipes := by rw [latch]
@[simp] theorem latch_dp : (s.latch fam i).dp = s.dp := by rw [latch]
@[simp] theorem latch_streamStates : (s.latch fam i).streamStates = s.streamStates := by rw [latch]
@[simp] theorem latch_rasterLeaving : (s.latch fam i).rasterLeaving = s.rasterLeaving := by rw [latch]
@[simp] theorem latch_heavyEnd : (s.latch fam i).heavyEnd = s.heavyEnd := by rw [latch]
@[simp] theorem latch_zeroing : (s.latch fam i).zeroing = s.zeroing := by rw [latch]
@[simp] theorem latch_inspects : (s.latch fam i).inspects = s.inspects := by rw [latch]
@[simp] theorem latch_inspected : (s.latch fam i).inspected = s.inspected := by rw [latch]
@[simp] theorem latch_eth : (s.latch fam i).eth = s.eth := by rw [latch]
@[simp] theorem latch_qps : (s.latch fam i).qps = s.qps := by rw [latch]
@[simp] theorem latch_keys : (s.latch fam i).keys = s.keys := by rw [latch]
@[simp] theorem latch_streams : (s.latch fam i).streams = s.streams := by rw [latch]
@[simp] theorem latch_time : (s.latch fam i).time = s.time := by rw [latch]
@[simp] theorem latch_iql : (s.latch fam i).iql = s.iql := by rw [latch]
@[simp] theorem latch_txns : (s.latch fam i).txns = s.txns := by rw [latch]
@[simp] theorem latch_txWait : (s.latch fam i).txWait = s.txWait := by rw [latch]
@[simp] theorem latch_far : (s.latch fam i).far = s.far := by rw [latch]
@[simp] theorem latch_farUnit : (s.latch fam i).farUnit = s.farUnit := by rw [latch]
@[simp] theorem latch_farMiss : (s.latch fam i).farMiss = s.farMiss := by rw [latch]
@[simp] theorem latch_farLack : (s.latch fam i).farLack = s.farLack := by rw [latch]
@[simp] theorem latch_whistle : (s.latch fam i).whistle = s.whistle := by rw [latch]
@[simp] theorem latch_buckets : (s.latch fam i).buckets = s.buckets := by rw [latch]
@[simp] theorem latch_unwritten : (s.latch fam i).unwritten = s.unwritten := by rw [latch]
@[simp] theorem latch_flushing : (s.latch fam i).flushing = s.flushing := by rw [latch]
@[simp] theorem latch_jobs : (s.latch fam i).jobs = s.jobs := by rw [latch]
@[simp] theorem latch_power : (s.latch fam i).power = s.power := by rw [latch]
@[simp] theorem latch_stw : (s.latch fam i).stw = s.stw := by rw [latch]
@[simp] theorem latch_recoveries : (s.latch fam i).recoveries = s.recoveries := by rw [latch]
@[simp] theorem latch_referee : (s.latch fam i).referee = s.referee := by rw [latch]
@[simp] theorem latch_outbox : (s.latch fam i).outbox = s.outbox := by rw [latch]
@[simp] theorem latch_mgmt : (s.latch fam i).mgmt = s.mgmt := by rw [latch]
@[simp] theorem latch_free : (s.latch fam i).free = s.free := by rw [latch]
@[simp] theorem latch_pending : (s.latch fam i).pending = s.pending := by rw [latch]
end

section
variable (fam : Nat)

@[simp] theorem resetFam_staged : (s.resetFam fam).staged = s.staged := by rw [resetFam]
@[simp] theorem resetFam_active : (s.resetFam fam).active = s.active := by rw [resetFam]
@[simp] theorem resetFam_mem : (s.resetFam fam).mem = s.mem := by rw [resetFam]
@[simp] theorem resetFam_ue : (s.resetFam fam).ue = s.ue := by rw [resetFam]
@[simp] theorem resetFam_ce : (s.resetFam fam).ce = s.ce := by rw [resetFam]
@[simp] theorem resetFam_altered : (s.resetFam fam).altered = s.altered := by rw [resetFam]
@[simp] theorem resetFam_dirty : (s.resetFam fam).dirty = s.dirty := by rw [resetFam]
@[simp] theorem resetFam_lost : (s.resetFam fam).lost = s.lost := by rw [resetFam]
@[simp] theorem resetFam_repairs : (s.resetFam fam).repairs = s.repairs := by rw [resetFam]
@[simp] theorem resetFam_ceLog : (s.resetFam fam).ceLog = s.ceLog := by rw [resetFam]
@[simp] theorem resetFam_scLog : (s.resetFam fam).scLog = s.scLog := by rw [resetFam]
@[simp] theorem resetFam_rowMaps : (s.resetFam fam).rowMaps = s.rowMaps := by rw [resetFam]
@[simp] theorem resetFam_patrol : (s.resetFam fam).patrol = s.patrol := by rw [resetFam]
@[simp] theorem resetFam_journalDue : (s.resetFam fam).journalDue = s.journalDue := by rw [resetFam]
@[simp] theorem resetFam_tlb : (s.resetFam fam).tlb = s.tlb := by rw [resetFam]
@[simp] theorem resetFam_walks : (s.resetFam fam).walks = s.walks := by rw [resetFam]
@[simp] theorem resetFam_merge : (s.resetFam fam).merge = s.merge := by rw [resetFam]
@[simp] theorem resetFam_ctxs : (s.resetFam fam).ctxs = s.ctxs := by rw [resetFam]
@[simp] theorem resetFam_queues : (s.resetFam fam).queues = s.queues := by rw [resetFam]
@[simp] theorem resetFam_subSeq : (s.resetFam fam).subSeq = s.subSeq := by rw [resetFam]
@[simp] theorem resetFam_startSeq : (s.resetFam fam).startSeq = s.startSeq := by rw [resetFam]
@[simp] theorem resetFam_slotLast : (s.resetFam fam).slotLast = s.slotLast := by rw [resetFam]
@[simp] theorem resetFam_doorSlot : (s.resetFam fam).doorSlot = s.doorSlot := by rw [resetFam]
@[simp] theorem resetFam_rrSlot : (s.resetFam fam).rrSlot = s.rrSlot := by rw [resetFam]
@[simp] theorem resetFam_rrSince : (s.resetFam fam).rrSince = s.rrSince := by rw [resetFam]
@[simp] theorem resetFam_courts : (s.resetFam fam).courts = s.courts := by rw [resetFam]
@[simp] theorem resetFam_fields : (s.resetFam fam).fields = s.fields := by rw [resetFam]
@[simp] theorem resetFam_quarters : (s.resetFam fam).quarters = s.quarters := by rw [resetFam]
@[simp] theorem resetFam_cores : (s.resetFam fam).cores = s.cores := by rw [resetFam]
@[simp] theorem resetFam_launches : (s.resetFam fam).launches = s.launches := by rw [resetFam]
@[simp] theorem resetFam_blocks : (s.resetFam fam).blocks = s.blocks := by rw [resetFam]
@[simp] theorem resetFam_groups : (s.resetFam fam).groups = s.groups := by rw [resetFam]
@[simp] theorem resetFam_passes : (s.resetFam fam).passes = s.passes := by rw [resetFam]
@[simp] theorem resetFam_pipes : (s.resetFam fam).pipes = s.pipes := by rw [resetFam]
@[simp] theorem resetFam_dp : (s.resetFam fam).dp = s.dp := by rw [resetFam]
@[simp] theorem resetFam_streamStates : (s.resetFam fam).streamStates = s.streamStates := by rw [resetFam]
@[simp] theorem resetFam_rasterLeaving : (s.resetFam fam).rasterLeaving = s.rasterLeaving := by rw [resetFam]
@[simp] theorem resetFam_heavyEnd : (s.resetFam fam).heavyEnd = s.heavyEnd := by rw [resetFam]
@[simp] theorem resetFam_zeroing : (s.resetFam fam).zeroing = s.zeroing := by rw [resetFam]
@[simp] theorem resetFam_inspects : (s.resetFam fam).inspects = s.inspects := by rw [resetFam]
@[simp] theorem resetFam_inspected : (s.resetFam fam).inspected = s.inspected := by rw [resetFam]
@[simp] theorem resetFam_eth : (s.resetFam fam).eth = s.eth := by rw [resetFam]
@[simp] theorem resetFam_qps : (s.resetFam fam).qps = s.qps := by rw [resetFam]
@[simp] theorem resetFam_keys : (s.resetFam fam).keys = s.keys := by rw [resetFam]
@[simp] theorem resetFam_streams : (s.resetFam fam).streams = s.streams := by rw [resetFam]
@[simp] theorem resetFam_time : (s.resetFam fam).time = s.time := by rw [resetFam]
@[simp] theorem resetFam_iql : (s.resetFam fam).iql = s.iql := by rw [resetFam]
@[simp] theorem resetFam_txns : (s.resetFam fam).txns = s.txns := by rw [resetFam]
@[simp] theorem resetFam_txWait : (s.resetFam fam).txWait = s.txWait := by rw [resetFam]
@[simp] theorem resetFam_far : (s.resetFam fam).far = s.far := by rw [resetFam]
@[simp] theorem resetFam_farUnit : (s.resetFam fam).farUnit = s.farUnit := by rw [resetFam]
@[simp] theorem resetFam_farMiss : (s.resetFam fam).farMiss = s.farMiss := by rw [resetFam]
@[simp] theorem resetFam_farLack : (s.resetFam fam).farLack = s.farLack := by rw [resetFam]
@[simp] theorem resetFam_whistle : (s.resetFam fam).whistle = s.whistle := by rw [resetFam]
@[simp] theorem resetFam_buckets : (s.resetFam fam).buckets = s.buckets := by rw [resetFam]
@[simp] theorem resetFam_unwritten : (s.resetFam fam).unwritten = s.unwritten := by rw [resetFam]
@[simp] theorem resetFam_flushing : (s.resetFam fam).flushing = s.flushing := by rw [resetFam]
@[simp] theorem resetFam_jobs : (s.resetFam fam).jobs = s.jobs := by rw [resetFam]
@[simp] theorem resetFam_power : (s.resetFam fam).power = s.power := by rw [resetFam]
@[simp] theorem resetFam_stw : (s.resetFam fam).stw = s.stw := by rw [resetFam]
@[simp] theorem resetFam_recoveries : (s.resetFam fam).recoveries = s.recoveries := by rw [resetFam]
@[simp] theorem resetFam_referee : (s.resetFam fam).referee = s.referee := by rw [resetFam]
@[simp] theorem resetFam_outbox : (s.resetFam fam).outbox = s.outbox := by rw [resetFam]
@[simp] theorem resetFam_mgmt : (s.resetFam fam).mgmt = s.mgmt := by rw [resetFam]
@[simp] theorem resetFam_free : (s.resetFam fam).free = s.free := by rw [resetFam]
@[simp] theorem resetFam_pending : (s.resetFam fam).pending = s.pending := by rw [resetFam]
end

section
variable (st : W16)

@[simp] theorem answer_regs : (s.answer st).regs = s.regs := by rw [answer]
@[simp] theorem answer_staged : (s.answer st).staged = s.staged := by rw [answer]
@[simp] theorem answer_active : (s.answer st).active = s.active := by rw [answer]
@[simp] theorem answer_mem : (s.answer st).mem = s.mem := by rw [answer]
@[simp] theorem answer_ue : (s.answer st).ue = s.ue := by rw [answer]
@[simp] theorem answer_ce : (s.answer st).ce = s.ce := by rw [answer]
@[simp] theorem answer_altered : (s.answer st).altered = s.altered := by rw [answer]
@[simp] theorem answer_dirty : (s.answer st).dirty = s.dirty := by rw [answer]
@[simp] theorem answer_lost : (s.answer st).lost = s.lost := by rw [answer]
@[simp] theorem answer_repairs : (s.answer st).repairs = s.repairs := by rw [answer]
@[simp] theorem answer_ceLog : (s.answer st).ceLog = s.ceLog := by rw [answer]
@[simp] theorem answer_scLog : (s.answer st).scLog = s.scLog := by rw [answer]
@[simp] theorem answer_rowMaps : (s.answer st).rowMaps = s.rowMaps := by rw [answer]
@[simp] theorem answer_patrol : (s.answer st).patrol = s.patrol := by rw [answer]
@[simp] theorem answer_journalDue : (s.answer st).journalDue = s.journalDue := by rw [answer]
@[simp] theorem answer_tlb : (s.answer st).tlb = s.tlb := by rw [answer]
@[simp] theorem answer_walks : (s.answer st).walks = s.walks := by rw [answer]
@[simp] theorem answer_merge : (s.answer st).merge = s.merge := by rw [answer]
@[simp] theorem answer_ctxs : (s.answer st).ctxs = s.ctxs := by rw [answer]
@[simp] theorem answer_queues : (s.answer st).queues = s.queues := by rw [answer]
@[simp] theorem answer_subSeq : (s.answer st).subSeq = s.subSeq := by rw [answer]
@[simp] theorem answer_startSeq : (s.answer st).startSeq = s.startSeq := by rw [answer]
@[simp] theorem answer_slotLast : (s.answer st).slotLast = s.slotLast := by rw [answer]
@[simp] theorem answer_doorSlot : (s.answer st).doorSlot = s.doorSlot := by rw [answer]
@[simp] theorem answer_rrSlot : (s.answer st).rrSlot = s.rrSlot := by rw [answer]
@[simp] theorem answer_rrSince : (s.answer st).rrSince = s.rrSince := by rw [answer]
@[simp] theorem answer_courts : (s.answer st).courts = s.courts := by rw [answer]
@[simp] theorem answer_fields : (s.answer st).fields = s.fields := by rw [answer]
@[simp] theorem answer_quarters : (s.answer st).quarters = s.quarters := by rw [answer]
@[simp] theorem answer_cores : (s.answer st).cores = s.cores := by rw [answer]
@[simp] theorem answer_launches : (s.answer st).launches = s.launches := by rw [answer]
@[simp] theorem answer_blocks : (s.answer st).blocks = s.blocks := by rw [answer]
@[simp] theorem answer_groups : (s.answer st).groups = s.groups := by rw [answer]
@[simp] theorem answer_passes : (s.answer st).passes = s.passes := by rw [answer]
@[simp] theorem answer_pipes : (s.answer st).pipes = s.pipes := by rw [answer]
@[simp] theorem answer_dp : (s.answer st).dp = s.dp := by rw [answer]
@[simp] theorem answer_streamStates : (s.answer st).streamStates = s.streamStates := by rw [answer]
@[simp] theorem answer_rasterLeaving : (s.answer st).rasterLeaving = s.rasterLeaving := by rw [answer]
@[simp] theorem answer_heavyEnd : (s.answer st).heavyEnd = s.heavyEnd := by rw [answer]
@[simp] theorem answer_zeroing : (s.answer st).zeroing = s.zeroing := by rw [answer]
@[simp] theorem answer_inspects : (s.answer st).inspects = s.inspects := by rw [answer]
@[simp] theorem answer_inspected : (s.answer st).inspected = s.inspected := by rw [answer]
@[simp] theorem answer_eth : (s.answer st).eth = s.eth := by rw [answer]
@[simp] theorem answer_qps : (s.answer st).qps = s.qps := by rw [answer]
@[simp] theorem answer_keys : (s.answer st).keys = s.keys := by rw [answer]
@[simp] theorem answer_streams : (s.answer st).streams = s.streams := by rw [answer]
@[simp] theorem answer_time : (s.answer st).time = s.time := by rw [answer]
@[simp] theorem answer_iql : (s.answer st).iql = s.iql := by rw [answer]
@[simp] theorem answer_txns : (s.answer st).txns = s.txns := by rw [answer]
@[simp] theorem answer_txWait : (s.answer st).txWait = s.txWait := by rw [answer]
@[simp] theorem answer_far : (s.answer st).far = s.far := by rw [answer]
@[simp] theorem answer_farUnit : (s.answer st).farUnit = s.farUnit := by rw [answer]
@[simp] theorem answer_farMiss : (s.answer st).farMiss = s.farMiss := by rw [answer]
@[simp] theorem answer_farLack : (s.answer st).farLack = s.farLack := by rw [answer]
@[simp] theorem answer_whistle : (s.answer st).whistle = s.whistle := by rw [answer]
@[simp] theorem answer_buckets : (s.answer st).buckets = s.buckets := by rw [answer]
@[simp] theorem answer_unwritten : (s.answer st).unwritten = s.unwritten := by rw [answer]
@[simp] theorem answer_flushing : (s.answer st).flushing = s.flushing := by rw [answer]
@[simp] theorem answer_jobs : (s.answer st).jobs = s.jobs := by rw [answer]
@[simp] theorem answer_power : (s.answer st).power = s.power := by rw [answer]
@[simp] theorem answer_stw : (s.answer st).stw = s.stw := by rw [answer]
@[simp] theorem answer_recoveries : (s.answer st).recoveries = s.recoveries := by rw [answer]
@[simp] theorem answer_referee : (s.answer st).referee = s.referee := by rw [answer]
@[simp] theorem answer_outbox : (s.answer st).outbox = s.outbox := by rw [answer]
@[simp] theorem answer_free : (s.answer st).free = s.free := by rw [answer]
@[simp] theorem answer_pending : (s.answer st).pending = s.pending := by rw [answer]
end

section
variable (m : Msg)

@[simp] theorem emit_regs : (s.emit m).regs = s.regs := by rw [emit]
@[simp] theorem emit_staged : (s.emit m).staged = s.staged := by rw [emit]
@[simp] theorem emit_active : (s.emit m).active = s.active := by rw [emit]
@[simp] theorem emit_mem : (s.emit m).mem = s.mem := by rw [emit]
@[simp] theorem emit_ue : (s.emit m).ue = s.ue := by rw [emit]
@[simp] theorem emit_ce : (s.emit m).ce = s.ce := by rw [emit]
@[simp] theorem emit_altered : (s.emit m).altered = s.altered := by rw [emit]
@[simp] theorem emit_dirty : (s.emit m).dirty = s.dirty := by rw [emit]
@[simp] theorem emit_lost : (s.emit m).lost = s.lost := by rw [emit]
@[simp] theorem emit_repairs : (s.emit m).repairs = s.repairs := by rw [emit]
@[simp] theorem emit_ceLog : (s.emit m).ceLog = s.ceLog := by rw [emit]
@[simp] theorem emit_scLog : (s.emit m).scLog = s.scLog := by rw [emit]
@[simp] theorem emit_rowMaps : (s.emit m).rowMaps = s.rowMaps := by rw [emit]
@[simp] theorem emit_patrol : (s.emit m).patrol = s.patrol := by rw [emit]
@[simp] theorem emit_journalDue : (s.emit m).journalDue = s.journalDue := by rw [emit]
@[simp] theorem emit_tlb : (s.emit m).tlb = s.tlb := by rw [emit]
@[simp] theorem emit_walks : (s.emit m).walks = s.walks := by rw [emit]
@[simp] theorem emit_merge : (s.emit m).merge = s.merge := by rw [emit]
@[simp] theorem emit_ctxs : (s.emit m).ctxs = s.ctxs := by rw [emit]
@[simp] theorem emit_queues : (s.emit m).queues = s.queues := by rw [emit]
@[simp] theorem emit_subSeq : (s.emit m).subSeq = s.subSeq := by rw [emit]
@[simp] theorem emit_startSeq : (s.emit m).startSeq = s.startSeq := by rw [emit]
@[simp] theorem emit_slotLast : (s.emit m).slotLast = s.slotLast := by rw [emit]
@[simp] theorem emit_doorSlot : (s.emit m).doorSlot = s.doorSlot := by rw [emit]
@[simp] theorem emit_rrSlot : (s.emit m).rrSlot = s.rrSlot := by rw [emit]
@[simp] theorem emit_rrSince : (s.emit m).rrSince = s.rrSince := by rw [emit]
@[simp] theorem emit_courts : (s.emit m).courts = s.courts := by rw [emit]
@[simp] theorem emit_fields : (s.emit m).fields = s.fields := by rw [emit]
@[simp] theorem emit_quarters : (s.emit m).quarters = s.quarters := by rw [emit]
@[simp] theorem emit_cores : (s.emit m).cores = s.cores := by rw [emit]
@[simp] theorem emit_launches : (s.emit m).launches = s.launches := by rw [emit]
@[simp] theorem emit_blocks : (s.emit m).blocks = s.blocks := by rw [emit]
@[simp] theorem emit_groups : (s.emit m).groups = s.groups := by rw [emit]
@[simp] theorem emit_passes : (s.emit m).passes = s.passes := by rw [emit]
@[simp] theorem emit_pipes : (s.emit m).pipes = s.pipes := by rw [emit]
@[simp] theorem emit_dp : (s.emit m).dp = s.dp := by rw [emit]
@[simp] theorem emit_streamStates : (s.emit m).streamStates = s.streamStates := by rw [emit]
@[simp] theorem emit_rasterLeaving : (s.emit m).rasterLeaving = s.rasterLeaving := by rw [emit]
@[simp] theorem emit_heavyEnd : (s.emit m).heavyEnd = s.heavyEnd := by rw [emit]
@[simp] theorem emit_zeroing : (s.emit m).zeroing = s.zeroing := by rw [emit]
@[simp] theorem emit_inspects : (s.emit m).inspects = s.inspects := by rw [emit]
@[simp] theorem emit_inspected : (s.emit m).inspected = s.inspected := by rw [emit]
@[simp] theorem emit_eth : (s.emit m).eth = s.eth := by rw [emit]
@[simp] theorem emit_qps : (s.emit m).qps = s.qps := by rw [emit]
@[simp] theorem emit_keys : (s.emit m).keys = s.keys := by rw [emit]
@[simp] theorem emit_streams : (s.emit m).streams = s.streams := by rw [emit]
@[simp] theorem emit_time : (s.emit m).time = s.time := by rw [emit]
@[simp] theorem emit_iql : (s.emit m).iql = s.iql := by rw [emit]
@[simp] theorem emit_txns : (s.emit m).txns = s.txns := by rw [emit]
@[simp] theorem emit_txWait : (s.emit m).txWait = s.txWait := by rw [emit]
@[simp] theorem emit_far : (s.emit m).far = s.far := by rw [emit]
@[simp] theorem emit_farUnit : (s.emit m).farUnit = s.farUnit := by rw [emit]
@[simp] theorem emit_farMiss : (s.emit m).farMiss = s.farMiss := by rw [emit]
@[simp] theorem emit_farLack : (s.emit m).farLack = s.farLack := by rw [emit]
@[simp] theorem emit_whistle : (s.emit m).whistle = s.whistle := by rw [emit]
@[simp] theorem emit_buckets : (s.emit m).buckets = s.buckets := by rw [emit]
@[simp] theorem emit_unwritten : (s.emit m).unwritten = s.unwritten := by rw [emit]
@[simp] theorem emit_flushing : (s.emit m).flushing = s.flushing := by rw [emit]
@[simp] theorem emit_jobs : (s.emit m).jobs = s.jobs := by rw [emit]
@[simp] theorem emit_power : (s.emit m).power = s.power := by rw [emit]
@[simp] theorem emit_stw : (s.emit m).stw = s.stw := by rw [emit]
@[simp] theorem emit_recoveries : (s.emit m).recoveries = s.recoveries := by rw [emit]
@[simp] theorem emit_referee : (s.emit m).referee = s.referee := by rw [emit]
@[simp] theorem emit_mgmt : (s.emit m).mgmt = s.mgmt := by rw [emit]
@[simp] theorem emit_free : (s.emit m).free = s.free := by rw [emit]
@[simp] theorem emit_pending : (s.emit m).pending = s.pending := by rw [emit]
end

section
variable (f : Reg.Field) (i x : Nat)

@[simp] theorem setFld_staged : (s.setFld f i x).staged = s.staged := by rw [setFld, wr]
@[simp] theorem setFld_active : (s.setFld f i x).active = s.active := by rw [setFld, wr]
@[simp] theorem setFld_mem : (s.setFld f i x).mem = s.mem := by rw [setFld, wr]
@[simp] theorem setFld_ue : (s.setFld f i x).ue = s.ue := by rw [setFld, wr]
@[simp] theorem setFld_ce : (s.setFld f i x).ce = s.ce := by rw [setFld, wr]
@[simp] theorem setFld_altered : (s.setFld f i x).altered = s.altered := by rw [setFld, wr]
@[simp] theorem setFld_dirty : (s.setFld f i x).dirty = s.dirty := by rw [setFld, wr]
@[simp] theorem setFld_lost : (s.setFld f i x).lost = s.lost := by rw [setFld, wr]
@[simp] theorem setFld_repairs : (s.setFld f i x).repairs = s.repairs := by rw [setFld, wr]
@[simp] theorem setFld_ceLog : (s.setFld f i x).ceLog = s.ceLog := by rw [setFld, wr]
@[simp] theorem setFld_scLog : (s.setFld f i x).scLog = s.scLog := by rw [setFld, wr]
@[simp] theorem setFld_rowMaps : (s.setFld f i x).rowMaps = s.rowMaps := by rw [setFld, wr]
@[simp] theorem setFld_patrol : (s.setFld f i x).patrol = s.patrol := by rw [setFld, wr]
@[simp] theorem setFld_journalDue : (s.setFld f i x).journalDue = s.journalDue := by rw [setFld, wr]
@[simp] theorem setFld_tlb : (s.setFld f i x).tlb = s.tlb := by rw [setFld, wr]
@[simp] theorem setFld_walks : (s.setFld f i x).walks = s.walks := by rw [setFld, wr]
@[simp] theorem setFld_merge : (s.setFld f i x).merge = s.merge := by rw [setFld, wr]
@[simp] theorem setFld_ctxs : (s.setFld f i x).ctxs = s.ctxs := by rw [setFld, wr]
@[simp] theorem setFld_queues : (s.setFld f i x).queues = s.queues := by rw [setFld, wr]
@[simp] theorem setFld_subSeq : (s.setFld f i x).subSeq = s.subSeq := by rw [setFld, wr]
@[simp] theorem setFld_startSeq : (s.setFld f i x).startSeq = s.startSeq := by rw [setFld, wr]
@[simp] theorem setFld_slotLast : (s.setFld f i x).slotLast = s.slotLast := by rw [setFld, wr]
@[simp] theorem setFld_doorSlot : (s.setFld f i x).doorSlot = s.doorSlot := by rw [setFld, wr]
@[simp] theorem setFld_rrSlot : (s.setFld f i x).rrSlot = s.rrSlot := by rw [setFld, wr]
@[simp] theorem setFld_rrSince : (s.setFld f i x).rrSince = s.rrSince := by rw [setFld, wr]
@[simp] theorem setFld_courts : (s.setFld f i x).courts = s.courts := by rw [setFld, wr]
@[simp] theorem setFld_fields : (s.setFld f i x).fields = s.fields := by rw [setFld, wr]
@[simp] theorem setFld_quarters : (s.setFld f i x).quarters = s.quarters := by rw [setFld, wr]
@[simp] theorem setFld_cores : (s.setFld f i x).cores = s.cores := by rw [setFld, wr]
@[simp] theorem setFld_launches : (s.setFld f i x).launches = s.launches := by rw [setFld, wr]
@[simp] theorem setFld_blocks : (s.setFld f i x).blocks = s.blocks := by rw [setFld, wr]
@[simp] theorem setFld_groups : (s.setFld f i x).groups = s.groups := by rw [setFld, wr]
@[simp] theorem setFld_passes : (s.setFld f i x).passes = s.passes := by rw [setFld, wr]
@[simp] theorem setFld_pipes : (s.setFld f i x).pipes = s.pipes := by rw [setFld, wr]
@[simp] theorem setFld_dp : (s.setFld f i x).dp = s.dp := by rw [setFld, wr]
@[simp] theorem setFld_streamStates : (s.setFld f i x).streamStates = s.streamStates := by rw [setFld, wr]
@[simp] theorem setFld_rasterLeaving : (s.setFld f i x).rasterLeaving = s.rasterLeaving := by rw [setFld, wr]
@[simp] theorem setFld_heavyEnd : (s.setFld f i x).heavyEnd = s.heavyEnd := by rw [setFld, wr]
@[simp] theorem setFld_zeroing : (s.setFld f i x).zeroing = s.zeroing := by rw [setFld, wr]
@[simp] theorem setFld_inspects : (s.setFld f i x).inspects = s.inspects := by rw [setFld, wr]
@[simp] theorem setFld_inspected : (s.setFld f i x).inspected = s.inspected := by rw [setFld, wr]
@[simp] theorem setFld_eth : (s.setFld f i x).eth = s.eth := by rw [setFld, wr]
@[simp] theorem setFld_qps : (s.setFld f i x).qps = s.qps := by rw [setFld, wr]
@[simp] theorem setFld_keys : (s.setFld f i x).keys = s.keys := by rw [setFld, wr]
@[simp] theorem setFld_streams : (s.setFld f i x).streams = s.streams := by rw [setFld, wr]
@[simp] theorem setFld_time : (s.setFld f i x).time = s.time := by rw [setFld, wr]
@[simp] theorem setFld_iql : (s.setFld f i x).iql = s.iql := by rw [setFld, wr]
@[simp] theorem setFld_txns : (s.setFld f i x).txns = s.txns := by rw [setFld, wr]
@[simp] theorem setFld_txWait : (s.setFld f i x).txWait = s.txWait := by rw [setFld, wr]
@[simp] theorem setFld_far : (s.setFld f i x).far = s.far := by rw [setFld, wr]
@[simp] theorem setFld_farUnit : (s.setFld f i x).farUnit = s.farUnit := by rw [setFld, wr]
@[simp] theorem setFld_farMiss : (s.setFld f i x).farMiss = s.farMiss := by rw [setFld, wr]
@[simp] theorem setFld_farLack : (s.setFld f i x).farLack = s.farLack := by rw [setFld, wr]
@[simp] theorem setFld_whistle : (s.setFld f i x).whistle = s.whistle := by rw [setFld, wr]
@[simp] theorem setFld_buckets : (s.setFld f i x).buckets = s.buckets := by rw [setFld, wr]
@[simp] theorem setFld_unwritten : (s.setFld f i x).unwritten = s.unwritten := by rw [setFld, wr]
@[simp] theorem setFld_flushing : (s.setFld f i x).flushing = s.flushing := by rw [setFld, wr]
@[simp] theorem setFld_jobs : (s.setFld f i x).jobs = s.jobs := by rw [setFld, wr]
@[simp] theorem setFld_power : (s.setFld f i x).power = s.power := by rw [setFld, wr]
@[simp] theorem setFld_stw : (s.setFld f i x).stw = s.stw := by rw [setFld, wr]
@[simp] theorem setFld_recoveries : (s.setFld f i x).recoveries = s.recoveries := by rw [setFld, wr]
@[simp] theorem setFld_referee : (s.setFld f i x).referee = s.referee := by rw [setFld, wr]
@[simp] theorem setFld_outbox : (s.setFld f i x).outbox = s.outbox := by rw [setFld, wr]
@[simp] theorem setFld_mgmt : (s.setFld f i x).mgmt = s.mgmt := by rw [setFld, wr]
@[simp] theorem setFld_free : (s.setFld f i x).free = s.free := by rw [setFld, wr]
@[simp] theorem setFld_pending : (s.setFld f i x).pending = s.pending := by rw [setFld, wr]
end

section
variable (f : Reg.Field) (i n : Nat)

@[simp] theorem bump_staged : (s.bump f i n).staged = s.staged := by rw [bump, setFld, wr]
@[simp] theorem bump_active : (s.bump f i n).active = s.active := by rw [bump, setFld, wr]
@[simp] theorem bump_mem : (s.bump f i n).mem = s.mem := by rw [bump, setFld, wr]
@[simp] theorem bump_ue : (s.bump f i n).ue = s.ue := by rw [bump, setFld, wr]
@[simp] theorem bump_ce : (s.bump f i n).ce = s.ce := by rw [bump, setFld, wr]
@[simp] theorem bump_altered : (s.bump f i n).altered = s.altered := by rw [bump, setFld, wr]
@[simp] theorem bump_dirty : (s.bump f i n).dirty = s.dirty := by rw [bump, setFld, wr]
@[simp] theorem bump_lost : (s.bump f i n).lost = s.lost := by rw [bump, setFld, wr]
@[simp] theorem bump_repairs : (s.bump f i n).repairs = s.repairs := by rw [bump, setFld, wr]
@[simp] theorem bump_ceLog : (s.bump f i n).ceLog = s.ceLog := by rw [bump, setFld, wr]
@[simp] theorem bump_scLog : (s.bump f i n).scLog = s.scLog := by rw [bump, setFld, wr]
@[simp] theorem bump_rowMaps : (s.bump f i n).rowMaps = s.rowMaps := by rw [bump, setFld, wr]
@[simp] theorem bump_patrol : (s.bump f i n).patrol = s.patrol := by rw [bump, setFld, wr]
@[simp] theorem bump_journalDue : (s.bump f i n).journalDue = s.journalDue := by rw [bump, setFld, wr]
@[simp] theorem bump_tlb : (s.bump f i n).tlb = s.tlb := by rw [bump, setFld, wr]
@[simp] theorem bump_walks : (s.bump f i n).walks = s.walks := by rw [bump, setFld, wr]
@[simp] theorem bump_merge : (s.bump f i n).merge = s.merge := by rw [bump, setFld, wr]
@[simp] theorem bump_ctxs : (s.bump f i n).ctxs = s.ctxs := by rw [bump, setFld, wr]
@[simp] theorem bump_queues : (s.bump f i n).queues = s.queues := by rw [bump, setFld, wr]
@[simp] theorem bump_subSeq : (s.bump f i n).subSeq = s.subSeq := by rw [bump, setFld, wr]
@[simp] theorem bump_startSeq : (s.bump f i n).startSeq = s.startSeq := by rw [bump, setFld, wr]
@[simp] theorem bump_slotLast : (s.bump f i n).slotLast = s.slotLast := by rw [bump, setFld, wr]
@[simp] theorem bump_doorSlot : (s.bump f i n).doorSlot = s.doorSlot := by rw [bump, setFld, wr]
@[simp] theorem bump_rrSlot : (s.bump f i n).rrSlot = s.rrSlot := by rw [bump, setFld, wr]
@[simp] theorem bump_rrSince : (s.bump f i n).rrSince = s.rrSince := by rw [bump, setFld, wr]
@[simp] theorem bump_courts : (s.bump f i n).courts = s.courts := by rw [bump, setFld, wr]
@[simp] theorem bump_fields : (s.bump f i n).fields = s.fields := by rw [bump, setFld, wr]
@[simp] theorem bump_quarters : (s.bump f i n).quarters = s.quarters := by rw [bump, setFld, wr]
@[simp] theorem bump_cores : (s.bump f i n).cores = s.cores := by rw [bump, setFld, wr]
@[simp] theorem bump_launches : (s.bump f i n).launches = s.launches := by rw [bump, setFld, wr]
@[simp] theorem bump_blocks : (s.bump f i n).blocks = s.blocks := by rw [bump, setFld, wr]
@[simp] theorem bump_groups : (s.bump f i n).groups = s.groups := by rw [bump, setFld, wr]
@[simp] theorem bump_passes : (s.bump f i n).passes = s.passes := by rw [bump, setFld, wr]
@[simp] theorem bump_pipes : (s.bump f i n).pipes = s.pipes := by rw [bump, setFld, wr]
@[simp] theorem bump_dp : (s.bump f i n).dp = s.dp := by rw [bump, setFld, wr]
@[simp] theorem bump_streamStates : (s.bump f i n).streamStates = s.streamStates := by rw [bump, setFld, wr]
@[simp] theorem bump_rasterLeaving : (s.bump f i n).rasterLeaving = s.rasterLeaving := by rw [bump, setFld, wr]
@[simp] theorem bump_heavyEnd : (s.bump f i n).heavyEnd = s.heavyEnd := by rw [bump, setFld, wr]
@[simp] theorem bump_zeroing : (s.bump f i n).zeroing = s.zeroing := by rw [bump, setFld, wr]
@[simp] theorem bump_inspects : (s.bump f i n).inspects = s.inspects := by rw [bump, setFld, wr]
@[simp] theorem bump_inspected : (s.bump f i n).inspected = s.inspected := by rw [bump, setFld, wr]
@[simp] theorem bump_eth : (s.bump f i n).eth = s.eth := by rw [bump, setFld, wr]
@[simp] theorem bump_qps : (s.bump f i n).qps = s.qps := by rw [bump, setFld, wr]
@[simp] theorem bump_keys : (s.bump f i n).keys = s.keys := by rw [bump, setFld, wr]
@[simp] theorem bump_streams : (s.bump f i n).streams = s.streams := by rw [bump, setFld, wr]
@[simp] theorem bump_time : (s.bump f i n).time = s.time := by rw [bump, setFld, wr]
@[simp] theorem bump_iql : (s.bump f i n).iql = s.iql := by rw [bump, setFld, wr]
@[simp] theorem bump_txns : (s.bump f i n).txns = s.txns := by rw [bump, setFld, wr]
@[simp] theorem bump_txWait : (s.bump f i n).txWait = s.txWait := by rw [bump, setFld, wr]
@[simp] theorem bump_far : (s.bump f i n).far = s.far := by rw [bump, setFld, wr]
@[simp] theorem bump_farUnit : (s.bump f i n).farUnit = s.farUnit := by rw [bump, setFld, wr]
@[simp] theorem bump_farMiss : (s.bump f i n).farMiss = s.farMiss := by rw [bump, setFld, wr]
@[simp] theorem bump_farLack : (s.bump f i n).farLack = s.farLack := by rw [bump, setFld, wr]
@[simp] theorem bump_whistle : (s.bump f i n).whistle = s.whistle := by rw [bump, setFld, wr]
@[simp] theorem bump_buckets : (s.bump f i n).buckets = s.buckets := by rw [bump, setFld, wr]
@[simp] theorem bump_unwritten : (s.bump f i n).unwritten = s.unwritten := by rw [bump, setFld, wr]
@[simp] theorem bump_flushing : (s.bump f i n).flushing = s.flushing := by rw [bump, setFld, wr]
@[simp] theorem bump_jobs : (s.bump f i n).jobs = s.jobs := by rw [bump, setFld, wr]
@[simp] theorem bump_power : (s.bump f i n).power = s.power := by rw [bump, setFld, wr]
@[simp] theorem bump_stw : (s.bump f i n).stw = s.stw := by rw [bump, setFld, wr]
@[simp] theorem bump_recoveries : (s.bump f i n).recoveries = s.recoveries := by rw [bump, setFld, wr]
@[simp] theorem bump_referee : (s.bump f i n).referee = s.referee := by rw [bump, setFld, wr]
@[simp] theorem bump_outbox : (s.bump f i n).outbox = s.outbox := by rw [bump, setFld, wr]
@[simp] theorem bump_mgmt : (s.bump f i n).mgmt = s.mgmt := by rw [bump, setFld, wr]
@[simp] theorem bump_free : (s.bump f i n).free = s.free := by rw [bump, setFld, wr]
@[simp] theorem bump_pending : (s.bump f i n).pending = s.pending := by rw [bump, setFld, wr]
end

section
variable (fam i : Nat) (v : W64) (l : Bool)

@[simp] theorem wrPlain_staged : (s.wrPlain fam i v l).staged = s.staged := by rw [wrPlain, wr]
@[simp] theorem wrPlain_active : (s.wrPlain fam i v l).active = s.active := by rw [wrPlain, wr]
@[simp] theorem wrPlain_mem : (s.wrPlain fam i v l).mem = s.mem := by rw [wrPlain, wr]
@[simp] theorem wrPlain_ue : (s.wrPlain fam i v l).ue = s.ue := by rw [wrPlain, wr]
@[simp] theorem wrPlain_ce : (s.wrPlain fam i v l).ce = s.ce := by rw [wrPlain, wr]
@[simp] theorem wrPlain_altered : (s.wrPlain fam i v l).altered = s.altered := by rw [wrPlain, wr]
@[simp] theorem wrPlain_dirty : (s.wrPlain fam i v l).dirty = s.dirty := by rw [wrPlain, wr]
@[simp] theorem wrPlain_lost : (s.wrPlain fam i v l).lost = s.lost := by rw [wrPlain, wr]
@[simp] theorem wrPlain_repairs : (s.wrPlain fam i v l).repairs = s.repairs := by rw [wrPlain, wr]
@[simp] theorem wrPlain_ceLog : (s.wrPlain fam i v l).ceLog = s.ceLog := by rw [wrPlain, wr]
@[simp] theorem wrPlain_scLog : (s.wrPlain fam i v l).scLog = s.scLog := by rw [wrPlain, wr]
@[simp] theorem wrPlain_rowMaps : (s.wrPlain fam i v l).rowMaps = s.rowMaps := by rw [wrPlain, wr]
@[simp] theorem wrPlain_patrol : (s.wrPlain fam i v l).patrol = s.patrol := by rw [wrPlain, wr]
@[simp] theorem wrPlain_journalDue : (s.wrPlain fam i v l).journalDue = s.journalDue := by rw [wrPlain, wr]
@[simp] theorem wrPlain_tlb : (s.wrPlain fam i v l).tlb = s.tlb := by rw [wrPlain, wr]
@[simp] theorem wrPlain_walks : (s.wrPlain fam i v l).walks = s.walks := by rw [wrPlain, wr]
@[simp] theorem wrPlain_merge : (s.wrPlain fam i v l).merge = s.merge := by rw [wrPlain, wr]
@[simp] theorem wrPlain_ctxs : (s.wrPlain fam i v l).ctxs = s.ctxs := by rw [wrPlain, wr]
@[simp] theorem wrPlain_queues : (s.wrPlain fam i v l).queues = s.queues := by rw [wrPlain, wr]
@[simp] theorem wrPlain_subSeq : (s.wrPlain fam i v l).subSeq = s.subSeq := by rw [wrPlain, wr]
@[simp] theorem wrPlain_startSeq : (s.wrPlain fam i v l).startSeq = s.startSeq := by rw [wrPlain, wr]
@[simp] theorem wrPlain_slotLast : (s.wrPlain fam i v l).slotLast = s.slotLast := by rw [wrPlain, wr]
@[simp] theorem wrPlain_doorSlot : (s.wrPlain fam i v l).doorSlot = s.doorSlot := by rw [wrPlain, wr]
@[simp] theorem wrPlain_rrSlot : (s.wrPlain fam i v l).rrSlot = s.rrSlot := by rw [wrPlain, wr]
@[simp] theorem wrPlain_rrSince : (s.wrPlain fam i v l).rrSince = s.rrSince := by rw [wrPlain, wr]
@[simp] theorem wrPlain_courts : (s.wrPlain fam i v l).courts = s.courts := by rw [wrPlain, wr]
@[simp] theorem wrPlain_fields : (s.wrPlain fam i v l).fields = s.fields := by rw [wrPlain, wr]
@[simp] theorem wrPlain_quarters : (s.wrPlain fam i v l).quarters = s.quarters := by rw [wrPlain, wr]
@[simp] theorem wrPlain_cores : (s.wrPlain fam i v l).cores = s.cores := by rw [wrPlain, wr]
@[simp] theorem wrPlain_launches : (s.wrPlain fam i v l).launches = s.launches := by rw [wrPlain, wr]
@[simp] theorem wrPlain_blocks : (s.wrPlain fam i v l).blocks = s.blocks := by rw [wrPlain, wr]
@[simp] theorem wrPlain_groups : (s.wrPlain fam i v l).groups = s.groups := by rw [wrPlain, wr]
@[simp] theorem wrPlain_passes : (s.wrPlain fam i v l).passes = s.passes := by rw [wrPlain, wr]
@[simp] theorem wrPlain_pipes : (s.wrPlain fam i v l).pipes = s.pipes := by rw [wrPlain, wr]
@[simp] theorem wrPlain_dp : (s.wrPlain fam i v l).dp = s.dp := by rw [wrPlain, wr]
@[simp] theorem wrPlain_streamStates : (s.wrPlain fam i v l).streamStates = s.streamStates := by rw [wrPlain, wr]
@[simp] theorem wrPlain_rasterLeaving : (s.wrPlain fam i v l).rasterLeaving = s.rasterLeaving := by rw [wrPlain, wr]
@[simp] theorem wrPlain_heavyEnd : (s.wrPlain fam i v l).heavyEnd = s.heavyEnd := by rw [wrPlain, wr]
@[simp] theorem wrPlain_zeroing : (s.wrPlain fam i v l).zeroing = s.zeroing := by rw [wrPlain, wr]
@[simp] theorem wrPlain_inspects : (s.wrPlain fam i v l).inspects = s.inspects := by rw [wrPlain, wr]
@[simp] theorem wrPlain_inspected : (s.wrPlain fam i v l).inspected = s.inspected := by rw [wrPlain, wr]
@[simp] theorem wrPlain_eth : (s.wrPlain fam i v l).eth = s.eth := by rw [wrPlain, wr]
@[simp] theorem wrPlain_qps : (s.wrPlain fam i v l).qps = s.qps := by rw [wrPlain, wr]
@[simp] theorem wrPlain_keys : (s.wrPlain fam i v l).keys = s.keys := by rw [wrPlain, wr]
@[simp] theorem wrPlain_streams : (s.wrPlain fam i v l).streams = s.streams := by rw [wrPlain, wr]
@[simp] theorem wrPlain_time : (s.wrPlain fam i v l).time = s.time := by rw [wrPlain, wr]
@[simp] theorem wrPlain_iql : (s.wrPlain fam i v l).iql = s.iql := by rw [wrPlain, wr]
@[simp] theorem wrPlain_txns : (s.wrPlain fam i v l).txns = s.txns := by rw [wrPlain, wr]
@[simp] theorem wrPlain_txWait : (s.wrPlain fam i v l).txWait = s.txWait := by rw [wrPlain, wr]
@[simp] theorem wrPlain_far : (s.wrPlain fam i v l).far = s.far := by rw [wrPlain, wr]
@[simp] theorem wrPlain_farUnit : (s.wrPlain fam i v l).farUnit = s.farUnit := by rw [wrPlain, wr]
@[simp] theorem wrPlain_farMiss : (s.wrPlain fam i v l).farMiss = s.farMiss := by rw [wrPlain, wr]
@[simp] theorem wrPlain_farLack : (s.wrPlain fam i v l).farLack = s.farLack := by rw [wrPlain, wr]
@[simp] theorem wrPlain_whistle : (s.wrPlain fam i v l).whistle = s.whistle := by rw [wrPlain, wr]
@[simp] theorem wrPlain_buckets : (s.wrPlain fam i v l).buckets = s.buckets := by rw [wrPlain, wr]
@[simp] theorem wrPlain_unwritten : (s.wrPlain fam i v l).unwritten = s.unwritten := by rw [wrPlain, wr]
@[simp] theorem wrPlain_flushing : (s.wrPlain fam i v l).flushing = s.flushing := by rw [wrPlain, wr]
@[simp] theorem wrPlain_jobs : (s.wrPlain fam i v l).jobs = s.jobs := by rw [wrPlain, wr]
@[simp] theorem wrPlain_power : (s.wrPlain fam i v l).power = s.power := by rw [wrPlain, wr]
@[simp] theorem wrPlain_stw : (s.wrPlain fam i v l).stw = s.stw := by rw [wrPlain, wr]
@[simp] theorem wrPlain_recoveries : (s.wrPlain fam i v l).recoveries = s.recoveries := by rw [wrPlain, wr]
@[simp] theorem wrPlain_referee : (s.wrPlain fam i v l).referee = s.referee := by rw [wrPlain, wr]
@[simp] theorem wrPlain_outbox : (s.wrPlain fam i v l).outbox = s.outbox := by rw [wrPlain, wr]
@[simp] theorem wrPlain_mgmt : (s.wrPlain fam i v l).mgmt = s.mgmt := by rw [wrPlain, wr]
@[simp] theorem wrPlain_free : (s.wrPlain fam i v l).free = s.free := by rw [wrPlain, wr]
@[simp] theorem wrPlain_pending : (s.wrPlain fam i v l).pending = s.pending := by rw [wrPlain, wr]
end

section
variable (i : Nat) (x : Ctx)

@[simp] theorem setCtx_regs : (s.setCtx i x).regs = s.regs := by rw [setCtx]
@[simp] theorem setCtx_staged : (s.setCtx i x).staged = s.staged := by rw [setCtx]
@[simp] theorem setCtx_active : (s.setCtx i x).active = s.active := by rw [setCtx]
@[simp] theorem setCtx_mem : (s.setCtx i x).mem = s.mem := by rw [setCtx]
@[simp] theorem setCtx_ue : (s.setCtx i x).ue = s.ue := by rw [setCtx]
@[simp] theorem setCtx_ce : (s.setCtx i x).ce = s.ce := by rw [setCtx]
@[simp] theorem setCtx_altered : (s.setCtx i x).altered = s.altered := by rw [setCtx]
@[simp] theorem setCtx_dirty : (s.setCtx i x).dirty = s.dirty := by rw [setCtx]
@[simp] theorem setCtx_lost : (s.setCtx i x).lost = s.lost := by rw [setCtx]
@[simp] theorem setCtx_repairs : (s.setCtx i x).repairs = s.repairs := by rw [setCtx]
@[simp] theorem setCtx_ceLog : (s.setCtx i x).ceLog = s.ceLog := by rw [setCtx]
@[simp] theorem setCtx_scLog : (s.setCtx i x).scLog = s.scLog := by rw [setCtx]
@[simp] theorem setCtx_rowMaps : (s.setCtx i x).rowMaps = s.rowMaps := by rw [setCtx]
@[simp] theorem setCtx_patrol : (s.setCtx i x).patrol = s.patrol := by rw [setCtx]
@[simp] theorem setCtx_journalDue : (s.setCtx i x).journalDue = s.journalDue := by rw [setCtx]
@[simp] theorem setCtx_tlb : (s.setCtx i x).tlb = s.tlb := by rw [setCtx]
@[simp] theorem setCtx_walks : (s.setCtx i x).walks = s.walks := by rw [setCtx]
@[simp] theorem setCtx_merge : (s.setCtx i x).merge = s.merge := by rw [setCtx]
@[simp] theorem setCtx_queues : (s.setCtx i x).queues = s.queues := by rw [setCtx]
@[simp] theorem setCtx_subSeq : (s.setCtx i x).subSeq = s.subSeq := by rw [setCtx]
@[simp] theorem setCtx_startSeq : (s.setCtx i x).startSeq = s.startSeq := by rw [setCtx]
@[simp] theorem setCtx_slotLast : (s.setCtx i x).slotLast = s.slotLast := by rw [setCtx]
@[simp] theorem setCtx_doorSlot : (s.setCtx i x).doorSlot = s.doorSlot := by rw [setCtx]
@[simp] theorem setCtx_rrSlot : (s.setCtx i x).rrSlot = s.rrSlot := by rw [setCtx]
@[simp] theorem setCtx_rrSince : (s.setCtx i x).rrSince = s.rrSince := by rw [setCtx]
@[simp] theorem setCtx_courts : (s.setCtx i x).courts = s.courts := by rw [setCtx]
@[simp] theorem setCtx_fields : (s.setCtx i x).fields = s.fields := by rw [setCtx]
@[simp] theorem setCtx_quarters : (s.setCtx i x).quarters = s.quarters := by rw [setCtx]
@[simp] theorem setCtx_cores : (s.setCtx i x).cores = s.cores := by rw [setCtx]
@[simp] theorem setCtx_launches : (s.setCtx i x).launches = s.launches := by rw [setCtx]
@[simp] theorem setCtx_blocks : (s.setCtx i x).blocks = s.blocks := by rw [setCtx]
@[simp] theorem setCtx_groups : (s.setCtx i x).groups = s.groups := by rw [setCtx]
@[simp] theorem setCtx_passes : (s.setCtx i x).passes = s.passes := by rw [setCtx]
@[simp] theorem setCtx_pipes : (s.setCtx i x).pipes = s.pipes := by rw [setCtx]
@[simp] theorem setCtx_dp : (s.setCtx i x).dp = s.dp := by rw [setCtx]
@[simp] theorem setCtx_streamStates : (s.setCtx i x).streamStates = s.streamStates := by rw [setCtx]
@[simp] theorem setCtx_rasterLeaving : (s.setCtx i x).rasterLeaving = s.rasterLeaving := by rw [setCtx]
@[simp] theorem setCtx_heavyEnd : (s.setCtx i x).heavyEnd = s.heavyEnd := by rw [setCtx]
@[simp] theorem setCtx_zeroing : (s.setCtx i x).zeroing = s.zeroing := by rw [setCtx]
@[simp] theorem setCtx_inspects : (s.setCtx i x).inspects = s.inspects := by rw [setCtx]
@[simp] theorem setCtx_inspected : (s.setCtx i x).inspected = s.inspected := by rw [setCtx]
@[simp] theorem setCtx_eth : (s.setCtx i x).eth = s.eth := by rw [setCtx]
@[simp] theorem setCtx_qps : (s.setCtx i x).qps = s.qps := by rw [setCtx]
@[simp] theorem setCtx_keys : (s.setCtx i x).keys = s.keys := by rw [setCtx]
@[simp] theorem setCtx_streams : (s.setCtx i x).streams = s.streams := by rw [setCtx]
@[simp] theorem setCtx_time : (s.setCtx i x).time = s.time := by rw [setCtx]
@[simp] theorem setCtx_iql : (s.setCtx i x).iql = s.iql := by rw [setCtx]
@[simp] theorem setCtx_txns : (s.setCtx i x).txns = s.txns := by rw [setCtx]
@[simp] theorem setCtx_txWait : (s.setCtx i x).txWait = s.txWait := by rw [setCtx]
@[simp] theorem setCtx_far : (s.setCtx i x).far = s.far := by rw [setCtx]
@[simp] theorem setCtx_farUnit : (s.setCtx i x).farUnit = s.farUnit := by rw [setCtx]
@[simp] theorem setCtx_farMiss : (s.setCtx i x).farMiss = s.farMiss := by rw [setCtx]
@[simp] theorem setCtx_farLack : (s.setCtx i x).farLack = s.farLack := by rw [setCtx]
@[simp] theorem setCtx_whistle : (s.setCtx i x).whistle = s.whistle := by rw [setCtx]
@[simp] theorem setCtx_buckets : (s.setCtx i x).buckets = s.buckets := by rw [setCtx]
@[simp] theorem setCtx_unwritten : (s.setCtx i x).unwritten = s.unwritten := by rw [setCtx]
@[simp] theorem setCtx_flushing : (s.setCtx i x).flushing = s.flushing := by rw [setCtx]
@[simp] theorem setCtx_jobs : (s.setCtx i x).jobs = s.jobs := by rw [setCtx]
@[simp] theorem setCtx_power : (s.setCtx i x).power = s.power := by rw [setCtx]
@[simp] theorem setCtx_stw : (s.setCtx i x).stw = s.stw := by rw [setCtx]
@[simp] theorem setCtx_recoveries : (s.setCtx i x).recoveries = s.recoveries := by rw [setCtx]
@[simp] theorem setCtx_referee : (s.setCtx i x).referee = s.referee := by rw [setCtx]
@[simp] theorem setCtx_outbox : (s.setCtx i x).outbox = s.outbox := by rw [setCtx]
@[simp] theorem setCtx_mgmt : (s.setCtx i x).mgmt = s.mgmt := by rw [setCtx]
@[simp] theorem setCtx_free : (s.setCtx i x).free = s.free := by rw [setCtx]
@[simp] theorem setCtx_pending : (s.setCtx i x).pending = s.pending := by rw [setCtx]
end

section
variable (i : Nat) (x : Queue)

@[simp] theorem setQueue_regs : (s.setQueue i x).regs = s.regs := by rw [setQueue]
@[simp] theorem setQueue_staged : (s.setQueue i x).staged = s.staged := by rw [setQueue]
@[simp] theorem setQueue_active : (s.setQueue i x).active = s.active := by rw [setQueue]
@[simp] theorem setQueue_mem : (s.setQueue i x).mem = s.mem := by rw [setQueue]
@[simp] theorem setQueue_ue : (s.setQueue i x).ue = s.ue := by rw [setQueue]
@[simp] theorem setQueue_ce : (s.setQueue i x).ce = s.ce := by rw [setQueue]
@[simp] theorem setQueue_altered : (s.setQueue i x).altered = s.altered := by rw [setQueue]
@[simp] theorem setQueue_dirty : (s.setQueue i x).dirty = s.dirty := by rw [setQueue]
@[simp] theorem setQueue_lost : (s.setQueue i x).lost = s.lost := by rw [setQueue]
@[simp] theorem setQueue_repairs : (s.setQueue i x).repairs = s.repairs := by rw [setQueue]
@[simp] theorem setQueue_ceLog : (s.setQueue i x).ceLog = s.ceLog := by rw [setQueue]
@[simp] theorem setQueue_scLog : (s.setQueue i x).scLog = s.scLog := by rw [setQueue]
@[simp] theorem setQueue_rowMaps : (s.setQueue i x).rowMaps = s.rowMaps := by rw [setQueue]
@[simp] theorem setQueue_patrol : (s.setQueue i x).patrol = s.patrol := by rw [setQueue]
@[simp] theorem setQueue_journalDue : (s.setQueue i x).journalDue = s.journalDue := by rw [setQueue]
@[simp] theorem setQueue_tlb : (s.setQueue i x).tlb = s.tlb := by rw [setQueue]
@[simp] theorem setQueue_walks : (s.setQueue i x).walks = s.walks := by rw [setQueue]
@[simp] theorem setQueue_merge : (s.setQueue i x).merge = s.merge := by rw [setQueue]
@[simp] theorem setQueue_ctxs : (s.setQueue i x).ctxs = s.ctxs := by rw [setQueue]
@[simp] theorem setQueue_subSeq : (s.setQueue i x).subSeq = s.subSeq := by rw [setQueue]
@[simp] theorem setQueue_startSeq : (s.setQueue i x).startSeq = s.startSeq := by rw [setQueue]
@[simp] theorem setQueue_slotLast : (s.setQueue i x).slotLast = s.slotLast := by rw [setQueue]
@[simp] theorem setQueue_doorSlot : (s.setQueue i x).doorSlot = s.doorSlot := by rw [setQueue]
@[simp] theorem setQueue_rrSlot : (s.setQueue i x).rrSlot = s.rrSlot := by rw [setQueue]
@[simp] theorem setQueue_rrSince : (s.setQueue i x).rrSince = s.rrSince := by rw [setQueue]
@[simp] theorem setQueue_courts : (s.setQueue i x).courts = s.courts := by rw [setQueue]
@[simp] theorem setQueue_fields : (s.setQueue i x).fields = s.fields := by rw [setQueue]
@[simp] theorem setQueue_quarters : (s.setQueue i x).quarters = s.quarters := by rw [setQueue]
@[simp] theorem setQueue_cores : (s.setQueue i x).cores = s.cores := by rw [setQueue]
@[simp] theorem setQueue_launches : (s.setQueue i x).launches = s.launches := by rw [setQueue]
@[simp] theorem setQueue_blocks : (s.setQueue i x).blocks = s.blocks := by rw [setQueue]
@[simp] theorem setQueue_groups : (s.setQueue i x).groups = s.groups := by rw [setQueue]
@[simp] theorem setQueue_passes : (s.setQueue i x).passes = s.passes := by rw [setQueue]
@[simp] theorem setQueue_pipes : (s.setQueue i x).pipes = s.pipes := by rw [setQueue]
@[simp] theorem setQueue_dp : (s.setQueue i x).dp = s.dp := by rw [setQueue]
@[simp] theorem setQueue_streamStates : (s.setQueue i x).streamStates = s.streamStates := by rw [setQueue]
@[simp] theorem setQueue_rasterLeaving : (s.setQueue i x).rasterLeaving = s.rasterLeaving := by rw [setQueue]
@[simp] theorem setQueue_heavyEnd : (s.setQueue i x).heavyEnd = s.heavyEnd := by rw [setQueue]
@[simp] theorem setQueue_zeroing : (s.setQueue i x).zeroing = s.zeroing := by rw [setQueue]
@[simp] theorem setQueue_inspects : (s.setQueue i x).inspects = s.inspects := by rw [setQueue]
@[simp] theorem setQueue_inspected : (s.setQueue i x).inspected = s.inspected := by rw [setQueue]
@[simp] theorem setQueue_eth : (s.setQueue i x).eth = s.eth := by rw [setQueue]
@[simp] theorem setQueue_qps : (s.setQueue i x).qps = s.qps := by rw [setQueue]
@[simp] theorem setQueue_keys : (s.setQueue i x).keys = s.keys := by rw [setQueue]
@[simp] theorem setQueue_streams : (s.setQueue i x).streams = s.streams := by rw [setQueue]
@[simp] theorem setQueue_time : (s.setQueue i x).time = s.time := by rw [setQueue]
@[simp] theorem setQueue_iql : (s.setQueue i x).iql = s.iql := by rw [setQueue]
@[simp] theorem setQueue_txns : (s.setQueue i x).txns = s.txns := by rw [setQueue]
@[simp] theorem setQueue_txWait : (s.setQueue i x).txWait = s.txWait := by rw [setQueue]
@[simp] theorem setQueue_far : (s.setQueue i x).far = s.far := by rw [setQueue]
@[simp] theorem setQueue_farUnit : (s.setQueue i x).farUnit = s.farUnit := by rw [setQueue]
@[simp] theorem setQueue_farMiss : (s.setQueue i x).farMiss = s.farMiss := by rw [setQueue]
@[simp] theorem setQueue_farLack : (s.setQueue i x).farLack = s.farLack := by rw [setQueue]
@[simp] theorem setQueue_whistle : (s.setQueue i x).whistle = s.whistle := by rw [setQueue]
@[simp] theorem setQueue_buckets : (s.setQueue i x).buckets = s.buckets := by rw [setQueue]
@[simp] theorem setQueue_unwritten : (s.setQueue i x).unwritten = s.unwritten := by rw [setQueue]
@[simp] theorem setQueue_flushing : (s.setQueue i x).flushing = s.flushing := by rw [setQueue]
@[simp] theorem setQueue_jobs : (s.setQueue i x).jobs = s.jobs := by rw [setQueue]
@[simp] theorem setQueue_power : (s.setQueue i x).power = s.power := by rw [setQueue]
@[simp] theorem setQueue_stw : (s.setQueue i x).stw = s.stw := by rw [setQueue]
@[simp] theorem setQueue_recoveries : (s.setQueue i x).recoveries = s.recoveries := by rw [setQueue]
@[simp] theorem setQueue_referee : (s.setQueue i x).referee = s.referee := by rw [setQueue]
@[simp] theorem setQueue_outbox : (s.setQueue i x).outbox = s.outbox := by rw [setQueue]
@[simp] theorem setQueue_mgmt : (s.setQueue i x).mgmt = s.mgmt := by rw [setQueue]
@[simp] theorem setQueue_free : (s.setQueue i x).free = s.free := by rw [setQueue]
@[simp] theorem setQueue_pending : (s.setQueue i x).pending = s.pending := by rw [setQueue]
end

section
variable (i : Nat) (x : Court)

@[simp] theorem setCourt_regs : (s.setCourt i x).regs = s.regs := by rw [setCourt]
@[simp] theorem setCourt_staged : (s.setCourt i x).staged = s.staged := by rw [setCourt]
@[simp] theorem setCourt_active : (s.setCourt i x).active = s.active := by rw [setCourt]
@[simp] theorem setCourt_mem : (s.setCourt i x).mem = s.mem := by rw [setCourt]
@[simp] theorem setCourt_ue : (s.setCourt i x).ue = s.ue := by rw [setCourt]
@[simp] theorem setCourt_ce : (s.setCourt i x).ce = s.ce := by rw [setCourt]
@[simp] theorem setCourt_altered : (s.setCourt i x).altered = s.altered := by rw [setCourt]
@[simp] theorem setCourt_dirty : (s.setCourt i x).dirty = s.dirty := by rw [setCourt]
@[simp] theorem setCourt_lost : (s.setCourt i x).lost = s.lost := by rw [setCourt]
@[simp] theorem setCourt_repairs : (s.setCourt i x).repairs = s.repairs := by rw [setCourt]
@[simp] theorem setCourt_ceLog : (s.setCourt i x).ceLog = s.ceLog := by rw [setCourt]
@[simp] theorem setCourt_scLog : (s.setCourt i x).scLog = s.scLog := by rw [setCourt]
@[simp] theorem setCourt_rowMaps : (s.setCourt i x).rowMaps = s.rowMaps := by rw [setCourt]
@[simp] theorem setCourt_patrol : (s.setCourt i x).patrol = s.patrol := by rw [setCourt]
@[simp] theorem setCourt_journalDue : (s.setCourt i x).journalDue = s.journalDue := by rw [setCourt]
@[simp] theorem setCourt_tlb : (s.setCourt i x).tlb = s.tlb := by rw [setCourt]
@[simp] theorem setCourt_walks : (s.setCourt i x).walks = s.walks := by rw [setCourt]
@[simp] theorem setCourt_merge : (s.setCourt i x).merge = s.merge := by rw [setCourt]
@[simp] theorem setCourt_ctxs : (s.setCourt i x).ctxs = s.ctxs := by rw [setCourt]
@[simp] theorem setCourt_queues : (s.setCourt i x).queues = s.queues := by rw [setCourt]
@[simp] theorem setCourt_subSeq : (s.setCourt i x).subSeq = s.subSeq := by rw [setCourt]
@[simp] theorem setCourt_startSeq : (s.setCourt i x).startSeq = s.startSeq := by rw [setCourt]
@[simp] theorem setCourt_slotLast : (s.setCourt i x).slotLast = s.slotLast := by rw [setCourt]
@[simp] theorem setCourt_doorSlot : (s.setCourt i x).doorSlot = s.doorSlot := by rw [setCourt]
@[simp] theorem setCourt_rrSlot : (s.setCourt i x).rrSlot = s.rrSlot := by rw [setCourt]
@[simp] theorem setCourt_rrSince : (s.setCourt i x).rrSince = s.rrSince := by rw [setCourt]
@[simp] theorem setCourt_fields : (s.setCourt i x).fields = s.fields := by rw [setCourt]
@[simp] theorem setCourt_quarters : (s.setCourt i x).quarters = s.quarters := by rw [setCourt]
@[simp] theorem setCourt_cores : (s.setCourt i x).cores = s.cores := by rw [setCourt]
@[simp] theorem setCourt_launches : (s.setCourt i x).launches = s.launches := by rw [setCourt]
@[simp] theorem setCourt_blocks : (s.setCourt i x).blocks = s.blocks := by rw [setCourt]
@[simp] theorem setCourt_groups : (s.setCourt i x).groups = s.groups := by rw [setCourt]
@[simp] theorem setCourt_passes : (s.setCourt i x).passes = s.passes := by rw [setCourt]
@[simp] theorem setCourt_pipes : (s.setCourt i x).pipes = s.pipes := by rw [setCourt]
@[simp] theorem setCourt_dp : (s.setCourt i x).dp = s.dp := by rw [setCourt]
@[simp] theorem setCourt_streamStates : (s.setCourt i x).streamStates = s.streamStates := by rw [setCourt]
@[simp] theorem setCourt_rasterLeaving : (s.setCourt i x).rasterLeaving = s.rasterLeaving := by rw [setCourt]
@[simp] theorem setCourt_heavyEnd : (s.setCourt i x).heavyEnd = s.heavyEnd := by rw [setCourt]
@[simp] theorem setCourt_zeroing : (s.setCourt i x).zeroing = s.zeroing := by rw [setCourt]
@[simp] theorem setCourt_inspects : (s.setCourt i x).inspects = s.inspects := by rw [setCourt]
@[simp] theorem setCourt_inspected : (s.setCourt i x).inspected = s.inspected := by rw [setCourt]
@[simp] theorem setCourt_eth : (s.setCourt i x).eth = s.eth := by rw [setCourt]
@[simp] theorem setCourt_qps : (s.setCourt i x).qps = s.qps := by rw [setCourt]
@[simp] theorem setCourt_keys : (s.setCourt i x).keys = s.keys := by rw [setCourt]
@[simp] theorem setCourt_streams : (s.setCourt i x).streams = s.streams := by rw [setCourt]
@[simp] theorem setCourt_time : (s.setCourt i x).time = s.time := by rw [setCourt]
@[simp] theorem setCourt_iql : (s.setCourt i x).iql = s.iql := by rw [setCourt]
@[simp] theorem setCourt_txns : (s.setCourt i x).txns = s.txns := by rw [setCourt]
@[simp] theorem setCourt_txWait : (s.setCourt i x).txWait = s.txWait := by rw [setCourt]
@[simp] theorem setCourt_far : (s.setCourt i x).far = s.far := by rw [setCourt]
@[simp] theorem setCourt_farUnit : (s.setCourt i x).farUnit = s.farUnit := by rw [setCourt]
@[simp] theorem setCourt_farMiss : (s.setCourt i x).farMiss = s.farMiss := by rw [setCourt]
@[simp] theorem setCourt_farLack : (s.setCourt i x).farLack = s.farLack := by rw [setCourt]
@[simp] theorem setCourt_whistle : (s.setCourt i x).whistle = s.whistle := by rw [setCourt]
@[simp] theorem setCourt_buckets : (s.setCourt i x).buckets = s.buckets := by rw [setCourt]
@[simp] theorem setCourt_unwritten : (s.setCourt i x).unwritten = s.unwritten := by rw [setCourt]
@[simp] theorem setCourt_flushing : (s.setCourt i x).flushing = s.flushing := by rw [setCourt]
@[simp] theorem setCourt_jobs : (s.setCourt i x).jobs = s.jobs := by rw [setCourt]
@[simp] theorem setCourt_power : (s.setCourt i x).power = s.power := by rw [setCourt]
@[simp] theorem setCourt_stw : (s.setCourt i x).stw = s.stw := by rw [setCourt]
@[simp] theorem setCourt_recoveries : (s.setCourt i x).recoveries = s.recoveries := by rw [setCourt]
@[simp] theorem setCourt_referee : (s.setCourt i x).referee = s.referee := by rw [setCourt]
@[simp] theorem setCourt_outbox : (s.setCourt i x).outbox = s.outbox := by rw [setCourt]
@[simp] theorem setCourt_mgmt : (s.setCourt i x).mgmt = s.mgmt := by rw [setCourt]
@[simp] theorem setCourt_free : (s.setCourt i x).free = s.free := by rw [setCourt]
@[simp] theorem setCourt_pending : (s.setCourt i x).pending = s.pending := by rw [setCourt]
end

section
variable (i : Nat) (x : FieldPart)

@[simp] theorem setField_regs : (s.setField i x).regs = s.regs := by rw [setField]
@[simp] theorem setField_staged : (s.setField i x).staged = s.staged := by rw [setField]
@[simp] theorem setField_active : (s.setField i x).active = s.active := by rw [setField]
@[simp] theorem setField_mem : (s.setField i x).mem = s.mem := by rw [setField]
@[simp] theorem setField_ue : (s.setField i x).ue = s.ue := by rw [setField]
@[simp] theorem setField_ce : (s.setField i x).ce = s.ce := by rw [setField]
@[simp] theorem setField_altered : (s.setField i x).altered = s.altered := by rw [setField]
@[simp] theorem setField_dirty : (s.setField i x).dirty = s.dirty := by rw [setField]
@[simp] theorem setField_lost : (s.setField i x).lost = s.lost := by rw [setField]
@[simp] theorem setField_repairs : (s.setField i x).repairs = s.repairs := by rw [setField]
@[simp] theorem setField_ceLog : (s.setField i x).ceLog = s.ceLog := by rw [setField]
@[simp] theorem setField_scLog : (s.setField i x).scLog = s.scLog := by rw [setField]
@[simp] theorem setField_rowMaps : (s.setField i x).rowMaps = s.rowMaps := by rw [setField]
@[simp] theorem setField_patrol : (s.setField i x).patrol = s.patrol := by rw [setField]
@[simp] theorem setField_journalDue : (s.setField i x).journalDue = s.journalDue := by rw [setField]
@[simp] theorem setField_tlb : (s.setField i x).tlb = s.tlb := by rw [setField]
@[simp] theorem setField_walks : (s.setField i x).walks = s.walks := by rw [setField]
@[simp] theorem setField_merge : (s.setField i x).merge = s.merge := by rw [setField]
@[simp] theorem setField_ctxs : (s.setField i x).ctxs = s.ctxs := by rw [setField]
@[simp] theorem setField_queues : (s.setField i x).queues = s.queues := by rw [setField]
@[simp] theorem setField_subSeq : (s.setField i x).subSeq = s.subSeq := by rw [setField]
@[simp] theorem setField_startSeq : (s.setField i x).startSeq = s.startSeq := by rw [setField]
@[simp] theorem setField_slotLast : (s.setField i x).slotLast = s.slotLast := by rw [setField]
@[simp] theorem setField_doorSlot : (s.setField i x).doorSlot = s.doorSlot := by rw [setField]
@[simp] theorem setField_rrSlot : (s.setField i x).rrSlot = s.rrSlot := by rw [setField]
@[simp] theorem setField_rrSince : (s.setField i x).rrSince = s.rrSince := by rw [setField]
@[simp] theorem setField_courts : (s.setField i x).courts = s.courts := by rw [setField]
@[simp] theorem setField_quarters : (s.setField i x).quarters = s.quarters := by rw [setField]
@[simp] theorem setField_cores : (s.setField i x).cores = s.cores := by rw [setField]
@[simp] theorem setField_launches : (s.setField i x).launches = s.launches := by rw [setField]
@[simp] theorem setField_blocks : (s.setField i x).blocks = s.blocks := by rw [setField]
@[simp] theorem setField_groups : (s.setField i x).groups = s.groups := by rw [setField]
@[simp] theorem setField_passes : (s.setField i x).passes = s.passes := by rw [setField]
@[simp] theorem setField_pipes : (s.setField i x).pipes = s.pipes := by rw [setField]
@[simp] theorem setField_dp : (s.setField i x).dp = s.dp := by rw [setField]
@[simp] theorem setField_streamStates : (s.setField i x).streamStates = s.streamStates := by rw [setField]
@[simp] theorem setField_rasterLeaving : (s.setField i x).rasterLeaving = s.rasterLeaving := by rw [setField]
@[simp] theorem setField_heavyEnd : (s.setField i x).heavyEnd = s.heavyEnd := by rw [setField]
@[simp] theorem setField_zeroing : (s.setField i x).zeroing = s.zeroing := by rw [setField]
@[simp] theorem setField_inspects : (s.setField i x).inspects = s.inspects := by rw [setField]
@[simp] theorem setField_inspected : (s.setField i x).inspected = s.inspected := by rw [setField]
@[simp] theorem setField_eth : (s.setField i x).eth = s.eth := by rw [setField]
@[simp] theorem setField_qps : (s.setField i x).qps = s.qps := by rw [setField]
@[simp] theorem setField_keys : (s.setField i x).keys = s.keys := by rw [setField]
@[simp] theorem setField_streams : (s.setField i x).streams = s.streams := by rw [setField]
@[simp] theorem setField_time : (s.setField i x).time = s.time := by rw [setField]
@[simp] theorem setField_iql : (s.setField i x).iql = s.iql := by rw [setField]
@[simp] theorem setField_txns : (s.setField i x).txns = s.txns := by rw [setField]
@[simp] theorem setField_txWait : (s.setField i x).txWait = s.txWait := by rw [setField]
@[simp] theorem setField_far : (s.setField i x).far = s.far := by rw [setField]
@[simp] theorem setField_farUnit : (s.setField i x).farUnit = s.farUnit := by rw [setField]
@[simp] theorem setField_farMiss : (s.setField i x).farMiss = s.farMiss := by rw [setField]
@[simp] theorem setField_farLack : (s.setField i x).farLack = s.farLack := by rw [setField]
@[simp] theorem setField_whistle : (s.setField i x).whistle = s.whistle := by rw [setField]
@[simp] theorem setField_buckets : (s.setField i x).buckets = s.buckets := by rw [setField]
@[simp] theorem setField_unwritten : (s.setField i x).unwritten = s.unwritten := by rw [setField]
@[simp] theorem setField_flushing : (s.setField i x).flushing = s.flushing := by rw [setField]
@[simp] theorem setField_jobs : (s.setField i x).jobs = s.jobs := by rw [setField]
@[simp] theorem setField_power : (s.setField i x).power = s.power := by rw [setField]
@[simp] theorem setField_stw : (s.setField i x).stw = s.stw := by rw [setField]
@[simp] theorem setField_recoveries : (s.setField i x).recoveries = s.recoveries := by rw [setField]
@[simp] theorem setField_referee : (s.setField i x).referee = s.referee := by rw [setField]
@[simp] theorem setField_outbox : (s.setField i x).outbox = s.outbox := by rw [setField]
@[simp] theorem setField_mgmt : (s.setField i x).mgmt = s.mgmt := by rw [setField]
@[simp] theorem setField_free : (s.setField i x).free = s.free := by rw [setField]
@[simp] theorem setField_pending : (s.setField i x).pending = s.pending := by rw [setField]
end

section
variable (i : Nat) (x : Quarter)

@[simp] theorem setQuarter_regs : (s.setQuarter i x).regs = s.regs := by rw [setQuarter]
@[simp] theorem setQuarter_staged : (s.setQuarter i x).staged = s.staged := by rw [setQuarter]
@[simp] theorem setQuarter_active : (s.setQuarter i x).active = s.active := by rw [setQuarter]
@[simp] theorem setQuarter_mem : (s.setQuarter i x).mem = s.mem := by rw [setQuarter]
@[simp] theorem setQuarter_ue : (s.setQuarter i x).ue = s.ue := by rw [setQuarter]
@[simp] theorem setQuarter_ce : (s.setQuarter i x).ce = s.ce := by rw [setQuarter]
@[simp] theorem setQuarter_altered : (s.setQuarter i x).altered = s.altered := by rw [setQuarter]
@[simp] theorem setQuarter_dirty : (s.setQuarter i x).dirty = s.dirty := by rw [setQuarter]
@[simp] theorem setQuarter_lost : (s.setQuarter i x).lost = s.lost := by rw [setQuarter]
@[simp] theorem setQuarter_repairs : (s.setQuarter i x).repairs = s.repairs := by rw [setQuarter]
@[simp] theorem setQuarter_ceLog : (s.setQuarter i x).ceLog = s.ceLog := by rw [setQuarter]
@[simp] theorem setQuarter_scLog : (s.setQuarter i x).scLog = s.scLog := by rw [setQuarter]
@[simp] theorem setQuarter_rowMaps : (s.setQuarter i x).rowMaps = s.rowMaps := by rw [setQuarter]
@[simp] theorem setQuarter_patrol : (s.setQuarter i x).patrol = s.patrol := by rw [setQuarter]
@[simp] theorem setQuarter_journalDue : (s.setQuarter i x).journalDue = s.journalDue := by rw [setQuarter]
@[simp] theorem setQuarter_tlb : (s.setQuarter i x).tlb = s.tlb := by rw [setQuarter]
@[simp] theorem setQuarter_walks : (s.setQuarter i x).walks = s.walks := by rw [setQuarter]
@[simp] theorem setQuarter_merge : (s.setQuarter i x).merge = s.merge := by rw [setQuarter]
@[simp] theorem setQuarter_ctxs : (s.setQuarter i x).ctxs = s.ctxs := by rw [setQuarter]
@[simp] theorem setQuarter_queues : (s.setQuarter i x).queues = s.queues := by rw [setQuarter]
@[simp] theorem setQuarter_subSeq : (s.setQuarter i x).subSeq = s.subSeq := by rw [setQuarter]
@[simp] theorem setQuarter_startSeq : (s.setQuarter i x).startSeq = s.startSeq := by rw [setQuarter]
@[simp] theorem setQuarter_slotLast : (s.setQuarter i x).slotLast = s.slotLast := by rw [setQuarter]
@[simp] theorem setQuarter_doorSlot : (s.setQuarter i x).doorSlot = s.doorSlot := by rw [setQuarter]
@[simp] theorem setQuarter_rrSlot : (s.setQuarter i x).rrSlot = s.rrSlot := by rw [setQuarter]
@[simp] theorem setQuarter_rrSince : (s.setQuarter i x).rrSince = s.rrSince := by rw [setQuarter]
@[simp] theorem setQuarter_courts : (s.setQuarter i x).courts = s.courts := by rw [setQuarter]
@[simp] theorem setQuarter_fields : (s.setQuarter i x).fields = s.fields := by rw [setQuarter]
@[simp] theorem setQuarter_cores : (s.setQuarter i x).cores = s.cores := by rw [setQuarter]
@[simp] theorem setQuarter_launches : (s.setQuarter i x).launches = s.launches := by rw [setQuarter]
@[simp] theorem setQuarter_blocks : (s.setQuarter i x).blocks = s.blocks := by rw [setQuarter]
@[simp] theorem setQuarter_groups : (s.setQuarter i x).groups = s.groups := by rw [setQuarter]
@[simp] theorem setQuarter_passes : (s.setQuarter i x).passes = s.passes := by rw [setQuarter]
@[simp] theorem setQuarter_pipes : (s.setQuarter i x).pipes = s.pipes := by rw [setQuarter]
@[simp] theorem setQuarter_dp : (s.setQuarter i x).dp = s.dp := by rw [setQuarter]
@[simp] theorem setQuarter_streamStates : (s.setQuarter i x).streamStates = s.streamStates := by rw [setQuarter]
@[simp] theorem setQuarter_rasterLeaving : (s.setQuarter i x).rasterLeaving = s.rasterLeaving := by rw [setQuarter]
@[simp] theorem setQuarter_heavyEnd : (s.setQuarter i x).heavyEnd = s.heavyEnd := by rw [setQuarter]
@[simp] theorem setQuarter_zeroing : (s.setQuarter i x).zeroing = s.zeroing := by rw [setQuarter]
@[simp] theorem setQuarter_inspects : (s.setQuarter i x).inspects = s.inspects := by rw [setQuarter]
@[simp] theorem setQuarter_inspected : (s.setQuarter i x).inspected = s.inspected := by rw [setQuarter]
@[simp] theorem setQuarter_eth : (s.setQuarter i x).eth = s.eth := by rw [setQuarter]
@[simp] theorem setQuarter_qps : (s.setQuarter i x).qps = s.qps := by rw [setQuarter]
@[simp] theorem setQuarter_keys : (s.setQuarter i x).keys = s.keys := by rw [setQuarter]
@[simp] theorem setQuarter_streams : (s.setQuarter i x).streams = s.streams := by rw [setQuarter]
@[simp] theorem setQuarter_time : (s.setQuarter i x).time = s.time := by rw [setQuarter]
@[simp] theorem setQuarter_iql : (s.setQuarter i x).iql = s.iql := by rw [setQuarter]
@[simp] theorem setQuarter_txns : (s.setQuarter i x).txns = s.txns := by rw [setQuarter]
@[simp] theorem setQuarter_txWait : (s.setQuarter i x).txWait = s.txWait := by rw [setQuarter]
@[simp] theorem setQuarter_far : (s.setQuarter i x).far = s.far := by rw [setQuarter]
@[simp] theorem setQuarter_farUnit : (s.setQuarter i x).farUnit = s.farUnit := by rw [setQuarter]
@[simp] theorem setQuarter_farMiss : (s.setQuarter i x).farMiss = s.farMiss := by rw [setQuarter]
@[simp] theorem setQuarter_farLack : (s.setQuarter i x).farLack = s.farLack := by rw [setQuarter]
@[simp] theorem setQuarter_whistle : (s.setQuarter i x).whistle = s.whistle := by rw [setQuarter]
@[simp] theorem setQuarter_buckets : (s.setQuarter i x).buckets = s.buckets := by rw [setQuarter]
@[simp] theorem setQuarter_unwritten : (s.setQuarter i x).unwritten = s.unwritten := by rw [setQuarter]
@[simp] theorem setQuarter_flushing : (s.setQuarter i x).flushing = s.flushing := by rw [setQuarter]
@[simp] theorem setQuarter_jobs : (s.setQuarter i x).jobs = s.jobs := by rw [setQuarter]
@[simp] theorem setQuarter_power : (s.setQuarter i x).power = s.power := by rw [setQuarter]
@[simp] theorem setQuarter_stw : (s.setQuarter i x).stw = s.stw := by rw [setQuarter]
@[simp] theorem setQuarter_recoveries : (s.setQuarter i x).recoveries = s.recoveries := by rw [setQuarter]
@[simp] theorem setQuarter_referee : (s.setQuarter i x).referee = s.referee := by rw [setQuarter]
@[simp] theorem setQuarter_outbox : (s.setQuarter i x).outbox = s.outbox := by rw [setQuarter]
@[simp] theorem setQuarter_mgmt : (s.setQuarter i x).mgmt = s.mgmt := by rw [setQuarter]
@[simp] theorem setQuarter_free : (s.setQuarter i x).free = s.free := by rw [setQuarter]
@[simp] theorem setQuarter_pending : (s.setQuarter i x).pending = s.pending := by rw [setQuarter]
end

section
variable (i : Nat) (x : Core)

@[simp] theorem setCore_regs : (s.setCore i x).regs = s.regs := by rw [setCore]
@[simp] theorem setCore_staged : (s.setCore i x).staged = s.staged := by rw [setCore]
@[simp] theorem setCore_active : (s.setCore i x).active = s.active := by rw [setCore]
@[simp] theorem setCore_mem : (s.setCore i x).mem = s.mem := by rw [setCore]
@[simp] theorem setCore_ue : (s.setCore i x).ue = s.ue := by rw [setCore]
@[simp] theorem setCore_ce : (s.setCore i x).ce = s.ce := by rw [setCore]
@[simp] theorem setCore_altered : (s.setCore i x).altered = s.altered := by rw [setCore]
@[simp] theorem setCore_dirty : (s.setCore i x).dirty = s.dirty := by rw [setCore]
@[simp] theorem setCore_lost : (s.setCore i x).lost = s.lost := by rw [setCore]
@[simp] theorem setCore_repairs : (s.setCore i x).repairs = s.repairs := by rw [setCore]
@[simp] theorem setCore_ceLog : (s.setCore i x).ceLog = s.ceLog := by rw [setCore]
@[simp] theorem setCore_scLog : (s.setCore i x).scLog = s.scLog := by rw [setCore]
@[simp] theorem setCore_rowMaps : (s.setCore i x).rowMaps = s.rowMaps := by rw [setCore]
@[simp] theorem setCore_patrol : (s.setCore i x).patrol = s.patrol := by rw [setCore]
@[simp] theorem setCore_journalDue : (s.setCore i x).journalDue = s.journalDue := by rw [setCore]
@[simp] theorem setCore_tlb : (s.setCore i x).tlb = s.tlb := by rw [setCore]
@[simp] theorem setCore_walks : (s.setCore i x).walks = s.walks := by rw [setCore]
@[simp] theorem setCore_merge : (s.setCore i x).merge = s.merge := by rw [setCore]
@[simp] theorem setCore_ctxs : (s.setCore i x).ctxs = s.ctxs := by rw [setCore]
@[simp] theorem setCore_queues : (s.setCore i x).queues = s.queues := by rw [setCore]
@[simp] theorem setCore_subSeq : (s.setCore i x).subSeq = s.subSeq := by rw [setCore]
@[simp] theorem setCore_startSeq : (s.setCore i x).startSeq = s.startSeq := by rw [setCore]
@[simp] theorem setCore_slotLast : (s.setCore i x).slotLast = s.slotLast := by rw [setCore]
@[simp] theorem setCore_doorSlot : (s.setCore i x).doorSlot = s.doorSlot := by rw [setCore]
@[simp] theorem setCore_rrSlot : (s.setCore i x).rrSlot = s.rrSlot := by rw [setCore]
@[simp] theorem setCore_rrSince : (s.setCore i x).rrSince = s.rrSince := by rw [setCore]
@[simp] theorem setCore_courts : (s.setCore i x).courts = s.courts := by rw [setCore]
@[simp] theorem setCore_fields : (s.setCore i x).fields = s.fields := by rw [setCore]
@[simp] theorem setCore_quarters : (s.setCore i x).quarters = s.quarters := by rw [setCore]
@[simp] theorem setCore_launches : (s.setCore i x).launches = s.launches := by rw [setCore]
@[simp] theorem setCore_blocks : (s.setCore i x).blocks = s.blocks := by rw [setCore]
@[simp] theorem setCore_groups : (s.setCore i x).groups = s.groups := by rw [setCore]
@[simp] theorem setCore_passes : (s.setCore i x).passes = s.passes := by rw [setCore]
@[simp] theorem setCore_pipes : (s.setCore i x).pipes = s.pipes := by rw [setCore]
@[simp] theorem setCore_dp : (s.setCore i x).dp = s.dp := by rw [setCore]
@[simp] theorem setCore_streamStates : (s.setCore i x).streamStates = s.streamStates := by rw [setCore]
@[simp] theorem setCore_rasterLeaving : (s.setCore i x).rasterLeaving = s.rasterLeaving := by rw [setCore]
@[simp] theorem setCore_heavyEnd : (s.setCore i x).heavyEnd = s.heavyEnd := by rw [setCore]
@[simp] theorem setCore_zeroing : (s.setCore i x).zeroing = s.zeroing := by rw [setCore]
@[simp] theorem setCore_inspects : (s.setCore i x).inspects = s.inspects := by rw [setCore]
@[simp] theorem setCore_inspected : (s.setCore i x).inspected = s.inspected := by rw [setCore]
@[simp] theorem setCore_eth : (s.setCore i x).eth = s.eth := by rw [setCore]
@[simp] theorem setCore_qps : (s.setCore i x).qps = s.qps := by rw [setCore]
@[simp] theorem setCore_keys : (s.setCore i x).keys = s.keys := by rw [setCore]
@[simp] theorem setCore_streams : (s.setCore i x).streams = s.streams := by rw [setCore]
@[simp] theorem setCore_time : (s.setCore i x).time = s.time := by rw [setCore]
@[simp] theorem setCore_iql : (s.setCore i x).iql = s.iql := by rw [setCore]
@[simp] theorem setCore_txns : (s.setCore i x).txns = s.txns := by rw [setCore]
@[simp] theorem setCore_txWait : (s.setCore i x).txWait = s.txWait := by rw [setCore]
@[simp] theorem setCore_far : (s.setCore i x).far = s.far := by rw [setCore]
@[simp] theorem setCore_farUnit : (s.setCore i x).farUnit = s.farUnit := by rw [setCore]
@[simp] theorem setCore_farMiss : (s.setCore i x).farMiss = s.farMiss := by rw [setCore]
@[simp] theorem setCore_farLack : (s.setCore i x).farLack = s.farLack := by rw [setCore]
@[simp] theorem setCore_whistle : (s.setCore i x).whistle = s.whistle := by rw [setCore]
@[simp] theorem setCore_buckets : (s.setCore i x).buckets = s.buckets := by rw [setCore]
@[simp] theorem setCore_unwritten : (s.setCore i x).unwritten = s.unwritten := by rw [setCore]
@[simp] theorem setCore_flushing : (s.setCore i x).flushing = s.flushing := by rw [setCore]
@[simp] theorem setCore_jobs : (s.setCore i x).jobs = s.jobs := by rw [setCore]
@[simp] theorem setCore_power : (s.setCore i x).power = s.power := by rw [setCore]
@[simp] theorem setCore_stw : (s.setCore i x).stw = s.stw := by rw [setCore]
@[simp] theorem setCore_recoveries : (s.setCore i x).recoveries = s.recoveries := by rw [setCore]
@[simp] theorem setCore_referee : (s.setCore i x).referee = s.referee := by rw [setCore]
@[simp] theorem setCore_outbox : (s.setCore i x).outbox = s.outbox := by rw [setCore]
@[simp] theorem setCore_mgmt : (s.setCore i x).mgmt = s.mgmt := by rw [setCore]
@[simp] theorem setCore_free : (s.setCore i x).free = s.free := by rw [setCore]
@[simp] theorem setCore_pending : (s.setCore i x).pending = s.pending := by rw [setCore]
end

section
variable (i : Nat) (x : Option Launch)

@[simp] theorem setLaunch_regs : (s.setLaunch i x).regs = s.regs := by rw [setLaunch]
@[simp] theorem setLaunch_staged : (s.setLaunch i x).staged = s.staged := by rw [setLaunch]
@[simp] theorem setLaunch_active : (s.setLaunch i x).active = s.active := by rw [setLaunch]
@[simp] theorem setLaunch_mem : (s.setLaunch i x).mem = s.mem := by rw [setLaunch]
@[simp] theorem setLaunch_ue : (s.setLaunch i x).ue = s.ue := by rw [setLaunch]
@[simp] theorem setLaunch_ce : (s.setLaunch i x).ce = s.ce := by rw [setLaunch]
@[simp] theorem setLaunch_altered : (s.setLaunch i x).altered = s.altered := by rw [setLaunch]
@[simp] theorem setLaunch_dirty : (s.setLaunch i x).dirty = s.dirty := by rw [setLaunch]
@[simp] theorem setLaunch_lost : (s.setLaunch i x).lost = s.lost := by rw [setLaunch]
@[simp] theorem setLaunch_repairs : (s.setLaunch i x).repairs = s.repairs := by rw [setLaunch]
@[simp] theorem setLaunch_ceLog : (s.setLaunch i x).ceLog = s.ceLog := by rw [setLaunch]
@[simp] theorem setLaunch_scLog : (s.setLaunch i x).scLog = s.scLog := by rw [setLaunch]
@[simp] theorem setLaunch_rowMaps : (s.setLaunch i x).rowMaps = s.rowMaps := by rw [setLaunch]
@[simp] theorem setLaunch_patrol : (s.setLaunch i x).patrol = s.patrol := by rw [setLaunch]
@[simp] theorem setLaunch_journalDue : (s.setLaunch i x).journalDue = s.journalDue := by rw [setLaunch]
@[simp] theorem setLaunch_tlb : (s.setLaunch i x).tlb = s.tlb := by rw [setLaunch]
@[simp] theorem setLaunch_walks : (s.setLaunch i x).walks = s.walks := by rw [setLaunch]
@[simp] theorem setLaunch_merge : (s.setLaunch i x).merge = s.merge := by rw [setLaunch]
@[simp] theorem setLaunch_ctxs : (s.setLaunch i x).ctxs = s.ctxs := by rw [setLaunch]
@[simp] theorem setLaunch_queues : (s.setLaunch i x).queues = s.queues := by rw [setLaunch]
@[simp] theorem setLaunch_subSeq : (s.setLaunch i x).subSeq = s.subSeq := by rw [setLaunch]
@[simp] theorem setLaunch_startSeq : (s.setLaunch i x).startSeq = s.startSeq := by rw [setLaunch]
@[simp] theorem setLaunch_slotLast : (s.setLaunch i x).slotLast = s.slotLast := by rw [setLaunch]
@[simp] theorem setLaunch_doorSlot : (s.setLaunch i x).doorSlot = s.doorSlot := by rw [setLaunch]
@[simp] theorem setLaunch_rrSlot : (s.setLaunch i x).rrSlot = s.rrSlot := by rw [setLaunch]
@[simp] theorem setLaunch_rrSince : (s.setLaunch i x).rrSince = s.rrSince := by rw [setLaunch]
@[simp] theorem setLaunch_courts : (s.setLaunch i x).courts = s.courts := by rw [setLaunch]
@[simp] theorem setLaunch_fields : (s.setLaunch i x).fields = s.fields := by rw [setLaunch]
@[simp] theorem setLaunch_quarters : (s.setLaunch i x).quarters = s.quarters := by rw [setLaunch]
@[simp] theorem setLaunch_cores : (s.setLaunch i x).cores = s.cores := by rw [setLaunch]
@[simp] theorem setLaunch_blocks : (s.setLaunch i x).blocks = s.blocks := by rw [setLaunch]
@[simp] theorem setLaunch_groups : (s.setLaunch i x).groups = s.groups := by rw [setLaunch]
@[simp] theorem setLaunch_passes : (s.setLaunch i x).passes = s.passes := by rw [setLaunch]
@[simp] theorem setLaunch_pipes : (s.setLaunch i x).pipes = s.pipes := by rw [setLaunch]
@[simp] theorem setLaunch_dp : (s.setLaunch i x).dp = s.dp := by rw [setLaunch]
@[simp] theorem setLaunch_streamStates : (s.setLaunch i x).streamStates = s.streamStates := by rw [setLaunch]
@[simp] theorem setLaunch_rasterLeaving : (s.setLaunch i x).rasterLeaving = s.rasterLeaving := by rw [setLaunch]
@[simp] theorem setLaunch_heavyEnd : (s.setLaunch i x).heavyEnd = s.heavyEnd := by rw [setLaunch]
@[simp] theorem setLaunch_zeroing : (s.setLaunch i x).zeroing = s.zeroing := by rw [setLaunch]
@[simp] theorem setLaunch_inspects : (s.setLaunch i x).inspects = s.inspects := by rw [setLaunch]
@[simp] theorem setLaunch_inspected : (s.setLaunch i x).inspected = s.inspected := by rw [setLaunch]
@[simp] theorem setLaunch_eth : (s.setLaunch i x).eth = s.eth := by rw [setLaunch]
@[simp] theorem setLaunch_qps : (s.setLaunch i x).qps = s.qps := by rw [setLaunch]
@[simp] theorem setLaunch_keys : (s.setLaunch i x).keys = s.keys := by rw [setLaunch]
@[simp] theorem setLaunch_streams : (s.setLaunch i x).streams = s.streams := by rw [setLaunch]
@[simp] theorem setLaunch_time : (s.setLaunch i x).time = s.time := by rw [setLaunch]
@[simp] theorem setLaunch_iql : (s.setLaunch i x).iql = s.iql := by rw [setLaunch]
@[simp] theorem setLaunch_txns : (s.setLaunch i x).txns = s.txns := by rw [setLaunch]
@[simp] theorem setLaunch_txWait : (s.setLaunch i x).txWait = s.txWait := by rw [setLaunch]
@[simp] theorem setLaunch_far : (s.setLaunch i x).far = s.far := by rw [setLaunch]
@[simp] theorem setLaunch_farUnit : (s.setLaunch i x).farUnit = s.farUnit := by rw [setLaunch]
@[simp] theorem setLaunch_farMiss : (s.setLaunch i x).farMiss = s.farMiss := by rw [setLaunch]
@[simp] theorem setLaunch_farLack : (s.setLaunch i x).farLack = s.farLack := by rw [setLaunch]
@[simp] theorem setLaunch_whistle : (s.setLaunch i x).whistle = s.whistle := by rw [setLaunch]
@[simp] theorem setLaunch_buckets : (s.setLaunch i x).buckets = s.buckets := by rw [setLaunch]
@[simp] theorem setLaunch_unwritten : (s.setLaunch i x).unwritten = s.unwritten := by rw [setLaunch]
@[simp] theorem setLaunch_flushing : (s.setLaunch i x).flushing = s.flushing := by rw [setLaunch]
@[simp] theorem setLaunch_jobs : (s.setLaunch i x).jobs = s.jobs := by rw [setLaunch]
@[simp] theorem setLaunch_power : (s.setLaunch i x).power = s.power := by rw [setLaunch]
@[simp] theorem setLaunch_stw : (s.setLaunch i x).stw = s.stw := by rw [setLaunch]
@[simp] theorem setLaunch_recoveries : (s.setLaunch i x).recoveries = s.recoveries := by rw [setLaunch]
@[simp] theorem setLaunch_referee : (s.setLaunch i x).referee = s.referee := by rw [setLaunch]
@[simp] theorem setLaunch_outbox : (s.setLaunch i x).outbox = s.outbox := by rw [setLaunch]
@[simp] theorem setLaunch_mgmt : (s.setLaunch i x).mgmt = s.mgmt := by rw [setLaunch]
@[simp] theorem setLaunch_free : (s.setLaunch i x).free = s.free := by rw [setLaunch]
@[simp] theorem setLaunch_pending : (s.setLaunch i x).pending = s.pending := by rw [setLaunch]
end

section
variable (i : Nat) (x : Option Block)

@[simp] theorem setBlock_regs : (s.setBlock i x).regs = s.regs := by rw [setBlock]
@[simp] theorem setBlock_staged : (s.setBlock i x).staged = s.staged := by rw [setBlock]
@[simp] theorem setBlock_active : (s.setBlock i x).active = s.active := by rw [setBlock]
@[simp] theorem setBlock_mem : (s.setBlock i x).mem = s.mem := by rw [setBlock]
@[simp] theorem setBlock_ue : (s.setBlock i x).ue = s.ue := by rw [setBlock]
@[simp] theorem setBlock_ce : (s.setBlock i x).ce = s.ce := by rw [setBlock]
@[simp] theorem setBlock_altered : (s.setBlock i x).altered = s.altered := by rw [setBlock]
@[simp] theorem setBlock_dirty : (s.setBlock i x).dirty = s.dirty := by rw [setBlock]
@[simp] theorem setBlock_lost : (s.setBlock i x).lost = s.lost := by rw [setBlock]
@[simp] theorem setBlock_repairs : (s.setBlock i x).repairs = s.repairs := by rw [setBlock]
@[simp] theorem setBlock_ceLog : (s.setBlock i x).ceLog = s.ceLog := by rw [setBlock]
@[simp] theorem setBlock_scLog : (s.setBlock i x).scLog = s.scLog := by rw [setBlock]
@[simp] theorem setBlock_rowMaps : (s.setBlock i x).rowMaps = s.rowMaps := by rw [setBlock]
@[simp] theorem setBlock_patrol : (s.setBlock i x).patrol = s.patrol := by rw [setBlock]
@[simp] theorem setBlock_journalDue : (s.setBlock i x).journalDue = s.journalDue := by rw [setBlock]
@[simp] theorem setBlock_tlb : (s.setBlock i x).tlb = s.tlb := by rw [setBlock]
@[simp] theorem setBlock_walks : (s.setBlock i x).walks = s.walks := by rw [setBlock]
@[simp] theorem setBlock_merge : (s.setBlock i x).merge = s.merge := by rw [setBlock]
@[simp] theorem setBlock_ctxs : (s.setBlock i x).ctxs = s.ctxs := by rw [setBlock]
@[simp] theorem setBlock_queues : (s.setBlock i x).queues = s.queues := by rw [setBlock]
@[simp] theorem setBlock_subSeq : (s.setBlock i x).subSeq = s.subSeq := by rw [setBlock]
@[simp] theorem setBlock_startSeq : (s.setBlock i x).startSeq = s.startSeq := by rw [setBlock]
@[simp] theorem setBlock_slotLast : (s.setBlock i x).slotLast = s.slotLast := by rw [setBlock]
@[simp] theorem setBlock_doorSlot : (s.setBlock i x).doorSlot = s.doorSlot := by rw [setBlock]
@[simp] theorem setBlock_rrSlot : (s.setBlock i x).rrSlot = s.rrSlot := by rw [setBlock]
@[simp] theorem setBlock_rrSince : (s.setBlock i x).rrSince = s.rrSince := by rw [setBlock]
@[simp] theorem setBlock_courts : (s.setBlock i x).courts = s.courts := by rw [setBlock]
@[simp] theorem setBlock_fields : (s.setBlock i x).fields = s.fields := by rw [setBlock]
@[simp] theorem setBlock_quarters : (s.setBlock i x).quarters = s.quarters := by rw [setBlock]
@[simp] theorem setBlock_cores : (s.setBlock i x).cores = s.cores := by rw [setBlock]
@[simp] theorem setBlock_launches : (s.setBlock i x).launches = s.launches := by rw [setBlock]
@[simp] theorem setBlock_groups : (s.setBlock i x).groups = s.groups := by rw [setBlock]
@[simp] theorem setBlock_passes : (s.setBlock i x).passes = s.passes := by rw [setBlock]
@[simp] theorem setBlock_pipes : (s.setBlock i x).pipes = s.pipes := by rw [setBlock]
@[simp] theorem setBlock_dp : (s.setBlock i x).dp = s.dp := by rw [setBlock]
@[simp] theorem setBlock_streamStates : (s.setBlock i x).streamStates = s.streamStates := by rw [setBlock]
@[simp] theorem setBlock_rasterLeaving : (s.setBlock i x).rasterLeaving = s.rasterLeaving := by rw [setBlock]
@[simp] theorem setBlock_heavyEnd : (s.setBlock i x).heavyEnd = s.heavyEnd := by rw [setBlock]
@[simp] theorem setBlock_zeroing : (s.setBlock i x).zeroing = s.zeroing := by rw [setBlock]
@[simp] theorem setBlock_inspects : (s.setBlock i x).inspects = s.inspects := by rw [setBlock]
@[simp] theorem setBlock_inspected : (s.setBlock i x).inspected = s.inspected := by rw [setBlock]
@[simp] theorem setBlock_eth : (s.setBlock i x).eth = s.eth := by rw [setBlock]
@[simp] theorem setBlock_qps : (s.setBlock i x).qps = s.qps := by rw [setBlock]
@[simp] theorem setBlock_keys : (s.setBlock i x).keys = s.keys := by rw [setBlock]
@[simp] theorem setBlock_streams : (s.setBlock i x).streams = s.streams := by rw [setBlock]
@[simp] theorem setBlock_time : (s.setBlock i x).time = s.time := by rw [setBlock]
@[simp] theorem setBlock_iql : (s.setBlock i x).iql = s.iql := by rw [setBlock]
@[simp] theorem setBlock_txns : (s.setBlock i x).txns = s.txns := by rw [setBlock]
@[simp] theorem setBlock_txWait : (s.setBlock i x).txWait = s.txWait := by rw [setBlock]
@[simp] theorem setBlock_far : (s.setBlock i x).far = s.far := by rw [setBlock]
@[simp] theorem setBlock_farUnit : (s.setBlock i x).farUnit = s.farUnit := by rw [setBlock]
@[simp] theorem setBlock_farMiss : (s.setBlock i x).farMiss = s.farMiss := by rw [setBlock]
@[simp] theorem setBlock_farLack : (s.setBlock i x).farLack = s.farLack := by rw [setBlock]
@[simp] theorem setBlock_whistle : (s.setBlock i x).whistle = s.whistle := by rw [setBlock]
@[simp] theorem setBlock_buckets : (s.setBlock i x).buckets = s.buckets := by rw [setBlock]
@[simp] theorem setBlock_unwritten : (s.setBlock i x).unwritten = s.unwritten := by rw [setBlock]
@[simp] theorem setBlock_flushing : (s.setBlock i x).flushing = s.flushing := by rw [setBlock]
@[simp] theorem setBlock_jobs : (s.setBlock i x).jobs = s.jobs := by rw [setBlock]
@[simp] theorem setBlock_power : (s.setBlock i x).power = s.power := by rw [setBlock]
@[simp] theorem setBlock_stw : (s.setBlock i x).stw = s.stw := by rw [setBlock]
@[simp] theorem setBlock_recoveries : (s.setBlock i x).recoveries = s.recoveries := by rw [setBlock]
@[simp] theorem setBlock_referee : (s.setBlock i x).referee = s.referee := by rw [setBlock]
@[simp] theorem setBlock_outbox : (s.setBlock i x).outbox = s.outbox := by rw [setBlock]
@[simp] theorem setBlock_mgmt : (s.setBlock i x).mgmt = s.mgmt := by rw [setBlock]
@[simp] theorem setBlock_free : (s.setBlock i x).free = s.free := by rw [setBlock]
@[simp] theorem setBlock_pending : (s.setBlock i x).pending = s.pending := by rw [setBlock]
end

section
variable (i : Nat) (x : Option Group)

@[simp] theorem setGroup_regs : (s.setGroup i x).regs = s.regs := by rw [setGroup]
@[simp] theorem setGroup_staged : (s.setGroup i x).staged = s.staged := by rw [setGroup]
@[simp] theorem setGroup_active : (s.setGroup i x).active = s.active := by rw [setGroup]
@[simp] theorem setGroup_mem : (s.setGroup i x).mem = s.mem := by rw [setGroup]
@[simp] theorem setGroup_ue : (s.setGroup i x).ue = s.ue := by rw [setGroup]
@[simp] theorem setGroup_ce : (s.setGroup i x).ce = s.ce := by rw [setGroup]
@[simp] theorem setGroup_altered : (s.setGroup i x).altered = s.altered := by rw [setGroup]
@[simp] theorem setGroup_dirty : (s.setGroup i x).dirty = s.dirty := by rw [setGroup]
@[simp] theorem setGroup_lost : (s.setGroup i x).lost = s.lost := by rw [setGroup]
@[simp] theorem setGroup_repairs : (s.setGroup i x).repairs = s.repairs := by rw [setGroup]
@[simp] theorem setGroup_ceLog : (s.setGroup i x).ceLog = s.ceLog := by rw [setGroup]
@[simp] theorem setGroup_scLog : (s.setGroup i x).scLog = s.scLog := by rw [setGroup]
@[simp] theorem setGroup_rowMaps : (s.setGroup i x).rowMaps = s.rowMaps := by rw [setGroup]
@[simp] theorem setGroup_patrol : (s.setGroup i x).patrol = s.patrol := by rw [setGroup]
@[simp] theorem setGroup_journalDue : (s.setGroup i x).journalDue = s.journalDue := by rw [setGroup]
@[simp] theorem setGroup_tlb : (s.setGroup i x).tlb = s.tlb := by rw [setGroup]
@[simp] theorem setGroup_walks : (s.setGroup i x).walks = s.walks := by rw [setGroup]
@[simp] theorem setGroup_merge : (s.setGroup i x).merge = s.merge := by rw [setGroup]
@[simp] theorem setGroup_ctxs : (s.setGroup i x).ctxs = s.ctxs := by rw [setGroup]
@[simp] theorem setGroup_queues : (s.setGroup i x).queues = s.queues := by rw [setGroup]
@[simp] theorem setGroup_subSeq : (s.setGroup i x).subSeq = s.subSeq := by rw [setGroup]
@[simp] theorem setGroup_startSeq : (s.setGroup i x).startSeq = s.startSeq := by rw [setGroup]
@[simp] theorem setGroup_slotLast : (s.setGroup i x).slotLast = s.slotLast := by rw [setGroup]
@[simp] theorem setGroup_doorSlot : (s.setGroup i x).doorSlot = s.doorSlot := by rw [setGroup]
@[simp] theorem setGroup_rrSlot : (s.setGroup i x).rrSlot = s.rrSlot := by rw [setGroup]
@[simp] theorem setGroup_rrSince : (s.setGroup i x).rrSince = s.rrSince := by rw [setGroup]
@[simp] theorem setGroup_courts : (s.setGroup i x).courts = s.courts := by rw [setGroup]
@[simp] theorem setGroup_fields : (s.setGroup i x).fields = s.fields := by rw [setGroup]
@[simp] theorem setGroup_quarters : (s.setGroup i x).quarters = s.quarters := by rw [setGroup]
@[simp] theorem setGroup_cores : (s.setGroup i x).cores = s.cores := by rw [setGroup]
@[simp] theorem setGroup_launches : (s.setGroup i x).launches = s.launches := by rw [setGroup]
@[simp] theorem setGroup_blocks : (s.setGroup i x).blocks = s.blocks := by rw [setGroup]
@[simp] theorem setGroup_passes : (s.setGroup i x).passes = s.passes := by rw [setGroup]
@[simp] theorem setGroup_pipes : (s.setGroup i x).pipes = s.pipes := by rw [setGroup]
@[simp] theorem setGroup_dp : (s.setGroup i x).dp = s.dp := by rw [setGroup]
@[simp] theorem setGroup_streamStates : (s.setGroup i x).streamStates = s.streamStates := by rw [setGroup]
@[simp] theorem setGroup_rasterLeaving : (s.setGroup i x).rasterLeaving = s.rasterLeaving := by rw [setGroup]
@[simp] theorem setGroup_heavyEnd : (s.setGroup i x).heavyEnd = s.heavyEnd := by rw [setGroup]
@[simp] theorem setGroup_zeroing : (s.setGroup i x).zeroing = s.zeroing := by rw [setGroup]
@[simp] theorem setGroup_inspects : (s.setGroup i x).inspects = s.inspects := by rw [setGroup]
@[simp] theorem setGroup_inspected : (s.setGroup i x).inspected = s.inspected := by rw [setGroup]
@[simp] theorem setGroup_eth : (s.setGroup i x).eth = s.eth := by rw [setGroup]
@[simp] theorem setGroup_qps : (s.setGroup i x).qps = s.qps := by rw [setGroup]
@[simp] theorem setGroup_keys : (s.setGroup i x).keys = s.keys := by rw [setGroup]
@[simp] theorem setGroup_streams : (s.setGroup i x).streams = s.streams := by rw [setGroup]
@[simp] theorem setGroup_time : (s.setGroup i x).time = s.time := by rw [setGroup]
@[simp] theorem setGroup_iql : (s.setGroup i x).iql = s.iql := by rw [setGroup]
@[simp] theorem setGroup_txns : (s.setGroup i x).txns = s.txns := by rw [setGroup]
@[simp] theorem setGroup_txWait : (s.setGroup i x).txWait = s.txWait := by rw [setGroup]
@[simp] theorem setGroup_far : (s.setGroup i x).far = s.far := by rw [setGroup]
@[simp] theorem setGroup_farUnit : (s.setGroup i x).farUnit = s.farUnit := by rw [setGroup]
@[simp] theorem setGroup_farMiss : (s.setGroup i x).farMiss = s.farMiss := by rw [setGroup]
@[simp] theorem setGroup_farLack : (s.setGroup i x).farLack = s.farLack := by rw [setGroup]
@[simp] theorem setGroup_whistle : (s.setGroup i x).whistle = s.whistle := by rw [setGroup]
@[simp] theorem setGroup_buckets : (s.setGroup i x).buckets = s.buckets := by rw [setGroup]
@[simp] theorem setGroup_unwritten : (s.setGroup i x).unwritten = s.unwritten := by rw [setGroup]
@[simp] theorem setGroup_flushing : (s.setGroup i x).flushing = s.flushing := by rw [setGroup]
@[simp] theorem setGroup_jobs : (s.setGroup i x).jobs = s.jobs := by rw [setGroup]
@[simp] theorem setGroup_power : (s.setGroup i x).power = s.power := by rw [setGroup]
@[simp] theorem setGroup_stw : (s.setGroup i x).stw = s.stw := by rw [setGroup]
@[simp] theorem setGroup_recoveries : (s.setGroup i x).recoveries = s.recoveries := by rw [setGroup]
@[simp] theorem setGroup_referee : (s.setGroup i x).referee = s.referee := by rw [setGroup]
@[simp] theorem setGroup_outbox : (s.setGroup i x).outbox = s.outbox := by rw [setGroup]
@[simp] theorem setGroup_mgmt : (s.setGroup i x).mgmt = s.mgmt := by rw [setGroup]
@[simp] theorem setGroup_free : (s.setGroup i x).free = s.free := by rw [setGroup]
@[simp] theorem setGroup_pending : (s.setGroup i x).pending = s.pending := by rw [setGroup]
end

section
variable (i : Nat) (x : Option Pass)

@[simp] theorem setPass_regs : (s.setPass i x).regs = s.regs := by rw [setPass]
@[simp] theorem setPass_staged : (s.setPass i x).staged = s.staged := by rw [setPass]
@[simp] theorem setPass_active : (s.setPass i x).active = s.active := by rw [setPass]
@[simp] theorem setPass_mem : (s.setPass i x).mem = s.mem := by rw [setPass]
@[simp] theorem setPass_ue : (s.setPass i x).ue = s.ue := by rw [setPass]
@[simp] theorem setPass_ce : (s.setPass i x).ce = s.ce := by rw [setPass]
@[simp] theorem setPass_altered : (s.setPass i x).altered = s.altered := by rw [setPass]
@[simp] theorem setPass_dirty : (s.setPass i x).dirty = s.dirty := by rw [setPass]
@[simp] theorem setPass_lost : (s.setPass i x).lost = s.lost := by rw [setPass]
@[simp] theorem setPass_repairs : (s.setPass i x).repairs = s.repairs := by rw [setPass]
@[simp] theorem setPass_ceLog : (s.setPass i x).ceLog = s.ceLog := by rw [setPass]
@[simp] theorem setPass_scLog : (s.setPass i x).scLog = s.scLog := by rw [setPass]
@[simp] theorem setPass_rowMaps : (s.setPass i x).rowMaps = s.rowMaps := by rw [setPass]
@[simp] theorem setPass_patrol : (s.setPass i x).patrol = s.patrol := by rw [setPass]
@[simp] theorem setPass_journalDue : (s.setPass i x).journalDue = s.journalDue := by rw [setPass]
@[simp] theorem setPass_tlb : (s.setPass i x).tlb = s.tlb := by rw [setPass]
@[simp] theorem setPass_walks : (s.setPass i x).walks = s.walks := by rw [setPass]
@[simp] theorem setPass_merge : (s.setPass i x).merge = s.merge := by rw [setPass]
@[simp] theorem setPass_ctxs : (s.setPass i x).ctxs = s.ctxs := by rw [setPass]
@[simp] theorem setPass_queues : (s.setPass i x).queues = s.queues := by rw [setPass]
@[simp] theorem setPass_subSeq : (s.setPass i x).subSeq = s.subSeq := by rw [setPass]
@[simp] theorem setPass_startSeq : (s.setPass i x).startSeq = s.startSeq := by rw [setPass]
@[simp] theorem setPass_slotLast : (s.setPass i x).slotLast = s.slotLast := by rw [setPass]
@[simp] theorem setPass_doorSlot : (s.setPass i x).doorSlot = s.doorSlot := by rw [setPass]
@[simp] theorem setPass_rrSlot : (s.setPass i x).rrSlot = s.rrSlot := by rw [setPass]
@[simp] theorem setPass_rrSince : (s.setPass i x).rrSince = s.rrSince := by rw [setPass]
@[simp] theorem setPass_courts : (s.setPass i x).courts = s.courts := by rw [setPass]
@[simp] theorem setPass_fields : (s.setPass i x).fields = s.fields := by rw [setPass]
@[simp] theorem setPass_quarters : (s.setPass i x).quarters = s.quarters := by rw [setPass]
@[simp] theorem setPass_cores : (s.setPass i x).cores = s.cores := by rw [setPass]
@[simp] theorem setPass_launches : (s.setPass i x).launches = s.launches := by rw [setPass]
@[simp] theorem setPass_blocks : (s.setPass i x).blocks = s.blocks := by rw [setPass]
@[simp] theorem setPass_groups : (s.setPass i x).groups = s.groups := by rw [setPass]
@[simp] theorem setPass_pipes : (s.setPass i x).pipes = s.pipes := by rw [setPass]
@[simp] theorem setPass_dp : (s.setPass i x).dp = s.dp := by rw [setPass]
@[simp] theorem setPass_streamStates : (s.setPass i x).streamStates = s.streamStates := by rw [setPass]
@[simp] theorem setPass_rasterLeaving : (s.setPass i x).rasterLeaving = s.rasterLeaving := by rw [setPass]
@[simp] theorem setPass_heavyEnd : (s.setPass i x).heavyEnd = s.heavyEnd := by rw [setPass]
@[simp] theorem setPass_zeroing : (s.setPass i x).zeroing = s.zeroing := by rw [setPass]
@[simp] theorem setPass_inspects : (s.setPass i x).inspects = s.inspects := by rw [setPass]
@[simp] theorem setPass_inspected : (s.setPass i x).inspected = s.inspected := by rw [setPass]
@[simp] theorem setPass_eth : (s.setPass i x).eth = s.eth := by rw [setPass]
@[simp] theorem setPass_qps : (s.setPass i x).qps = s.qps := by rw [setPass]
@[simp] theorem setPass_keys : (s.setPass i x).keys = s.keys := by rw [setPass]
@[simp] theorem setPass_streams : (s.setPass i x).streams = s.streams := by rw [setPass]
@[simp] theorem setPass_time : (s.setPass i x).time = s.time := by rw [setPass]
@[simp] theorem setPass_iql : (s.setPass i x).iql = s.iql := by rw [setPass]
@[simp] theorem setPass_txns : (s.setPass i x).txns = s.txns := by rw [setPass]
@[simp] theorem setPass_txWait : (s.setPass i x).txWait = s.txWait := by rw [setPass]
@[simp] theorem setPass_far : (s.setPass i x).far = s.far := by rw [setPass]
@[simp] theorem setPass_farUnit : (s.setPass i x).farUnit = s.farUnit := by rw [setPass]
@[simp] theorem setPass_farMiss : (s.setPass i x).farMiss = s.farMiss := by rw [setPass]
@[simp] theorem setPass_farLack : (s.setPass i x).farLack = s.farLack := by rw [setPass]
@[simp] theorem setPass_whistle : (s.setPass i x).whistle = s.whistle := by rw [setPass]
@[simp] theorem setPass_buckets : (s.setPass i x).buckets = s.buckets := by rw [setPass]
@[simp] theorem setPass_unwritten : (s.setPass i x).unwritten = s.unwritten := by rw [setPass]
@[simp] theorem setPass_flushing : (s.setPass i x).flushing = s.flushing := by rw [setPass]
@[simp] theorem setPass_jobs : (s.setPass i x).jobs = s.jobs := by rw [setPass]
@[simp] theorem setPass_power : (s.setPass i x).power = s.power := by rw [setPass]
@[simp] theorem setPass_stw : (s.setPass i x).stw = s.stw := by rw [setPass]
@[simp] theorem setPass_recoveries : (s.setPass i x).recoveries = s.recoveries := by rw [setPass]
@[simp] theorem setPass_referee : (s.setPass i x).referee = s.referee := by rw [setPass]
@[simp] theorem setPass_outbox : (s.setPass i x).outbox = s.outbox := by rw [setPass]
@[simp] theorem setPass_mgmt : (s.setPass i x).mgmt = s.mgmt := by rw [setPass]
@[simp] theorem setPass_free : (s.setPass i x).free = s.free := by rw [setPass]
@[simp] theorem setPass_pending : (s.setPass i x).pending = s.pending := by rw [setPass]
end

section
variable (i : Nat) (x : Pipe)

@[simp] theorem setPipe_regs : (s.setPipe i x).regs = s.regs := by rw [setPipe]
@[simp] theorem setPipe_staged : (s.setPipe i x).staged = s.staged := by rw [setPipe]
@[simp] theorem setPipe_active : (s.setPipe i x).active = s.active := by rw [setPipe]
@[simp] theorem setPipe_mem : (s.setPipe i x).mem = s.mem := by rw [setPipe]
@[simp] theorem setPipe_ue : (s.setPipe i x).ue = s.ue := by rw [setPipe]
@[simp] theorem setPipe_ce : (s.setPipe i x).ce = s.ce := by rw [setPipe]
@[simp] theorem setPipe_altered : (s.setPipe i x).altered = s.altered := by rw [setPipe]
@[simp] theorem setPipe_dirty : (s.setPipe i x).dirty = s.dirty := by rw [setPipe]
@[simp] theorem setPipe_lost : (s.setPipe i x).lost = s.lost := by rw [setPipe]
@[simp] theorem setPipe_repairs : (s.setPipe i x).repairs = s.repairs := by rw [setPipe]
@[simp] theorem setPipe_ceLog : (s.setPipe i x).ceLog = s.ceLog := by rw [setPipe]
@[simp] theorem setPipe_scLog : (s.setPipe i x).scLog = s.scLog := by rw [setPipe]
@[simp] theorem setPipe_rowMaps : (s.setPipe i x).rowMaps = s.rowMaps := by rw [setPipe]
@[simp] theorem setPipe_patrol : (s.setPipe i x).patrol = s.patrol := by rw [setPipe]
@[simp] theorem setPipe_journalDue : (s.setPipe i x).journalDue = s.journalDue := by rw [setPipe]
@[simp] theorem setPipe_tlb : (s.setPipe i x).tlb = s.tlb := by rw [setPipe]
@[simp] theorem setPipe_walks : (s.setPipe i x).walks = s.walks := by rw [setPipe]
@[simp] theorem setPipe_merge : (s.setPipe i x).merge = s.merge := by rw [setPipe]
@[simp] theorem setPipe_ctxs : (s.setPipe i x).ctxs = s.ctxs := by rw [setPipe]
@[simp] theorem setPipe_queues : (s.setPipe i x).queues = s.queues := by rw [setPipe]
@[simp] theorem setPipe_subSeq : (s.setPipe i x).subSeq = s.subSeq := by rw [setPipe]
@[simp] theorem setPipe_startSeq : (s.setPipe i x).startSeq = s.startSeq := by rw [setPipe]
@[simp] theorem setPipe_slotLast : (s.setPipe i x).slotLast = s.slotLast := by rw [setPipe]
@[simp] theorem setPipe_doorSlot : (s.setPipe i x).doorSlot = s.doorSlot := by rw [setPipe]
@[simp] theorem setPipe_rrSlot : (s.setPipe i x).rrSlot = s.rrSlot := by rw [setPipe]
@[simp] theorem setPipe_rrSince : (s.setPipe i x).rrSince = s.rrSince := by rw [setPipe]
@[simp] theorem setPipe_courts : (s.setPipe i x).courts = s.courts := by rw [setPipe]
@[simp] theorem setPipe_fields : (s.setPipe i x).fields = s.fields := by rw [setPipe]
@[simp] theorem setPipe_quarters : (s.setPipe i x).quarters = s.quarters := by rw [setPipe]
@[simp] theorem setPipe_cores : (s.setPipe i x).cores = s.cores := by rw [setPipe]
@[simp] theorem setPipe_launches : (s.setPipe i x).launches = s.launches := by rw [setPipe]
@[simp] theorem setPipe_blocks : (s.setPipe i x).blocks = s.blocks := by rw [setPipe]
@[simp] theorem setPipe_groups : (s.setPipe i x).groups = s.groups := by rw [setPipe]
@[simp] theorem setPipe_passes : (s.setPipe i x).passes = s.passes := by rw [setPipe]
@[simp] theorem setPipe_dp : (s.setPipe i x).dp = s.dp := by rw [setPipe]
@[simp] theorem setPipe_streamStates : (s.setPipe i x).streamStates = s.streamStates := by rw [setPipe]
@[simp] theorem setPipe_rasterLeaving : (s.setPipe i x).rasterLeaving = s.rasterLeaving := by rw [setPipe]
@[simp] theorem setPipe_heavyEnd : (s.setPipe i x).heavyEnd = s.heavyEnd := by rw [setPipe]
@[simp] theorem setPipe_zeroing : (s.setPipe i x).zeroing = s.zeroing := by rw [setPipe]
@[simp] theorem setPipe_inspects : (s.setPipe i x).inspects = s.inspects := by rw [setPipe]
@[simp] theorem setPipe_inspected : (s.setPipe i x).inspected = s.inspected := by rw [setPipe]
@[simp] theorem setPipe_eth : (s.setPipe i x).eth = s.eth := by rw [setPipe]
@[simp] theorem setPipe_qps : (s.setPipe i x).qps = s.qps := by rw [setPipe]
@[simp] theorem setPipe_keys : (s.setPipe i x).keys = s.keys := by rw [setPipe]
@[simp] theorem setPipe_streams : (s.setPipe i x).streams = s.streams := by rw [setPipe]
@[simp] theorem setPipe_time : (s.setPipe i x).time = s.time := by rw [setPipe]
@[simp] theorem setPipe_iql : (s.setPipe i x).iql = s.iql := by rw [setPipe]
@[simp] theorem setPipe_txns : (s.setPipe i x).txns = s.txns := by rw [setPipe]
@[simp] theorem setPipe_txWait : (s.setPipe i x).txWait = s.txWait := by rw [setPipe]
@[simp] theorem setPipe_far : (s.setPipe i x).far = s.far := by rw [setPipe]
@[simp] theorem setPipe_farUnit : (s.setPipe i x).farUnit = s.farUnit := by rw [setPipe]
@[simp] theorem setPipe_farMiss : (s.setPipe i x).farMiss = s.farMiss := by rw [setPipe]
@[simp] theorem setPipe_farLack : (s.setPipe i x).farLack = s.farLack := by rw [setPipe]
@[simp] theorem setPipe_whistle : (s.setPipe i x).whistle = s.whistle := by rw [setPipe]
@[simp] theorem setPipe_buckets : (s.setPipe i x).buckets = s.buckets := by rw [setPipe]
@[simp] theorem setPipe_unwritten : (s.setPipe i x).unwritten = s.unwritten := by rw [setPipe]
@[simp] theorem setPipe_flushing : (s.setPipe i x).flushing = s.flushing := by rw [setPipe]
@[simp] theorem setPipe_jobs : (s.setPipe i x).jobs = s.jobs := by rw [setPipe]
@[simp] theorem setPipe_power : (s.setPipe i x).power = s.power := by rw [setPipe]
@[simp] theorem setPipe_stw : (s.setPipe i x).stw = s.stw := by rw [setPipe]
@[simp] theorem setPipe_recoveries : (s.setPipe i x).recoveries = s.recoveries := by rw [setPipe]
@[simp] theorem setPipe_referee : (s.setPipe i x).referee = s.referee := by rw [setPipe]
@[simp] theorem setPipe_outbox : (s.setPipe i x).outbox = s.outbox := by rw [setPipe]
@[simp] theorem setPipe_mgmt : (s.setPipe i x).mgmt = s.mgmt := by rw [setPipe]
@[simp] theorem setPipe_free : (s.setPipe i x).free = s.free := by rw [setPipe]
@[simp] theorem setPipe_pending : (s.setPipe i x).pending = s.pending := by rw [setPipe]
end

section
variable (i : Nat) (x : DpTx)

@[simp] theorem setDpTx_regs : (s.setDpTx i x).regs = s.regs := by rw [setDpTx]
@[simp] theorem setDpTx_staged : (s.setDpTx i x).staged = s.staged := by rw [setDpTx]
@[simp] theorem setDpTx_active : (s.setDpTx i x).active = s.active := by rw [setDpTx]
@[simp] theorem setDpTx_mem : (s.setDpTx i x).mem = s.mem := by rw [setDpTx]
@[simp] theorem setDpTx_ue : (s.setDpTx i x).ue = s.ue := by rw [setDpTx]
@[simp] theorem setDpTx_ce : (s.setDpTx i x).ce = s.ce := by rw [setDpTx]
@[simp] theorem setDpTx_altered : (s.setDpTx i x).altered = s.altered := by rw [setDpTx]
@[simp] theorem setDpTx_dirty : (s.setDpTx i x).dirty = s.dirty := by rw [setDpTx]
@[simp] theorem setDpTx_lost : (s.setDpTx i x).lost = s.lost := by rw [setDpTx]
@[simp] theorem setDpTx_repairs : (s.setDpTx i x).repairs = s.repairs := by rw [setDpTx]
@[simp] theorem setDpTx_ceLog : (s.setDpTx i x).ceLog = s.ceLog := by rw [setDpTx]
@[simp] theorem setDpTx_scLog : (s.setDpTx i x).scLog = s.scLog := by rw [setDpTx]
@[simp] theorem setDpTx_rowMaps : (s.setDpTx i x).rowMaps = s.rowMaps := by rw [setDpTx]
@[simp] theorem setDpTx_patrol : (s.setDpTx i x).patrol = s.patrol := by rw [setDpTx]
@[simp] theorem setDpTx_journalDue : (s.setDpTx i x).journalDue = s.journalDue := by rw [setDpTx]
@[simp] theorem setDpTx_tlb : (s.setDpTx i x).tlb = s.tlb := by rw [setDpTx]
@[simp] theorem setDpTx_walks : (s.setDpTx i x).walks = s.walks := by rw [setDpTx]
@[simp] theorem setDpTx_merge : (s.setDpTx i x).merge = s.merge := by rw [setDpTx]
@[simp] theorem setDpTx_ctxs : (s.setDpTx i x).ctxs = s.ctxs := by rw [setDpTx]
@[simp] theorem setDpTx_queues : (s.setDpTx i x).queues = s.queues := by rw [setDpTx]
@[simp] theorem setDpTx_subSeq : (s.setDpTx i x).subSeq = s.subSeq := by rw [setDpTx]
@[simp] theorem setDpTx_startSeq : (s.setDpTx i x).startSeq = s.startSeq := by rw [setDpTx]
@[simp] theorem setDpTx_slotLast : (s.setDpTx i x).slotLast = s.slotLast := by rw [setDpTx]
@[simp] theorem setDpTx_doorSlot : (s.setDpTx i x).doorSlot = s.doorSlot := by rw [setDpTx]
@[simp] theorem setDpTx_rrSlot : (s.setDpTx i x).rrSlot = s.rrSlot := by rw [setDpTx]
@[simp] theorem setDpTx_rrSince : (s.setDpTx i x).rrSince = s.rrSince := by rw [setDpTx]
@[simp] theorem setDpTx_courts : (s.setDpTx i x).courts = s.courts := by rw [setDpTx]
@[simp] theorem setDpTx_fields : (s.setDpTx i x).fields = s.fields := by rw [setDpTx]
@[simp] theorem setDpTx_quarters : (s.setDpTx i x).quarters = s.quarters := by rw [setDpTx]
@[simp] theorem setDpTx_cores : (s.setDpTx i x).cores = s.cores := by rw [setDpTx]
@[simp] theorem setDpTx_launches : (s.setDpTx i x).launches = s.launches := by rw [setDpTx]
@[simp] theorem setDpTx_blocks : (s.setDpTx i x).blocks = s.blocks := by rw [setDpTx]
@[simp] theorem setDpTx_groups : (s.setDpTx i x).groups = s.groups := by rw [setDpTx]
@[simp] theorem setDpTx_passes : (s.setDpTx i x).passes = s.passes := by rw [setDpTx]
@[simp] theorem setDpTx_pipes : (s.setDpTx i x).pipes = s.pipes := by rw [setDpTx]
@[simp] theorem setDpTx_streamStates : (s.setDpTx i x).streamStates = s.streamStates := by rw [setDpTx]
@[simp] theorem setDpTx_rasterLeaving : (s.setDpTx i x).rasterLeaving = s.rasterLeaving := by rw [setDpTx]
@[simp] theorem setDpTx_heavyEnd : (s.setDpTx i x).heavyEnd = s.heavyEnd := by rw [setDpTx]
@[simp] theorem setDpTx_zeroing : (s.setDpTx i x).zeroing = s.zeroing := by rw [setDpTx]
@[simp] theorem setDpTx_inspects : (s.setDpTx i x).inspects = s.inspects := by rw [setDpTx]
@[simp] theorem setDpTx_inspected : (s.setDpTx i x).inspected = s.inspected := by rw [setDpTx]
@[simp] theorem setDpTx_eth : (s.setDpTx i x).eth = s.eth := by rw [setDpTx]
@[simp] theorem setDpTx_qps : (s.setDpTx i x).qps = s.qps := by rw [setDpTx]
@[simp] theorem setDpTx_keys : (s.setDpTx i x).keys = s.keys := by rw [setDpTx]
@[simp] theorem setDpTx_streams : (s.setDpTx i x).streams = s.streams := by rw [setDpTx]
@[simp] theorem setDpTx_time : (s.setDpTx i x).time = s.time := by rw [setDpTx]
@[simp] theorem setDpTx_iql : (s.setDpTx i x).iql = s.iql := by rw [setDpTx]
@[simp] theorem setDpTx_txns : (s.setDpTx i x).txns = s.txns := by rw [setDpTx]
@[simp] theorem setDpTx_txWait : (s.setDpTx i x).txWait = s.txWait := by rw [setDpTx]
@[simp] theorem setDpTx_far : (s.setDpTx i x).far = s.far := by rw [setDpTx]
@[simp] theorem setDpTx_farUnit : (s.setDpTx i x).farUnit = s.farUnit := by rw [setDpTx]
@[simp] theorem setDpTx_farMiss : (s.setDpTx i x).farMiss = s.farMiss := by rw [setDpTx]
@[simp] theorem setDpTx_farLack : (s.setDpTx i x).farLack = s.farLack := by rw [setDpTx]
@[simp] theorem setDpTx_whistle : (s.setDpTx i x).whistle = s.whistle := by rw [setDpTx]
@[simp] theorem setDpTx_buckets : (s.setDpTx i x).buckets = s.buckets := by rw [setDpTx]
@[simp] theorem setDpTx_unwritten : (s.setDpTx i x).unwritten = s.unwritten := by rw [setDpTx]
@[simp] theorem setDpTx_flushing : (s.setDpTx i x).flushing = s.flushing := by rw [setDpTx]
@[simp] theorem setDpTx_jobs : (s.setDpTx i x).jobs = s.jobs := by rw [setDpTx]
@[simp] theorem setDpTx_power : (s.setDpTx i x).power = s.power := by rw [setDpTx]
@[simp] theorem setDpTx_stw : (s.setDpTx i x).stw = s.stw := by rw [setDpTx]
@[simp] theorem setDpTx_recoveries : (s.setDpTx i x).recoveries = s.recoveries := by rw [setDpTx]
@[simp] theorem setDpTx_referee : (s.setDpTx i x).referee = s.referee := by rw [setDpTx]
@[simp] theorem setDpTx_outbox : (s.setDpTx i x).outbox = s.outbox := by rw [setDpTx]
@[simp] theorem setDpTx_mgmt : (s.setDpTx i x).mgmt = s.mgmt := by rw [setDpTx]
@[simp] theorem setDpTx_free : (s.setDpTx i x).free = s.free := by rw [setDpTx]
@[simp] theorem setDpTx_pending : (s.setDpTx i x).pending = s.pending := by rw [setDpTx]
end

section
variable (i : Nat) (x : EthPort)

@[simp] theorem setEthPort_regs : (s.setEthPort i x).regs = s.regs := by rw [setEthPort]
@[simp] theorem setEthPort_staged : (s.setEthPort i x).staged = s.staged := by rw [setEthPort]
@[simp] theorem setEthPort_active : (s.setEthPort i x).active = s.active := by rw [setEthPort]
@[simp] theorem setEthPort_mem : (s.setEthPort i x).mem = s.mem := by rw [setEthPort]
@[simp] theorem setEthPort_ue : (s.setEthPort i x).ue = s.ue := by rw [setEthPort]
@[simp] theorem setEthPort_ce : (s.setEthPort i x).ce = s.ce := by rw [setEthPort]
@[simp] theorem setEthPort_altered : (s.setEthPort i x).altered = s.altered := by rw [setEthPort]
@[simp] theorem setEthPort_dirty : (s.setEthPort i x).dirty = s.dirty := by rw [setEthPort]
@[simp] theorem setEthPort_lost : (s.setEthPort i x).lost = s.lost := by rw [setEthPort]
@[simp] theorem setEthPort_repairs : (s.setEthPort i x).repairs = s.repairs := by rw [setEthPort]
@[simp] theorem setEthPort_ceLog : (s.setEthPort i x).ceLog = s.ceLog := by rw [setEthPort]
@[simp] theorem setEthPort_scLog : (s.setEthPort i x).scLog = s.scLog := by rw [setEthPort]
@[simp] theorem setEthPort_rowMaps : (s.setEthPort i x).rowMaps = s.rowMaps := by rw [setEthPort]
@[simp] theorem setEthPort_patrol : (s.setEthPort i x).patrol = s.patrol := by rw [setEthPort]
@[simp] theorem setEthPort_journalDue : (s.setEthPort i x).journalDue = s.journalDue := by rw [setEthPort]
@[simp] theorem setEthPort_tlb : (s.setEthPort i x).tlb = s.tlb := by rw [setEthPort]
@[simp] theorem setEthPort_walks : (s.setEthPort i x).walks = s.walks := by rw [setEthPort]
@[simp] theorem setEthPort_merge : (s.setEthPort i x).merge = s.merge := by rw [setEthPort]
@[simp] theorem setEthPort_ctxs : (s.setEthPort i x).ctxs = s.ctxs := by rw [setEthPort]
@[simp] theorem setEthPort_queues : (s.setEthPort i x).queues = s.queues := by rw [setEthPort]
@[simp] theorem setEthPort_subSeq : (s.setEthPort i x).subSeq = s.subSeq := by rw [setEthPort]
@[simp] theorem setEthPort_startSeq : (s.setEthPort i x).startSeq = s.startSeq := by rw [setEthPort]
@[simp] theorem setEthPort_slotLast : (s.setEthPort i x).slotLast = s.slotLast := by rw [setEthPort]
@[simp] theorem setEthPort_doorSlot : (s.setEthPort i x).doorSlot = s.doorSlot := by rw [setEthPort]
@[simp] theorem setEthPort_rrSlot : (s.setEthPort i x).rrSlot = s.rrSlot := by rw [setEthPort]
@[simp] theorem setEthPort_rrSince : (s.setEthPort i x).rrSince = s.rrSince := by rw [setEthPort]
@[simp] theorem setEthPort_courts : (s.setEthPort i x).courts = s.courts := by rw [setEthPort]
@[simp] theorem setEthPort_fields : (s.setEthPort i x).fields = s.fields := by rw [setEthPort]
@[simp] theorem setEthPort_quarters : (s.setEthPort i x).quarters = s.quarters := by rw [setEthPort]
@[simp] theorem setEthPort_cores : (s.setEthPort i x).cores = s.cores := by rw [setEthPort]
@[simp] theorem setEthPort_launches : (s.setEthPort i x).launches = s.launches := by rw [setEthPort]
@[simp] theorem setEthPort_blocks : (s.setEthPort i x).blocks = s.blocks := by rw [setEthPort]
@[simp] theorem setEthPort_groups : (s.setEthPort i x).groups = s.groups := by rw [setEthPort]
@[simp] theorem setEthPort_passes : (s.setEthPort i x).passes = s.passes := by rw [setEthPort]
@[simp] theorem setEthPort_pipes : (s.setEthPort i x).pipes = s.pipes := by rw [setEthPort]
@[simp] theorem setEthPort_dp : (s.setEthPort i x).dp = s.dp := by rw [setEthPort]
@[simp] theorem setEthPort_streamStates : (s.setEthPort i x).streamStates = s.streamStates := by rw [setEthPort]
@[simp] theorem setEthPort_rasterLeaving : (s.setEthPort i x).rasterLeaving = s.rasterLeaving := by rw [setEthPort]
@[simp] theorem setEthPort_heavyEnd : (s.setEthPort i x).heavyEnd = s.heavyEnd := by rw [setEthPort]
@[simp] theorem setEthPort_zeroing : (s.setEthPort i x).zeroing = s.zeroing := by rw [setEthPort]
@[simp] theorem setEthPort_inspects : (s.setEthPort i x).inspects = s.inspects := by rw [setEthPort]
@[simp] theorem setEthPort_inspected : (s.setEthPort i x).inspected = s.inspected := by rw [setEthPort]
@[simp] theorem setEthPort_qps : (s.setEthPort i x).qps = s.qps := by rw [setEthPort]
@[simp] theorem setEthPort_keys : (s.setEthPort i x).keys = s.keys := by rw [setEthPort]
@[simp] theorem setEthPort_streams : (s.setEthPort i x).streams = s.streams := by rw [setEthPort]
@[simp] theorem setEthPort_time : (s.setEthPort i x).time = s.time := by rw [setEthPort]
@[simp] theorem setEthPort_iql : (s.setEthPort i x).iql = s.iql := by rw [setEthPort]
@[simp] theorem setEthPort_txns : (s.setEthPort i x).txns = s.txns := by rw [setEthPort]
@[simp] theorem setEthPort_txWait : (s.setEthPort i x).txWait = s.txWait := by rw [setEthPort]
@[simp] theorem setEthPort_far : (s.setEthPort i x).far = s.far := by rw [setEthPort]
@[simp] theorem setEthPort_farUnit : (s.setEthPort i x).farUnit = s.farUnit := by rw [setEthPort]
@[simp] theorem setEthPort_farMiss : (s.setEthPort i x).farMiss = s.farMiss := by rw [setEthPort]
@[simp] theorem setEthPort_farLack : (s.setEthPort i x).farLack = s.farLack := by rw [setEthPort]
@[simp] theorem setEthPort_whistle : (s.setEthPort i x).whistle = s.whistle := by rw [setEthPort]
@[simp] theorem setEthPort_buckets : (s.setEthPort i x).buckets = s.buckets := by rw [setEthPort]
@[simp] theorem setEthPort_unwritten : (s.setEthPort i x).unwritten = s.unwritten := by rw [setEthPort]
@[simp] theorem setEthPort_flushing : (s.setEthPort i x).flushing = s.flushing := by rw [setEthPort]
@[simp] theorem setEthPort_jobs : (s.setEthPort i x).jobs = s.jobs := by rw [setEthPort]
@[simp] theorem setEthPort_power : (s.setEthPort i x).power = s.power := by rw [setEthPort]
@[simp] theorem setEthPort_stw : (s.setEthPort i x).stw = s.stw := by rw [setEthPort]
@[simp] theorem setEthPort_recoveries : (s.setEthPort i x).recoveries = s.recoveries := by rw [setEthPort]
@[simp] theorem setEthPort_referee : (s.setEthPort i x).referee = s.referee := by rw [setEthPort]
@[simp] theorem setEthPort_outbox : (s.setEthPort i x).outbox = s.outbox := by rw [setEthPort]
@[simp] theorem setEthPort_mgmt : (s.setEthPort i x).mgmt = s.mgmt := by rw [setEthPort]
@[simp] theorem setEthPort_free : (s.setEthPort i x).free = s.free := by rw [setEthPort]
@[simp] theorem setEthPort_pending : (s.setEthPort i x).pending = s.pending := by rw [setEthPort]
end

section
variable (i : Nat) (x : Qp)

@[simp] theorem setQp_regs : (s.setQp i x).regs = s.regs := by rw [setQp]
@[simp] theorem setQp_staged : (s.setQp i x).staged = s.staged := by rw [setQp]
@[simp] theorem setQp_active : (s.setQp i x).active = s.active := by rw [setQp]
@[simp] theorem setQp_mem : (s.setQp i x).mem = s.mem := by rw [setQp]
@[simp] theorem setQp_ue : (s.setQp i x).ue = s.ue := by rw [setQp]
@[simp] theorem setQp_ce : (s.setQp i x).ce = s.ce := by rw [setQp]
@[simp] theorem setQp_altered : (s.setQp i x).altered = s.altered := by rw [setQp]
@[simp] theorem setQp_dirty : (s.setQp i x).dirty = s.dirty := by rw [setQp]
@[simp] theorem setQp_lost : (s.setQp i x).lost = s.lost := by rw [setQp]
@[simp] theorem setQp_repairs : (s.setQp i x).repairs = s.repairs := by rw [setQp]
@[simp] theorem setQp_ceLog : (s.setQp i x).ceLog = s.ceLog := by rw [setQp]
@[simp] theorem setQp_scLog : (s.setQp i x).scLog = s.scLog := by rw [setQp]
@[simp] theorem setQp_rowMaps : (s.setQp i x).rowMaps = s.rowMaps := by rw [setQp]
@[simp] theorem setQp_patrol : (s.setQp i x).patrol = s.patrol := by rw [setQp]
@[simp] theorem setQp_journalDue : (s.setQp i x).journalDue = s.journalDue := by rw [setQp]
@[simp] theorem setQp_tlb : (s.setQp i x).tlb = s.tlb := by rw [setQp]
@[simp] theorem setQp_walks : (s.setQp i x).walks = s.walks := by rw [setQp]
@[simp] theorem setQp_merge : (s.setQp i x).merge = s.merge := by rw [setQp]
@[simp] theorem setQp_ctxs : (s.setQp i x).ctxs = s.ctxs := by rw [setQp]
@[simp] theorem setQp_queues : (s.setQp i x).queues = s.queues := by rw [setQp]
@[simp] theorem setQp_subSeq : (s.setQp i x).subSeq = s.subSeq := by rw [setQp]
@[simp] theorem setQp_startSeq : (s.setQp i x).startSeq = s.startSeq := by rw [setQp]
@[simp] theorem setQp_slotLast : (s.setQp i x).slotLast = s.slotLast := by rw [setQp]
@[simp] theorem setQp_doorSlot : (s.setQp i x).doorSlot = s.doorSlot := by rw [setQp]
@[simp] theorem setQp_rrSlot : (s.setQp i x).rrSlot = s.rrSlot := by rw [setQp]
@[simp] theorem setQp_rrSince : (s.setQp i x).rrSince = s.rrSince := by rw [setQp]
@[simp] theorem setQp_courts : (s.setQp i x).courts = s.courts := by rw [setQp]
@[simp] theorem setQp_fields : (s.setQp i x).fields = s.fields := by rw [setQp]
@[simp] theorem setQp_quarters : (s.setQp i x).quarters = s.quarters := by rw [setQp]
@[simp] theorem setQp_cores : (s.setQp i x).cores = s.cores := by rw [setQp]
@[simp] theorem setQp_launches : (s.setQp i x).launches = s.launches := by rw [setQp]
@[simp] theorem setQp_blocks : (s.setQp i x).blocks = s.blocks := by rw [setQp]
@[simp] theorem setQp_groups : (s.setQp i x).groups = s.groups := by rw [setQp]
@[simp] theorem setQp_passes : (s.setQp i x).passes = s.passes := by rw [setQp]
@[simp] theorem setQp_pipes : (s.setQp i x).pipes = s.pipes := by rw [setQp]
@[simp] theorem setQp_dp : (s.setQp i x).dp = s.dp := by rw [setQp]
@[simp] theorem setQp_streamStates : (s.setQp i x).streamStates = s.streamStates := by rw [setQp]
@[simp] theorem setQp_rasterLeaving : (s.setQp i x).rasterLeaving = s.rasterLeaving := by rw [setQp]
@[simp] theorem setQp_heavyEnd : (s.setQp i x).heavyEnd = s.heavyEnd := by rw [setQp]
@[simp] theorem setQp_zeroing : (s.setQp i x).zeroing = s.zeroing := by rw [setQp]
@[simp] theorem setQp_inspects : (s.setQp i x).inspects = s.inspects := by rw [setQp]
@[simp] theorem setQp_inspected : (s.setQp i x).inspected = s.inspected := by rw [setQp]
@[simp] theorem setQp_eth : (s.setQp i x).eth = s.eth := by rw [setQp]
@[simp] theorem setQp_keys : (s.setQp i x).keys = s.keys := by rw [setQp]
@[simp] theorem setQp_streams : (s.setQp i x).streams = s.streams := by rw [setQp]
@[simp] theorem setQp_time : (s.setQp i x).time = s.time := by rw [setQp]
@[simp] theorem setQp_iql : (s.setQp i x).iql = s.iql := by rw [setQp]
@[simp] theorem setQp_txns : (s.setQp i x).txns = s.txns := by rw [setQp]
@[simp] theorem setQp_txWait : (s.setQp i x).txWait = s.txWait := by rw [setQp]
@[simp] theorem setQp_far : (s.setQp i x).far = s.far := by rw [setQp]
@[simp] theorem setQp_farUnit : (s.setQp i x).farUnit = s.farUnit := by rw [setQp]
@[simp] theorem setQp_farMiss : (s.setQp i x).farMiss = s.farMiss := by rw [setQp]
@[simp] theorem setQp_farLack : (s.setQp i x).farLack = s.farLack := by rw [setQp]
@[simp] theorem setQp_whistle : (s.setQp i x).whistle = s.whistle := by rw [setQp]
@[simp] theorem setQp_buckets : (s.setQp i x).buckets = s.buckets := by rw [setQp]
@[simp] theorem setQp_unwritten : (s.setQp i x).unwritten = s.unwritten := by rw [setQp]
@[simp] theorem setQp_flushing : (s.setQp i x).flushing = s.flushing := by rw [setQp]
@[simp] theorem setQp_jobs : (s.setQp i x).jobs = s.jobs := by rw [setQp]
@[simp] theorem setQp_power : (s.setQp i x).power = s.power := by rw [setQp]
@[simp] theorem setQp_stw : (s.setQp i x).stw = s.stw := by rw [setQp]
@[simp] theorem setQp_recoveries : (s.setQp i x).recoveries = s.recoveries := by rw [setQp]
@[simp] theorem setQp_referee : (s.setQp i x).referee = s.referee := by rw [setQp]
@[simp] theorem setQp_outbox : (s.setQp i x).outbox = s.outbox := by rw [setQp]
@[simp] theorem setQp_mgmt : (s.setQp i x).mgmt = s.mgmt := by rw [setQp]
@[simp] theorem setQp_free : (s.setQp i x).free = s.free := by rw [setQp]
@[simp] theorem setQp_pending : (s.setQp i x).pending = s.pending := by rw [setQp]
end

section
variable (i : Nat) (x : Key)

@[simp] theorem setKey_regs : (s.setKey i x).regs = s.regs := by rw [setKey]
@[simp] theorem setKey_staged : (s.setKey i x).staged = s.staged := by rw [setKey]
@[simp] theorem setKey_active : (s.setKey i x).active = s.active := by rw [setKey]
@[simp] theorem setKey_mem : (s.setKey i x).mem = s.mem := by rw [setKey]
@[simp] theorem setKey_ue : (s.setKey i x).ue = s.ue := by rw [setKey]
@[simp] theorem setKey_ce : (s.setKey i x).ce = s.ce := by rw [setKey]
@[simp] theorem setKey_altered : (s.setKey i x).altered = s.altered := by rw [setKey]
@[simp] theorem setKey_dirty : (s.setKey i x).dirty = s.dirty := by rw [setKey]
@[simp] theorem setKey_lost : (s.setKey i x).lost = s.lost := by rw [setKey]
@[simp] theorem setKey_repairs : (s.setKey i x).repairs = s.repairs := by rw [setKey]
@[simp] theorem setKey_ceLog : (s.setKey i x).ceLog = s.ceLog := by rw [setKey]
@[simp] theorem setKey_scLog : (s.setKey i x).scLog = s.scLog := by rw [setKey]
@[simp] theorem setKey_rowMaps : (s.setKey i x).rowMaps = s.rowMaps := by rw [setKey]
@[simp] theorem setKey_patrol : (s.setKey i x).patrol = s.patrol := by rw [setKey]
@[simp] theorem setKey_journalDue : (s.setKey i x).journalDue = s.journalDue := by rw [setKey]
@[simp] theorem setKey_tlb : (s.setKey i x).tlb = s.tlb := by rw [setKey]
@[simp] theorem setKey_walks : (s.setKey i x).walks = s.walks := by rw [setKey]
@[simp] theorem setKey_merge : (s.setKey i x).merge = s.merge := by rw [setKey]
@[simp] theorem setKey_ctxs : (s.setKey i x).ctxs = s.ctxs := by rw [setKey]
@[simp] theorem setKey_queues : (s.setKey i x).queues = s.queues := by rw [setKey]
@[simp] theorem setKey_subSeq : (s.setKey i x).subSeq = s.subSeq := by rw [setKey]
@[simp] theorem setKey_startSeq : (s.setKey i x).startSeq = s.startSeq := by rw [setKey]
@[simp] theorem setKey_slotLast : (s.setKey i x).slotLast = s.slotLast := by rw [setKey]
@[simp] theorem setKey_doorSlot : (s.setKey i x).doorSlot = s.doorSlot := by rw [setKey]
@[simp] theorem setKey_rrSlot : (s.setKey i x).rrSlot = s.rrSlot := by rw [setKey]
@[simp] theorem setKey_rrSince : (s.setKey i x).rrSince = s.rrSince := by rw [setKey]
@[simp] theorem setKey_courts : (s.setKey i x).courts = s.courts := by rw [setKey]
@[simp] theorem setKey_fields : (s.setKey i x).fields = s.fields := by rw [setKey]
@[simp] theorem setKey_quarters : (s.setKey i x).quarters = s.quarters := by rw [setKey]
@[simp] theorem setKey_cores : (s.setKey i x).cores = s.cores := by rw [setKey]
@[simp] theorem setKey_launches : (s.setKey i x).launches = s.launches := by rw [setKey]
@[simp] theorem setKey_blocks : (s.setKey i x).blocks = s.blocks := by rw [setKey]
@[simp] theorem setKey_groups : (s.setKey i x).groups = s.groups := by rw [setKey]
@[simp] theorem setKey_passes : (s.setKey i x).passes = s.passes := by rw [setKey]
@[simp] theorem setKey_pipes : (s.setKey i x).pipes = s.pipes := by rw [setKey]
@[simp] theorem setKey_dp : (s.setKey i x).dp = s.dp := by rw [setKey]
@[simp] theorem setKey_streamStates : (s.setKey i x).streamStates = s.streamStates := by rw [setKey]
@[simp] theorem setKey_rasterLeaving : (s.setKey i x).rasterLeaving = s.rasterLeaving := by rw [setKey]
@[simp] theorem setKey_heavyEnd : (s.setKey i x).heavyEnd = s.heavyEnd := by rw [setKey]
@[simp] theorem setKey_zeroing : (s.setKey i x).zeroing = s.zeroing := by rw [setKey]
@[simp] theorem setKey_inspects : (s.setKey i x).inspects = s.inspects := by rw [setKey]
@[simp] theorem setKey_inspected : (s.setKey i x).inspected = s.inspected := by rw [setKey]
@[simp] theorem setKey_eth : (s.setKey i x).eth = s.eth := by rw [setKey]
@[simp] theorem setKey_qps : (s.setKey i x).qps = s.qps := by rw [setKey]
@[simp] theorem setKey_streams : (s.setKey i x).streams = s.streams := by rw [setKey]
@[simp] theorem setKey_time : (s.setKey i x).time = s.time := by rw [setKey]
@[simp] theorem setKey_iql : (s.setKey i x).iql = s.iql := by rw [setKey]
@[simp] theorem setKey_txns : (s.setKey i x).txns = s.txns := by rw [setKey]
@[simp] theorem setKey_txWait : (s.setKey i x).txWait = s.txWait := by rw [setKey]
@[simp] theorem setKey_far : (s.setKey i x).far = s.far := by rw [setKey]
@[simp] theorem setKey_farUnit : (s.setKey i x).farUnit = s.farUnit := by rw [setKey]
@[simp] theorem setKey_farMiss : (s.setKey i x).farMiss = s.farMiss := by rw [setKey]
@[simp] theorem setKey_farLack : (s.setKey i x).farLack = s.farLack := by rw [setKey]
@[simp] theorem setKey_whistle : (s.setKey i x).whistle = s.whistle := by rw [setKey]
@[simp] theorem setKey_buckets : (s.setKey i x).buckets = s.buckets := by rw [setKey]
@[simp] theorem setKey_unwritten : (s.setKey i x).unwritten = s.unwritten := by rw [setKey]
@[simp] theorem setKey_flushing : (s.setKey i x).flushing = s.flushing := by rw [setKey]
@[simp] theorem setKey_jobs : (s.setKey i x).jobs = s.jobs := by rw [setKey]
@[simp] theorem setKey_power : (s.setKey i x).power = s.power := by rw [setKey]
@[simp] theorem setKey_stw : (s.setKey i x).stw = s.stw := by rw [setKey]
@[simp] theorem setKey_recoveries : (s.setKey i x).recoveries = s.recoveries := by rw [setKey]
@[simp] theorem setKey_referee : (s.setKey i x).referee = s.referee := by rw [setKey]
@[simp] theorem setKey_outbox : (s.setKey i x).outbox = s.outbox := by rw [setKey]
@[simp] theorem setKey_mgmt : (s.setKey i x).mgmt = s.mgmt := by rw [setKey]
@[simp] theorem setKey_free : (s.setKey i x).free = s.free := by rw [setKey]
@[simp] theorem setKey_pending : (s.setKey i x).pending = s.pending := by rw [setKey]
end

section
variable (i : Nat) (x : Stream)

@[simp] theorem setStream_regs : (s.setStream i x).regs = s.regs := by rw [setStream]
@[simp] theorem setStream_staged : (s.setStream i x).staged = s.staged := by rw [setStream]
@[simp] theorem setStream_active : (s.setStream i x).active = s.active := by rw [setStream]
@[simp] theorem setStream_mem : (s.setStream i x).mem = s.mem := by rw [setStream]
@[simp] theorem setStream_ue : (s.setStream i x).ue = s.ue := by rw [setStream]
@[simp] theorem setStream_ce : (s.setStream i x).ce = s.ce := by rw [setStream]
@[simp] theorem setStream_altered : (s.setStream i x).altered = s.altered := by rw [setStream]
@[simp] theorem setStream_dirty : (s.setStream i x).dirty = s.dirty := by rw [setStream]
@[simp] theorem setStream_lost : (s.setStream i x).lost = s.lost := by rw [setStream]
@[simp] theorem setStream_repairs : (s.setStream i x).repairs = s.repairs := by rw [setStream]
@[simp] theorem setStream_ceLog : (s.setStream i x).ceLog = s.ceLog := by rw [setStream]
@[simp] theorem setStream_scLog : (s.setStream i x).scLog = s.scLog := by rw [setStream]
@[simp] theorem setStream_rowMaps : (s.setStream i x).rowMaps = s.rowMaps := by rw [setStream]
@[simp] theorem setStream_patrol : (s.setStream i x).patrol = s.patrol := by rw [setStream]
@[simp] theorem setStream_journalDue : (s.setStream i x).journalDue = s.journalDue := by rw [setStream]
@[simp] theorem setStream_tlb : (s.setStream i x).tlb = s.tlb := by rw [setStream]
@[simp] theorem setStream_walks : (s.setStream i x).walks = s.walks := by rw [setStream]
@[simp] theorem setStream_merge : (s.setStream i x).merge = s.merge := by rw [setStream]
@[simp] theorem setStream_ctxs : (s.setStream i x).ctxs = s.ctxs := by rw [setStream]
@[simp] theorem setStream_queues : (s.setStream i x).queues = s.queues := by rw [setStream]
@[simp] theorem setStream_subSeq : (s.setStream i x).subSeq = s.subSeq := by rw [setStream]
@[simp] theorem setStream_startSeq : (s.setStream i x).startSeq = s.startSeq := by rw [setStream]
@[simp] theorem setStream_slotLast : (s.setStream i x).slotLast = s.slotLast := by rw [setStream]
@[simp] theorem setStream_doorSlot : (s.setStream i x).doorSlot = s.doorSlot := by rw [setStream]
@[simp] theorem setStream_rrSlot : (s.setStream i x).rrSlot = s.rrSlot := by rw [setStream]
@[simp] theorem setStream_rrSince : (s.setStream i x).rrSince = s.rrSince := by rw [setStream]
@[simp] theorem setStream_courts : (s.setStream i x).courts = s.courts := by rw [setStream]
@[simp] theorem setStream_fields : (s.setStream i x).fields = s.fields := by rw [setStream]
@[simp] theorem setStream_quarters : (s.setStream i x).quarters = s.quarters := by rw [setStream]
@[simp] theorem setStream_cores : (s.setStream i x).cores = s.cores := by rw [setStream]
@[simp] theorem setStream_launches : (s.setStream i x).launches = s.launches := by rw [setStream]
@[simp] theorem setStream_blocks : (s.setStream i x).blocks = s.blocks := by rw [setStream]
@[simp] theorem setStream_groups : (s.setStream i x).groups = s.groups := by rw [setStream]
@[simp] theorem setStream_passes : (s.setStream i x).passes = s.passes := by rw [setStream]
@[simp] theorem setStream_pipes : (s.setStream i x).pipes = s.pipes := by rw [setStream]
@[simp] theorem setStream_dp : (s.setStream i x).dp = s.dp := by rw [setStream]
@[simp] theorem setStream_streamStates : (s.setStream i x).streamStates = s.streamStates := by rw [setStream]
@[simp] theorem setStream_rasterLeaving : (s.setStream i x).rasterLeaving = s.rasterLeaving := by rw [setStream]
@[simp] theorem setStream_heavyEnd : (s.setStream i x).heavyEnd = s.heavyEnd := by rw [setStream]
@[simp] theorem setStream_zeroing : (s.setStream i x).zeroing = s.zeroing := by rw [setStream]
@[simp] theorem setStream_inspects : (s.setStream i x).inspects = s.inspects := by rw [setStream]
@[simp] theorem setStream_inspected : (s.setStream i x).inspected = s.inspected := by rw [setStream]
@[simp] theorem setStream_eth : (s.setStream i x).eth = s.eth := by rw [setStream]
@[simp] theorem setStream_qps : (s.setStream i x).qps = s.qps := by rw [setStream]
@[simp] theorem setStream_keys : (s.setStream i x).keys = s.keys := by rw [setStream]
@[simp] theorem setStream_time : (s.setStream i x).time = s.time := by rw [setStream]
@[simp] theorem setStream_iql : (s.setStream i x).iql = s.iql := by rw [setStream]
@[simp] theorem setStream_txns : (s.setStream i x).txns = s.txns := by rw [setStream]
@[simp] theorem setStream_txWait : (s.setStream i x).txWait = s.txWait := by rw [setStream]
@[simp] theorem setStream_far : (s.setStream i x).far = s.far := by rw [setStream]
@[simp] theorem setStream_farUnit : (s.setStream i x).farUnit = s.farUnit := by rw [setStream]
@[simp] theorem setStream_farMiss : (s.setStream i x).farMiss = s.farMiss := by rw [setStream]
@[simp] theorem setStream_farLack : (s.setStream i x).farLack = s.farLack := by rw [setStream]
@[simp] theorem setStream_whistle : (s.setStream i x).whistle = s.whistle := by rw [setStream]
@[simp] theorem setStream_buckets : (s.setStream i x).buckets = s.buckets := by rw [setStream]
@[simp] theorem setStream_unwritten : (s.setStream i x).unwritten = s.unwritten := by rw [setStream]
@[simp] theorem setStream_flushing : (s.setStream i x).flushing = s.flushing := by rw [setStream]
@[simp] theorem setStream_jobs : (s.setStream i x).jobs = s.jobs := by rw [setStream]
@[simp] theorem setStream_power : (s.setStream i x).power = s.power := by rw [setStream]
@[simp] theorem setStream_stw : (s.setStream i x).stw = s.stw := by rw [setStream]
@[simp] theorem setStream_recoveries : (s.setStream i x).recoveries = s.recoveries := by rw [setStream]
@[simp] theorem setStream_referee : (s.setStream i x).referee = s.referee := by rw [setStream]
@[simp] theorem setStream_outbox : (s.setStream i x).outbox = s.outbox := by rw [setStream]
@[simp] theorem setStream_mgmt : (s.setStream i x).mgmt = s.mgmt := by rw [setStream]
@[simp] theorem setStream_free : (s.setStream i x).free = s.free := by rw [setStream]
@[simp] theorem setStream_pending : (s.setStream i x).pending = s.pending := by rw [setStream]
end

section
variable (i : Nat) (x : IqlPort)

@[simp] theorem setIqlPort_regs : (s.setIqlPort i x).regs = s.regs := by rw [setIqlPort]
@[simp] theorem setIqlPort_staged : (s.setIqlPort i x).staged = s.staged := by rw [setIqlPort]
@[simp] theorem setIqlPort_active : (s.setIqlPort i x).active = s.active := by rw [setIqlPort]
@[simp] theorem setIqlPort_mem : (s.setIqlPort i x).mem = s.mem := by rw [setIqlPort]
@[simp] theorem setIqlPort_ue : (s.setIqlPort i x).ue = s.ue := by rw [setIqlPort]
@[simp] theorem setIqlPort_ce : (s.setIqlPort i x).ce = s.ce := by rw [setIqlPort]
@[simp] theorem setIqlPort_altered : (s.setIqlPort i x).altered = s.altered := by rw [setIqlPort]
@[simp] theorem setIqlPort_dirty : (s.setIqlPort i x).dirty = s.dirty := by rw [setIqlPort]
@[simp] theorem setIqlPort_lost : (s.setIqlPort i x).lost = s.lost := by rw [setIqlPort]
@[simp] theorem setIqlPort_repairs : (s.setIqlPort i x).repairs = s.repairs := by rw [setIqlPort]
@[simp] theorem setIqlPort_ceLog : (s.setIqlPort i x).ceLog = s.ceLog := by rw [setIqlPort]
@[simp] theorem setIqlPort_scLog : (s.setIqlPort i x).scLog = s.scLog := by rw [setIqlPort]
@[simp] theorem setIqlPort_rowMaps : (s.setIqlPort i x).rowMaps = s.rowMaps := by rw [setIqlPort]
@[simp] theorem setIqlPort_patrol : (s.setIqlPort i x).patrol = s.patrol := by rw [setIqlPort]
@[simp] theorem setIqlPort_journalDue : (s.setIqlPort i x).journalDue = s.journalDue := by rw [setIqlPort]
@[simp] theorem setIqlPort_tlb : (s.setIqlPort i x).tlb = s.tlb := by rw [setIqlPort]
@[simp] theorem setIqlPort_walks : (s.setIqlPort i x).walks = s.walks := by rw [setIqlPort]
@[simp] theorem setIqlPort_merge : (s.setIqlPort i x).merge = s.merge := by rw [setIqlPort]
@[simp] theorem setIqlPort_ctxs : (s.setIqlPort i x).ctxs = s.ctxs := by rw [setIqlPort]
@[simp] theorem setIqlPort_queues : (s.setIqlPort i x).queues = s.queues := by rw [setIqlPort]
@[simp] theorem setIqlPort_subSeq : (s.setIqlPort i x).subSeq = s.subSeq := by rw [setIqlPort]
@[simp] theorem setIqlPort_startSeq : (s.setIqlPort i x).startSeq = s.startSeq := by rw [setIqlPort]
@[simp] theorem setIqlPort_slotLast : (s.setIqlPort i x).slotLast = s.slotLast := by rw [setIqlPort]
@[simp] theorem setIqlPort_doorSlot : (s.setIqlPort i x).doorSlot = s.doorSlot := by rw [setIqlPort]
@[simp] theorem setIqlPort_rrSlot : (s.setIqlPort i x).rrSlot = s.rrSlot := by rw [setIqlPort]
@[simp] theorem setIqlPort_rrSince : (s.setIqlPort i x).rrSince = s.rrSince := by rw [setIqlPort]
@[simp] theorem setIqlPort_courts : (s.setIqlPort i x).courts = s.courts := by rw [setIqlPort]
@[simp] theorem setIqlPort_fields : (s.setIqlPort i x).fields = s.fields := by rw [setIqlPort]
@[simp] theorem setIqlPort_quarters : (s.setIqlPort i x).quarters = s.quarters := by rw [setIqlPort]
@[simp] theorem setIqlPort_cores : (s.setIqlPort i x).cores = s.cores := by rw [setIqlPort]
@[simp] theorem setIqlPort_launches : (s.setIqlPort i x).launches = s.launches := by rw [setIqlPort]
@[simp] theorem setIqlPort_blocks : (s.setIqlPort i x).blocks = s.blocks := by rw [setIqlPort]
@[simp] theorem setIqlPort_groups : (s.setIqlPort i x).groups = s.groups := by rw [setIqlPort]
@[simp] theorem setIqlPort_passes : (s.setIqlPort i x).passes = s.passes := by rw [setIqlPort]
@[simp] theorem setIqlPort_pipes : (s.setIqlPort i x).pipes = s.pipes := by rw [setIqlPort]
@[simp] theorem setIqlPort_dp : (s.setIqlPort i x).dp = s.dp := by rw [setIqlPort]
@[simp] theorem setIqlPort_streamStates : (s.setIqlPort i x).streamStates = s.streamStates := by rw [setIqlPort]
@[simp] theorem setIqlPort_rasterLeaving : (s.setIqlPort i x).rasterLeaving = s.rasterLeaving := by rw [setIqlPort]
@[simp] theorem setIqlPort_heavyEnd : (s.setIqlPort i x).heavyEnd = s.heavyEnd := by rw [setIqlPort]
@[simp] theorem setIqlPort_zeroing : (s.setIqlPort i x).zeroing = s.zeroing := by rw [setIqlPort]
@[simp] theorem setIqlPort_inspects : (s.setIqlPort i x).inspects = s.inspects := by rw [setIqlPort]
@[simp] theorem setIqlPort_inspected : (s.setIqlPort i x).inspected = s.inspected := by rw [setIqlPort]
@[simp] theorem setIqlPort_eth : (s.setIqlPort i x).eth = s.eth := by rw [setIqlPort]
@[simp] theorem setIqlPort_qps : (s.setIqlPort i x).qps = s.qps := by rw [setIqlPort]
@[simp] theorem setIqlPort_keys : (s.setIqlPort i x).keys = s.keys := by rw [setIqlPort]
@[simp] theorem setIqlPort_streams : (s.setIqlPort i x).streams = s.streams := by rw [setIqlPort]
@[simp] theorem setIqlPort_time : (s.setIqlPort i x).time = s.time := by rw [setIqlPort]
@[simp] theorem setIqlPort_txns : (s.setIqlPort i x).txns = s.txns := by rw [setIqlPort]
@[simp] theorem setIqlPort_txWait : (s.setIqlPort i x).txWait = s.txWait := by rw [setIqlPort]
@[simp] theorem setIqlPort_far : (s.setIqlPort i x).far = s.far := by rw [setIqlPort]
@[simp] theorem setIqlPort_farUnit : (s.setIqlPort i x).farUnit = s.farUnit := by rw [setIqlPort]
@[simp] theorem setIqlPort_farMiss : (s.setIqlPort i x).farMiss = s.farMiss := by rw [setIqlPort]
@[simp] theorem setIqlPort_farLack : (s.setIqlPort i x).farLack = s.farLack := by rw [setIqlPort]
@[simp] theorem setIqlPort_whistle : (s.setIqlPort i x).whistle = s.whistle := by rw [setIqlPort]
@[simp] theorem setIqlPort_buckets : (s.setIqlPort i x).buckets = s.buckets := by rw [setIqlPort]
@[simp] theorem setIqlPort_unwritten : (s.setIqlPort i x).unwritten = s.unwritten := by rw [setIqlPort]
@[simp] theorem setIqlPort_flushing : (s.setIqlPort i x).flushing = s.flushing := by rw [setIqlPort]
@[simp] theorem setIqlPort_jobs : (s.setIqlPort i x).jobs = s.jobs := by rw [setIqlPort]
@[simp] theorem setIqlPort_power : (s.setIqlPort i x).power = s.power := by rw [setIqlPort]
@[simp] theorem setIqlPort_stw : (s.setIqlPort i x).stw = s.stw := by rw [setIqlPort]
@[simp] theorem setIqlPort_recoveries : (s.setIqlPort i x).recoveries = s.recoveries := by rw [setIqlPort]
@[simp] theorem setIqlPort_referee : (s.setIqlPort i x).referee = s.referee := by rw [setIqlPort]
@[simp] theorem setIqlPort_outbox : (s.setIqlPort i x).outbox = s.outbox := by rw [setIqlPort]
@[simp] theorem setIqlPort_mgmt : (s.setIqlPort i x).mgmt = s.mgmt := by rw [setIqlPort]
@[simp] theorem setIqlPort_free : (s.setIqlPort i x).free = s.free := by rw [setIqlPort]
@[simp] theorem setIqlPort_pending : (s.setIqlPort i x).pending = s.pending := by rw [setIqlPort]
end

section
variable (i : Nat) (x : Txn)

@[simp] theorem setTxn_regs : (s.setTxn i x).regs = s.regs := by rw [setTxn]
@[simp] theorem setTxn_staged : (s.setTxn i x).staged = s.staged := by rw [setTxn]
@[simp] theorem setTxn_active : (s.setTxn i x).active = s.active := by rw [setTxn]
@[simp] theorem setTxn_mem : (s.setTxn i x).mem = s.mem := by rw [setTxn]
@[simp] theorem setTxn_ue : (s.setTxn i x).ue = s.ue := by rw [setTxn]
@[simp] theorem setTxn_ce : (s.setTxn i x).ce = s.ce := by rw [setTxn]
@[simp] theorem setTxn_altered : (s.setTxn i x).altered = s.altered := by rw [setTxn]
@[simp] theorem setTxn_dirty : (s.setTxn i x).dirty = s.dirty := by rw [setTxn]
@[simp] theorem setTxn_lost : (s.setTxn i x).lost = s.lost := by rw [setTxn]
@[simp] theorem setTxn_repairs : (s.setTxn i x).repairs = s.repairs := by rw [setTxn]
@[simp] theorem setTxn_ceLog : (s.setTxn i x).ceLog = s.ceLog := by rw [setTxn]
@[simp] theorem setTxn_scLog : (s.setTxn i x).scLog = s.scLog := by rw [setTxn]
@[simp] theorem setTxn_rowMaps : (s.setTxn i x).rowMaps = s.rowMaps := by rw [setTxn]
@[simp] theorem setTxn_patrol : (s.setTxn i x).patrol = s.patrol := by rw [setTxn]
@[simp] theorem setTxn_journalDue : (s.setTxn i x).journalDue = s.journalDue := by rw [setTxn]
@[simp] theorem setTxn_tlb : (s.setTxn i x).tlb = s.tlb := by rw [setTxn]
@[simp] theorem setTxn_walks : (s.setTxn i x).walks = s.walks := by rw [setTxn]
@[simp] theorem setTxn_merge : (s.setTxn i x).merge = s.merge := by rw [setTxn]
@[simp] theorem setTxn_ctxs : (s.setTxn i x).ctxs = s.ctxs := by rw [setTxn]
@[simp] theorem setTxn_queues : (s.setTxn i x).queues = s.queues := by rw [setTxn]
@[simp] theorem setTxn_subSeq : (s.setTxn i x).subSeq = s.subSeq := by rw [setTxn]
@[simp] theorem setTxn_startSeq : (s.setTxn i x).startSeq = s.startSeq := by rw [setTxn]
@[simp] theorem setTxn_slotLast : (s.setTxn i x).slotLast = s.slotLast := by rw [setTxn]
@[simp] theorem setTxn_doorSlot : (s.setTxn i x).doorSlot = s.doorSlot := by rw [setTxn]
@[simp] theorem setTxn_rrSlot : (s.setTxn i x).rrSlot = s.rrSlot := by rw [setTxn]
@[simp] theorem setTxn_rrSince : (s.setTxn i x).rrSince = s.rrSince := by rw [setTxn]
@[simp] theorem setTxn_courts : (s.setTxn i x).courts = s.courts := by rw [setTxn]
@[simp] theorem setTxn_fields : (s.setTxn i x).fields = s.fields := by rw [setTxn]
@[simp] theorem setTxn_quarters : (s.setTxn i x).quarters = s.quarters := by rw [setTxn]
@[simp] theorem setTxn_cores : (s.setTxn i x).cores = s.cores := by rw [setTxn]
@[simp] theorem setTxn_launches : (s.setTxn i x).launches = s.launches := by rw [setTxn]
@[simp] theorem setTxn_blocks : (s.setTxn i x).blocks = s.blocks := by rw [setTxn]
@[simp] theorem setTxn_groups : (s.setTxn i x).groups = s.groups := by rw [setTxn]
@[simp] theorem setTxn_passes : (s.setTxn i x).passes = s.passes := by rw [setTxn]
@[simp] theorem setTxn_pipes : (s.setTxn i x).pipes = s.pipes := by rw [setTxn]
@[simp] theorem setTxn_dp : (s.setTxn i x).dp = s.dp := by rw [setTxn]
@[simp] theorem setTxn_streamStates : (s.setTxn i x).streamStates = s.streamStates := by rw [setTxn]
@[simp] theorem setTxn_rasterLeaving : (s.setTxn i x).rasterLeaving = s.rasterLeaving := by rw [setTxn]
@[simp] theorem setTxn_heavyEnd : (s.setTxn i x).heavyEnd = s.heavyEnd := by rw [setTxn]
@[simp] theorem setTxn_zeroing : (s.setTxn i x).zeroing = s.zeroing := by rw [setTxn]
@[simp] theorem setTxn_inspects : (s.setTxn i x).inspects = s.inspects := by rw [setTxn]
@[simp] theorem setTxn_inspected : (s.setTxn i x).inspected = s.inspected := by rw [setTxn]
@[simp] theorem setTxn_eth : (s.setTxn i x).eth = s.eth := by rw [setTxn]
@[simp] theorem setTxn_qps : (s.setTxn i x).qps = s.qps := by rw [setTxn]
@[simp] theorem setTxn_keys : (s.setTxn i x).keys = s.keys := by rw [setTxn]
@[simp] theorem setTxn_streams : (s.setTxn i x).streams = s.streams := by rw [setTxn]
@[simp] theorem setTxn_time : (s.setTxn i x).time = s.time := by rw [setTxn]
@[simp] theorem setTxn_iql : (s.setTxn i x).iql = s.iql := by rw [setTxn]
@[simp] theorem setTxn_txWait : (s.setTxn i x).txWait = s.txWait := by rw [setTxn]
@[simp] theorem setTxn_far : (s.setTxn i x).far = s.far := by rw [setTxn]
@[simp] theorem setTxn_farUnit : (s.setTxn i x).farUnit = s.farUnit := by rw [setTxn]
@[simp] theorem setTxn_farMiss : (s.setTxn i x).farMiss = s.farMiss := by rw [setTxn]
@[simp] theorem setTxn_farLack : (s.setTxn i x).farLack = s.farLack := by rw [setTxn]
@[simp] theorem setTxn_whistle : (s.setTxn i x).whistle = s.whistle := by rw [setTxn]
@[simp] theorem setTxn_buckets : (s.setTxn i x).buckets = s.buckets := by rw [setTxn]
@[simp] theorem setTxn_unwritten : (s.setTxn i x).unwritten = s.unwritten := by rw [setTxn]
@[simp] theorem setTxn_flushing : (s.setTxn i x).flushing = s.flushing := by rw [setTxn]
@[simp] theorem setTxn_jobs : (s.setTxn i x).jobs = s.jobs := by rw [setTxn]
@[simp] theorem setTxn_power : (s.setTxn i x).power = s.power := by rw [setTxn]
@[simp] theorem setTxn_stw : (s.setTxn i x).stw = s.stw := by rw [setTxn]
@[simp] theorem setTxn_recoveries : (s.setTxn i x).recoveries = s.recoveries := by rw [setTxn]
@[simp] theorem setTxn_referee : (s.setTxn i x).referee = s.referee := by rw [setTxn]
@[simp] theorem setTxn_outbox : (s.setTxn i x).outbox = s.outbox := by rw [setTxn]
@[simp] theorem setTxn_mgmt : (s.setTxn i x).mgmt = s.mgmt := by rw [setTxn]
@[simp] theorem setTxn_free : (s.setTxn i x).free = s.free := by rw [setTxn]
@[simp] theorem setTxn_pending : (s.setTxn i x).pending = s.pending := by rw [setTxn]
end

@[simp] theorem fresh_regs : s.fresh.2.regs = s.regs := rfl
@[simp] theorem fresh_staged : s.fresh.2.staged = s.staged := rfl
@[simp] theorem fresh_active : s.fresh.2.active = s.active := rfl
@[simp] theorem fresh_mem : s.fresh.2.mem = s.mem := rfl
@[simp] theorem fresh_ue : s.fresh.2.ue = s.ue := rfl
@[simp] theorem fresh_ce : s.fresh.2.ce = s.ce := rfl
@[simp] theorem fresh_altered : s.fresh.2.altered = s.altered := rfl
@[simp] theorem fresh_dirty : s.fresh.2.dirty = s.dirty := rfl
@[simp] theorem fresh_lost : s.fresh.2.lost = s.lost := rfl
@[simp] theorem fresh_repairs : s.fresh.2.repairs = s.repairs := rfl
@[simp] theorem fresh_ceLog : s.fresh.2.ceLog = s.ceLog := rfl
@[simp] theorem fresh_scLog : s.fresh.2.scLog = s.scLog := rfl
@[simp] theorem fresh_rowMaps : s.fresh.2.rowMaps = s.rowMaps := rfl
@[simp] theorem fresh_patrol : s.fresh.2.patrol = s.patrol := rfl
@[simp] theorem fresh_journalDue : s.fresh.2.journalDue = s.journalDue := rfl
@[simp] theorem fresh_tlb : s.fresh.2.tlb = s.tlb := rfl
@[simp] theorem fresh_walks : s.fresh.2.walks = s.walks := rfl
@[simp] theorem fresh_merge : s.fresh.2.merge = s.merge := rfl
@[simp] theorem fresh_ctxs : s.fresh.2.ctxs = s.ctxs := rfl
@[simp] theorem fresh_queues : s.fresh.2.queues = s.queues := rfl
@[simp] theorem fresh_subSeq : s.fresh.2.subSeq = s.subSeq := rfl
@[simp] theorem fresh_startSeq : s.fresh.2.startSeq = s.startSeq := rfl
@[simp] theorem fresh_slotLast : s.fresh.2.slotLast = s.slotLast := rfl
@[simp] theorem fresh_doorSlot : s.fresh.2.doorSlot = s.doorSlot := rfl
@[simp] theorem fresh_rrSlot : s.fresh.2.rrSlot = s.rrSlot := rfl
@[simp] theorem fresh_rrSince : s.fresh.2.rrSince = s.rrSince := rfl
@[simp] theorem fresh_courts : s.fresh.2.courts = s.courts := rfl
@[simp] theorem fresh_fields : s.fresh.2.fields = s.fields := rfl
@[simp] theorem fresh_quarters : s.fresh.2.quarters = s.quarters := rfl
@[simp] theorem fresh_cores : s.fresh.2.cores = s.cores := rfl
@[simp] theorem fresh_launches : s.fresh.2.launches = s.launches := rfl
@[simp] theorem fresh_blocks : s.fresh.2.blocks = s.blocks := rfl
@[simp] theorem fresh_groups : s.fresh.2.groups = s.groups := rfl
@[simp] theorem fresh_passes : s.fresh.2.passes = s.passes := rfl
@[simp] theorem fresh_pipes : s.fresh.2.pipes = s.pipes := rfl
@[simp] theorem fresh_dp : s.fresh.2.dp = s.dp := rfl
@[simp] theorem fresh_streamStates : s.fresh.2.streamStates = s.streamStates := rfl
@[simp] theorem fresh_rasterLeaving : s.fresh.2.rasterLeaving = s.rasterLeaving := rfl
@[simp] theorem fresh_heavyEnd : s.fresh.2.heavyEnd = s.heavyEnd := rfl
@[simp] theorem fresh_zeroing : s.fresh.2.zeroing = s.zeroing := rfl
@[simp] theorem fresh_inspects : s.fresh.2.inspects = s.inspects := rfl
@[simp] theorem fresh_inspected : s.fresh.2.inspected = s.inspected := rfl
@[simp] theorem fresh_eth : s.fresh.2.eth = s.eth := rfl
@[simp] theorem fresh_qps : s.fresh.2.qps = s.qps := rfl
@[simp] theorem fresh_keys : s.fresh.2.keys = s.keys := rfl
@[simp] theorem fresh_streams : s.fresh.2.streams = s.streams := rfl
@[simp] theorem fresh_time : s.fresh.2.time = s.time := rfl
@[simp] theorem fresh_iql : s.fresh.2.iql = s.iql := rfl
@[simp] theorem fresh_txns : s.fresh.2.txns = s.txns := rfl
@[simp] theorem fresh_txWait : s.fresh.2.txWait = s.txWait := rfl
@[simp] theorem fresh_far : s.fresh.2.far = s.far := rfl
@[simp] theorem fresh_farUnit : s.fresh.2.farUnit = s.farUnit := rfl
@[simp] theorem fresh_farMiss : s.fresh.2.farMiss = s.farMiss := rfl
@[simp] theorem fresh_farLack : s.fresh.2.farLack = s.farLack := rfl
@[simp] theorem fresh_whistle : s.fresh.2.whistle = s.whistle := rfl
@[simp] theorem fresh_buckets : s.fresh.2.buckets = s.buckets := rfl
@[simp] theorem fresh_unwritten : s.fresh.2.unwritten = s.unwritten := rfl
@[simp] theorem fresh_flushing : s.fresh.2.flushing = s.flushing := rfl
@[simp] theorem fresh_jobs : s.fresh.2.jobs = s.jobs := rfl
@[simp] theorem fresh_power : s.fresh.2.power = s.power := rfl
@[simp] theorem fresh_stw : s.fresh.2.stw = s.stw := rfl
@[simp] theorem fresh_recoveries : s.fresh.2.recoveries = s.recoveries := rfl
@[simp] theorem fresh_referee : s.fresh.2.referee = s.referee := rfl
@[simp] theorem fresh_outbox : s.fresh.2.outbox = s.outbox := rfl
@[simp] theorem fresh_mgmt : s.fresh.2.mgmt = s.mgmt := rfl
@[simp] theorem fresh_pending : s.fresh.2.pending = s.pending := rfl

end Sys2Proof.Machine.State
end

