-- ==== Sys2Proof/Laws/Parts.lean ====
section
/-! SUPPORT. What each numbered part, register and byte reads after each named update of the state. -/

namespace Sys2Proof.Machine.State

variable (s : State)

section
variable (fam i : Nat) (v : W64)

@[simp] theorem wr_at_ctx (j : Nat) : (s.wr fam i v).ctx j = s.ctx j := by rw [ctx, wr_ctxs, ctx]
@[simp] theorem wr_at_queue (j : Nat) : (s.wr fam i v).queue j = s.queue j := by rw [queue, wr_queues, queue]
@[simp] theorem wr_at_court (j : Nat) : (s.wr fam i v).court j = s.court j := by rw [court, wr_courts, court]
@[simp] theorem wr_at_field (j : Nat) : (s.wr fam i v).field j = s.field j := by rw [field, wr_fields, field]
@[simp] theorem wr_at_quarter (j : Nat) : (s.wr fam i v).quarter j = s.quarter j := by rw [quarter, wr_quarters, quarter]
@[simp] theorem wr_at_core (j : Nat) : (s.wr fam i v).core j = s.core j := by rw [core, wr_cores, core]
@[simp] theorem wr_at_launch (j : Nat) : (s.wr fam i v).launch j = s.launch j := by rw [launch, wr_launches, launch]
@[simp] theorem wr_at_block (j : Nat) : (s.wr fam i v).block j = s.block j := by rw [block, wr_blocks, block]
@[simp] theorem wr_at_group (j : Nat) : (s.wr fam i v).group j = s.group j := by rw [group, wr_groups, group]
@[simp] theorem wr_at_pass (j : Nat) : (s.wr fam i v).pass j = s.pass j := by rw [pass, wr_passes, pass]
@[simp] theorem wr_at_pipe (j : Nat) : (s.wr fam i v).pipe j = s.pipe j := by rw [pipe, wr_pipes, pipe]
@[simp] theorem wr_at_dpTx (j : Nat) : (s.wr fam i v).dpTx j = s.dpTx j := by rw [dpTx, wr_dp, dpTx]
@[simp] theorem wr_at_ethPort (j : Nat) : (s.wr fam i v).ethPort j = s.ethPort j := by rw [ethPort, wr_eth, ethPort]
@[simp] theorem wr_at_qp (j : Nat) : (s.wr fam i v).qp j = s.qp j := by rw [qp, wr_qps, qp]
@[simp] theorem wr_at_key (j : Nat) : (s.wr fam i v).key j = s.key j := by rw [key, wr_keys, key]
@[simp] theorem wr_at_stream (j : Nat) : (s.wr fam i v).stream j = s.stream j := by rw [stream, wr_streams, stream]
@[simp] theorem wr_at_iqlPort (j : Nat) : (s.wr fam i v).iqlPort j = s.iqlPort j := by rw [iqlPort, wr_iql, iqlPort]
@[simp] theorem wr_at_txn (j : Nat) : (s.wr fam i v).txn j = s.txn j := by rw [txn, wr_txns, txn]
@[simp] theorem wr_byte (a : Nat) : (s.wr fam i v).byte a = s.byte a := by rw [byte, wr_mem, byte]
@[simp] theorem wr_bytes (a n : Nat) : (s.wr fam i v).bytes a n = s.bytes a n := by simp only [bytes, wr_byte]
end

section
variable (a : Nat) (b : Byte)

@[simp] theorem setByte_at_ctx (j : Nat) : (s.setByte a b).ctx j = s.ctx j := by rw [ctx, setByte_ctxs, ctx]
@[simp] theorem setByte_at_queue (j : Nat) : (s.setByte a b).queue j = s.queue j := by rw [queue, setByte_queues, queue]
@[simp] theorem setByte_at_court (j : Nat) : (s.setByte a b).court j = s.court j := by rw [court, setByte_courts, court]
@[simp] theorem setByte_at_field (j : Nat) : (s.setByte a b).field j = s.field j := by rw [field, setByte_fields, field]
@[simp] theorem setByte_at_quarter (j : Nat) : (s.setByte a b).quarter j = s.quarter j := by rw [quarter, setByte_quarters, quarter]
@[simp] theorem setByte_at_core (j : Nat) : (s.setByte a b).core j = s.core j := by rw [core, setByte_cores, core]
@[simp] theorem setByte_at_launch (j : Nat) : (s.setByte a b).launch j = s.launch j := by rw [launch, setByte_launches, launch]
@[simp] theorem setByte_at_block (j : Nat) : (s.setByte a b).block j = s.block j := by rw [block, setByte_blocks, block]
@[simp] theorem setByte_at_group (j : Nat) : (s.setByte a b).group j = s.group j := by rw [group, setByte_groups, group]
@[simp] theorem setByte_at_pass (j : Nat) : (s.setByte a b).pass j = s.pass j := by rw [pass, setByte_passes, pass]
@[simp] theorem setByte_at_pipe (j : Nat) : (s.setByte a b).pipe j = s.pipe j := by rw [pipe, setByte_pipes, pipe]
@[simp] theorem setByte_at_dpTx (j : Nat) : (s.setByte a b).dpTx j = s.dpTx j := by rw [dpTx, setByte_dp, dpTx]
@[simp] theorem setByte_at_ethPort (j : Nat) : (s.setByte a b).ethPort j = s.ethPort j := by rw [ethPort, setByte_eth, ethPort]
@[simp] theorem setByte_at_qp (j : Nat) : (s.setByte a b).qp j = s.qp j := by rw [qp, setByte_qps, qp]
@[simp] theorem setByte_at_key (j : Nat) : (s.setByte a b).key j = s.key j := by rw [key, setByte_keys, key]
@[simp] theorem setByte_at_stream (j : Nat) : (s.setByte a b).stream j = s.stream j := by rw [stream, setByte_streams, stream]
@[simp] theorem setByte_at_iqlPort (j : Nat) : (s.setByte a b).iqlPort j = s.iqlPort j := by rw [iqlPort, setByte_iql, iqlPort]
@[simp] theorem setByte_at_txn (j : Nat) : (s.setByte a b).txn j = s.txn j := by rw [txn, setByte_txns, txn]
@[simp] theorem setByte_rd (g j : Nat) : (s.setByte a b).rd g j = s.rd g j := by rw [rd, setByte_regs, rd]
@[simp] theorem setByte_fld (g : Reg.Field) (j : Nat) : (s.setByte a b).fld g j = s.fld g j := by rw [fld, setByte_rd, fld]
@[simp] theorem setByte_now : (s.setByte a b).now = s.now := by rw [now, setByte_fld, now]
end

section
variable (fam i : Nat) (v : W64)

@[simp] theorem stage_at_ctx (j : Nat) : (s.stage fam i v).ctx j = s.ctx j := by rw [ctx, stage_ctxs, ctx]
@[simp] theorem stage_at_queue (j : Nat) : (s.stage fam i v).queue j = s.queue j := by rw [queue, stage_queues, queue]
@[simp] theorem stage_at_court (j : Nat) : (s.stage fam i v).court j = s.court j := by rw [court, stage_courts, court]
@[simp] theorem stage_at_field (j : Nat) : (s.stage fam i v).field j = s.field j := by rw [field, stage_fields, field]
@[simp] theorem stage_at_quarter (j : Nat) : (s.stage fam i v).quarter j = s.quarter j := by rw [quarter, stage_quarters, quarter]
@[simp] theorem stage_at_core (j : Nat) : (s.stage fam i v).core j = s.core j := by rw [core, stage_cores, core]
@[simp] theorem stage_at_launch (j : Nat) : (s.stage fam i v).launch j = s.launch j := by rw [launch, stage_launches, launch]
@[simp] theorem stage_at_block (j : Nat) : (s.stage fam i v).block j = s.block j := by rw [block, stage_blocks, block]
@[simp] theorem stage_at_group (j : Nat) : (s.stage fam i v).group j = s.group j := by rw [group, stage_groups, group]
@[simp] theorem stage_at_pass (j : Nat) : (s.stage fam i v).pass j = s.pass j := by rw [pass, stage_passes, pass]
@[simp] theorem stage_at_pipe (j : Nat) : (s.stage fam i v).pipe j = s.pipe j := by rw [pipe, stage_pipes, pipe]
@[simp] theorem stage_at_dpTx (j : Nat) : (s.stage fam i v).dpTx j = s.dpTx j := by rw [dpTx, stage_dp, dpTx]
@[simp] theorem stage_at_ethPort (j : Nat) : (s.stage fam i v).ethPort j = s.ethPort j := by rw [ethPort, stage_eth, ethPort]
@[simp] theorem stage_at_qp (j : Nat) : (s.stage fam i v).qp j = s.qp j := by rw [qp, stage_qps, qp]
@[simp] theorem stage_at_key (j : Nat) : (s.stage fam i v).key j = s.key j := by rw [key, stage_keys, key]
@[simp] theorem stage_at_stream (j : Nat) : (s.stage fam i v).stream j = s.stream j := by rw [stream, stage_streams, stream]
@[simp] theorem stage_at_iqlPort (j : Nat) : (s.stage fam i v).iqlPort j = s.iqlPort j := by rw [iqlPort, stage_iql, iqlPort]
@[simp] theorem stage_at_txn (j : Nat) : (s.stage fam i v).txn j = s.txn j := by rw [txn, stage_txns, txn]
@[simp] theorem stage_rd (g j : Nat) : (s.stage fam i v).rd g j = s.rd g j := by rw [rd, stage_regs, rd]
@[simp] theorem stage_fld (g : Reg.Field) (j : Nat) : (s.stage fam i v).fld g j = s.fld g j := by rw [fld, stage_rd, fld]
@[simp] theorem stage_now : (s.stage fam i v).now = s.now := by rw [now, stage_fld, now]
@[simp] theorem stage_byte (a : Nat) : (s.stage fam i v).byte a = s.byte a := by rw [byte, stage_mem, byte]
@[simp] theorem stage_bytes (a n : Nat) : (s.stage fam i v).bytes a n = s.bytes a n := by simp only [bytes, stage_byte]
end

section
variable (fam i : Nat)

@[simp] theorem dropStaged_at_ctx (j : Nat) : (s.dropStaged fam i).ctx j = s.ctx j := by rw [ctx, dropStaged_ctxs, ctx]
@[simp] theorem dropStaged_at_queue (j : Nat) : (s.dropStaged fam i).queue j = s.queue j := by rw [queue, dropStaged_queues, queue]
@[simp] theorem dropStaged_at_court (j : Nat) : (s.dropStaged fam i).court j = s.court j := by rw [court, dropStaged_courts, court]
@[simp] theorem dropStaged_at_field (j : Nat) : (s.dropStaged fam i).field j = s.field j := by rw [field, dropStaged_fields, field]
@[simp] theorem dropStaged_at_quarter (j : Nat) : (s.dropStaged fam i).quarter j = s.quarter j := by rw [quarter, dropStaged_quarters, quarter]
@[simp] theorem dropStaged_at_core (j : Nat) : (s.dropStaged fam i).core j = s.core j := by rw [core, dropStaged_cores, core]
@[simp] theorem dropStaged_at_launch (j : Nat) : (s.dropStaged fam i).launch j = s.launch j := by rw [launch, dropStaged_launches, launch]
@[simp] theorem dropStaged_at_block (j : Nat) : (s.dropStaged fam i).block j = s.block j := by rw [block, dropStaged_blocks, block]
@[simp] theorem dropStaged_at_group (j : Nat) : (s.dropStaged fam i).group j = s.group j := by rw [group, dropStaged_groups, group]
@[simp] theorem dropStaged_at_pass (j : Nat) : (s.dropStaged fam i).pass j = s.pass j := by rw [pass, dropStaged_passes, pass]
@[simp] theorem dropStaged_at_pipe (j : Nat) : (s.dropStaged fam i).pipe j = s.pipe j := by rw [pipe, dropStaged_pipes, pipe]
@[simp] theorem dropStaged_at_dpTx (j : Nat) : (s.dropStaged fam i).dpTx j = s.dpTx j := by rw [dpTx, dropStaged_dp, dpTx]
@[simp] theorem dropStaged_at_ethPort (j : Nat) : (s.dropStaged fam i).ethPort j = s.ethPort j := by rw [ethPort, dropStaged_eth, ethPort]
@[simp] theorem dropStaged_at_qp (j : Nat) : (s.dropStaged fam i).qp j = s.qp j := by rw [qp, dropStaged_qps, qp]
@[simp] theorem dropStaged_at_key (j : Nat) : (s.dropStaged fam i).key j = s.key j := by rw [key, dropStaged_keys, key]
@[simp] theorem dropStaged_at_stream (j : Nat) : (s.dropStaged fam i).stream j = s.stream j := by rw [stream, dropStaged_streams, stream]
@[simp] theorem dropStaged_at_iqlPort (j : Nat) : (s.dropStaged fam i).iqlPort j = s.iqlPort j := by rw [iqlPort, dropStaged_iql, iqlPort]
@[simp] theorem dropStaged_at_txn (j : Nat) : (s.dropStaged fam i).txn j = s.txn j := by rw [txn, dropStaged_txns, txn]
@[simp] theorem dropStaged_rd (g j : Nat) : (s.dropStaged fam i).rd g j = s.rd g j := by rw [rd, dropStaged_regs, rd]
@[simp] theorem dropStaged_fld (g : Reg.Field) (j : Nat) : (s.dropStaged fam i).fld g j = s.fld g j := by rw [fld, dropStaged_rd, fld]
@[simp] theorem dropStaged_now : (s.dropStaged fam i).now = s.now := by rw [now, dropStaged_fld, now]
@[simp] theorem dropStaged_byte (a : Nat) : (s.dropStaged fam i).byte a = s.byte a := by rw [byte, dropStaged_mem, byte]
@[simp] theorem dropStaged_bytes (a n : Nat) : (s.dropStaged fam i).bytes a n = s.bytes a n := by simp only [bytes, dropStaged_byte]
end

section
variable (fam i : Nat)

@[simp] theorem latch_at_ctx (j : Nat) : (s.latch fam i).ctx j = s.ctx j := by rw [ctx, latch_ctxs, ctx]
@[simp] theorem latch_at_queue (j : Nat) : (s.latch fam i).queue j = s.queue j := by rw [queue, latch_queues, queue]
@[simp] theorem latch_at_court (j : Nat) : (s.latch fam i).court j = s.court j := by rw [court, latch_courts, court]
@[simp] theorem latch_at_field (j : Nat) : (s.latch fam i).field j = s.field j := by rw [field, latch_fields, field]
@[simp] theorem latch_at_quarter (j : Nat) : (s.latch fam i).quarter j = s.quarter j := by rw [quarter, latch_quarters, quarter]
@[simp] theorem latch_at_core (j : Nat) : (s.latch fam i).core j = s.core j := by rw [core, latch_cores, core]
@[simp] theorem latch_at_launch (j : Nat) : (s.latch fam i).launch j = s.launch j := by rw [launch, latch_launches, launch]
@[simp] theorem latch_at_block (j : Nat) : (s.latch fam i).block j = s.block j := by rw [block, latch_blocks, block]
@[simp] theorem latch_at_group (j : Nat) : (s.latch fam i).group j = s.group j := by rw [group, latch_groups, group]
@[simp] theorem latch_at_pass (j : Nat) : (s.latch fam i).pass j = s.pass j := by rw [pass, latch_passes, pass]
@[simp] theorem latch_at_pipe (j : Nat) : (s.latch fam i).pipe j = s.pipe j := by rw [pipe, latch_pipes, pipe]
@[simp] theorem latch_at_dpTx (j : Nat) : (s.latch fam i).dpTx j = s.dpTx j := by rw [dpTx, latch_dp, dpTx]
@[simp] theorem latch_at_ethPort (j : Nat) : (s.latch fam i).ethPort j = s.ethPort j := by rw [ethPort, latch_eth, ethPort]
@[simp] theorem latch_at_qp (j : Nat) : (s.latch fam i).qp j = s.qp j := by rw [qp, latch_qps, qp]
@[simp] theorem latch_at_key (j : Nat) : (s.latch fam i).key j = s.key j := by rw [key, latch_keys, key]
@[simp] theorem latch_at_stream (j : Nat) : (s.latch fam i).stream j = s.stream j := by rw [stream, latch_streams, stream]
@[simp] theorem latch_at_iqlPort (j : Nat) : (s.latch fam i).iqlPort j = s.iqlPort j := by rw [iqlPort, latch_iql, iqlPort]
@[simp] theorem latch_at_txn (j : Nat) : (s.latch fam i).txn j = s.txn j := by rw [txn, latch_txns, txn]
@[simp] theorem latch_rd (g j : Nat) : (s.latch fam i).rd g j = s.rd g j := by rw [rd, latch_regs, rd]
@[simp] theorem latch_fld (g : Reg.Field) (j : Nat) : (s.latch fam i).fld g j = s.fld g j := by rw [fld, latch_rd, fld]
@[simp] theorem latch_now : (s.latch fam i).now = s.now := by rw [now, latch_fld, now]
@[simp] theorem latch_byte (a : Nat) : (s.latch fam i).byte a = s.byte a := by rw [byte, latch_mem, byte]
@[simp] theorem latch_bytes (a n : Nat) : (s.latch fam i).bytes a n = s.bytes a n := by simp only [bytes, latch_byte]
end

section
variable (fam : Nat)

@[simp] theorem resetFam_at_ctx (j : Nat) : (s.resetFam fam).ctx j = s.ctx j := by rw [ctx, resetFam_ctxs, ctx]
@[simp] theorem resetFam_at_queue (j : Nat) : (s.resetFam fam).queue j = s.queue j := by rw [queue, resetFam_queues, queue]
@[simp] theorem resetFam_at_court (j : Nat) : (s.resetFam fam).court j = s.court j := by rw [court, resetFam_courts, court]
@[simp] theorem resetFam_at_field (j : Nat) : (s.resetFam fam).field j = s.field j := by rw [field, resetFam_fields, field]
@[simp] theorem resetFam_at_quarter (j : Nat) : (s.resetFam fam).quarter j = s.quarter j := by rw [quarter, resetFam_quarters, quarter]
@[simp] theorem resetFam_at_core (j : Nat) : (s.resetFam fam).core j = s.core j := by rw [core, resetFam_cores, core]
@[simp] theorem resetFam_at_launch (j : Nat) : (s.resetFam fam).launch j = s.launch j := by rw [launch, resetFam_launches, launch]
@[simp] theorem resetFam_at_block (j : Nat) : (s.resetFam fam).block j = s.block j := by rw [block, resetFam_blocks, block]
@[simp] theorem resetFam_at_group (j : Nat) : (s.resetFam fam).group j = s.group j := by rw [group, resetFam_groups, group]
@[simp] theorem resetFam_at_pass (j : Nat) : (s.resetFam fam).pass j = s.pass j := by rw [pass, resetFam_passes, pass]
@[simp] theorem resetFam_at_pipe (j : Nat) : (s.resetFam fam).pipe j = s.pipe j := by rw [pipe, resetFam_pipes, pipe]
@[simp] theorem resetFam_at_dpTx (j : Nat) : (s.resetFam fam).dpTx j = s.dpTx j := by rw [dpTx, resetFam_dp, dpTx]
@[simp] theorem resetFam_at_ethPort (j : Nat) : (s.resetFam fam).ethPort j = s.ethPort j := by rw [ethPort, resetFam_eth, ethPort]
@[simp] theorem resetFam_at_qp (j : Nat) : (s.resetFam fam).qp j = s.qp j := by rw [qp, resetFam_qps, qp]
@[simp] theorem resetFam_at_key (j : Nat) : (s.resetFam fam).key j = s.key j := by rw [key, resetFam_keys, key]
@[simp] theorem resetFam_at_stream (j : Nat) : (s.resetFam fam).stream j = s.stream j := by rw [stream, resetFam_streams, stream]
@[simp] theorem resetFam_at_iqlPort (j : Nat) : (s.resetFam fam).iqlPort j = s.iqlPort j := by rw [iqlPort, resetFam_iql, iqlPort]
@[simp] theorem resetFam_at_txn (j : Nat) : (s.resetFam fam).txn j = s.txn j := by rw [txn, resetFam_txns, txn]
@[simp] theorem resetFam_byte (a : Nat) : (s.resetFam fam).byte a = s.byte a := by rw [byte, resetFam_mem, byte]
@[simp] theorem resetFam_bytes (a n : Nat) : (s.resetFam fam).bytes a n = s.bytes a n := by simp only [bytes, resetFam_byte]
end

section
variable (st : W16)

@[simp] theorem answer_at_ctx (j : Nat) : (s.answer st).ctx j = s.ctx j := by rw [ctx, answer_ctxs, ctx]
@[simp] theorem answer_at_queue (j : Nat) : (s.answer st).queue j = s.queue j := by rw [queue, answer_queues, queue]
@[simp] theorem answer_at_court (j : Nat) : (s.answer st).court j = s.court j := by rw [court, answer_courts, court]
@[simp] theorem answer_at_field (j : Nat) : (s.answer st).field j = s.field j := by rw [field, answer_fields, field]
@[simp] theorem answer_at_quarter (j : Nat) : (s.answer st).quarter j = s.quarter j := by rw [quarter, answer_quarters, quarter]
@[simp] theorem answer_at_core (j : Nat) : (s.answer st).core j = s.core j := by rw [core, answer_cores, core]
@[simp] theorem answer_at_launch (j : Nat) : (s.answer st).launch j = s.launch j := by rw [launch, answer_launches, launch]
@[simp] theorem answer_at_block (j : Nat) : (s.answer st).block j = s.block j := by rw [block, answer_blocks, block]
@[simp] theorem answer_at_group (j : Nat) : (s.answer st).group j = s.group j := by rw [group, answer_groups, group]
@[simp] theorem answer_at_pass (j : Nat) : (s.answer st).pass j = s.pass j := by rw [pass, answer_passes, pass]
@[simp] theorem answer_at_pipe (j : Nat) : (s.answer st).pipe j = s.pipe j := by rw [pipe, answer_pipes, pipe]
@[simp] theorem answer_at_dpTx (j : Nat) : (s.answer st).dpTx j = s.dpTx j := by rw [dpTx, answer_dp, dpTx]
@[simp] theorem answer_at_ethPort (j : Nat) : (s.answer st).ethPort j = s.ethPort j := by rw [ethPort, answer_eth, ethPort]
@[simp] theorem answer_at_qp (j : Nat) : (s.answer st).qp j = s.qp j := by rw [qp, answer_qps, qp]
@[simp] theorem answer_at_key (j : Nat) : (s.answer st).key j = s.key j := by rw [key, answer_keys, key]
@[simp] theorem answer_at_stream (j : Nat) : (s.answer st).stream j = s.stream j := by rw [stream, answer_streams, stream]
@[simp] theorem answer_at_iqlPort (j : Nat) : (s.answer st).iqlPort j = s.iqlPort j := by rw [iqlPort, answer_iql, iqlPort]
@[simp] theorem answer_at_txn (j : Nat) : (s.answer st).txn j = s.txn j := by rw [txn, answer_txns, txn]
@[simp] theorem answer_rd (g j : Nat) : (s.answer st).rd g j = s.rd g j := by rw [rd, answer_regs, rd]
@[simp] theorem answer_fld (g : Reg.Field) (j : Nat) : (s.answer st).fld g j = s.fld g j := by rw [fld, answer_rd, fld]
@[simp] theorem answer_now : (s.answer st).now = s.now := by rw [now, answer_fld, now]
@[simp] theorem answer_byte (a : Nat) : (s.answer st).byte a = s.byte a := by rw [byte, answer_mem, byte]
@[simp] theorem answer_bytes (a n : Nat) : (s.answer st).bytes a n = s.bytes a n := by simp only [bytes, answer_byte]
end

section
variable (m : Msg)

@[simp] theorem emit_at_ctx (j : Nat) : (s.emit m).ctx j = s.ctx j := by rw [ctx, emit_ctxs, ctx]
@[simp] theorem emit_at_queue (j : Nat) : (s.emit m).queue j = s.queue j := by rw [queue, emit_queues, queue]
@[simp] theorem emit_at_court (j : Nat) : (s.emit m).court j = s.court j := by rw [court, emit_courts, court]
@[simp] theorem emit_at_field (j : Nat) : (s.emit m).field j = s.field j := by rw [field, emit_fields, field]
@[simp] theorem emit_at_quarter (j : Nat) : (s.emit m).quarter j = s.quarter j := by rw [quarter, emit_quarters, quarter]
@[simp] theorem emit_at_core (j : Nat) : (s.emit m).core j = s.core j := by rw [core, emit_cores, core]
@[simp] theorem emit_at_launch (j : Nat) : (s.emit m).launch j = s.launch j := by rw [launch, emit_launches, launch]
@[simp] theorem emit_at_block (j : Nat) : (s.emit m).block j = s.block j := by rw [block, emit_blocks, block]
@[simp] theorem emit_at_group (j : Nat) : (s.emit m).group j = s.group j := by rw [group, emit_groups, group]
@[simp] theorem emit_at_pass (j : Nat) : (s.emit m).pass j = s.pass j := by rw [pass, emit_passes, pass]
@[simp] theorem emit_at_pipe (j : Nat) : (s.emit m).pipe j = s.pipe j := by rw [pipe, emit_pipes, pipe]
@[simp] theorem emit_at_dpTx (j : Nat) : (s.emit m).dpTx j = s.dpTx j := by rw [dpTx, emit_dp, dpTx]
@[simp] theorem emit_at_ethPort (j : Nat) : (s.emit m).ethPort j = s.ethPort j := by rw [ethPort, emit_eth, ethPort]
@[simp] theorem emit_at_qp (j : Nat) : (s.emit m).qp j = s.qp j := by rw [qp, emit_qps, qp]
@[simp] theorem emit_at_key (j : Nat) : (s.emit m).key j = s.key j := by rw [key, emit_keys, key]
@[simp] theorem emit_at_stream (j : Nat) : (s.emit m).stream j = s.stream j := by rw [stream, emit_streams, stream]
@[simp] theorem emit_at_iqlPort (j : Nat) : (s.emit m).iqlPort j = s.iqlPort j := by rw [iqlPort, emit_iql, iqlPort]
@[simp] theorem emit_at_txn (j : Nat) : (s.emit m).txn j = s.txn j := by rw [txn, emit_txns, txn]
@[simp] theorem emit_rd (g j : Nat) : (s.emit m).rd g j = s.rd g j := by rw [rd, emit_regs, rd]
@[simp] theorem emit_fld (g : Reg.Field) (j : Nat) : (s.emit m).fld g j = s.fld g j := by rw [fld, emit_rd, fld]
@[simp] theorem emit_now : (s.emit m).now = s.now := by rw [now, emit_fld, now]
@[simp] theorem emit_byte (a : Nat) : (s.emit m).byte a = s.byte a := by rw [byte, emit_mem, byte]
@[simp] theorem emit_bytes (a n : Nat) : (s.emit m).bytes a n = s.bytes a n := by simp only [bytes, emit_byte]
end

section
variable (f : Reg.Field) (i x : Nat)

@[simp] theorem setFld_at_ctx (j : Nat) : (s.setFld f i x).ctx j = s.ctx j := by rw [ctx, setFld_ctxs, ctx]
@[simp] theorem setFld_at_queue (j : Nat) : (s.setFld f i x).queue j = s.queue j := by rw [queue, setFld_queues, queue]
@[simp] theorem setFld_at_court (j : Nat) : (s.setFld f i x).court j = s.court j := by rw [court, setFld_courts, court]
@[simp] theorem setFld_at_field (j : Nat) : (s.setFld f i x).field j = s.field j := by rw [field, setFld_fields, field]
@[simp] theorem setFld_at_quarter (j : Nat) : (s.setFld f i x).quarter j = s.quarter j := by rw [quarter, setFld_quarters, quarter]
@[simp] theorem setFld_at_core (j : Nat) : (s.setFld f i x).core j = s.core j := by rw [core, setFld_cores, core]
@[simp] theorem setFld_at_launch (j : Nat) : (s.setFld f i x).launch j = s.launch j := by rw [launch, setFld_launches, launch]
@[simp] theorem setFld_at_block (j : Nat) : (s.setFld f i x).block j = s.block j := by rw [block, setFld_blocks, block]
@[simp] theorem setFld_at_group (j : Nat) : (s.setFld f i x).group j = s.group j := by rw [group, setFld_groups, group]
@[simp] theorem setFld_at_pass (j : Nat) : (s.setFld f i x).pass j = s.pass j := by rw [pass, setFld_passes, pass]
@[simp] theorem setFld_at_pipe (j : Nat) : (s.setFld f i x).pipe j = s.pipe j := by rw [pipe, setFld_pipes, pipe]
@[simp] theorem setFld_at_dpTx (j : Nat) : (s.setFld f i x).dpTx j = s.dpTx j := by rw [dpTx, setFld_dp, dpTx]
@[simp] theorem setFld_at_ethPort (j : Nat) : (s.setFld f i x).ethPort j = s.ethPort j := by rw [ethPort, setFld_eth, ethPort]
@[simp] theorem setFld_at_qp (j : Nat) : (s.setFld f i x).qp j = s.qp j := by rw [qp, setFld_qps, qp]
@[simp] theorem setFld_at_key (j : Nat) : (s.setFld f i x).key j = s.key j := by rw [key, setFld_keys, key]
@[simp] theorem setFld_at_stream (j : Nat) : (s.setFld f i x).stream j = s.stream j := by rw [stream, setFld_streams, stream]
@[simp] theorem setFld_at_iqlPort (j : Nat) : (s.setFld f i x).iqlPort j = s.iqlPort j := by rw [iqlPort, setFld_iql, iqlPort]
@[simp] theorem setFld_at_txn (j : Nat) : (s.setFld f i x).txn j = s.txn j := by rw [txn, setFld_txns, txn]
@[simp] theorem setFld_byte (a : Nat) : (s.setFld f i x).byte a = s.byte a := by rw [byte, setFld_mem, byte]
@[simp] theorem setFld_bytes (a n : Nat) : (s.setFld f i x).bytes a n = s.bytes a n := by simp only [bytes, setFld_byte]
end

section
variable (f : Reg.Field) (i n : Nat)

@[simp] theorem bump_at_ctx (j : Nat) : (s.bump f i n).ctx j = s.ctx j := by rw [ctx, bump_ctxs, ctx]
@[simp] theorem bump_at_queue (j : Nat) : (s.bump f i n).queue j = s.queue j := by rw [queue, bump_queues, queue]
@[simp] theorem bump_at_court (j : Nat) : (s.bump f i n).court j = s.court j := by rw [court, bump_courts, court]
@[simp] theorem bump_at_field (j : Nat) : (s.bump f i n).field j = s.field j := by rw [field, bump_fields, field]
@[simp] theorem bump_at_quarter (j : Nat) : (s.bump f i n).quarter j = s.quarter j := by rw [quarter, bump_quarters, quarter]
@[simp] theorem bump_at_core (j : Nat) : (s.bump f i n).core j = s.core j := by rw [core, bump_cores, core]
@[simp] theorem bump_at_launch (j : Nat) : (s.bump f i n).launch j = s.launch j := by rw [launch, bump_launches, launch]
@[simp] theorem bump_at_block (j : Nat) : (s.bump f i n).block j = s.block j := by rw [block, bump_blocks, block]
@[simp] theorem bump_at_group (j : Nat) : (s.bump f i n).group j = s.group j := by rw [group, bump_groups, group]
@[simp] theorem bump_at_pass (j : Nat) : (s.bump f i n).pass j = s.pass j := by rw [pass, bump_passes, pass]
@[simp] theorem bump_at_pipe (j : Nat) : (s.bump f i n).pipe j = s.pipe j := by rw [pipe, bump_pipes, pipe]
@[simp] theorem bump_at_dpTx (j : Nat) : (s.bump f i n).dpTx j = s.dpTx j := by rw [dpTx, bump_dp, dpTx]
@[simp] theorem bump_at_ethPort (j : Nat) : (s.bump f i n).ethPort j = s.ethPort j := by rw [ethPort, bump_eth, ethPort]
@[simp] theorem bump_at_qp (j : Nat) : (s.bump f i n).qp j = s.qp j := by rw [qp, bump_qps, qp]
@[simp] theorem bump_at_key (j : Nat) : (s.bump f i n).key j = s.key j := by rw [key, bump_keys, key]
@[simp] theorem bump_at_stream (j : Nat) : (s.bump f i n).stream j = s.stream j := by rw [stream, bump_streams, stream]
@[simp] theorem bump_at_iqlPort (j : Nat) : (s.bump f i n).iqlPort j = s.iqlPort j := by rw [iqlPort, bump_iql, iqlPort]
@[simp] theorem bump_at_txn (j : Nat) : (s.bump f i n).txn j = s.txn j := by rw [txn, bump_txns, txn]
@[simp] theorem bump_byte (a : Nat) : (s.bump f i n).byte a = s.byte a := by rw [byte, bump_mem, byte]
@[simp] theorem bump_bytes (a n : Nat) : (s.bump f i n).bytes a n = s.bytes a n := by simp only [bytes, bump_byte]
end

section
variable (fam i : Nat) (v : W64) (l : Bool)

@[simp] theorem wrPlain_at_ctx (j : Nat) : (s.wrPlain fam i v l).ctx j = s.ctx j := by rw [ctx, wrPlain_ctxs, ctx]
@[simp] theorem wrPlain_at_queue (j : Nat) : (s.wrPlain fam i v l).queue j = s.queue j := by rw [queue, wrPlain_queues, queue]
@[simp] theorem wrPlain_at_court (j : Nat) : (s.wrPlain fam i v l).court j = s.court j := by rw [court, wrPlain_courts, court]
@[simp] theorem wrPlain_at_field (j : Nat) : (s.wrPlain fam i v l).field j = s.field j := by rw [field, wrPlain_fields, field]
@[simp] theorem wrPlain_at_quarter (j : Nat) : (s.wrPlain fam i v l).quarter j = s.quarter j := by rw [quarter, wrPlain_quarters, quarter]
@[simp] theorem wrPlain_at_core (j : Nat) : (s.wrPlain fam i v l).core j = s.core j := by rw [core, wrPlain_cores, core]
@[simp] theorem wrPlain_at_launch (j : Nat) : (s.wrPlain fam i v l).launch j = s.launch j := by rw [launch, wrPlain_launches, launch]
@[simp] theorem wrPlain_at_block (j : Nat) : (s.wrPlain fam i v l).block j = s.block j := by rw [block, wrPlain_blocks, block]
@[simp] theorem wrPlain_at_group (j : Nat) : (s.wrPlain fam i v l).group j = s.group j := by rw [group, wrPlain_groups, group]
@[simp] theorem wrPlain_at_pass (j : Nat) : (s.wrPlain fam i v l).pass j = s.pass j := by rw [pass, wrPlain_passes, pass]
@[simp] theorem wrPlain_at_pipe (j : Nat) : (s.wrPlain fam i v l).pipe j = s.pipe j := by rw [pipe, wrPlain_pipes, pipe]
@[simp] theorem wrPlain_at_dpTx (j : Nat) : (s.wrPlain fam i v l).dpTx j = s.dpTx j := by rw [dpTx, wrPlain_dp, dpTx]
@[simp] theorem wrPlain_at_ethPort (j : Nat) : (s.wrPlain fam i v l).ethPort j = s.ethPort j := by rw [ethPort, wrPlain_eth, ethPort]
@[simp] theorem wrPlain_at_qp (j : Nat) : (s.wrPlain fam i v l).qp j = s.qp j := by rw [qp, wrPlain_qps, qp]
@[simp] theorem wrPlain_at_key (j : Nat) : (s.wrPlain fam i v l).key j = s.key j := by rw [key, wrPlain_keys, key]
@[simp] theorem wrPlain_at_stream (j : Nat) : (s.wrPlain fam i v l).stream j = s.stream j := by rw [stream, wrPlain_streams, stream]
@[simp] theorem wrPlain_at_iqlPort (j : Nat) : (s.wrPlain fam i v l).iqlPort j = s.iqlPort j := by rw [iqlPort, wrPlain_iql, iqlPort]
@[simp] theorem wrPlain_at_txn (j : Nat) : (s.wrPlain fam i v l).txn j = s.txn j := by rw [txn, wrPlain_txns, txn]
@[simp] theorem wrPlain_byte (a : Nat) : (s.wrPlain fam i v l).byte a = s.byte a := by rw [byte, wrPlain_mem, byte]
@[simp] theorem wrPlain_bytes (a n : Nat) : (s.wrPlain fam i v l).bytes a n = s.bytes a n := by simp only [bytes, wrPlain_byte]
end

section
variable (i : Nat) (x : Ctx)

@[simp] theorem setCtx_at_queue (j : Nat) : (s.setCtx i x).queue j = s.queue j := by rw [queue, setCtx_queues, queue]
@[simp] theorem setCtx_at_court (j : Nat) : (s.setCtx i x).court j = s.court j := by rw [court, setCtx_courts, court]
@[simp] theorem setCtx_at_field (j : Nat) : (s.setCtx i x).field j = s.field j := by rw [field, setCtx_fields, field]
@[simp] theorem setCtx_at_quarter (j : Nat) : (s.setCtx i x).quarter j = s.quarter j := by rw [quarter, setCtx_quarters, quarter]
@[simp] theorem setCtx_at_core (j : Nat) : (s.setCtx i x).core j = s.core j := by rw [core, setCtx_cores, core]
@[simp] theorem setCtx_at_launch (j : Nat) : (s.setCtx i x).launch j = s.launch j := by rw [launch, setCtx_launches, launch]
@[simp] theorem setCtx_at_block (j : Nat) : (s.setCtx i x).block j = s.block j := by rw [block, setCtx_blocks, block]
@[simp] theorem setCtx_at_group (j : Nat) : (s.setCtx i x).group j = s.group j := by rw [group, setCtx_groups, group]
@[simp] theorem setCtx_at_pass (j : Nat) : (s.setCtx i x).pass j = s.pass j := by rw [pass, setCtx_passes, pass]
@[simp] theorem setCtx_at_pipe (j : Nat) : (s.setCtx i x).pipe j = s.pipe j := by rw [pipe, setCtx_pipes, pipe]
@[simp] theorem setCtx_at_dpTx (j : Nat) : (s.setCtx i x).dpTx j = s.dpTx j := by rw [dpTx, setCtx_dp, dpTx]
@[simp] theorem setCtx_at_ethPort (j : Nat) : (s.setCtx i x).ethPort j = s.ethPort j := by rw [ethPort, setCtx_eth, ethPort]
@[simp] theorem setCtx_at_qp (j : Nat) : (s.setCtx i x).qp j = s.qp j := by rw [qp, setCtx_qps, qp]
@[simp] theorem setCtx_at_key (j : Nat) : (s.setCtx i x).key j = s.key j := by rw [key, setCtx_keys, key]
@[simp] theorem setCtx_at_stream (j : Nat) : (s.setCtx i x).stream j = s.stream j := by rw [stream, setCtx_streams, stream]
@[simp] theorem setCtx_at_iqlPort (j : Nat) : (s.setCtx i x).iqlPort j = s.iqlPort j := by rw [iqlPort, setCtx_iql, iqlPort]
@[simp] theorem setCtx_at_txn (j : Nat) : (s.setCtx i x).txn j = s.txn j := by rw [txn, setCtx_txns, txn]
@[simp] theorem setCtx_rd (g j : Nat) : (s.setCtx i x).rd g j = s.rd g j := by rw [rd, setCtx_regs, rd]
@[simp] theorem setCtx_fld (g : Reg.Field) (j : Nat) : (s.setCtx i x).fld g j = s.fld g j := by rw [fld, setCtx_rd, fld]
@[simp] theorem setCtx_now : (s.setCtx i x).now = s.now := by rw [now, setCtx_fld, now]
@[simp] theorem setCtx_byte (a : Nat) : (s.setCtx i x).byte a = s.byte a := by rw [byte, setCtx_mem, byte]
@[simp] theorem setCtx_bytes (a n : Nat) : (s.setCtx i x).bytes a n = s.bytes a n := by simp only [bytes, setCtx_byte]
end

section
variable (i : Nat) (x : Queue)

@[simp] theorem setQueue_at_ctx (j : Nat) : (s.setQueue i x).ctx j = s.ctx j := by rw [ctx, setQueue_ctxs, ctx]
@[simp] theorem setQueue_at_court (j : Nat) : (s.setQueue i x).court j = s.court j := by rw [court, setQueue_courts, court]
@[simp] theorem setQueue_at_field (j : Nat) : (s.setQueue i x).field j = s.field j := by rw [field, setQueue_fields, field]
@[simp] theorem setQueue_at_quarter (j : Nat) : (s.setQueue i x).quarter j = s.quarter j := by rw [quarter, setQueue_quarters, quarter]
@[simp] theorem setQueue_at_core (j : Nat) : (s.setQueue i x).core j = s.core j := by rw [core, setQueue_cores, core]
@[simp] theorem setQueue_at_launch (j : Nat) : (s.setQueue i x).launch j = s.launch j := by rw [launch, setQueue_launches, launch]
@[simp] theorem setQueue_at_block (j : Nat) : (s.setQueue i x).block j = s.block j := by rw [block, setQueue_blocks, block]
@[simp] theorem setQueue_at_group (j : Nat) : (s.setQueue i x).group j = s.group j := by rw [group, setQueue_groups, group]
@[simp] theorem setQueue_at_pass (j : Nat) : (s.setQueue i x).pass j = s.pass j := by rw [pass, setQueue_passes, pass]
@[simp] theorem setQueue_at_pipe (j : Nat) : (s.setQueue i x).pipe j = s.pipe j := by rw [pipe, setQueue_pipes, pipe]
@[simp] theorem setQueue_at_dpTx (j : Nat) : (s.setQueue i x).dpTx j = s.dpTx j := by rw [dpTx, setQueue_dp, dpTx]
@[simp] theorem setQueue_at_ethPort (j : Nat) : (s.setQueue i x).ethPort j = s.ethPort j := by rw [ethPort, setQueue_eth, ethPort]
@[simp] theorem setQueue_at_qp (j : Nat) : (s.setQueue i x).qp j = s.qp j := by rw [qp, setQueue_qps, qp]
@[simp] theorem setQueue_at_key (j : Nat) : (s.setQueue i x).key j = s.key j := by rw [key, setQueue_keys, key]
@[simp] theorem setQueue_at_stream (j : Nat) : (s.setQueue i x).stream j = s.stream j := by rw [stream, setQueue_streams, stream]
@[simp] theorem setQueue_at_iqlPort (j : Nat) : (s.setQueue i x).iqlPort j = s.iqlPort j := by rw [iqlPort, setQueue_iql, iqlPort]
@[simp] theorem setQueue_at_txn (j : Nat) : (s.setQueue i x).txn j = s.txn j := by rw [txn, setQueue_txns, txn]
@[simp] theorem setQueue_rd (g j : Nat) : (s.setQueue i x).rd g j = s.rd g j := by rw [rd, setQueue_regs, rd]
@[simp] theorem setQueue_fld (g : Reg.Field) (j : Nat) : (s.setQueue i x).fld g j = s.fld g j := by rw [fld, setQueue_rd, fld]
@[simp] theorem setQueue_now : (s.setQueue i x).now = s.now := by rw [now, setQueue_fld, now]
@[simp] theorem setQueue_byte (a : Nat) : (s.setQueue i x).byte a = s.byte a := by rw [byte, setQueue_mem, byte]
@[simp] theorem setQueue_bytes (a n : Nat) : (s.setQueue i x).bytes a n = s.bytes a n := by simp only [bytes, setQueue_byte]
end

section
variable (i : Nat) (x : Court)

@[simp] theorem setCourt_at_ctx (j : Nat) : (s.setCourt i x).ctx j = s.ctx j := by rw [ctx, setCourt_ctxs, ctx]
@[simp] theorem setCourt_at_queue (j : Nat) : (s.setCourt i x).queue j = s.queue j := by rw [queue, setCourt_queues, queue]
@[simp] theorem setCourt_at_field (j : Nat) : (s.setCourt i x).field j = s.field j := by rw [field, setCourt_fields, field]
@[simp] theorem setCourt_at_quarter (j : Nat) : (s.setCourt i x).quarter j = s.quarter j := by rw [quarter, setCourt_quarters, quarter]
@[simp] theorem setCourt_at_core (j : Nat) : (s.setCourt i x).core j = s.core j := by rw [core, setCourt_cores, core]
@[simp] theorem setCourt_at_launch (j : Nat) : (s.setCourt i x).launch j = s.launch j := by rw [launch, setCourt_launches, launch]
@[simp] theorem setCourt_at_block (j : Nat) : (s.setCourt i x).block j = s.block j := by rw [block, setCourt_blocks, block]
@[simp] theorem setCourt_at_group (j : Nat) : (s.setCourt i x).group j = s.group j := by rw [group, setCourt_groups, group]
@[simp] theorem setCourt_at_pass (j : Nat) : (s.setCourt i x).pass j = s.pass j := by rw [pass, setCourt_passes, pass]
@[simp] theorem setCourt_at_pipe (j : Nat) : (s.setCourt i x).pipe j = s.pipe j := by rw [pipe, setCourt_pipes, pipe]
@[simp] theorem setCourt_at_dpTx (j : Nat) : (s.setCourt i x).dpTx j = s.dpTx j := by rw [dpTx, setCourt_dp, dpTx]
@[simp] theorem setCourt_at_ethPort (j : Nat) : (s.setCourt i x).ethPort j = s.ethPort j := by rw [ethPort, setCourt_eth, ethPort]
@[simp] theorem setCourt_at_qp (j : Nat) : (s.setCourt i x).qp j = s.qp j := by rw [qp, setCourt_qps, qp]
@[simp] theorem setCourt_at_key (j : Nat) : (s.setCourt i x).key j = s.key j := by rw [key, setCourt_keys, key]
@[simp] theorem setCourt_at_stream (j : Nat) : (s.setCourt i x).stream j = s.stream j := by rw [stream, setCourt_streams, stream]
@[simp] theorem setCourt_at_iqlPort (j : Nat) : (s.setCourt i x).iqlPort j = s.iqlPort j := by rw [iqlPort, setCourt_iql, iqlPort]
@[simp] theorem setCourt_at_txn (j : Nat) : (s.setCourt i x).txn j = s.txn j := by rw [txn, setCourt_txns, txn]
@[simp] theorem setCourt_rd (g j : Nat) : (s.setCourt i x).rd g j = s.rd g j := by rw [rd, setCourt_regs, rd]
@[simp] theorem setCourt_fld (g : Reg.Field) (j : Nat) : (s.setCourt i x).fld g j = s.fld g j := by rw [fld, setCourt_rd, fld]
@[simp] theorem setCourt_now : (s.setCourt i x).now = s.now := by rw [now, setCourt_fld, now]
@[simp] theorem setCourt_byte (a : Nat) : (s.setCourt i x).byte a = s.byte a := by rw [byte, setCourt_mem, byte]
@[simp] theorem setCourt_bytes (a n : Nat) : (s.setCourt i x).bytes a n = s.bytes a n := by simp only [bytes, setCourt_byte]
end

section
variable (i : Nat) (x : FieldPart)

@[simp] theorem setField_at_ctx (j : Nat) : (s.setField i x).ctx j = s.ctx j := by rw [ctx, setField_ctxs, ctx]
@[simp] theorem setField_at_queue (j : Nat) : (s.setField i x).queue j = s.queue j := by rw [queue, setField_queues, queue]
@[simp] theorem setField_at_court (j : Nat) : (s.setField i x).court j = s.court j := by rw [court, setField_courts, court]
@[simp] theorem setField_at_quarter (j : Nat) : (s.setField i x).quarter j = s.quarter j := by rw [quarter, setField_quarters, quarter]
@[simp] theorem setField_at_core (j : Nat) : (s.setField i x).core j = s.core j := by rw [core, setField_cores, core]
@[simp] theorem setField_at_launch (j : Nat) : (s.setField i x).launch j = s.launch j := by rw [launch, setField_launches, launch]
@[simp] theorem setField_at_block (j : Nat) : (s.setField i x).block j = s.block j := by rw [block, setField_blocks, block]
@[simp] theorem setField_at_group (j : Nat) : (s.setField i x).group j = s.group j := by rw [group, setField_groups, group]
@[simp] theorem setField_at_pass (j : Nat) : (s.setField i x).pass j = s.pass j := by rw [pass, setField_passes, pass]
@[simp] theorem setField_at_pipe (j : Nat) : (s.setField i x).pipe j = s.pipe j := by rw [pipe, setField_pipes, pipe]
@[simp] theorem setField_at_dpTx (j : Nat) : (s.setField i x).dpTx j = s.dpTx j := by rw [dpTx, setField_dp, dpTx]
@[simp] theorem setField_at_ethPort (j : Nat) : (s.setField i x).ethPort j = s.ethPort j := by rw [ethPort, setField_eth, ethPort]
@[simp] theorem setField_at_qp (j : Nat) : (s.setField i x).qp j = s.qp j := by rw [qp, setField_qps, qp]
@[simp] theorem setField_at_key (j : Nat) : (s.setField i x).key j = s.key j := by rw [key, setField_keys, key]
@[simp] theorem setField_at_stream (j : Nat) : (s.setField i x).stream j = s.stream j := by rw [stream, setField_streams, stream]
@[simp] theorem setField_at_iqlPort (j : Nat) : (s.setField i x).iqlPort j = s.iqlPort j := by rw [iqlPort, setField_iql, iqlPort]
@[simp] theorem setField_at_txn (j : Nat) : (s.setField i x).txn j = s.txn j := by rw [txn, setField_txns, txn]
@[simp] theorem setField_rd (g j : Nat) : (s.setField i x).rd g j = s.rd g j := by rw [rd, setField_regs, rd]
@[simp] theorem setField_fld (g : Reg.Field) (j : Nat) : (s.setField i x).fld g j = s.fld g j := by rw [fld, setField_rd, fld]
@[simp] theorem setField_now : (s.setField i x).now = s.now := by rw [now, setField_fld, now]
@[simp] theorem setField_byte (a : Nat) : (s.setField i x).byte a = s.byte a := by rw [byte, setField_mem, byte]
@[simp] theorem setField_bytes (a n : Nat) : (s.setField i x).bytes a n = s.bytes a n := by simp only [bytes, setField_byte]
end

section
variable (i : Nat) (x : Quarter)

@[simp] theorem setQuarter_at_ctx (j : Nat) : (s.setQuarter i x).ctx j = s.ctx j := by rw [ctx, setQuarter_ctxs, ctx]
@[simp] theorem setQuarter_at_queue (j : Nat) : (s.setQuarter i x).queue j = s.queue j := by rw [queue, setQuarter_queues, queue]
@[simp] theorem setQuarter_at_court (j : Nat) : (s.setQuarter i x).court j = s.court j := by rw [court, setQuarter_courts, court]
@[simp] theorem setQuarter_at_field (j : Nat) : (s.setQuarter i x).field j = s.field j := by rw [field, setQuarter_fields, field]
@[simp] theorem setQuarter_at_core (j : Nat) : (s.setQuarter i x).core j = s.core j := by rw [core, setQuarter_cores, core]
@[simp] theorem setQuarter_at_launch (j : Nat) : (s.setQuarter i x).launch j = s.launch j := by rw [launch, setQuarter_launches, launch]
@[simp] theorem setQuarter_at_block (j : Nat) : (s.setQuarter i x).block j = s.block j := by rw [block, setQuarter_blocks, block]
@[simp] theorem setQuarter_at_group (j : Nat) : (s.setQuarter i x).group j = s.group j := by rw [group, setQuarter_groups, group]
@[simp] theorem setQuarter_at_pass (j : Nat) : (s.setQuarter i x).pass j = s.pass j := by rw [pass, setQuarter_passes, pass]
@[simp] theorem setQuarter_at_pipe (j : Nat) : (s.setQuarter i x).pipe j = s.pipe j := by rw [pipe, setQuarter_pipes, pipe]
@[simp] theorem setQuarter_at_dpTx (j : Nat) : (s.setQuarter i x).dpTx j = s.dpTx j := by rw [dpTx, setQuarter_dp, dpTx]
@[simp] theorem setQuarter_at_ethPort (j : Nat) : (s.setQuarter i x).ethPort j = s.ethPort j := by rw [ethPort, setQuarter_eth, ethPort]
@[simp] theorem setQuarter_at_qp (j : Nat) : (s.setQuarter i x).qp j = s.qp j := by rw [qp, setQuarter_qps, qp]
@[simp] theorem setQuarter_at_key (j : Nat) : (s.setQuarter i x).key j = s.key j := by rw [key, setQuarter_keys, key]
@[simp] theorem setQuarter_at_stream (j : Nat) : (s.setQuarter i x).stream j = s.stream j := by rw [stream, setQuarter_streams, stream]
@[simp] theorem setQuarter_at_iqlPort (j : Nat) : (s.setQuarter i x).iqlPort j = s.iqlPort j := by rw [iqlPort, setQuarter_iql, iqlPort]
@[simp] theorem setQuarter_at_txn (j : Nat) : (s.setQuarter i x).txn j = s.txn j := by rw [txn, setQuarter_txns, txn]
@[simp] theorem setQuarter_rd (g j : Nat) : (s.setQuarter i x).rd g j = s.rd g j := by rw [rd, setQuarter_regs, rd]
@[simp] theorem setQuarter_fld (g : Reg.Field) (j : Nat) : (s.setQuarter i x).fld g j = s.fld g j := by rw [fld, setQuarter_rd, fld]
@[simp] theorem setQuarter_now : (s.setQuarter i x).now = s.now := by rw [now, setQuarter_fld, now]
@[simp] theorem setQuarter_byte (a : Nat) : (s.setQuarter i x).byte a = s.byte a := by rw [byte, setQuarter_mem, byte]
@[simp] theorem setQuarter_bytes (a n : Nat) : (s.setQuarter i x).bytes a n = s.bytes a n := by simp only [bytes, setQuarter_byte]
end

section
variable (i : Nat) (x : Core)

@[simp] theorem setCore_at_ctx (j : Nat) : (s.setCore i x).ctx j = s.ctx j := by rw [ctx, setCore_ctxs, ctx]
@[simp] theorem setCore_at_queue (j : Nat) : (s.setCore i x).queue j = s.queue j := by rw [queue, setCore_queues, queue]
@[simp] theorem setCore_at_court (j : Nat) : (s.setCore i x).court j = s.court j := by rw [court, setCore_courts, court]
@[simp] theorem setCore_at_field (j : Nat) : (s.setCore i x).field j = s.field j := by rw [field, setCore_fields, field]
@[simp] theorem setCore_at_quarter (j : Nat) : (s.setCore i x).quarter j = s.quarter j := by rw [quarter, setCore_quarters, quarter]
@[simp] theorem setCore_at_launch (j : Nat) : (s.setCore i x).launch j = s.launch j := by rw [launch, setCore_launches, launch]
@[simp] theorem setCore_at_block (j : Nat) : (s.setCore i x).block j = s.block j := by rw [block, setCore_blocks, block]
@[simp] theorem setCore_at_group (j : Nat) : (s.setCore i x).group j = s.group j := by rw [group, setCore_groups, group]
@[simp] theorem setCore_at_pass (j : Nat) : (s.setCore i x).pass j = s.pass j := by rw [pass, setCore_passes, pass]
@[simp] theorem setCore_at_pipe (j : Nat) : (s.setCore i x).pipe j = s.pipe j := by rw [pipe, setCore_pipes, pipe]
@[simp] theorem setCore_at_dpTx (j : Nat) : (s.setCore i x).dpTx j = s.dpTx j := by rw [dpTx, setCore_dp, dpTx]
@[simp] theorem setCore_at_ethPort (j : Nat) : (s.setCore i x).ethPort j = s.ethPort j := by rw [ethPort, setCore_eth, ethPort]
@[simp] theorem setCore_at_qp (j : Nat) : (s.setCore i x).qp j = s.qp j := by rw [qp, setCore_qps, qp]
@[simp] theorem setCore_at_key (j : Nat) : (s.setCore i x).key j = s.key j := by rw [key, setCore_keys, key]
@[simp] theorem setCore_at_stream (j : Nat) : (s.setCore i x).stream j = s.stream j := by rw [stream, setCore_streams, stream]
@[simp] theorem setCore_at_iqlPort (j : Nat) : (s.setCore i x).iqlPort j = s.iqlPort j := by rw [iqlPort, setCore_iql, iqlPort]
@[simp] theorem setCore_at_txn (j : Nat) : (s.setCore i x).txn j = s.txn j := by rw [txn, setCore_txns, txn]
@[simp] theorem setCore_rd (g j : Nat) : (s.setCore i x).rd g j = s.rd g j := by rw [rd, setCore_regs, rd]
@[simp] theorem setCore_fld (g : Reg.Field) (j : Nat) : (s.setCore i x).fld g j = s.fld g j := by rw [fld, setCore_rd, fld]
@[simp] theorem setCore_now : (s.setCore i x).now = s.now := by rw [now, setCore_fld, now]
@[simp] theorem setCore_byte (a : Nat) : (s.setCore i x).byte a = s.byte a := by rw [byte, setCore_mem, byte]
@[simp] theorem setCore_bytes (a n : Nat) : (s.setCore i x).bytes a n = s.bytes a n := by simp only [bytes, setCore_byte]
end

section
variable (i : Nat) (x : Option Launch)

@[simp] theorem setLaunch_at_ctx (j : Nat) : (s.setLaunch i x).ctx j = s.ctx j := by rw [ctx, setLaunch_ctxs, ctx]
@[simp] theorem setLaunch_at_queue (j : Nat) : (s.setLaunch i x).queue j = s.queue j := by rw [queue, setLaunch_queues, queue]
@[simp] theorem setLaunch_at_court (j : Nat) : (s.setLaunch i x).court j = s.court j := by rw [court, setLaunch_courts, court]
@[simp] theorem setLaunch_at_field (j : Nat) : (s.setLaunch i x).field j = s.field j := by rw [field, setLaunch_fields, field]
@[simp] theorem setLaunch_at_quarter (j : Nat) : (s.setLaunch i x).quarter j = s.quarter j := by rw [quarter, setLaunch_quarters, quarter]
@[simp] theorem setLaunch_at_core (j : Nat) : (s.setLaunch i x).core j = s.core j := by rw [core, setLaunch_cores, core]
@[simp] theorem setLaunch_at_block (j : Nat) : (s.setLaunch i x).block j = s.block j := by rw [block, setLaunch_blocks, block]
@[simp] theorem setLaunch_at_group (j : Nat) : (s.setLaunch i x).group j = s.group j := by rw [group, setLaunch_groups, group]
@[simp] theorem setLaunch_at_pass (j : Nat) : (s.setLaunch i x).pass j = s.pass j := by rw [pass, setLaunch_passes, pass]
@[simp] theorem setLaunch_at_pipe (j : Nat) : (s.setLaunch i x).pipe j = s.pipe j := by rw [pipe, setLaunch_pipes, pipe]
@[simp] theorem setLaunch_at_dpTx (j : Nat) : (s.setLaunch i x).dpTx j = s.dpTx j := by rw [dpTx, setLaunch_dp, dpTx]
@[simp] theorem setLaunch_at_ethPort (j : Nat) : (s.setLaunch i x).ethPort j = s.ethPort j := by rw [ethPort, setLaunch_eth, ethPort]
@[simp] theorem setLaunch_at_qp (j : Nat) : (s.setLaunch i x).qp j = s.qp j := by rw [qp, setLaunch_qps, qp]
@[simp] theorem setLaunch_at_key (j : Nat) : (s.setLaunch i x).key j = s.key j := by rw [key, setLaunch_keys, key]
@[simp] theorem setLaunch_at_stream (j : Nat) : (s.setLaunch i x).stream j = s.stream j := by rw [stream, setLaunch_streams, stream]
@[simp] theorem setLaunch_at_iqlPort (j : Nat) : (s.setLaunch i x).iqlPort j = s.iqlPort j := by rw [iqlPort, setLaunch_iql, iqlPort]
@[simp] theorem setLaunch_at_txn (j : Nat) : (s.setLaunch i x).txn j = s.txn j := by rw [txn, setLaunch_txns, txn]
@[simp] theorem setLaunch_rd (g j : Nat) : (s.setLaunch i x).rd g j = s.rd g j := by rw [rd, setLaunch_regs, rd]
@[simp] theorem setLaunch_fld (g : Reg.Field) (j : Nat) : (s.setLaunch i x).fld g j = s.fld g j := by rw [fld, setLaunch_rd, fld]
@[simp] theorem setLaunch_now : (s.setLaunch i x).now = s.now := by rw [now, setLaunch_fld, now]
@[simp] theorem setLaunch_byte (a : Nat) : (s.setLaunch i x).byte a = s.byte a := by rw [byte, setLaunch_mem, byte]
@[simp] theorem setLaunch_bytes (a n : Nat) : (s.setLaunch i x).bytes a n = s.bytes a n := by simp only [bytes, setLaunch_byte]
end

section
variable (i : Nat) (x : Option Block)

@[simp] theorem setBlock_at_ctx (j : Nat) : (s.setBlock i x).ctx j = s.ctx j := by rw [ctx, setBlock_ctxs, ctx]
@[simp] theorem setBlock_at_queue (j : Nat) : (s.setBlock i x).queue j = s.queue j := by rw [queue, setBlock_queues, queue]
@[simp] theorem setBlock_at_court (j : Nat) : (s.setBlock i x).court j = s.court j := by rw [court, setBlock_courts, court]
@[simp] theorem setBlock_at_field (j : Nat) : (s.setBlock i x).field j = s.field j := by rw [field, setBlock_fields, field]
@[simp] theorem setBlock_at_quarter (j : Nat) : (s.setBlock i x).quarter j = s.quarter j := by rw [quarter, setBlock_quarters, quarter]
@[simp] theorem setBlock_at_core (j : Nat) : (s.setBlock i x).core j = s.core j := by rw [core, setBlock_cores, core]
@[simp] theorem setBlock_at_launch (j : Nat) : (s.setBlock i x).launch j = s.launch j := by rw [launch, setBlock_launches, launch]
@[simp] theorem setBlock_at_group (j : Nat) : (s.setBlock i x).group j = s.group j := by rw [group, setBlock_groups, group]
@[simp] theorem setBlock_at_pass (j : Nat) : (s.setBlock i x).pass j = s.pass j := by rw [pass, setBlock_passes, pass]
@[simp] theorem setBlock_at_pipe (j : Nat) : (s.setBlock i x).pipe j = s.pipe j := by rw [pipe, setBlock_pipes, pipe]
@[simp] theorem setBlock_at_dpTx (j : Nat) : (s.setBlock i x).dpTx j = s.dpTx j := by rw [dpTx, setBlock_dp, dpTx]
@[simp] theorem setBlock_at_ethPort (j : Nat) : (s.setBlock i x).ethPort j = s.ethPort j := by rw [ethPort, setBlock_eth, ethPort]
@[simp] theorem setBlock_at_qp (j : Nat) : (s.setBlock i x).qp j = s.qp j := by rw [qp, setBlock_qps, qp]
@[simp] theorem setBlock_at_key (j : Nat) : (s.setBlock i x).key j = s.key j := by rw [key, setBlock_keys, key]
@[simp] theorem setBlock_at_stream (j : Nat) : (s.setBlock i x).stream j = s.stream j := by rw [stream, setBlock_streams, stream]
@[simp] theorem setBlock_at_iqlPort (j : Nat) : (s.setBlock i x).iqlPort j = s.iqlPort j := by rw [iqlPort, setBlock_iql, iqlPort]
@[simp] theorem setBlock_at_txn (j : Nat) : (s.setBlock i x).txn j = s.txn j := by rw [txn, setBlock_txns, txn]
@[simp] theorem setBlock_rd (g j : Nat) : (s.setBlock i x).rd g j = s.rd g j := by rw [rd, setBlock_regs, rd]
@[simp] theorem setBlock_fld (g : Reg.Field) (j : Nat) : (s.setBlock i x).fld g j = s.fld g j := by rw [fld, setBlock_rd, fld]
@[simp] theorem setBlock_now : (s.setBlock i x).now = s.now := by rw [now, setBlock_fld, now]
@[simp] theorem setBlock_byte (a : Nat) : (s.setBlock i x).byte a = s.byte a := by rw [byte, setBlock_mem, byte]
@[simp] theorem setBlock_bytes (a n : Nat) : (s.setBlock i x).bytes a n = s.bytes a n := by simp only [bytes, setBlock_byte]
end

section
variable (i : Nat) (x : Option Group)

@[simp] theorem setGroup_at_ctx (j : Nat) : (s.setGroup i x).ctx j = s.ctx j := by rw [ctx, setGroup_ctxs, ctx]
@[simp] theorem setGroup_at_queue (j : Nat) : (s.setGroup i x).queue j = s.queue j := by rw [queue, setGroup_queues, queue]
@[simp] theorem setGroup_at_court (j : Nat) : (s.setGroup i x).court j = s.court j := by rw [court, setGroup_courts, court]
@[simp] theorem setGroup_at_field (j : Nat) : (s.setGroup i x).field j = s.field j := by rw [field, setGroup_fields, field]
@[simp] theorem setGroup_at_quarter (j : Nat) : (s.setGroup i x).quarter j = s.quarter j := by rw [quarter, setGroup_quarters, quarter]
@[simp] theorem setGroup_at_core (j : Nat) : (s.setGroup i x).core j = s.core j := by rw [core, setGroup_cores, core]
@[simp] theorem setGroup_at_launch (j : Nat) : (s.setGroup i x).launch j = s.launch j := by rw [launch, setGroup_launches, launch]
@[simp] theorem setGroup_at_block (j : Nat) : (s.setGroup i x).block j = s.block j := by rw [block, setGroup_blocks, block]
@[simp] theorem setGroup_at_pass (j : Nat) : (s.setGroup i x).pass j = s.pass j := by rw [pass, setGroup_passes, pass]
@[simp] theorem setGroup_at_pipe (j : Nat) : (s.setGroup i x).pipe j = s.pipe j := by rw [pipe, setGroup_pipes, pipe]
@[simp] theorem setGroup_at_dpTx (j : Nat) : (s.setGroup i x).dpTx j = s.dpTx j := by rw [dpTx, setGroup_dp, dpTx]
@[simp] theorem setGroup_at_ethPort (j : Nat) : (s.setGroup i x).ethPort j = s.ethPort j := by rw [ethPort, setGroup_eth, ethPort]
@[simp] theorem setGroup_at_qp (j : Nat) : (s.setGroup i x).qp j = s.qp j := by rw [qp, setGroup_qps, qp]
@[simp] theorem setGroup_at_key (j : Nat) : (s.setGroup i x).key j = s.key j := by rw [key, setGroup_keys, key]
@[simp] theorem setGroup_at_stream (j : Nat) : (s.setGroup i x).stream j = s.stream j := by rw [stream, setGroup_streams, stream]
@[simp] theorem setGroup_at_iqlPort (j : Nat) : (s.setGroup i x).iqlPort j = s.iqlPort j := by rw [iqlPort, setGroup_iql, iqlPort]
@[simp] theorem setGroup_at_txn (j : Nat) : (s.setGroup i x).txn j = s.txn j := by rw [txn, setGroup_txns, txn]
@[simp] theorem setGroup_rd (g j : Nat) : (s.setGroup i x).rd g j = s.rd g j := by rw [rd, setGroup_regs, rd]
@[simp] theorem setGroup_fld (g : Reg.Field) (j : Nat) : (s.setGroup i x).fld g j = s.fld g j := by rw [fld, setGroup_rd, fld]
@[simp] theorem setGroup_now : (s.setGroup i x).now = s.now := by rw [now, setGroup_fld, now]
@[simp] theorem setGroup_byte (a : Nat) : (s.setGroup i x).byte a = s.byte a := by rw [byte, setGroup_mem, byte]
@[simp] theorem setGroup_bytes (a n : Nat) : (s.setGroup i x).bytes a n = s.bytes a n := by simp only [bytes, setGroup_byte]
end

section
variable (i : Nat) (x : Option Pass)

@[simp] theorem setPass_at_ctx (j : Nat) : (s.setPass i x).ctx j = s.ctx j := by rw [ctx, setPass_ctxs, ctx]
@[simp] theorem setPass_at_queue (j : Nat) : (s.setPass i x).queue j = s.queue j := by rw [queue, setPass_queues, queue]
@[simp] theorem setPass_at_court (j : Nat) : (s.setPass i x).court j = s.court j := by rw [court, setPass_courts, court]
@[simp] theorem setPass_at_field (j : Nat) : (s.setPass i x).field j = s.field j := by rw [field, setPass_fields, field]
@[simp] theorem setPass_at_quarter (j : Nat) : (s.setPass i x).quarter j = s.quarter j := by rw [quarter, setPass_quarters, quarter]
@[simp] theorem setPass_at_core (j : Nat) : (s.setPass i x).core j = s.core j := by rw [core, setPass_cores, core]
@[simp] theorem setPass_at_launch (j : Nat) : (s.setPass i x).launch j = s.launch j := by rw [launch, setPass_launches, launch]
@[simp] theorem setPass_at_block (j : Nat) : (s.setPass i x).block j = s.block j := by rw [block, setPass_blocks, block]
@[simp] theorem setPass_at_group (j : Nat) : (s.setPass i x).group j = s.group j := by rw [group, setPass_groups, group]
@[simp] theorem setPass_at_pipe (j : Nat) : (s.setPass i x).pipe j = s.pipe j := by rw [pipe, setPass_pipes, pipe]
@[simp] theorem setPass_at_dpTx (j : Nat) : (s.setPass i x).dpTx j = s.dpTx j := by rw [dpTx, setPass_dp, dpTx]
@[simp] theorem setPass_at_ethPort (j : Nat) : (s.setPass i x).ethPort j = s.ethPort j := by rw [ethPort, setPass_eth, ethPort]
@[simp] theorem setPass_at_qp (j : Nat) : (s.setPass i x).qp j = s.qp j := by rw [qp, setPass_qps, qp]
@[simp] theorem setPass_at_key (j : Nat) : (s.setPass i x).key j = s.key j := by rw [key, setPass_keys, key]
@[simp] theorem setPass_at_stream (j : Nat) : (s.setPass i x).stream j = s.stream j := by rw [stream, setPass_streams, stream]
@[simp] theorem setPass_at_iqlPort (j : Nat) : (s.setPass i x).iqlPort j = s.iqlPort j := by rw [iqlPort, setPass_iql, iqlPort]
@[simp] theorem setPass_at_txn (j : Nat) : (s.setPass i x).txn j = s.txn j := by rw [txn, setPass_txns, txn]
@[simp] theorem setPass_rd (g j : Nat) : (s.setPass i x).rd g j = s.rd g j := by rw [rd, setPass_regs, rd]
@[simp] theorem setPass_fld (g : Reg.Field) (j : Nat) : (s.setPass i x).fld g j = s.fld g j := by rw [fld, setPass_rd, fld]
@[simp] theorem setPass_now : (s.setPass i x).now = s.now := by rw [now, setPass_fld, now]
@[simp] theorem setPass_byte (a : Nat) : (s.setPass i x).byte a = s.byte a := by rw [byte, setPass_mem, byte]
@[simp] theorem setPass_bytes (a n : Nat) : (s.setPass i x).bytes a n = s.bytes a n := by simp only [bytes, setPass_byte]
end

section
variable (i : Nat) (x : Pipe)

@[simp] theorem setPipe_at_ctx (j : Nat) : (s.setPipe i x).ctx j = s.ctx j := by rw [ctx, setPipe_ctxs, ctx]
@[simp] theorem setPipe_at_queue (j : Nat) : (s.setPipe i x).queue j = s.queue j := by rw [queue, setPipe_queues, queue]
@[simp] theorem setPipe_at_court (j : Nat) : (s.setPipe i x).court j = s.court j := by rw [court, setPipe_courts, court]
@[simp] theorem setPipe_at_field (j : Nat) : (s.setPipe i x).field j = s.field j := by rw [field, setPipe_fields, field]
@[simp] theorem setPipe_at_quarter (j : Nat) : (s.setPipe i x).quarter j = s.quarter j := by rw [quarter, setPipe_quarters, quarter]
@[simp] theorem setPipe_at_core (j : Nat) : (s.setPipe i x).core j = s.core j := by rw [core, setPipe_cores, core]
@[simp] theorem setPipe_at_launch (j : Nat) : (s.setPipe i x).launch j = s.launch j := by rw [launch, setPipe_launches, launch]
@[simp] theorem setPipe_at_block (j : Nat) : (s.setPipe i x).block j = s.block j := by rw [block, setPipe_blocks, block]
@[simp] theorem setPipe_at_group (j : Nat) : (s.setPipe i x).group j = s.group j := by rw [group, setPipe_groups, group]
@[simp] theorem setPipe_at_pass (j : Nat) : (s.setPipe i x).pass j = s.pass j := by rw [pass, setPipe_passes, pass]
@[simp] theorem setPipe_at_dpTx (j : Nat) : (s.setPipe i x).dpTx j = s.dpTx j := by rw [dpTx, setPipe_dp, dpTx]
@[simp] theorem setPipe_at_ethPort (j : Nat) : (s.setPipe i x).ethPort j = s.ethPort j := by rw [ethPort, setPipe_eth, ethPort]
@[simp] theorem setPipe_at_qp (j : Nat) : (s.setPipe i x).qp j = s.qp j := by rw [qp, setPipe_qps, qp]
@[simp] theorem setPipe_at_key (j : Nat) : (s.setPipe i x).key j = s.key j := by rw [key, setPipe_keys, key]
@[simp] theorem setPipe_at_stream (j : Nat) : (s.setPipe i x).stream j = s.stream j := by rw [stream, setPipe_streams, stream]
@[simp] theorem setPipe_at_iqlPort (j : Nat) : (s.setPipe i x).iqlPort j = s.iqlPort j := by rw [iqlPort, setPipe_iql, iqlPort]
@[simp] theorem setPipe_at_txn (j : Nat) : (s.setPipe i x).txn j = s.txn j := by rw [txn, setPipe_txns, txn]
@[simp] theorem setPipe_rd (g j : Nat) : (s.setPipe i x).rd g j = s.rd g j := by rw [rd, setPipe_regs, rd]
@[simp] theorem setPipe_fld (g : Reg.Field) (j : Nat) : (s.setPipe i x).fld g j = s.fld g j := by rw [fld, setPipe_rd, fld]
@[simp] theorem setPipe_now : (s.setPipe i x).now = s.now := by rw [now, setPipe_fld, now]
@[simp] theorem setPipe_byte (a : Nat) : (s.setPipe i x).byte a = s.byte a := by rw [byte, setPipe_mem, byte]
@[simp] theorem setPipe_bytes (a n : Nat) : (s.setPipe i x).bytes a n = s.bytes a n := by simp only [bytes, setPipe_byte]
end

section
variable (i : Nat) (x : DpTx)

@[simp] theorem setDpTx_at_ctx (j : Nat) : (s.setDpTx i x).ctx j = s.ctx j := by rw [ctx, setDpTx_ctxs, ctx]
@[simp] theorem setDpTx_at_queue (j : Nat) : (s.setDpTx i x).queue j = s.queue j := by rw [queue, setDpTx_queues, queue]
@[simp] theorem setDpTx_at_court (j : Nat) : (s.setDpTx i x).court j = s.court j := by rw [court, setDpTx_courts, court]
@[simp] theorem setDpTx_at_field (j : Nat) : (s.setDpTx i x).field j = s.field j := by rw [field, setDpTx_fields, field]
@[simp] theorem setDpTx_at_quarter (j : Nat) : (s.setDpTx i x).quarter j = s.quarter j := by rw [quarter, setDpTx_quarters, quarter]
@[simp] theorem setDpTx_at_core (j : Nat) : (s.setDpTx i x).core j = s.core j := by rw [core, setDpTx_cores, core]
@[simp] theorem setDpTx_at_launch (j : Nat) : (s.setDpTx i x).launch j = s.launch j := by rw [launch, setDpTx_launches, launch]
@[simp] theorem setDpTx_at_block (j : Nat) : (s.setDpTx i x).block j = s.block j := by rw [block, setDpTx_blocks, block]
@[simp] theorem setDpTx_at_group (j : Nat) : (s.setDpTx i x).group j = s.group j := by rw [group, setDpTx_groups, group]
@[simp] theorem setDpTx_at_pass (j : Nat) : (s.setDpTx i x).pass j = s.pass j := by rw [pass, setDpTx_passes, pass]
@[simp] theorem setDpTx_at_pipe (j : Nat) : (s.setDpTx i x).pipe j = s.pipe j := by rw [pipe, setDpTx_pipes, pipe]
@[simp] theorem setDpTx_at_ethPort (j : Nat) : (s.setDpTx i x).ethPort j = s.ethPort j := by rw [ethPort, setDpTx_eth, ethPort]
@[simp] theorem setDpTx_at_qp (j : Nat) : (s.setDpTx i x).qp j = s.qp j := by rw [qp, setDpTx_qps, qp]
@[simp] theorem setDpTx_at_key (j : Nat) : (s.setDpTx i x).key j = s.key j := by rw [key, setDpTx_keys, key]
@[simp] theorem setDpTx_at_stream (j : Nat) : (s.setDpTx i x).stream j = s.stream j := by rw [stream, setDpTx_streams, stream]
@[simp] theorem setDpTx_at_iqlPort (j : Nat) : (s.setDpTx i x).iqlPort j = s.iqlPort j := by rw [iqlPort, setDpTx_iql, iqlPort]
@[simp] theorem setDpTx_at_txn (j : Nat) : (s.setDpTx i x).txn j = s.txn j := by rw [txn, setDpTx_txns, txn]
@[simp] theorem setDpTx_rd (g j : Nat) : (s.setDpTx i x).rd g j = s.rd g j := by rw [rd, setDpTx_regs, rd]
@[simp] theorem setDpTx_fld (g : Reg.Field) (j : Nat) : (s.setDpTx i x).fld g j = s.fld g j := by rw [fld, setDpTx_rd, fld]
@[simp] theorem setDpTx_now : (s.setDpTx i x).now = s.now := by rw [now, setDpTx_fld, now]
@[simp] theorem setDpTx_byte (a : Nat) : (s.setDpTx i x).byte a = s.byte a := by rw [byte, setDpTx_mem, byte]
@[simp] theorem setDpTx_bytes (a n : Nat) : (s.setDpTx i x).bytes a n = s.bytes a n := by simp only [bytes, setDpTx_byte]
end

section
variable (i : Nat) (x : EthPort)

@[simp] theorem setEthPort_at_ctx (j : Nat) : (s.setEthPort i x).ctx j = s.ctx j := by rw [ctx, setEthPort_ctxs, ctx]
@[simp] theorem setEthPort_at_queue (j : Nat) : (s.setEthPort i x).queue j = s.queue j := by rw [queue, setEthPort_queues, queue]
@[simp] theorem setEthPort_at_court (j : Nat) : (s.setEthPort i x).court j = s.court j := by rw [court, setEthPort_courts, court]
@[simp] theorem setEthPort_at_field (j : Nat) : (s.setEthPort i x).field j = s.field j := by rw [field, setEthPort_fields, field]
@[simp] theorem setEthPort_at_quarter (j : Nat) : (s.setEthPort i x).quarter j = s.quarter j := by rw [quarter, setEthPort_quarters, quarter]
@[simp] theorem setEthPort_at_core (j : Nat) : (s.setEthPort i x).core j = s.core j := by rw [core, setEthPort_cores, core]
@[simp] theorem setEthPort_at_launch (j : Nat) : (s.setEthPort i x).launch j = s.launch j := by rw [launch, setEthPort_launches, launch]
@[simp] theorem setEthPort_at_block (j : Nat) : (s.setEthPort i x).block j = s.block j := by rw [block, setEthPort_blocks, block]
@[simp] theorem setEthPort_at_group (j : Nat) : (s.setEthPort i x).group j = s.group j := by rw [group, setEthPort_groups, group]
@[simp] theorem setEthPort_at_pass (j : Nat) : (s.setEthPort i x).pass j = s.pass j := by rw [pass, setEthPort_passes, pass]
@[simp] theorem setEthPort_at_pipe (j : Nat) : (s.setEthPort i x).pipe j = s.pipe j := by rw [pipe, setEthPort_pipes, pipe]
@[simp] theorem setEthPort_at_dpTx (j : Nat) : (s.setEthPort i x).dpTx j = s.dpTx j := by rw [dpTx, setEthPort_dp, dpTx]
@[simp] theorem setEthPort_at_qp (j : Nat) : (s.setEthPort i x).qp j = s.qp j := by rw [qp, setEthPort_qps, qp]
@[simp] theorem setEthPort_at_key (j : Nat) : (s.setEthPort i x).key j = s.key j := by rw [key, setEthPort_keys, key]
@[simp] theorem setEthPort_at_stream (j : Nat) : (s.setEthPort i x).stream j = s.stream j := by rw [stream, setEthPort_streams, stream]
@[simp] theorem setEthPort_at_iqlPort (j : Nat) : (s.setEthPort i x).iqlPort j = s.iqlPort j := by rw [iqlPort, setEthPort_iql, iqlPort]
@[simp] theorem setEthPort_at_txn (j : Nat) : (s.setEthPort i x).txn j = s.txn j := by rw [txn, setEthPort_txns, txn]
@[simp] theorem setEthPort_rd (g j : Nat) : (s.setEthPort i x).rd g j = s.rd g j := by rw [rd, setEthPort_regs, rd]
@[simp] theorem setEthPort_fld (g : Reg.Field) (j : Nat) : (s.setEthPort i x).fld g j = s.fld g j := by rw [fld, setEthPort_rd, fld]
@[simp] theorem setEthPort_now : (s.setEthPort i x).now = s.now := by rw [now, setEthPort_fld, now]
@[simp] theorem setEthPort_byte (a : Nat) : (s.setEthPort i x).byte a = s.byte a := by rw [byte, setEthPort_mem, byte]
@[simp] theorem setEthPort_bytes (a n : Nat) : (s.setEthPort i x).bytes a n = s.bytes a n := by simp only [bytes, setEthPort_byte]
end

section
variable (i : Nat) (x : Qp)

@[simp] theorem setQp_at_ctx (j : Nat) : (s.setQp i x).ctx j = s.ctx j := by rw [ctx, setQp_ctxs, ctx]
@[simp] theorem setQp_at_queue (j : Nat) : (s.setQp i x).queue j = s.queue j := by rw [queue, setQp_queues, queue]
@[simp] theorem setQp_at_court (j : Nat) : (s.setQp i x).court j = s.court j := by rw [court, setQp_courts, court]
@[simp] theorem setQp_at_field (j : Nat) : (s.setQp i x).field j = s.field j := by rw [field, setQp_fields, field]
@[simp] theorem setQp_at_quarter (j : Nat) : (s.setQp i x).quarter j = s.quarter j := by rw [quarter, setQp_quarters, quarter]
@[simp] theorem setQp_at_core (j : Nat) : (s.setQp i x).core j = s.core j := by rw [core, setQp_cores, core]
@[simp] theorem setQp_at_launch (j : Nat) : (s.setQp i x).launch j = s.launch j := by rw [launch, setQp_launches, launch]
@[simp] theorem setQp_at_block (j : Nat) : (s.setQp i x).block j = s.block j := by rw [block, setQp_blocks, block]
@[simp] theorem setQp_at_group (j : Nat) : (s.setQp i x).group j = s.group j := by rw [group, setQp_groups, group]
@[simp] theorem setQp_at_pass (j : Nat) : (s.setQp i x).pass j = s.pass j := by rw [pass, setQp_passes, pass]
@[simp] theorem setQp_at_pipe (j : Nat) : (s.setQp i x).pipe j = s.pipe j := by rw [pipe, setQp_pipes, pipe]
@[simp] theorem setQp_at_dpTx (j : Nat) : (s.setQp i x).dpTx j = s.dpTx j := by rw [dpTx, setQp_dp, dpTx]
@[simp] theorem setQp_at_ethPort (j : Nat) : (s.setQp i x).ethPort j = s.ethPort j := by rw [ethPort, setQp_eth, ethPort]
@[simp] theorem setQp_at_key (j : Nat) : (s.setQp i x).key j = s.key j := by rw [key, setQp_keys, key]
@[simp] theorem setQp_at_stream (j : Nat) : (s.setQp i x).stream j = s.stream j := by rw [stream, setQp_streams, stream]
@[simp] theorem setQp_at_iqlPort (j : Nat) : (s.setQp i x).iqlPort j = s.iqlPort j := by rw [iqlPort, setQp_iql, iqlPort]
@[simp] theorem setQp_at_txn (j : Nat) : (s.setQp i x).txn j = s.txn j := by rw [txn, setQp_txns, txn]
@[simp] theorem setQp_rd (g j : Nat) : (s.setQp i x).rd g j = s.rd g j := by rw [rd, setQp_regs, rd]
@[simp] theorem setQp_fld (g : Reg.Field) (j : Nat) : (s.setQp i x).fld g j = s.fld g j := by rw [fld, setQp_rd, fld]
@[simp] theorem setQp_now : (s.setQp i x).now = s.now := by rw [now, setQp_fld, now]
@[simp] theorem setQp_byte (a : Nat) : (s.setQp i x).byte a = s.byte a := by rw [byte, setQp_mem, byte]
@[simp] theorem setQp_bytes (a n : Nat) : (s.setQp i x).bytes a n = s.bytes a n := by simp only [bytes, setQp_byte]
end

section
variable (i : Nat) (x : Key)

@[simp] theorem setKey_at_ctx (j : Nat) : (s.setKey i x).ctx j = s.ctx j := by rw [ctx, setKey_ctxs, ctx]
@[simp] theorem setKey_at_queue (j : Nat) : (s.setKey i x).queue j = s.queue j := by rw [queue, setKey_queues, queue]
@[simp] theorem setKey_at_court (j : Nat) : (s.setKey i x).court j = s.court j := by rw [court, setKey_courts, court]
@[simp] theorem setKey_at_field (j : Nat) : (s.setKey i x).field j = s.field j := by rw [field, setKey_fields, field]
@[simp] theorem setKey_at_quarter (j : Nat) : (s.setKey i x).quarter j = s.quarter j := by rw [quarter, setKey_quarters, quarter]
@[simp] theorem setKey_at_core (j : Nat) : (s.setKey i x).core j = s.core j := by rw [core, setKey_cores, core]
@[simp] theorem setKey_at_launch (j : Nat) : (s.setKey i x).launch j = s.launch j := by rw [launch, setKey_launches, launch]
@[simp] theorem setKey_at_block (j : Nat) : (s.setKey i x).block j = s.block j := by rw [block, setKey_blocks, block]
@[simp] theorem setKey_at_group (j : Nat) : (s.setKey i x).group j = s.group j := by rw [group, setKey_groups, group]
@[simp] theorem setKey_at_pass (j : Nat) : (s.setKey i x).pass j = s.pass j := by rw [pass, setKey_passes, pass]
@[simp] theorem setKey_at_pipe (j : Nat) : (s.setKey i x).pipe j = s.pipe j := by rw [pipe, setKey_pipes, pipe]
@[simp] theorem setKey_at_dpTx (j : Nat) : (s.setKey i x).dpTx j = s.dpTx j := by rw [dpTx, setKey_dp, dpTx]
@[simp] theorem setKey_at_ethPort (j : Nat) : (s.setKey i x).ethPort j = s.ethPort j := by rw [ethPort, setKey_eth, ethPort]
@[simp] theorem setKey_at_qp (j : Nat) : (s.setKey i x).qp j = s.qp j := by rw [qp, setKey_qps, qp]
@[simp] theorem setKey_at_stream (j : Nat) : (s.setKey i x).stream j = s.stream j := by rw [stream, setKey_streams, stream]
@[simp] theorem setKey_at_iqlPort (j : Nat) : (s.setKey i x).iqlPort j = s.iqlPort j := by rw [iqlPort, setKey_iql, iqlPort]
@[simp] theorem setKey_at_txn (j : Nat) : (s.setKey i x).txn j = s.txn j := by rw [txn, setKey_txns, txn]
@[simp] theorem setKey_rd (g j : Nat) : (s.setKey i x).rd g j = s.rd g j := by rw [rd, setKey_regs, rd]
@[simp] theorem setKey_fld (g : Reg.Field) (j : Nat) : (s.setKey i x).fld g j = s.fld g j := by rw [fld, setKey_rd, fld]
@[simp] theorem setKey_now : (s.setKey i x).now = s.now := by rw [now, setKey_fld, now]
@[simp] theorem setKey_byte (a : Nat) : (s.setKey i x).byte a = s.byte a := by rw [byte, setKey_mem, byte]
@[simp] theorem setKey_bytes (a n : Nat) : (s.setKey i x).bytes a n = s.bytes a n := by simp only [bytes, setKey_byte]
end

section
variable (i : Nat) (x : Stream)

@[simp] theorem setStream_at_ctx (j : Nat) : (s.setStream i x).ctx j = s.ctx j := by rw [ctx, setStream_ctxs, ctx]
@[simp] theorem setStream_at_queue (j : Nat) : (s.setStream i x).queue j = s.queue j := by rw [queue, setStream_queues, queue]
@[simp] theorem setStream_at_court (j : Nat) : (s.setStream i x).court j = s.court j := by rw [court, setStream_courts, court]
@[simp] theorem setStream_at_field (j : Nat) : (s.setStream i x).field j = s.field j := by rw [field, setStream_fields, field]
@[simp] theorem setStream_at_quarter (j : Nat) : (s.setStream i x).quarter j = s.quarter j := by rw [quarter, setStream_quarters, quarter]
@[simp] theorem setStream_at_core (j : Nat) : (s.setStream i x).core j = s.core j := by rw [core, setStream_cores, core]
@[simp] theorem setStream_at_launch (j : Nat) : (s.setStream i x).launch j = s.launch j := by rw [launch, setStream_launches, launch]
@[simp] theorem setStream_at_block (j : Nat) : (s.setStream i x).block j = s.block j := by rw [block, setStream_blocks, block]
@[simp] theorem setStream_at_group (j : Nat) : (s.setStream i x).group j = s.group j := by rw [group, setStream_groups, group]
@[simp] theorem setStream_at_pass (j : Nat) : (s.setStream i x).pass j = s.pass j := by rw [pass, setStream_passes, pass]
@[simp] theorem setStream_at_pipe (j : Nat) : (s.setStream i x).pipe j = s.pipe j := by rw [pipe, setStream_pipes, pipe]
@[simp] theorem setStream_at_dpTx (j : Nat) : (s.setStream i x).dpTx j = s.dpTx j := by rw [dpTx, setStream_dp, dpTx]
@[simp] theorem setStream_at_ethPort (j : Nat) : (s.setStream i x).ethPort j = s.ethPort j := by rw [ethPort, setStream_eth, ethPort]
@[simp] theorem setStream_at_qp (j : Nat) : (s.setStream i x).qp j = s.qp j := by rw [qp, setStream_qps, qp]
@[simp] theorem setStream_at_key (j : Nat) : (s.setStream i x).key j = s.key j := by rw [key, setStream_keys, key]
@[simp] theorem setStream_at_iqlPort (j : Nat) : (s.setStream i x).iqlPort j = s.iqlPort j := by rw [iqlPort, setStream_iql, iqlPort]
@[simp] theorem setStream_at_txn (j : Nat) : (s.setStream i x).txn j = s.txn j := by rw [txn, setStream_txns, txn]
@[simp] theorem setStream_rd (g j : Nat) : (s.setStream i x).rd g j = s.rd g j := by rw [rd, setStream_regs, rd]
@[simp] theorem setStream_fld (g : Reg.Field) (j : Nat) : (s.setStream i x).fld g j = s.fld g j := by rw [fld, setStream_rd, fld]
@[simp] theorem setStream_now : (s.setStream i x).now = s.now := by rw [now, setStream_fld, now]
@[simp] theorem setStream_byte (a : Nat) : (s.setStream i x).byte a = s.byte a := by rw [byte, setStream_mem, byte]
@[simp] theorem setStream_bytes (a n : Nat) : (s.setStream i x).bytes a n = s.bytes a n := by simp only [bytes, setStream_byte]
end

section
variable (i : Nat) (x : IqlPort)

@[simp] theorem setIqlPort_at_ctx (j : Nat) : (s.setIqlPort i x).ctx j = s.ctx j := by rw [ctx, setIqlPort_ctxs, ctx]
@[simp] theorem setIqlPort_at_queue (j : Nat) : (s.setIqlPort i x).queue j = s.queue j := by rw [queue, setIqlPort_queues, queue]
@[simp] theorem setIqlPort_at_court (j : Nat) : (s.setIqlPort i x).court j = s.court j := by rw [court, setIqlPort_courts, court]
@[simp] theorem setIqlPort_at_field (j : Nat) : (s.setIqlPort i x).field j = s.field j := by rw [field, setIqlPort_fields, field]
@[simp] theorem setIqlPort_at_quarter (j : Nat) : (s.setIqlPort i x).quarter j = s.quarter j := by rw [quarter, setIqlPort_quarters, quarter]
@[simp] theorem setIqlPort_at_core (j : Nat) : (s.setIqlPort i x).core j = s.core j := by rw [core, setIqlPort_cores, core]
@[simp] theorem setIqlPort_at_launch (j : Nat) : (s.setIqlPort i x).launch j = s.launch j := by rw [launch, setIqlPort_launches, launch]
@[simp] theorem setIqlPort_at_block (j : Nat) : (s.setIqlPort i x).block j = s.block j := by rw [block, setIqlPort_blocks, block]
@[simp] theorem setIqlPort_at_group (j : Nat) : (s.setIqlPort i x).group j = s.group j := by rw [group, setIqlPort_groups, group]
@[simp] theorem setIqlPort_at_pass (j : Nat) : (s.setIqlPort i x).pass j = s.pass j := by rw [pass, setIqlPort_passes, pass]
@[simp] theorem setIqlPort_at_pipe (j : Nat) : (s.setIqlPort i x).pipe j = s.pipe j := by rw [pipe, setIqlPort_pipes, pipe]
@[simp] theorem setIqlPort_at_dpTx (j : Nat) : (s.setIqlPort i x).dpTx j = s.dpTx j := by rw [dpTx, setIqlPort_dp, dpTx]
@[simp] theorem setIqlPort_at_ethPort (j : Nat) : (s.setIqlPort i x).ethPort j = s.ethPort j := by rw [ethPort, setIqlPort_eth, ethPort]
@[simp] theorem setIqlPort_at_qp (j : Nat) : (s.setIqlPort i x).qp j = s.qp j := by rw [qp, setIqlPort_qps, qp]
@[simp] theorem setIqlPort_at_key (j : Nat) : (s.setIqlPort i x).key j = s.key j := by rw [key, setIqlPort_keys, key]
@[simp] theorem setIqlPort_at_stream (j : Nat) : (s.setIqlPort i x).stream j = s.stream j := by rw [stream, setIqlPort_streams, stream]
@[simp] theorem setIqlPort_at_txn (j : Nat) : (s.setIqlPort i x).txn j = s.txn j := by rw [txn, setIqlPort_txns, txn]
@[simp] theorem setIqlPort_rd (g j : Nat) : (s.setIqlPort i x).rd g j = s.rd g j := by rw [rd, setIqlPort_regs, rd]
@[simp] theorem setIqlPort_fld (g : Reg.Field) (j : Nat) : (s.setIqlPort i x).fld g j = s.fld g j := by rw [fld, setIqlPort_rd, fld]
@[simp] theorem setIqlPort_now : (s.setIqlPort i x).now = s.now := by rw [now, setIqlPort_fld, now]
@[simp] theorem setIqlPort_byte (a : Nat) : (s.setIqlPort i x).byte a = s.byte a := by rw [byte, setIqlPort_mem, byte]
@[simp] theorem setIqlPort_bytes (a n : Nat) : (s.setIqlPort i x).bytes a n = s.bytes a n := by simp only [bytes, setIqlPort_byte]
end

section
variable (i : Nat) (x : Txn)

@[simp] theorem setTxn_at_ctx (j : Nat) : (s.setTxn i x).ctx j = s.ctx j := by rw [ctx, setTxn_ctxs, ctx]
@[simp] theorem setTxn_at_queue (j : Nat) : (s.setTxn i x).queue j = s.queue j := by rw [queue, setTxn_queues, queue]
@[simp] theorem setTxn_at_court (j : Nat) : (s.setTxn i x).court j = s.court j := by rw [court, setTxn_courts, court]
@[simp] theorem setTxn_at_field (j : Nat) : (s.setTxn i x).field j = s.field j := by rw [field, setTxn_fields, field]
@[simp] theorem setTxn_at_quarter (j : Nat) : (s.setTxn i x).quarter j = s.quarter j := by rw [quarter, setTxn_quarters, quarter]
@[simp] theorem setTxn_at_core (j : Nat) : (s.setTxn i x).core j = s.core j := by rw [core, setTxn_cores, core]
@[simp] theorem setTxn_at_launch (j : Nat) : (s.setTxn i x).launch j = s.launch j := by rw [launch, setTxn_launches, launch]
@[simp] theorem setTxn_at_block (j : Nat) : (s.setTxn i x).block j = s.block j := by rw [block, setTxn_blocks, block]
@[simp] theorem setTxn_at_group (j : Nat) : (s.setTxn i x).group j = s.group j := by rw [group, setTxn_groups, group]
@[simp] theorem setTxn_at_pass (j : Nat) : (s.setTxn i x).pass j = s.pass j := by rw [pass, setTxn_passes, pass]
@[simp] theorem setTxn_at_pipe (j : Nat) : (s.setTxn i x).pipe j = s.pipe j := by rw [pipe, setTxn_pipes, pipe]
@[simp] theorem setTxn_at_dpTx (j : Nat) : (s.setTxn i x).dpTx j = s.dpTx j := by rw [dpTx, setTxn_dp, dpTx]
@[simp] theorem setTxn_at_ethPort (j : Nat) : (s.setTxn i x).ethPort j = s.ethPort j := by rw [ethPort, setTxn_eth, ethPort]
@[simp] theorem setTxn_at_qp (j : Nat) : (s.setTxn i x).qp j = s.qp j := by rw [qp, setTxn_qps, qp]
@[simp] theorem setTxn_at_key (j : Nat) : (s.setTxn i x).key j = s.key j := by rw [key, setTxn_keys, key]
@[simp] theorem setTxn_at_stream (j : Nat) : (s.setTxn i x).stream j = s.stream j := by rw [stream, setTxn_streams, stream]
@[simp] theorem setTxn_at_iqlPort (j : Nat) : (s.setTxn i x).iqlPort j = s.iqlPort j := by rw [iqlPort, setTxn_iql, iqlPort]
@[simp] theorem setTxn_rd (g j : Nat) : (s.setTxn i x).rd g j = s.rd g j := by rw [rd, setTxn_regs, rd]
@[simp] theorem setTxn_fld (g : Reg.Field) (j : Nat) : (s.setTxn i x).fld g j = s.fld g j := by rw [fld, setTxn_rd, fld]
@[simp] theorem setTxn_now : (s.setTxn i x).now = s.now := by rw [now, setTxn_fld, now]
@[simp] theorem setTxn_byte (a : Nat) : (s.setTxn i x).byte a = s.byte a := by rw [byte, setTxn_mem, byte]
@[simp] theorem setTxn_bytes (a n : Nat) : (s.setTxn i x).bytes a n = s.bytes a n := by simp only [bytes, setTxn_byte]
end

theorem setCtx_ctx (i j : Nat) (x : Ctx) : (s.setCtx i x).ctx j = if j = i then x else s.ctx j := by rw [ctx, setCtx, SMap.get_set, ctx]
@[simp] theorem setCtx_ctx_same (i : Nat) (x : Ctx) : (s.setCtx i x).ctx i = x := by simp [setCtx_ctx]
theorem setQueue_queue (i j : Nat) (x : Queue) : (s.setQueue i x).queue j = if j = i then x else s.queue j := by rw [queue, setQueue, SMap.get_set, queue]
@[simp] theorem setQueue_queue_same (i : Nat) (x : Queue) : (s.setQueue i x).queue i = x := by simp [setQueue_queue]
theorem setCourt_court (i j : Nat) (x : Court) : (s.setCourt i x).court j = if j = i then x else s.court j := by rw [court, setCourt, SMap.get_set, court]
@[simp] theorem setCourt_court_same (i : Nat) (x : Court) : (s.setCourt i x).court i = x := by simp [setCourt_court]
theorem setField_field (i j : Nat) (x : FieldPart) : (s.setField i x).field j = if j = i then x else s.field j := by rw [field, setField, SMap.get_set, field]
@[simp] theorem setField_field_same (i : Nat) (x : FieldPart) : (s.setField i x).field i = x := by simp [setField_field]
theorem setQuarter_quarter (i j : Nat) (x : Quarter) : (s.setQuarter i x).quarter j = if j = i then x else s.quarter j := by rw [quarter, setQuarter, SMap.get_set, quarter]
@[simp] theorem setQuarter_quarter_same (i : Nat) (x : Quarter) : (s.setQuarter i x).quarter i = x := by simp [setQuarter_quarter]
theorem setCore_core (i j : Nat) (x : Core) : (s.setCore i x).core j = if j = i then x else s.core j := by rw [core, setCore, SMap.get_set, core]
@[simp] theorem setCore_core_same (i : Nat) (x : Core) : (s.setCore i x).core i = x := by simp [setCore_core]
theorem setLaunch_launch (i j : Nat) (x : Option Launch) : (s.setLaunch i x).launch j = if j = i then x else s.launch j := by rw [launch, setLaunch, SMap.get_set, launch]
@[simp] theorem setLaunch_launch_same (i : Nat) (x : Option Launch) : (s.setLaunch i x).launch i = x := by simp [setLaunch_launch]
theorem setBlock_block (i j : Nat) (x : Option Block) : (s.setBlock i x).block j = if j = i then x else s.block j := by rw [block, setBlock, SMap.get_set, block]
@[simp] theorem setBlock_block_same (i : Nat) (x : Option Block) : (s.setBlock i x).block i = x := by simp [setBlock_block]
theorem setGroup_group (i j : Nat) (x : Option Group) : (s.setGroup i x).group j = if j = i then x else s.group j := by rw [group, setGroup, SMap.get_set, group]
@[simp] theorem setGroup_group_same (i : Nat) (x : Option Group) : (s.setGroup i x).group i = x := by simp [setGroup_group]
theorem setPass_pass (i j : Nat) (x : Option Pass) : (s.setPass i x).pass j = if j = i then x else s.pass j := by rw [pass, setPass, SMap.get_set, pass]
@[simp] theorem setPass_pass_same (i : Nat) (x : Option Pass) : (s.setPass i x).pass i = x := by simp [setPass_pass]
theorem setPipe_pipe (i j : Nat) (x : Pipe) : (s.setPipe i x).pipe j = if j = i then x else s.pipe j := by rw [pipe, setPipe, SMap.get_set, pipe]
@[simp] theorem setPipe_pipe_same (i : Nat) (x : Pipe) : (s.setPipe i x).pipe i = x := by simp [setPipe_pipe]
theorem setDpTx_dpTx (i j : Nat) (x : DpTx) : (s.setDpTx i x).dpTx j = if j = i then x else s.dpTx j := by rw [dpTx, setDpTx, SMap.get_set, dpTx]
@[simp] theorem setDpTx_dpTx_same (i : Nat) (x : DpTx) : (s.setDpTx i x).dpTx i = x := by simp [setDpTx_dpTx]
theorem setEthPort_ethPort (i j : Nat) (x : EthPort) : (s.setEthPort i x).ethPort j = if j = i then x else s.ethPort j := by rw [ethPort, setEthPort, SMap.get_set, ethPort]
@[simp] theorem setEthPort_ethPort_same (i : Nat) (x : EthPort) : (s.setEthPort i x).ethPort i = x := by simp [setEthPort_ethPort]
theorem setQp_qp (i j : Nat) (x : Qp) : (s.setQp i x).qp j = if j = i then x else s.qp j := by rw [qp, setQp, SMap.get_set, qp]
@[simp] theorem setQp_qp_same (i : Nat) (x : Qp) : (s.setQp i x).qp i = x := by simp [setQp_qp]
theorem setKey_key (i j : Nat) (x : Key) : (s.setKey i x).key j = if j = i then x else s.key j := by rw [key, setKey, SMap.get_set, key]
@[simp] theorem setKey_key_same (i : Nat) (x : Key) : (s.setKey i x).key i = x := by simp [setKey_key]
theorem setStream_stream (i j : Nat) (x : Stream) : (s.setStream i x).stream j = if j = i then x else s.stream j := by rw [stream, setStream, SMap.get_set, stream]
@[simp] theorem setStream_stream_same (i : Nat) (x : Stream) : (s.setStream i x).stream i = x := by simp [setStream_stream]
theorem setIqlPort_iqlPort (i j : Nat) (x : IqlPort) : (s.setIqlPort i x).iqlPort j = if j = i then x else s.iqlPort j := by rw [iqlPort, setIqlPort, SMap.get_set, iqlPort]
@[simp] theorem setIqlPort_iqlPort_same (i : Nat) (x : IqlPort) : (s.setIqlPort i x).iqlPort i = x := by simp [setIqlPort_iqlPort]
theorem setTxn_txn (i j : Nat) (x : Txn) : (s.setTxn i x).txn j = if j = i then x else s.txn j := by rw [txn, setTxn, SMap.get_set, txn]
@[simp] theorem setTxn_txn_same (i : Nat) (x : Txn) : (s.setTxn i x).txn i = x := by simp [setTxn_txn]

end Sys2Proof.Machine.State
end

