-- ==== Sys2Proof/Laws/Register.lean ====
section
/-! SUPPORT. Bit fields and registers: what a field reads after a write of it, of another field, or of another register, and when a
management write goes through. -/

namespace Sys2Proof.Machine

open Sys2Proof

/-! ### Bit fields -/

theorem natBits_lt (n hi lo : Nat) : natBits n hi lo < 2 ^ (hi + 1 - lo) := Nat.mod_lt _ (by positivity)

theorem natBits_zero (hi lo : Nat) : natBits 0 hi lo = 0 := by simp [natBits]

/-- A number cut at the two ends of a field. -/
theorem natBits_parts (v hi lo : Nat) (h : lo ≤ hi + 1) :
    v = v / 2 ^ (hi + 1) * 2 ^ (hi + 1) + natBits v hi lo * 2 ^ lo + v % 2 ^ lo := by
  have e : 2 ^ (hi + 1) = 2 ^ lo * 2 ^ (hi + 1 - lo) := by rw [← pow_add]; congr 1; omega
  have h1 := Nat.div_add_mod v (2 ^ lo)
  have h2 := Nat.div_add_mod (v / 2 ^ lo) (2 ^ (hi + 1 - lo))
  have h3 : v / 2 ^ (hi + 1) = v / 2 ^ lo / 2 ^ (hi + 1 - lo) := by rw [e, Nat.div_div_eq_div_mul]
  unfold natBits
  rw [h3, e]
  calc v = 2 ^ lo * (v / 2 ^ lo) + v % 2 ^ lo := h1.symm
    _ = 2 ^ lo * (2 ^ (hi + 1 - lo) * (v / 2 ^ lo / 2 ^ (hi + 1 - lo)) + v / 2 ^ lo % 2 ^ (hi + 1 - lo)) + v % 2 ^ lo := by
      rw [h2]
    _ = _ := by ring

/-- What `putBits` makes of a word, as a number. -/
theorem putBits_toNat {w : Nat} (v : BitVec w) (hi lo x : Nat) (h : lo ≤ hi) (hw : hi < w) :
    (putBits v hi lo x).toNat =
      v.toNat / 2 ^ (hi + 1) * 2 ^ (hi + 1) + x % 2 ^ (hi + 1 - lo) * 2 ^ lo + v.toNat % 2 ^ lo := by
  have hp := natBits_parts v.toNat hi lo (by omega)
  have e : 2 ^ (hi + 1) = 2 ^ lo * 2 ^ (hi + 1 - lo) := by rw [← pow_add]; congr 1; omega
  have ew : 2 ^ w = 2 ^ (hi + 1) * 2 ^ (w - (hi + 1)) := by rw [← pow_add]; congr 1; omega
  have hv := v.isLt
  have hb : v.toNat % 2 ^ lo < 2 ^ lo := Nat.mod_lt _ (by positivity)
  have hx : x % 2 ^ (hi + 1 - lo) < 2 ^ (hi + 1 - lo) := Nat.mod_lt _ (by positivity)
  have hx1 : x % 2 ^ (hi + 1 - lo) * 2 ^ lo + v.toNat % 2 ^ lo < 2 ^ (hi + 1) := by
    rw [e]
    have : (x % 2 ^ (hi + 1 - lo) + 1) * 2 ^ lo ≤ 2 ^ (hi + 1 - lo) * 2 ^ lo := Nat.mul_le_mul_right _ hx
    nlinarith
  have hq : v.toNat / 2 ^ (hi + 1) < 2 ^ (w - (hi + 1)) := by
    rw [Nat.div_lt_iff_lt_mul (by positivity)]; rw [ew] at hv; nlinarith
  have hlt : v.toNat / 2 ^ (hi + 1) * 2 ^ (hi + 1) + x % 2 ^ (hi + 1 - lo) * 2 ^ lo + v.toNat % 2 ^ lo < 2 ^ w := by
    rw [ew]
    have : (v.toNat / 2 ^ (hi + 1) + 1) * 2 ^ (hi + 1) ≤ 2 ^ (w - (hi + 1)) * 2 ^ (hi + 1) := Nat.mul_le_mul_right _ hq
    nlinarith
  have hd : v.toNat - natBits v.toNat hi lo * 2 ^ lo = v.toNat / 2 ^ (hi + 1) * 2 ^ (hi + 1) + v.toNat % 2 ^ lo := by omega
  unfold putBits
  rw [BitVec.toNat_ofNat, hd, Nat.mod_eq_of_lt]
  · ring
  · rw [show v.toNat / 2 ^ (hi + 1) * 2 ^ (hi + 1) + v.toNat % 2 ^ lo + x % 2 ^ (hi + 1 - lo) * 2 ^ lo =
      v.toNat / 2 ^ (hi + 1) * 2 ^ (hi + 1) + x % 2 ^ (hi + 1 - lo) * 2 ^ lo + v.toNat % 2 ^ lo by ring]
    exact hlt

/-- A field reads what was put into it. -/
theorem bitsOf_putBits_same {w : Nat} (v : BitVec w) (hi lo x : Nat) (h : lo ≤ hi) (hw : hi < w) :
    bitsOf (putBits v hi lo x) hi lo = x % 2 ^ (hi + 1 - lo) := by
  have e : 2 ^ (hi + 1) = 2 ^ lo * 2 ^ (hi + 1 - lo) := by rw [← pow_add]; congr 1; omega
  have hb : v.toNat % 2 ^ lo < 2 ^ lo := Nat.mod_lt _ (by positivity)
  unfold bitsOf natBits
  rw [putBits_toNat v hi lo x h hw, e]
  rw [show v.toNat / (2 ^ lo * 2 ^ (hi + 1 - lo)) * (2 ^ lo * 2 ^ (hi + 1 - lo)) + x % 2 ^ (hi + 1 - lo) * 2 ^ lo +
      v.toNat % 2 ^ lo = v.toNat % 2 ^ lo +
      2 ^ lo * (x % 2 ^ (hi + 1 - lo) + 2 ^ (hi + 1 - lo) * (v.toNat / (2 ^ lo * 2 ^ (hi + 1 - lo)))) by ring]
  rw [Nat.add_mul_div_left _ _ (by positivity), Nat.div_eq_of_lt hb, Nat.zero_add, Nat.add_mul_mod_self_left, Nat.mod_mod]

/-- A field below is left alone. -/
theorem bitsOf_putBits_below {w : Nat} (v : BitVec w) (hi lo x hi' lo' : Nat) (h : lo ≤ hi) (hw : hi < w) (hb : hi' < lo) :
    bitsOf (putBits v hi lo x) hi' lo' = bitsOf v hi' lo' := by
  have e : 2 ^ (hi + 1) = 2 ^ lo * 2 ^ (hi + 1 - lo) := by rw [← pow_add]; congr 1; omega
  by_cases hl : lo' ≤ hi'
  · have hd : 2 ^ (hi' + 1) ∣ 2 ^ lo := pow_dvd_pow 2 (by omega)
    have key : ∀ n : Nat, n / 2 ^ lo' % 2 ^ (hi' + 1 - lo') = n % 2 ^ (hi' + 1) / 2 ^ lo' := by
      intro n
      rw [show 2 ^ (hi' + 1) = 2 ^ lo' * 2 ^ (hi' + 1 - lo') by rw [← pow_add]; congr 1; omega, Nat.mod_mul_right_div_self]
    unfold bitsOf natBits
    rw [key, key, putBits_toNat v hi lo x h hw, e]
    congr 1
    rw [show v.toNat / (2 ^ lo * 2 ^ (hi + 1 - lo)) * (2 ^ lo * 2 ^ (hi + 1 - lo)) + x % 2 ^ (hi + 1 - lo) * 2 ^ lo +
      v.toNat % 2 ^ lo = v.toNat % 2 ^ lo +
      2 ^ lo * (x % 2 ^ (hi + 1 - lo) + 2 ^ (hi + 1 - lo) * (v.toNat / (2 ^ lo * 2 ^ (hi + 1 - lo)))) by ring]
    obtain ⟨k, hk⟩ := hd
    rw [hk, Nat.mul_assoc, Nat.add_mul_mod_self_left, Nat.mod_mul_right_mod]
  · have : hi' + 1 - lo' = 0 := by omega
    simp [bitsOf, natBits, this, Nat.mod_one]

/-- A field above is left alone. -/
theorem bitsOf_putBits_above {w : Nat} (v : BitVec w) (hi lo x hi' lo' : Nat) (h : lo ≤ hi) (hw : hi < w) (hb : hi < lo') :
    bitsOf (putBits v hi lo x) hi' lo' = bitsOf v hi' lo' := by
  have e : 2 ^ (hi + 1) = 2 ^ lo * 2 ^ (hi + 1 - lo) := by rw [← pow_add]; congr 1; omega
  have hbv : v.toNat % 2 ^ lo < 2 ^ lo := Nat.mod_lt _ (by positivity)
  have hx : x % 2 ^ (hi + 1 - lo) < 2 ^ (hi + 1 - lo) := Nat.mod_lt _ (by positivity)
  have hlow : x % 2 ^ (hi + 1 - lo) * 2 ^ lo + v.toNat % 2 ^ lo < 2 ^ (hi + 1) := by
    rw [e]
    have : (x % 2 ^ (hi + 1 - lo) + 1) * 2 ^ lo ≤ 2 ^ (hi + 1 - lo) * 2 ^ lo := Nat.mul_le_mul_right _ hx
    nlinarith
  have key : (putBits v hi lo x).toNat / 2 ^ (hi + 1) = v.toNat / 2 ^ (hi + 1) := by
    rw [putBits_toNat v hi lo x h hw, Nat.add_assoc, Nat.mul_comm, Nat.mul_add_div (by positivity), Nat.div_eq_of_lt hlow, Nat.add_zero]
  have hs : ∀ n : Nat, n / 2 ^ lo' = n / 2 ^ (hi + 1) / 2 ^ (lo' - (hi + 1)) := by
    intro n
    rw [Nat.div_div_eq_div_mul, ← pow_add]; congr 2; omega
  unfold bitsOf natBits
  rw [hs, hs v.toNat, key]

/-! ### Registers -/

namespace State

variable (s : State)

/-- Registers of different families have different keys, whatever their numbers. -/
theorem key_ne_fam {f g : Nat} (h : f ≠ g) (i j : Nat) : Reg.key f i ≠ Reg.key g j := by
  unfold Reg.key; omega

theorem key_ne {f g i j : Nat} (h : f ≠ g ∨ i ≠ j) (hi : i < 65536) (hj : j < 65536) : Reg.key f i ≠ Reg.key g j := by
  unfold Reg.key; omega

@[simp] theorem rd_wr_same (f i : Nat) (v : W64) : (s.wr f i v).rd f i = v := by
  unfold rd wr; exact SMap.get_set_same _ _ _ _

theorem rd_wr_ne {f g i j : Nat} (v : W64) (h : Reg.key g j ≠ Reg.key f i) : (s.wr f i v).rd g j = s.rd g j := by
  unfold rd wr; exact SMap.get_set_ne _ _ _ _ h

theorem fld_wr_ne {f i j : Nat} (v : W64) (g : Reg.Field) (h : Reg.key g.fam j ≠ Reg.key f i) :
    (s.wr f i v).fld g j = s.fld g j := by
  unfold fld; rw [rd_wr_ne s v h]

/-- A field reads what was set. -/
theorem fld_setFld_same (f : Reg.Field) (i x : Nat) (h : f.lo ≤ f.hi) (hw : f.hi < 64) :
    (s.setFld f i x).fld f i = x % 2 ^ (f.hi + 1 - f.lo) := by
  unfold fld setFld; rw [rd_wr_same]; exact bitsOf_putBits_same _ _ _ _ h hw

/-- Another field of the same register is left alone. -/
theorem fld_setFld_apart (f g : Reg.Field) (i x : Nat) (hf : f.fam = g.fam) (h : f.lo ≤ f.hi) (hw : f.hi < 64)
    (hd : g.hi < f.lo ∨ f.hi < g.lo) : (s.setFld f i x).fld g i = s.fld g i := by
  unfold fld setFld
  rw [← hf, rd_wr_same]
  rcases hd with hd | hd
  · exact bitsOf_putBits_below _ _ _ _ _ _ h hw hd
  · exact bitsOf_putBits_above _ _ _ _ _ _ h hw hd

/-- Another register is left alone. -/
theorem rd_setFld_ne (f : Reg.Field) (i x g j : Nat) (h : Reg.key g j ≠ Reg.key f.fam i) :
    (s.setFld f i x).rd g j = s.rd g j := by unfold setFld; exact rd_wr_ne s _ h

theorem fld_setFld_ne (f g : Reg.Field) (i j x : Nat) (h : Reg.key g.fam j ≠ Reg.key f.fam i) :
    (s.setFld f i x).fld g j = s.fld g j := by unfold setFld; exact fld_wr_ne s _ g h

end State

/-! ### Management writes -/

/-- A management write goes through where the device serves its register. -/
theorem guarded_serves {s : State} {fam : Nat} (f : State → State) (u : Option ResetUnit) (h : Safety.Serves s fam)
    (hu : ∀ x, u = some x → unitFenced s x = false) : guarded s fam f u = f s := by
  obtain ⟨h1, h2, h3, h4, h5⟩ := h
  cases u with
  | none => simp [guarded, h1, h2, h3, h4, h5]
  | some x => simp [guarded, h1, h2, h3, h4, h5, hu x rfl]

/-- A management write does nothing while the device holds requests, or is OFF, or has not booted (R700, R817). -/
theorem guarded_held {s : State} {fam : Nat} (f : State → State) (u : Option ResetUnit)
    (h : s.power.on = false ∨ bootReady s = false ∨ s.referee.cycling = true ∨ mgmtHeld s = true) : guarded s fam f u = s := by
  rcases h with h | h | h | h <;> simp [guarded, h]

end Sys2Proof.Machine
end

