-- ==== Sys2Proof/Laws/Events.lean ====
section
/-! SUPPORT. What an event, the log of an error, a read and a write of memory can do: each says once what may change, and one lemma
per field says that the rest does not. -/

namespace Sys2Proof.Machine

open Sys2Proof

/-! ### Events -/

/-- The register families that a record changes. -/
def eventFams : List Nat :=
  [Reg.ethTxDrops, Reg.evrHead, Reg.evrLost, Reg.evrSuppressed, Reg.stwIrqCause, Reg.evrRing]

/-- A queue pair without its requests and their numbers. -/
def Qp.bare (q : Qp) : Qp := { q with spsn := 0, reqs := [] }

/-- A port without the frames that it holds. -/
def EthPort.bare (p : EthPort) : EthPort := { p with egress := [], held := [] }

/-- `t` is `s` but for what sending and recording change: the recorder's registers, the requests of queue pairs and the frames of
ports, the outbox, the token buckets and the count of unwritten records. -/
def EventOnly (s t : State) : Prop :=
  t = { s with regs := t.regs, qps := t.qps, eth := t.eth, outbox := t.outbox, buckets := t.buckets, unwritten := t.unwritten } ∧
    (∀ f i, f ∉ eventFams → t.rd f i = s.rd f i) ∧ (∀ i, (t.qp i).bare = (s.qp i).bare) ∧
    (∀ i, (t.ethPort i).bare = (s.ethPort i).bare)

theorem EventOnly.refl (s : State) : EventOnly s s := ⟨rfl, fun _ _ _ => rfl, fun _ => rfl, fun _ => rfl⟩

theorem EventOnly.trans {s t u : State} (h : EventOnly s t) (k : EventOnly t u) : EventOnly s u := by
  refine ⟨?_, fun f i hf => (k.2.1 f i hf).trans (h.2.1 f i hf), fun i => (k.2.2.1 i).trans (h.2.2.1 i),
    fun i => (k.2.2.2 i).trans (h.2.2.2 i)⟩
  have hk := k.1
  rw [h.1] at hk
  exact hk

theorem EventOnly.wr (s : State) (f i : Nat) (v : W64) (h : f ∈ eventFams) : EventOnly s (s.wr f i v) :=
  ⟨rfl, fun g j hg => State.rd_wr_ne s v (State.key_ne_fam (fun e => hg (by rw [e]; exact h)) j i), fun _ => by simp, fun _ => by simp⟩

theorem EventOnly.setFld (s : State) (f : Reg.Field) (i x : Nat) (h : f.fam ∈ eventFams) : EventOnly s (s.setFld f i x) :=
  EventOnly.wr s f.fam i _ h

theorem EventOnly.bump (s : State) (f : Reg.Field) (i n : Nat) (h : f.fam ∈ eventFams) : EventOnly s (s.bump f i n) :=
  EventOnly.setFld s f i _ h

theorem EventOnly.setEthPort (s : State) (p : Nat) (e : EthPort) (h : e.bare = (s.ethPort p).bare) :
    EventOnly s (s.setEthPort p e) := by
  refine ⟨rfl, fun _ _ _ => by simp, fun _ => by simp, fun i => ?_⟩
  rw [State.setEthPort_ethPort]; split
  · next hi => rw [hi, h]
  · rfl

theorem EventOnly.setQp (s : State) (i : Nat) (q : Qp) (h : q.bare = (s.qp i).bare) : EventOnly s (s.setQp i q) := by
  refine ⟨rfl, fun _ _ _ => by simp, fun j => ?_, fun _ => by simp⟩
  rw [State.setQp_qp]; split
  · next hi => rw [hi, h]
  · rfl

theorem EventOnly.emit (s : State) (m : Msg) : EventOnly s (s.emit m) :=
  ⟨rfl, fun _ _ _ => by simp, fun _ => by simp, fun _ => by simp⟩

theorem EventOnly.foldl {α : Type} {f : State → α → State} (h : ∀ s a, EventOnly s (f s a)) (xs : List α) (s : State) :
    EventOnly s (xs.foldl f s) := by
  induction xs generalizing s with
  | nil => exact .refl s
  | cons x xs ih => exact (h s x).trans (ih _)

theorem offerFrame_only (s : State) (p : Nat) (f : Frame) : EventOnly s (offerFrame s p f) := by
  unfold offerFrame
  dsimp only
  split
  · exact .refl s
  · split
    · refine EventOnly.trans ?_ (.emit _ _)
      exact .setEthPort s p _ rfl
    · split
      · exact .bump s _ p 1 (by decide)
      · exact .setEthPort s p _ rfl

theorem qpFrame_only (s : State) (i : Nat) (b : FrameBody) : EventOnly s (qpFrame s i b) := offerFrame_only s _ _

theorem qpSend_only (s : State) (i : Nat) (data : List Byte) (p : Purpose) : EventOnly s (qpSend s i data p) := by
  unfold qpSend
  refine EventOnly.trans ?_ (qpFrame_only _ i _)
  exact .setQp s i _ rfl

theorem putRecord_only (s : State) (code : Nat) (c : W32) (p q : Nat) : EventOnly s (putRecord s code c p q) := by
  unfold putRecord
  dsimp only
  refine (EventOnly.bump s F.evrHeadCount 0 1 (by decide)).trans (EventOnly.trans ?_ (EventOnly.foldl (fun s i => qpSend_only s i _ _) _ _))
  split
  · exact (EventOnly.bump _ F.evrLostCount 0 1 (by decide)).trans ⟨rfl, fun _ _ _ => rfl, fun _ => rfl, fun _ => rfl⟩
  · exact ((((EventOnly.setFld _ F.stwIrqCauseCause 0 _ (by decide)).trans (.wr _ _ _ _ (by decide))).trans
      (.wr _ _ _ _ (by decide))).trans (.wr _ _ _ _ (by decide))).trans (.wr _ _ _ _ (by decide))

/-- All that an event can do. -/
theorem event_only (s : State) (code : Nat) (c : W32) (p q : Nat) : EventOnly s (event s code c p q) := by
  have hb : ∀ (s : State) b, EventOnly s { s with buckets := b } := fun s b => ⟨rfl, fun _ _ _ => rfl, fun _ => rfl, fun _ => rfl⟩
  unfold event
  dsimp only
  split
  · split
    · exact (EventOnly.bump s F.evrSuppressedCount 0 1 (by decide)).trans (hb _ _)
    · refine EventOnly.trans ?_ (putRecord_only _ _ _ _ _)
      split
      · exact hb s _
      · exact (hb s _).trans (putRecord_only _ _ _ _ _)
  · exact putRecord_only s _ _ _ _

/-- A register of no family that events write reads as before. -/
theorem event_rd (s : State) (code : Nat) (c : W32) (p q : Nat) {f i : Nat} (h : f ∉ eventFams) :
    (event s code c p q).rd f i = s.rd f i := (event_only s code c p q).2.1 f i h

/-- And its fields. -/
theorem event_fld (s : State) (code : Nat) (c : W32) (p q : Nat) {f : Reg.Field} {i : Nat} (h : f.fam ∉ eventFams) :
    (event s code c p q).fld f i = s.fld f i := by unfold State.fld; rw [event_rd s code c p q h]

@[simp] theorem event_now (s : State) (code : Nat) (c : W32) (p q : Nat) : (event s code c p q).now = s.now :=
  event_fld s code c p q (by decide)

/-! ### Reads of memory -/

/-- The register families that the log of an error changes, events included. -/
def logFams : List Nat :=
  eventFams ++ [Reg.memUeLog, Reg.memUeNext, Reg.memUeTotal, Reg.memSdChan, Reg.memLpChan]

/-- `t` is `s` but for what events change and the log of errors. -/
def Logged (s t : State) : Prop :=
  t = { s with regs := t.regs, qps := t.qps, eth := t.eth, outbox := t.outbox, buckets := t.buckets, unwritten := t.unwritten,
               repairs := t.repairs, ce := t.ce, altered := t.altered, ceLog := t.ceLog } ∧
    (∀ f i, f ∉ logFams → t.rd f i = s.rd f i) ∧ (∀ i, (t.qp i).bare = (s.qp i).bare) ∧
    (∀ i, (t.ethPort i).bare = (s.ethPort i).bare)

theorem Logged.refl (s : State) : Logged s s := ⟨rfl, fun _ _ _ => rfl, fun _ => rfl, fun _ => rfl⟩

theorem Logged.trans {s t u : State} (h : Logged s t) (k : Logged t u) : Logged s u := by
  refine ⟨?_, fun f i hf => (k.2.1 f i hf).trans (h.2.1 f i hf), fun i => (k.2.2.1 i).trans (h.2.2.1 i),
    fun i => (k.2.2.2 i).trans (h.2.2.2 i)⟩
  have hk := k.1
  rw [h.1] at hk
  exact hk

theorem EventOnly.logged {s t : State} (h : EventOnly s t) : Logged s t := by
  refine ⟨?_, fun f i hf => h.2.1 f i (fun hm => hf (List.mem_append_left _ hm)), h.2.2.1, h.2.2.2⟩
  have hk := h.1
  rw [hk]

theorem Logged.wr (s : State) (f i : Nat) (v : W64) (h : f ∈ logFams) : Logged s (s.wr f i v) :=
  ⟨rfl, fun g j hg => State.rd_wr_ne s v (State.key_ne_fam (fun e => hg (by rw [e]; exact h)) j i), fun _ => by simp, fun _ => by simp⟩

theorem Logged.bumpSat (s : State) (f : Reg.Field) (i : Nat) (h : f.fam ∈ logFams) : Logged s (s.bumpSat f i) := by
  unfold State.bumpSat
  split
  · exact .wr s f.fam i _ h
  · exact .refl s

theorem Logged.foldl {α : Type} {f : State → α → State} (h : ∀ s a, Logged s (f s a)) (xs : List α) (s : State) :
    Logged s (xs.foldl f s) := by
  induction xs generalizing s with
  | nil => exact .refl s
  | cons x xs ih => exact (h s x).trans (ih _)

/-- All that the log of an error can do. -/
theorem logUe_logged (s : State) (line source : Nat) (patrol : Bool) : Logged s (logUe s line source patrol) := by
  unfold logUe
  dsimp only
  refine Logged.trans ?_ (event_only _ _ _ _ _).logged
  have hr : ∀ (s : State) r, Logged s { s with repairs := r } := fun s r => ⟨rfl, fun _ _ _ => rfl, fun _ => rfl, fun _ => rfl⟩
  refine Logged.trans ?_ (hr _ _)
  have hd : ∀ (s : State) (f : Reg.Field) (i x : Nat), f.fam ∈ logFams → Logged s (s.setFld f i x) :=
    fun s f i x h => Logged.wr s f.fam i _ h
  have h3 : ∀ v x, Logged s (((s.wr Reg.memUeLog (s.fld F.memUeNextNext) v).setFld F.memUeNextNext 0 x).bumpSat F.memUeTotalCount) :=
    fun v x => ((Logged.wr s Reg.memUeLog _ v (by decide)).trans (hd _ F.memUeNextNext 0 x (by decide))).trans
      (Logged.bumpSat _ F.memUeTotalCount 0 (by decide))
  split
  · exact (h3 _ _).trans (Logged.bumpSat _ F.memSdChanUeCount _ (by decide))
  · split
    · exact (h3 _ _).trans (Logged.bumpSat _ F.memLpChanUeCount _ (by decide))
    · exact h3 _ _

/-- All that the correction of a line can do. -/
theorem correctLine_logged (s : State) (line : Nat) : Logged s (correctLine s line) := by
  unfold correctLine
  dsimp only
  have hr : ∀ (s : State) c e l, Logged s { s with ce := c, altered := e, ceLog := l } :=
    fun s c e l => ⟨rfl, fun _ _ _ => rfl, fun _ => rfl, fun _ => rfl⟩
  split
  · split
    · exact (hr s _ _ _).trans (Logged.bumpSat _ F.memSdChanCeCount _ (by decide))
    · exact (hr s _ _ _).trans (Logged.bumpSat _ F.memLpChanCeCount _ (by decide))
  · exact .refl s

/-- All that a read can do. -/
theorem memLoad_logged (s : State) (a n : Nat) : Logged s (memLoad s a n).2 := by
  unfold memLoad
  dsimp only
  split
  · exact Logged.foldl correctLine_logged _ _
  · exact (Logged.foldl correctLine_logged _ _).trans (Logged.foldl (fun s l => logUe_logged s l _ _) _ _)

/-! ### Writes of memory -/

/-- `t` is `s` but for the bytes of memory, the lines in error, and what the log of errors changes. -/
def Stored (s t : State) : Prop :=
  t = { s with regs := t.regs, qps := t.qps, eth := t.eth, outbox := t.outbox, buckets := t.buckets, unwritten := t.unwritten,
               repairs := t.repairs, ce := t.ce, altered := t.altered, ceLog := t.ceLog, mem := t.mem, ue := t.ue, dirty := t.dirty,
               lost := t.lost } ∧
    (∀ f i, f ∉ logFams → t.rd f i = s.rd f i) ∧ (∀ i, (t.qp i).bare = (s.qp i).bare) ∧
    (∀ i, (t.ethPort i).bare = (s.ethPort i).bare)

theorem Stored.refl (s : State) : Stored s s := ⟨rfl, fun _ _ _ => rfl, fun _ => rfl, fun _ => rfl⟩

theorem Stored.trans {s t u : State} (h : Stored s t) (k : Stored t u) : Stored s u := by
  refine ⟨?_, fun f i hf => (k.2.1 f i hf).trans (h.2.1 f i hf), fun i => (k.2.2.1 i).trans (h.2.2.1 i),
    fun i => (k.2.2.2 i).trans (h.2.2.2 i)⟩
  have hk := k.1
  rw [h.1] at hk
  exact hk

theorem Logged.stored {s t : State} (h : Logged s t) : Stored s t := by
  refine ⟨?_, h.2⟩
  have hk := h.1
  rw [hk]

theorem setBytes_stored (s : State) (a : Nat) (bs : List Byte) : Stored s (s.setBytes a bs) := by
  induction bs generalizing s a with
  | nil => exact .refl s
  | cons b bs ih => exact Stored.trans (t := s.setByte a b) ⟨rfl, fun _ _ _ => by simp, fun _ => by simp, fun _ => by simp⟩ (ih _ _)

theorem mend_stored (s : State) (p : Nat → Bool) : Stored s (s.mend p) := ⟨rfl, fun _ _ _ => rfl, fun _ => rfl, fun _ => rfl⟩

theorem lineWritten_stored {s t : State} {line n : Nat} (h : lineWritten s line n = some t) : Stored s t := by
  unfold lineWritten at h
  split at h
  · cases h; exact mend_stored s _
  · split at h
    · split at h
      · cases h
      · cases h; exact .refl s
    · cases h; exact (correctLine_logged s line).stored

theorem storeLine_stored (s : State) (a : Nat) (bs : List Byte) : Stored s (storeLine s a bs).2 := by
  unfold storeLine
  dsimp only
  split
  · split
    · exact (logUe_logged s _ _ _).stored
    · next t h => exact (lineWritten_stored h).trans (setBytes_stored t a bs)
  · exact setBytes_stored s a bs

theorem memStoreN_stored (n : Nat) (s : State) (a : Nat) (bs : List Byte) : Stored s (memStoreN n s a bs).2 := by
  induction n generalizing s a bs with
  | zero => exact .refl s
  | succ n ih =>
    unfold memStoreN
    dsimp only
    split
    · exact .refl s
    · exact (storeLine_stored s a _).trans (ih _ _ _)

/-- All that a write can do beside its bytes. -/
theorem memStore_stored (s : State) (a : Nat) (bs : List Byte) : Stored s (memStore s a bs).2 := memStoreN_stored _ s a bs

/-! ### One lemma per field -/

variable (s : State)


section
variable (code : Nat) (c : W32) (p q : Nat)

@[simp] theorem event_staged : (event s code c p q).staged = s.staged := by rw [(event_only s code c p q).1]
@[simp] theorem event_active : (event s code c p q).active = s.active := by rw [(event_only s code c p q).1]
@[simp] theorem event_mem : (event s code c p q).mem = s.mem := by rw [(event_only s code c p q).1]
@[simp] theorem event_ue : (event s code c p q).ue = s.ue := by rw [(event_only s code c p q).1]
@[simp] theorem event_ce : (event s code c p q).ce = s.ce := by rw [(event_only s code c p q).1]
@[simp] theorem event_altered : (event s code c p q).altered = s.altered := by rw [(event_only s code c p q).1]
@[simp] theorem event_dirty : (event s code c p q).dirty = s.dirty := by rw [(event_only s code c p q).1]
@[simp] theorem event_lost : (event s code c p q).lost = s.lost := by rw [(event_only s code c p q).1]
@[simp] theorem event_repairs : (event s code c p q).repairs = s.repairs := by rw [(event_only s code c p q).1]
@[simp] theorem event_ceLog : (event s code c p q).ceLog = s.ceLog := by rw [(event_only s code c p q).1]
@[simp] theorem event_scLog : (event s code c p q).scLog = s.scLog := by rw [(event_only s code c p q).1]
@[simp] theorem event_rowMaps : (event s code c p q).rowMaps = s.rowMaps := by rw [(event_only s code c p q).1]
@[simp] theorem event_patrol : (event s code c p q).patrol = s.patrol := by rw [(event_only s code c p q).1]
@[simp] theorem event_journalDue : (event s code c p q).journalDue = s.journalDue := by rw [(event_only s code c p q).1]
@[simp] theorem event_tlb : (event s code c p q).tlb = s.tlb := by rw [(event_only s code c p q).1]
@[simp] theorem event_walks : (event s code c p q).walks = s.walks := by rw [(event_only s code c p q).1]
@[simp] theorem event_merge : (event s code c p q).merge = s.merge := by rw [(event_only s code c p q).1]
@[simp] theorem event_ctxs : (event s code c p q).ctxs = s.ctxs := by rw [(event_only s code c p q).1]
@[simp] theorem event_queues : (event s code c p q).queues = s.queues := by rw [(event_only s code c p q).1]
@[simp] theorem event_subSeq : (event s code c p q).subSeq = s.subSeq := by rw [(event_only s code c p q).1]
@[simp] theorem event_startSeq : (event s code c p q).startSeq = s.startSeq := by rw [(event_only s code c p q).1]
@[simp] theorem event_slotLast : (event s code c p q).slotLast = s.slotLast := by rw [(event_only s code c p q).1]
@[simp] theorem event_doorSlot : (event s code c p q).doorSlot = s.doorSlot := by rw [(event_only s code c p q).1]
@[simp] theorem event_rrSlot : (event s code c p q).rrSlot = s.rrSlot := by rw [(event_only s code c p q).1]
@[simp] theorem event_rrSince : (event s code c p q).rrSince = s.rrSince := by rw [(event_only s code c p q).1]
@[simp] theorem event_courts : (event s code c p q).courts = s.courts := by rw [(event_only s code c p q).1]
@[simp] theorem event_fields : (event s code c p q).fields = s.fields := by rw [(event_only s code c p q).1]
@[simp] theorem event_quarters : (event s code c p q).quarters = s.quarters := by rw [(event_only s code c p q).1]
@[simp] theorem event_cores : (event s code c p q).cores = s.cores := by rw [(event_only s code c p q).1]
@[simp] theorem event_launches : (event s code c p q).launches = s.launches := by rw [(event_only s code c p q).1]
@[simp] theorem event_blocks : (event s code c p q).blocks = s.blocks := by rw [(event_only s code c p q).1]
@[simp] theorem event_groups : (event s code c p q).groups = s.groups := by rw [(event_only s code c p q).1]
@[simp] theorem event_passes : (event s code c p q).passes = s.passes := by rw [(event_only s code c p q).1]
@[simp] theorem event_pipes : (event s code c p q).pipes = s.pipes := by rw [(event_only s code c p q).1]
@[simp] theorem event_dp : (event s code c p q).dp = s.dp := by rw [(event_only s code c p q).1]
@[simp] theorem event_streamStates : (event s code c p q).streamStates = s.streamStates := by rw [(event_only s code c p q).1]
@[simp] theorem event_rasterLeaving : (event s code c p q).rasterLeaving = s.rasterLeaving := by rw [(event_only s code c p q).1]
@[simp] theorem event_heavyEnd : (event s code c p q).heavyEnd = s.heavyEnd := by rw [(event_only s code c p q).1]
@[simp] theorem event_zeroing : (event s code c p q).zeroing = s.zeroing := by rw [(event_only s code c p q).1]
@[simp] theorem event_inspects : (event s code c p q).inspects = s.inspects := by rw [(event_only s code c p q).1]
@[simp] theorem event_inspected : (event s code c p q).inspected = s.inspected := by rw [(event_only s code c p q).1]
@[simp] theorem event_keys : (event s code c p q).keys = s.keys := by rw [(event_only s code c p q).1]
@[simp] theorem event_streams : (event s code c p q).streams = s.streams := by rw [(event_only s code c p q).1]
@[simp] theorem event_time : (event s code c p q).time = s.time := by rw [(event_only s code c p q).1]
@[simp] theorem event_iql : (event s code c p q).iql = s.iql := by rw [(event_only s code c p q).1]
@[simp] theorem event_txns : (event s code c p q).txns = s.txns := by rw [(event_only s code c p q).1]
@[simp] theorem event_txWait : (event s code c p q).txWait = s.txWait := by rw [(event_only s code c p q).1]
@[simp] theorem event_far : (event s code c p q).far = s.far := by rw [(event_only s code c p q).1]
@[simp] theorem event_farUnit : (event s code c p q).farUnit = s.farUnit := by rw [(event_only s code c p q).1]
@[simp] theorem event_farMiss : (event s code c p q).farMiss = s.farMiss := by rw [(event_only s code c p q).1]
@[simp] theorem event_farLack : (event s code c p q).farLack = s.farLack := by rw [(event_only s code c p q).1]
@[simp] theorem event_whistle : (event s code c p q).whistle = s.whistle := by rw [(event_only s code c p q).1]
@[simp] theorem event_flushing : (event s code c p q).flushing = s.flushing := by rw [(event_only s code c p q).1]
@[simp] theorem event_jobs : (event s code c p q).jobs = s.jobs := by rw [(event_only s code c p q).1]
@[simp] theorem event_power : (event s code c p q).power = s.power := by rw [(event_only s code c p q).1]
@[simp] theorem event_stw : (event s code c p q).stw = s.stw := by rw [(event_only s code c p q).1]
@[simp] theorem event_recoveries : (event s code c p q).recoveries = s.recoveries := by rw [(event_only s code c p q).1]
@[simp] theorem event_referee : (event s code c p q).referee = s.referee := by rw [(event_only s code c p q).1]
@[simp] theorem event_mgmt : (event s code c p q).mgmt = s.mgmt := by rw [(event_only s code c p q).1]
@[simp] theorem event_free : (event s code c p q).free = s.free := by rw [(event_only s code c p q).1]
@[simp] theorem event_pending : (event s code c p q).pending = s.pending := by rw [(event_only s code c p q).1]
@[simp] theorem event_at_ctx (j : Nat) : (event s code c p q).ctx j = s.ctx j := by rw [State.ctx, event_ctxs, State.ctx]
@[simp] theorem event_at_queue (j : Nat) : (event s code c p q).queue j = s.queue j := by rw [State.queue, event_queues, State.queue]
@[simp] theorem event_at_court (j : Nat) : (event s code c p q).court j = s.court j := by rw [State.court, event_courts, State.court]
@[simp] theorem event_at_field (j : Nat) : (event s code c p q).field j = s.field j := by rw [State.field, event_fields, State.field]
@[simp] theorem event_at_quarter (j : Nat) : (event s code c p q).quarter j = s.quarter j := by rw [State.quarter, event_quarters, State.quarter]
@[simp] theorem event_at_core (j : Nat) : (event s code c p q).core j = s.core j := by rw [State.core, event_cores, State.core]
@[simp] theorem event_at_launch (j : Nat) : (event s code c p q).launch j = s.launch j := by rw [State.launch, event_launches, State.launch]
@[simp] theorem event_at_block (j : Nat) : (event s code c p q).block j = s.block j := by rw [State.block, event_blocks, State.block]
@[simp] theorem event_at_group (j : Nat) : (event s code c p q).group j = s.group j := by rw [State.group, event_groups, State.group]
@[simp] theorem event_at_pass (j : Nat) : (event s code c p q).pass j = s.pass j := by rw [State.pass, event_passes, State.pass]
@[simp] theorem event_at_pipe (j : Nat) : (event s code c p q).pipe j = s.pipe j := by rw [State.pipe, event_pipes, State.pipe]
@[simp] theorem event_at_dpTx (j : Nat) : (event s code c p q).dpTx j = s.dpTx j := by rw [State.dpTx, event_dp, State.dpTx]
@[simp] theorem event_at_key (j : Nat) : (event s code c p q).key j = s.key j := by rw [State.key, event_keys, State.key]
@[simp] theorem event_at_stream (j : Nat) : (event s code c p q).stream j = s.stream j := by rw [State.stream, event_streams, State.stream]
@[simp] theorem event_at_iqlPort (j : Nat) : (event s code c p q).iqlPort j = s.iqlPort j := by rw [State.iqlPort, event_iql, State.iqlPort]
@[simp] theorem event_at_txn (j : Nat) : (event s code c p q).txn j = s.txn j := by rw [State.txn, event_txns, State.txn]
@[simp] theorem event_byte (b : Nat) : (event s code c p q).byte b = s.byte b := by rw [State.byte, event_mem, State.byte]
@[simp] theorem event_bytes (b m : Nat) : (event s code c p q).bytes b m = s.bytes b m := by simp only [State.bytes, event_byte]
end

section
variable (line source : Nat) (patrol : Bool)

@[simp] theorem logUe_staged : (logUe s line source patrol).staged = s.staged := by rw [(logUe_logged s line source patrol).1]
@[simp] theorem logUe_active : (logUe s line source patrol).active = s.active := by rw [(logUe_logged s line source patrol).1]
@[simp] theorem logUe_mem : (logUe s line source patrol).mem = s.mem := by rw [(logUe_logged s line source patrol).1]
@[simp] theorem logUe_ue : (logUe s line source patrol).ue = s.ue := by rw [(logUe_logged s line source patrol).1]
@[simp] theorem logUe_dirty : (logUe s line source patrol).dirty = s.dirty := by rw [(logUe_logged s line source patrol).1]
@[simp] theorem logUe_lost : (logUe s line source patrol).lost = s.lost := by rw [(logUe_logged s line source patrol).1]
@[simp] theorem logUe_scLog : (logUe s line source patrol).scLog = s.scLog := by rw [(logUe_logged s line source patrol).1]
@[simp] theorem logUe_rowMaps : (logUe s line source patrol).rowMaps = s.rowMaps := by rw [(logUe_logged s line source patrol).1]
@[simp] theorem logUe_patrol : (logUe s line source patrol).patrol = s.patrol := by rw [(logUe_logged s line source patrol).1]
@[simp] theorem logUe_journalDue : (logUe s line source patrol).journalDue = s.journalDue := by rw [(logUe_logged s line source patrol).1]
@[simp] theorem logUe_tlb : (logUe s line source patrol).tlb = s.tlb := by rw [(logUe_logged s line source patrol).1]
@[simp] theorem logUe_walks : (logUe s line source patrol).walks = s.walks := by rw [(logUe_logged s line source patrol).1]
@[simp] theorem logUe_merge : (logUe s line source patrol).merge = s.merge := by rw [(logUe_logged s line source patrol).1]
@[simp] theorem logUe_ctxs : (logUe s line source patrol).ctxs = s.ctxs := by rw [(logUe_logged s line source patrol).1]
@[simp] theorem logUe_queues : (logUe s line source patrol).queues = s.queues := by rw [(logUe_logged s line source patrol).1]
@[simp] theorem logUe_subSeq : (logUe s line source patrol).subSeq = s.subSeq := by rw [(logUe_logged s line source patrol).1]
@[simp] theorem logUe_startSeq : (logUe s line source patrol).startSeq = s.startSeq := by rw [(logUe_logged s line source patrol).1]
@[simp] theorem logUe_slotLast : (logUe s line source patrol).slotLast = s.slotLast := by rw [(logUe_logged s line source patrol).1]
@[simp] theorem logUe_doorSlot : (logUe s line source patrol).doorSlot = s.doorSlot := by rw [(logUe_logged s line source patrol).1]
@[simp] theorem logUe_rrSlot : (logUe s line source patrol).rrSlot = s.rrSlot := by rw [(logUe_logged s line source patrol).1]
@[simp] theorem logUe_rrSince : (logUe s line source patrol).rrSince = s.rrSince := by rw [(logUe_logged s line source patrol).1]
@[simp] theorem logUe_courts : (logUe s line source patrol).courts = s.courts := by rw [(logUe_logged s line source patrol).1]
@[simp] theorem logUe_fields : (logUe s line source patrol).fields = s.fields := by rw [(logUe_logged s line source patrol).1]
@[simp] theorem logUe_quarters : (logUe s line source patrol).quarters = s.quarters := by rw [(logUe_logged s line source patrol).1]
@[simp] theorem logUe_cores : (logUe s line source patrol).cores = s.cores := by rw [(logUe_logged s line source patrol).1]
@[simp] theorem logUe_launches : (logUe s line source patrol).launches = s.launches := by rw [(logUe_logged s line source patrol).1]
@[simp] theorem logUe_blocks : (logUe s line source patrol).blocks = s.blocks := by rw [(logUe_logged s line source patrol).1]
@[simp] theorem logUe_groups : (logUe s line source patrol).groups = s.groups := by rw [(logUe_logged s line source patrol).1]
@[simp] theorem logUe_passes : (logUe s line source patrol).passes = s.passes := by rw [(logUe_logged s line source patrol).1]
@[simp] theorem logUe_pipes : (logUe s line source patrol).pipes = s.pipes := by rw [(logUe_logged s line source patrol).1]
@[simp] theorem logUe_dp : (logUe s line source patrol).dp = s.dp := by rw [(logUe_logged s line source patrol).1]
@[simp] theorem logUe_streamStates : (logUe s line source patrol).streamStates = s.streamStates := by rw [(logUe_logged s line source patrol).1]
@[simp] theorem logUe_rasterLeaving : (logUe s line source patrol).rasterLeaving = s.rasterLeaving := by rw [(logUe_logged s line source patrol).1]
@[simp] theorem logUe_heavyEnd : (logUe s line source patrol).heavyEnd = s.heavyEnd := by rw [(logUe_logged s line source patrol).1]
@[simp] theorem logUe_zeroing : (logUe s line source patrol).zeroing = s.zeroing := by rw [(logUe_logged s line source patrol).1]
@[simp] theorem logUe_inspects : (logUe s line source patrol).inspects = s.inspects := by rw [(logUe_logged s line source patrol).1]
@[simp] theorem logUe_inspected : (logUe s line source patrol).inspected = s.inspected := by rw [(logUe_logged s line source patrol).1]
@[simp] theorem logUe_keys : (logUe s line source patrol).keys = s.keys := by rw [(logUe_logged s line source patrol).1]
@[simp] theorem logUe_streams : (logUe s line source patrol).streams = s.streams := by rw [(logUe_logged s line source patrol).1]
@[simp] theorem logUe_time : (logUe s line source patrol).time = s.time := by rw [(logUe_logged s line source patrol).1]
@[simp] theorem logUe_iql : (logUe s line source patrol).iql = s.iql := by rw [(logUe_logged s line source patrol).1]
@[simp] theorem logUe_txns : (logUe s line source patrol).txns = s.txns := by rw [(logUe_logged s line source patrol).1]
@[simp] theorem logUe_txWait : (logUe s line source patrol).txWait = s.txWait := by rw [(logUe_logged s line source patrol).1]
@[simp] theorem logUe_far : (logUe s line source patrol).far = s.far := by rw [(logUe_logged s line source patrol).1]
@[simp] theorem logUe_farUnit : (logUe s line source patrol).farUnit = s.farUnit := by rw [(logUe_logged s line source patrol).1]
@[simp] theorem logUe_farMiss : (logUe s line source patrol).farMiss = s.farMiss := by rw [(logUe_logged s line source patrol).1]
@[simp] theorem logUe_farLack : (logUe s line source patrol).farLack = s.farLack := by rw [(logUe_logged s line source patrol).1]
@[simp] theorem logUe_whistle : (logUe s line source patrol).whistle = s.whistle := by rw [(logUe_logged s line source patrol).1]
@[simp] theorem logUe_flushing : (logUe s line source patrol).flushing = s.flushing := by rw [(logUe_logged s line source patrol).1]
@[simp] theorem logUe_jobs : (logUe s line source patrol).jobs = s.jobs := by rw [(logUe_logged s line source patrol).1]
@[simp] theorem logUe_power : (logUe s line source patrol).power = s.power := by rw [(logUe_logged s line source patrol).1]
@[simp] theorem logUe_stw : (logUe s line source patrol).stw = s.stw := by rw [(logUe_logged s line source patrol).1]
@[simp] theorem logUe_recoveries : (logUe s line source patrol).recoveries = s.recoveries := by rw [(logUe_logged s line source patrol).1]
@[simp] theorem logUe_referee : (logUe s line source patrol).referee = s.referee := by rw [(logUe_logged s line source patrol).1]
@[simp] theorem logUe_mgmt : (logUe s line source patrol).mgmt = s.mgmt := by rw [(logUe_logged s line source patrol).1]
@[simp] theorem logUe_free : (logUe s line source patrol).free = s.free := by rw [(logUe_logged s line source patrol).1]
@[simp] theorem logUe_pending : (logUe s line source patrol).pending = s.pending := by rw [(logUe_logged s line source patrol).1]
@[simp] theorem logUe_at_ctx (j : Nat) : (logUe s line source patrol).ctx j = s.ctx j := by rw [State.ctx, logUe_ctxs, State.ctx]
@[simp] theorem logUe_at_queue (j : Nat) : (logUe s line source patrol).queue j = s.queue j := by rw [State.queue, logUe_queues, State.queue]
@[simp] theorem logUe_at_court (j : Nat) : (logUe s line source patrol).court j = s.court j := by rw [State.court, logUe_courts, State.court]
@[simp] theorem logUe_at_field (j : Nat) : (logUe s line source patrol).field j = s.field j := by rw [State.field, logUe_fields, State.field]
@[simp] theorem logUe_at_quarter (j : Nat) : (logUe s line source patrol).quarter j = s.quarter j := by rw [State.quarter, logUe_quarters, State.quarter]
@[simp] theorem logUe_at_core (j : Nat) : (logUe s line source patrol).core j = s.core j := by rw [State.core, logUe_cores, State.core]
@[simp] theorem logUe_at_launch (j : Nat) : (logUe s line source patrol).launch j = s.launch j := by rw [State.launch, logUe_launches, State.launch]
@[simp] theorem logUe_at_block (j : Nat) : (logUe s line source patrol).block j = s.block j := by rw [State.block, logUe_blocks, State.block]
@[simp] theorem logUe_at_group (j : Nat) : (logUe s line source patrol).group j = s.group j := by rw [State.group, logUe_groups, State.group]
@[simp] theorem logUe_at_pass (j : Nat) : (logUe s line source patrol).pass j = s.pass j := by rw [State.pass, logUe_passes, State.pass]
@[simp] theorem logUe_at_pipe (j : Nat) : (logUe s line source patrol).pipe j = s.pipe j := by rw [State.pipe, logUe_pipes, State.pipe]
@[simp] theorem logUe_at_dpTx (j : Nat) : (logUe s line source patrol).dpTx j = s.dpTx j := by rw [State.dpTx, logUe_dp, State.dpTx]
@[simp] theorem logUe_at_key (j : Nat) : (logUe s line source patrol).key j = s.key j := by rw [State.key, logUe_keys, State.key]
@[simp] theorem logUe_at_stream (j : Nat) : (logUe s line source patrol).stream j = s.stream j := by rw [State.stream, logUe_streams, State.stream]
@[simp] theorem logUe_at_iqlPort (j : Nat) : (logUe s line source patrol).iqlPort j = s.iqlPort j := by rw [State.iqlPort, logUe_iql, State.iqlPort]
@[simp] theorem logUe_at_txn (j : Nat) : (logUe s line source patrol).txn j = s.txn j := by rw [State.txn, logUe_txns, State.txn]
@[simp] theorem logUe_byte (b : Nat) : (logUe s line source patrol).byte b = s.byte b := by rw [State.byte, logUe_mem, State.byte]
@[simp] theorem logUe_bytes (b m : Nat) : (logUe s line source patrol).bytes b m = s.bytes b m := by simp only [State.bytes, logUe_byte]
end

section
variable (line : Nat)

@[simp] theorem correctLine_staged : (correctLine s line).staged = s.staged := by rw [(correctLine_logged s line).1]
@[simp] theorem correctLine_active : (correctLine s line).active = s.active := by rw [(correctLine_logged s line).1]
@[simp] theorem correctLine_mem : (correctLine s line).mem = s.mem := by rw [(correctLine_logged s line).1]
@[simp] theorem correctLine_ue : (correctLine s line).ue = s.ue := by rw [(correctLine_logged s line).1]
@[simp] theorem correctLine_dirty : (correctLine s line).dirty = s.dirty := by rw [(correctLine_logged s line).1]
@[simp] theorem correctLine_lost : (correctLine s line).lost = s.lost := by rw [(correctLine_logged s line).1]
@[simp] theorem correctLine_scLog : (correctLine s line).scLog = s.scLog := by rw [(correctLine_logged s line).1]
@[simp] theorem correctLine_rowMaps : (correctLine s line).rowMaps = s.rowMaps := by rw [(correctLine_logged s line).1]
@[simp] theorem correctLine_patrol : (correctLine s line).patrol = s.patrol := by rw [(correctLine_logged s line).1]
@[simp] theorem correctLine_journalDue : (correctLine s line).journalDue = s.journalDue := by rw [(correctLine_logged s line).1]
@[simp] theorem correctLine_tlb : (correctLine s line).tlb = s.tlb := by rw [(correctLine_logged s line).1]
@[simp] theorem correctLine_walks : (correctLine s line).walks = s.walks := by rw [(correctLine_logged s line).1]
@[simp] theorem correctLine_merge : (correctLine s line).merge = s.merge := by rw [(correctLine_logged s line).1]
@[simp] theorem correctLine_ctxs : (correctLine s line).ctxs = s.ctxs := by rw [(correctLine_logged s line).1]
@[simp] theorem correctLine_queues : (correctLine s line).queues = s.queues := by rw [(correctLine_logged s line).1]
@[simp] theorem correctLine_subSeq : (correctLine s line).subSeq = s.subSeq := by rw [(correctLine_logged s line).1]
@[simp] theorem correctLine_startSeq : (correctLine s line).startSeq = s.startSeq := by rw [(correctLine_logged s line).1]
@[simp] theorem correctLine_slotLast : (correctLine s line).slotLast = s.slotLast := by rw [(correctLine_logged s line).1]
@[simp] theorem correctLine_doorSlot : (correctLine s line).doorSlot = s.doorSlot := by rw [(correctLine_logged s line).1]
@[simp] theorem correctLine_rrSlot : (correctLine s line).rrSlot = s.rrSlot := by rw [(correctLine_logged s line).1]
@[simp] theorem correctLine_rrSince : (correctLine s line).rrSince = s.rrSince := by rw [(correctLine_logged s line).1]
@[simp] theorem correctLine_courts : (correctLine s line).courts = s.courts := by rw [(correctLine_logged s line).1]
@[simp] theorem correctLine_fields : (correctLine s line).fields = s.fields := by rw [(correctLine_logged s line).1]
@[simp] theorem correctLine_quarters : (correctLine s line).quarters = s.quarters := by rw [(correctLine_logged s line).1]
@[simp] theorem correctLine_cores : (correctLine s line).cores = s.cores := by rw [(correctLine_logged s line).1]
@[simp] theorem correctLine_launches : (correctLine s line).launches = s.launches := by rw [(correctLine_logged s line).1]
@[simp] theorem correctLine_blocks : (correctLine s line).blocks = s.blocks := by rw [(correctLine_logged s line).1]
@[simp] theorem correctLine_groups : (correctLine s line).groups = s.groups := by rw [(correctLine_logged s line).1]
@[simp] theorem correctLine_passes : (correctLine s line).passes = s.passes := by rw [(correctLine_logged s line).1]
@[simp] theorem correctLine_pipes : (correctLine s line).pipes = s.pipes := by rw [(correctLine_logged s line).1]
@[simp] theorem correctLine_dp : (correctLine s line).dp = s.dp := by rw [(correctLine_logged s line).1]
@[simp] theorem correctLine_streamStates : (correctLine s line).streamStates = s.streamStates := by rw [(correctLine_logged s line).1]
@[simp] theorem correctLine_rasterLeaving : (correctLine s line).rasterLeaving = s.rasterLeaving := by rw [(correctLine_logged s line).1]
@[simp] theorem correctLine_heavyEnd : (correctLine s line).heavyEnd = s.heavyEnd := by rw [(correctLine_logged s line).1]
@[simp] theorem correctLine_zeroing : (correctLine s line).zeroing = s.zeroing := by rw [(correctLine_logged s line).1]
@[simp] theorem correctLine_inspects : (correctLine s line).inspects = s.inspects := by rw [(correctLine_logged s line).1]
@[simp] theorem correctLine_inspected : (correctLine s line).inspected = s.inspected := by rw [(correctLine_logged s line).1]
@[simp] theorem correctLine_keys : (correctLine s line).keys = s.keys := by rw [(correctLine_logged s line).1]
@[simp] theorem correctLine_streams : (correctLine s line).streams = s.streams := by rw [(correctLine_logged s line).1]
@[simp] theorem correctLine_time : (correctLine s line).time = s.time := by rw [(correctLine_logged s line).1]
@[simp] theorem correctLine_iql : (correctLine s line).iql = s.iql := by rw [(correctLine_logged s line).1]
@[simp] theorem correctLine_txns : (correctLine s line).txns = s.txns := by rw [(correctLine_logged s line).1]
@[simp] theorem correctLine_txWait : (correctLine s line).txWait = s.txWait := by rw [(correctLine_logged s line).1]
@[simp] theorem correctLine_far : (correctLine s line).far = s.far := by rw [(correctLine_logged s line).1]
@[simp] theorem correctLine_farUnit : (correctLine s line).farUnit = s.farUnit := by rw [(correctLine_logged s line).1]
@[simp] theorem correctLine_farMiss : (correctLine s line).farMiss = s.farMiss := by rw [(correctLine_logged s line).1]
@[simp] theorem correctLine_farLack : (correctLine s line).farLack = s.farLack := by rw [(correctLine_logged s line).1]
@[simp] theorem correctLine_whistle : (correctLine s line).whistle = s.whistle := by rw [(correctLine_logged s line).1]
@[simp] theorem correctLine_flushing : (correctLine s line).flushing = s.flushing := by rw [(correctLine_logged s line).1]
@[simp] theorem correctLine_jobs : (correctLine s line).jobs = s.jobs := by rw [(correctLine_logged s line).1]
@[simp] theorem correctLine_power : (correctLine s line).power = s.power := by rw [(correctLine_logged s line).1]
@[simp] theorem correctLine_stw : (correctLine s line).stw = s.stw := by rw [(correctLine_logged s line).1]
@[simp] theorem correctLine_recoveries : (correctLine s line).recoveries = s.recoveries := by rw [(correctLine_logged s line).1]
@[simp] theorem correctLine_referee : (correctLine s line).referee = s.referee := by rw [(correctLine_logged s line).1]
@[simp] theorem correctLine_mgmt : (correctLine s line).mgmt = s.mgmt := by rw [(correctLine_logged s line).1]
@[simp] theorem correctLine_free : (correctLine s line).free = s.free := by rw [(correctLine_logged s line).1]
@[simp] theorem correctLine_pending : (correctLine s line).pending = s.pending := by rw [(correctLine_logged s line).1]
@[simp] theorem correctLine_at_ctx (j : Nat) : (correctLine s line).ctx j = s.ctx j := by rw [State.ctx, correctLine_ctxs, State.ctx]
@[simp] theorem correctLine_at_queue (j : Nat) : (correctLine s line).queue j = s.queue j := by rw [State.queue, correctLine_queues, State.queue]
@[simp] theorem correctLine_at_court (j : Nat) : (correctLine s line).court j = s.court j := by rw [State.court, correctLine_courts, State.court]
@[simp] theorem correctLine_at_field (j : Nat) : (correctLine s line).field j = s.field j := by rw [State.field, correctLine_fields, State.field]
@[simp] theorem correctLine_at_quarter (j : Nat) : (correctLine s line).quarter j = s.quarter j := by rw [State.quarter, correctLine_quarters, State.quarter]
@[simp] theorem correctLine_at_core (j : Nat) : (correctLine s line).core j = s.core j := by rw [State.core, correctLine_cores, State.core]
@[simp] theorem correctLine_at_launch (j : Nat) : (correctLine s line).launch j = s.launch j := by rw [State.launch, correctLine_launches, State.launch]
@[simp] theorem correctLine_at_block (j : Nat) : (correctLine s line).block j = s.block j := by rw [State.block, correctLine_blocks, State.block]
@[simp] theorem correctLine_at_group (j : Nat) : (correctLine s line).group j = s.group j := by rw [State.group, correctLine_groups, State.group]
@[simp] theorem correctLine_at_pass (j : Nat) : (correctLine s line).pass j = s.pass j := by rw [State.pass, correctLine_passes, State.pass]
@[simp] theorem correctLine_at_pipe (j : Nat) : (correctLine s line).pipe j = s.pipe j := by rw [State.pipe, correctLine_pipes, State.pipe]
@[simp] theorem correctLine_at_dpTx (j : Nat) : (correctLine s line).dpTx j = s.dpTx j := by rw [State.dpTx, correctLine_dp, State.dpTx]
@[simp] theorem correctLine_at_key (j : Nat) : (correctLine s line).key j = s.key j := by rw [State.key, correctLine_keys, State.key]
@[simp] theorem correctLine_at_stream (j : Nat) : (correctLine s line).stream j = s.stream j := by rw [State.stream, correctLine_streams, State.stream]
@[simp] theorem correctLine_at_iqlPort (j : Nat) : (correctLine s line).iqlPort j = s.iqlPort j := by rw [State.iqlPort, correctLine_iql, State.iqlPort]
@[simp] theorem correctLine_at_txn (j : Nat) : (correctLine s line).txn j = s.txn j := by rw [State.txn, correctLine_txns, State.txn]
@[simp] theorem correctLine_byte (b : Nat) : (correctLine s line).byte b = s.byte b := by rw [State.byte, correctLine_mem, State.byte]
@[simp] theorem correctLine_bytes (b m : Nat) : (correctLine s line).bytes b m = s.bytes b m := by simp only [State.bytes, correctLine_byte]
end

section
variable (a n : Nat)

@[simp] theorem memLoad_staged : (memLoad s a n).2.staged = s.staged := by rw [(memLoad_logged s a n).1]
@[simp] theorem memLoad_active : (memLoad s a n).2.active = s.active := by rw [(memLoad_logged s a n).1]
@[simp] theorem memLoad_mem : (memLoad s a n).2.mem = s.mem := by rw [(memLoad_logged s a n).1]
@[simp] theorem memLoad_ue : (memLoad s a n).2.ue = s.ue := by rw [(memLoad_logged s a n).1]
@[simp] theorem memLoad_dirty : (memLoad s a n).2.dirty = s.dirty := by rw [(memLoad_logged s a n).1]
@[simp] theorem memLoad_lost : (memLoad s a n).2.lost = s.lost := by rw [(memLoad_logged s a n).1]
@[simp] theorem memLoad_scLog : (memLoad s a n).2.scLog = s.scLog := by rw [(memLoad_logged s a n).1]
@[simp] theorem memLoad_rowMaps : (memLoad s a n).2.rowMaps = s.rowMaps := by rw [(memLoad_logged s a n).1]
@[simp] theorem memLoad_patrol : (memLoad s a n).2.patrol = s.patrol := by rw [(memLoad_logged s a n).1]
@[simp] theorem memLoad_journalDue : (memLoad s a n).2.journalDue = s.journalDue := by rw [(memLoad_logged s a n).1]
@[simp] theorem memLoad_tlb : (memLoad s a n).2.tlb = s.tlb := by rw [(memLoad_logged s a n).1]
@[simp] theorem memLoad_walks : (memLoad s a n).2.walks = s.walks := by rw [(memLoad_logged s a n).1]
@[simp] theorem memLoad_merge : (memLoad s a n).2.merge = s.merge := by rw [(memLoad_logged s a n).1]
@[simp] theorem memLoad_ctxs : (memLoad s a n).2.ctxs = s.ctxs := by rw [(memLoad_logged s a n).1]
@[simp] theorem memLoad_queues : (memLoad s a n).2.queues = s.queues := by rw [(memLoad_logged s a n).1]
@[simp] theorem memLoad_subSeq : (memLoad s a n).2.subSeq = s.subSeq := by rw [(memLoad_logged s a n).1]
@[simp] theorem memLoad_startSeq : (memLoad s a n).2.startSeq = s.startSeq := by rw [(memLoad_logged s a n).1]
@[simp] theorem memLoad_slotLast : (memLoad s a n).2.slotLast = s.slotLast := by rw [(memLoad_logged s a n).1]
@[simp] theorem memLoad_doorSlot : (memLoad s a n).2.doorSlot = s.doorSlot := by rw [(memLoad_logged s a n).1]
@[simp] theorem memLoad_rrSlot : (memLoad s a n).2.rrSlot = s.rrSlot := by rw [(memLoad_logged s a n).1]
@[simp] theorem memLoad_rrSince : (memLoad s a n).2.rrSince = s.rrSince := by rw [(memLoad_logged s a n).1]
@[simp] theorem memLoad_courts : (memLoad s a n).2.courts = s.courts := by rw [(memLoad_logged s a n).1]
@[simp] theorem memLoad_fields : (memLoad s a n).2.fields = s.fields := by rw [(memLoad_logged s a n).1]
@[simp] theorem memLoad_quarters : (memLoad s a n).2.quarters = s.quarters := by rw [(memLoad_logged s a n).1]
@[simp] theorem memLoad_cores : (memLoad s a n).2.cores = s.cores := by rw [(memLoad_logged s a n).1]
@[simp] theorem memLoad_launches : (memLoad s a n).2.launches = s.launches := by rw [(memLoad_logged s a n).1]
@[simp] theorem memLoad_blocks : (memLoad s a n).2.blocks = s.blocks := by rw [(memLoad_logged s a n).1]
@[simp] theorem memLoad_groups : (memLoad s a n).2.groups = s.groups := by rw [(memLoad_logged s a n).1]
@[simp] theorem memLoad_passes : (memLoad s a n).2.passes = s.passes := by rw [(memLoad_logged s a n).1]
@[simp] theorem memLoad_pipes : (memLoad s a n).2.pipes = s.pipes := by rw [(memLoad_logged s a n).1]
@[simp] theorem memLoad_dp : (memLoad s a n).2.dp = s.dp := by rw [(memLoad_logged s a n).1]
@[simp] theorem memLoad_streamStates : (memLoad s a n).2.streamStates = s.streamStates := by rw [(memLoad_logged s a n).1]
@[simp] theorem memLoad_rasterLeaving : (memLoad s a n).2.rasterLeaving = s.rasterLeaving := by rw [(memLoad_logged s a n).1]
@[simp] theorem memLoad_heavyEnd : (memLoad s a n).2.heavyEnd = s.heavyEnd := by rw [(memLoad_logged s a n).1]
@[simp] theorem memLoad_zeroing : (memLoad s a n).2.zeroing = s.zeroing := by rw [(memLoad_logged s a n).1]
@[simp] theorem memLoad_inspects : (memLoad s a n).2.inspects = s.inspects := by rw [(memLoad_logged s a n).1]
@[simp] theorem memLoad_inspected : (memLoad s a n).2.inspected = s.inspected := by rw [(memLoad_logged s a n).1]
@[simp] theorem memLoad_keys : (memLoad s a n).2.keys = s.keys := by rw [(memLoad_logged s a n).1]
@[simp] theorem memLoad_streams : (memLoad s a n).2.streams = s.streams := by rw [(memLoad_logged s a n).1]
@[simp] theorem memLoad_time : (memLoad s a n).2.time = s.time := by rw [(memLoad_logged s a n).1]
@[simp] theorem memLoad_iql : (memLoad s a n).2.iql = s.iql := by rw [(memLoad_logged s a n).1]
@[simp] theorem memLoad_txns : (memLoad s a n).2.txns = s.txns := by rw [(memLoad_logged s a n).1]
@[simp] theorem memLoad_txWait : (memLoad s a n).2.txWait = s.txWait := by rw [(memLoad_logged s a n).1]
@[simp] theorem memLoad_far : (memLoad s a n).2.far = s.far := by rw [(memLoad_logged s a n).1]
@[simp] theorem memLoad_farUnit : (memLoad s a n).2.farUnit = s.farUnit := by rw [(memLoad_logged s a n).1]
@[simp] theorem memLoad_farMiss : (memLoad s a n).2.farMiss = s.farMiss := by rw [(memLoad_logged s a n).1]
@[simp] theorem memLoad_farLack : (memLoad s a n).2.farLack = s.farLack := by rw [(memLoad_logged s a n).1]
@[simp] theorem memLoad_whistle : (memLoad s a n).2.whistle = s.whistle := by rw [(memLoad_logged s a n).1]
@[simp] theorem memLoad_flushing : (memLoad s a n).2.flushing = s.flushing := by rw [(memLoad_logged s a n).1]
@[simp] theorem memLoad_jobs : (memLoad s a n).2.jobs = s.jobs := by rw [(memLoad_logged s a n).1]
@[simp] theorem memLoad_power : (memLoad s a n).2.power = s.power := by rw [(memLoad_logged s a n).1]
@[simp] theorem memLoad_stw : (memLoad s a n).2.stw = s.stw := by rw [(memLoad_logged s a n).1]
@[simp] theorem memLoad_recoveries : (memLoad s a n).2.recoveries = s.recoveries := by rw [(memLoad_logged s a n).1]
@[simp] theorem memLoad_referee : (memLoad s a n).2.referee = s.referee := by rw [(memLoad_logged s a n).1]
@[simp] theorem memLoad_mgmt : (memLoad s a n).2.mgmt = s.mgmt := by rw [(memLoad_logged s a n).1]
@[simp] theorem memLoad_free : (memLoad s a n).2.free = s.free := by rw [(memLoad_logged s a n).1]
@[simp] theorem memLoad_pending : (memLoad s a n).2.pending = s.pending := by rw [(memLoad_logged s a n).1]
@[simp] theorem memLoad_at_ctx (j : Nat) : (memLoad s a n).2.ctx j = s.ctx j := by rw [State.ctx, memLoad_ctxs, State.ctx]
@[simp] theorem memLoad_at_queue (j : Nat) : (memLoad s a n).2.queue j = s.queue j := by rw [State.queue, memLoad_queues, State.queue]
@[simp] theorem memLoad_at_court (j : Nat) : (memLoad s a n).2.court j = s.court j := by rw [State.court, memLoad_courts, State.court]
@[simp] theorem memLoad_at_field (j : Nat) : (memLoad s a n).2.field j = s.field j := by rw [State.field, memLoad_fields, State.field]
@[simp] theorem memLoad_at_quarter (j : Nat) : (memLoad s a n).2.quarter j = s.quarter j := by rw [State.quarter, memLoad_quarters, State.quarter]
@[simp] theorem memLoad_at_core (j : Nat) : (memLoad s a n).2.core j = s.core j := by rw [State.core, memLoad_cores, State.core]
@[simp] theorem memLoad_at_launch (j : Nat) : (memLoad s a n).2.launch j = s.launch j := by rw [State.launch, memLoad_launches, State.launch]
@[simp] theorem memLoad_at_block (j : Nat) : (memLoad s a n).2.block j = s.block j := by rw [State.block, memLoad_blocks, State.block]
@[simp] theorem memLoad_at_group (j : Nat) : (memLoad s a n).2.group j = s.group j := by rw [State.group, memLoad_groups, State.group]
@[simp] theorem memLoad_at_pass (j : Nat) : (memLoad s a n).2.pass j = s.pass j := by rw [State.pass, memLoad_passes, State.pass]
@[simp] theorem memLoad_at_pipe (j : Nat) : (memLoad s a n).2.pipe j = s.pipe j := by rw [State.pipe, memLoad_pipes, State.pipe]
@[simp] theorem memLoad_at_dpTx (j : Nat) : (memLoad s a n).2.dpTx j = s.dpTx j := by rw [State.dpTx, memLoad_dp, State.dpTx]
@[simp] theorem memLoad_at_key (j : Nat) : (memLoad s a n).2.key j = s.key j := by rw [State.key, memLoad_keys, State.key]
@[simp] theorem memLoad_at_stream (j : Nat) : (memLoad s a n).2.stream j = s.stream j := by rw [State.stream, memLoad_streams, State.stream]
@[simp] theorem memLoad_at_iqlPort (j : Nat) : (memLoad s a n).2.iqlPort j = s.iqlPort j := by rw [State.iqlPort, memLoad_iql, State.iqlPort]
@[simp] theorem memLoad_at_txn (j : Nat) : (memLoad s a n).2.txn j = s.txn j := by rw [State.txn, memLoad_txns, State.txn]
@[simp] theorem memLoad_byte (b : Nat) : (memLoad s a n).2.byte b = s.byte b := by rw [State.byte, memLoad_mem, State.byte]
@[simp] theorem memLoad_bytes (b m : Nat) : (memLoad s a n).2.bytes b m = s.bytes b m := by simp only [State.bytes, memLoad_byte]
end

section
variable (a : Nat) (bs : List Byte)

@[simp] theorem memStore_staged : (memStore s a bs).2.staged = s.staged := by rw [(memStore_stored s a bs).1]
@[simp] theorem memStore_active : (memStore s a bs).2.active = s.active := by rw [(memStore_stored s a bs).1]
@[simp] theorem memStore_scLog : (memStore s a bs).2.scLog = s.scLog := by rw [(memStore_stored s a bs).1]
@[simp] theorem memStore_rowMaps : (memStore s a bs).2.rowMaps = s.rowMaps := by rw [(memStore_stored s a bs).1]
@[simp] theorem memStore_patrol : (memStore s a bs).2.patrol = s.patrol := by rw [(memStore_stored s a bs).1]
@[simp] theorem memStore_journalDue : (memStore s a bs).2.journalDue = s.journalDue := by rw [(memStore_stored s a bs).1]
@[simp] theorem memStore_tlb : (memStore s a bs).2.tlb = s.tlb := by rw [(memStore_stored s a bs).1]
@[simp] theorem memStore_walks : (memStore s a bs).2.walks = s.walks := by rw [(memStore_stored s a bs).1]
@[simp] theorem memStore_merge : (memStore s a bs).2.merge = s.merge := by rw [(memStore_stored s a bs).1]
@[simp] theorem memStore_ctxs : (memStore s a bs).2.ctxs = s.ctxs := by rw [(memStore_stored s a bs).1]
@[simp] theorem memStore_queues : (memStore s a bs).2.queues = s.queues := by rw [(memStore_stored s a bs).1]
@[simp] theorem memStore_subSeq : (memStore s a bs).2.subSeq = s.subSeq := by rw [(memStore_stored s a bs).1]
@[simp] theorem memStore_startSeq : (memStore s a bs).2.startSeq = s.startSeq := by rw [(memStore_stored s a bs).1]
@[simp] theorem memStore_slotLast : (memStore s a bs).2.slotLast = s.slotLast := by rw [(memStore_stored s a bs).1]
@[simp] theorem memStore_doorSlot : (memStore s a bs).2.doorSlot = s.doorSlot := by rw [(memStore_stored s a bs).1]
@[simp] theorem memStore_rrSlot : (memStore s a bs).2.rrSlot = s.rrSlot := by rw [(memStore_stored s a bs).1]
@[simp] theorem memStore_rrSince : (memStore s a bs).2.rrSince = s.rrSince := by rw [(memStore_stored s a bs).1]
@[simp] theorem memStore_courts : (memStore s a bs).2.courts = s.courts := by rw [(memStore_stored s a bs).1]
@[simp] theorem memStore_fields : (memStore s a bs).2.fields = s.fields := by rw [(memStore_stored s a bs).1]
@[simp] theorem memStore_quarters : (memStore s a bs).2.quarters = s.quarters := by rw [(memStore_stored s a bs).1]
@[simp] theorem memStore_cores : (memStore s a bs).2.cores = s.cores := by rw [(memStore_stored s a bs).1]
@[simp] theorem memStore_launches : (memStore s a bs).2.launches = s.launches := by rw [(memStore_stored s a bs).1]
@[simp] theorem memStore_blocks : (memStore s a bs).2.blocks = s.blocks := by rw [(memStore_stored s a bs).1]
@[simp] theorem memStore_groups : (memStore s a bs).2.groups = s.groups := by rw [(memStore_stored s a bs).1]
@[simp] theorem memStore_passes : (memStore s a bs).2.passes = s.passes := by rw [(memStore_stored s a bs).1]
@[simp] theorem memStore_pipes : (memStore s a bs).2.pipes = s.pipes := by rw [(memStore_stored s a bs).1]
@[simp] theorem memStore_dp : (memStore s a bs).2.dp = s.dp := by rw [(memStore_stored s a bs).1]
@[simp] theorem memStore_streamStates : (memStore s a bs).2.streamStates = s.streamStates := by rw [(memStore_stored s a bs).1]
@[simp] theorem memStore_rasterLeaving : (memStore s a bs).2.rasterLeaving = s.rasterLeaving := by rw [(memStore_stored s a bs).1]
@[simp] theorem memStore_heavyEnd : (memStore s a bs).2.heavyEnd = s.heavyEnd := by rw [(memStore_stored s a bs).1]
@[simp] theorem memStore_zeroing : (memStore s a bs).2.zeroing = s.zeroing := by rw [(memStore_stored s a bs).1]
@[simp] theorem memStore_inspects : (memStore s a bs).2.inspects = s.inspects := by rw [(memStore_stored s a bs).1]
@[simp] theorem memStore_inspected : (memStore s a bs).2.inspected = s.inspected := by rw [(memStore_stored s a bs).1]
@[simp] theorem memStore_keys : (memStore s a bs).2.keys = s.keys := by rw [(memStore_stored s a bs).1]
@[simp] theorem memStore_streams : (memStore s a bs).2.streams = s.streams := by rw [(memStore_stored s a bs).1]
@[simp] theorem memStore_time : (memStore s a bs).2.time = s.time := by rw [(memStore_stored s a bs).1]
@[simp] theorem memStore_iql : (memStore s a bs).2.iql = s.iql := by rw [(memStore_stored s a bs).1]
@[simp] theorem memStore_txns : (memStore s a bs).2.txns = s.txns := by rw [(memStore_stored s a bs).1]
@[simp] theorem memStore_txWait : (memStore s a bs).2.txWait = s.txWait := by rw [(memStore_stored s a bs).1]
@[simp] theorem memStore_far : (memStore s a bs).2.far = s.far := by rw [(memStore_stored s a bs).1]
@[simp] theorem memStore_farUnit : (memStore s a bs).2.farUnit = s.farUnit := by rw [(memStore_stored s a bs).1]
@[simp] theorem memStore_farMiss : (memStore s a bs).2.farMiss = s.farMiss := by rw [(memStore_stored s a bs).1]
@[simp] theorem memStore_farLack : (memStore s a bs).2.farLack = s.farLack := by rw [(memStore_stored s a bs).1]
@[simp] theorem memStore_whistle : (memStore s a bs).2.whistle = s.whistle := by rw [(memStore_stored s a bs).1]
@[simp] theorem memStore_flushing : (memStore s a bs).2.flushing = s.flushing := by rw [(memStore_stored s a bs).1]
@[simp] theorem memStore_jobs : (memStore s a bs).2.jobs = s.jobs := by rw [(memStore_stored s a bs).1]
@[simp] theorem memStore_power : (memStore s a bs).2.power = s.power := by rw [(memStore_stored s a bs).1]
@[simp] theorem memStore_stw : (memStore s a bs).2.stw = s.stw := by rw [(memStore_stored s a bs).1]
@[simp] theorem memStore_recoveries : (memStore s a bs).2.recoveries = s.recoveries := by rw [(memStore_stored s a bs).1]
@[simp] theorem memStore_referee : (memStore s a bs).2.referee = s.referee := by rw [(memStore_stored s a bs).1]
@[simp] theorem memStore_mgmt : (memStore s a bs).2.mgmt = s.mgmt := by rw [(memStore_stored s a bs).1]
@[simp] theorem memStore_free : (memStore s a bs).2.free = s.free := by rw [(memStore_stored s a bs).1]
@[simp] theorem memStore_pending : (memStore s a bs).2.pending = s.pending := by rw [(memStore_stored s a bs).1]
@[simp] theorem memStore_at_ctx (j : Nat) : (memStore s a bs).2.ctx j = s.ctx j := by rw [State.ctx, memStore_ctxs, State.ctx]
@[simp] theorem memStore_at_queue (j : Nat) : (memStore s a bs).2.queue j = s.queue j := by rw [State.queue, memStore_queues, State.queue]
@[simp] theorem memStore_at_court (j : Nat) : (memStore s a bs).2.court j = s.court j := by rw [State.court, memStore_courts, State.court]
@[simp] theorem memStore_at_field (j : Nat) : (memStore s a bs).2.field j = s.field j := by rw [State.field, memStore_fields, State.field]
@[simp] theorem memStore_at_quarter (j : Nat) : (memStore s a bs).2.quarter j = s.quarter j := by rw [State.quarter, memStore_quarters, State.quarter]
@[simp] theorem memStore_at_core (j : Nat) : (memStore s a bs).2.core j = s.core j := by rw [State.core, memStore_cores, State.core]
@[simp] theorem memStore_at_launch (j : Nat) : (memStore s a bs).2.launch j = s.launch j := by rw [State.launch, memStore_launches, State.launch]
@[simp] theorem memStore_at_block (j : Nat) : (memStore s a bs).2.block j = s.block j := by rw [State.block, memStore_blocks, State.block]
@[simp] theorem memStore_at_group (j : Nat) : (memStore s a bs).2.group j = s.group j := by rw [State.group, memStore_groups, State.group]
@[simp] theorem memStore_at_pass (j : Nat) : (memStore s a bs).2.pass j = s.pass j := by rw [State.pass, memStore_passes, State.pass]
@[simp] theorem memStore_at_pipe (j : Nat) : (memStore s a bs).2.pipe j = s.pipe j := by rw [State.pipe, memStore_pipes, State.pipe]
@[simp] theorem memStore_at_dpTx (j : Nat) : (memStore s a bs).2.dpTx j = s.dpTx j := by rw [State.dpTx, memStore_dp, State.dpTx]
@[simp] theorem memStore_at_key (j : Nat) : (memStore s a bs).2.key j = s.key j := by rw [State.key, memStore_keys, State.key]
@[simp] theorem memStore_at_stream (j : Nat) : (memStore s a bs).2.stream j = s.stream j := by rw [State.stream, memStore_streams, State.stream]
@[simp] theorem memStore_at_iqlPort (j : Nat) : (memStore s a bs).2.iqlPort j = s.iqlPort j := by rw [State.iqlPort, memStore_iql, State.iqlPort]
@[simp] theorem memStore_at_txn (j : Nat) : (memStore s a bs).2.txn j = s.txn j := by rw [State.txn, memStore_txns, State.txn]
end

end Sys2Proof.Machine
end

