-- ==== Sys2Proof/Laws/Memory.lean ====
section
/-! SUPPORT. Bytes of memory: what a byte reads after a write of bytes, that every memory operation keeps the canonical form, and
that on lines without errors a read returns the bytes and a write stores them and nothing else. -/

namespace Sys2Proof.Machine

open Sys2Proof

/-! ### Numbers as bytes -/

@[simp] theorem tabulate_length {α : Type} (n : Nat) (f : Nat → α) : (tabulate n f).length = n := by simp [tabulate]

theorem tabulate_getElem? {α : Type} (n : Nat) (f : Nat → α) (i : Nat) (h : i < n) : (tabulate n f)[i]? = some (f i) := by
  simp [tabulate, h]

theorem tabulate_congr {α : Type} {n : Nat} {f g : Nat → α} (h : ∀ i, i < n → f i = g i) : tabulate n f = tabulate n g := by
  unfold tabulate
  exact List.map_congr_left (fun i hi => h i (List.mem_range.mp hi))

@[simp] theorem leBytes_length (n v : Nat) : (leBytes n v).length = n := by
  induction n generalizing v with
  | zero => rfl
  | succ n ih => simp [leBytes, ih]

/-- The bytes of a number spell it, up to their width. -/
theorem leNat_leBytes (n v : Nat) : leNat (leBytes n v) = v % 256 ^ n := by
  induction n generalizing v with
  | zero => simp [leBytes, leNat, Nat.mod_one]
  | succ n ih =>
    rw [leBytes, leNat, ih, BitVec.toNat_ofNat, show 256 ^ (n + 1) = 256 * 256 ^ n from by rw [Nat.pow_succ, Nat.mul_comm], Nat.mod_mul]

theorem leNat_lt (bs : List Byte) : leNat bs < 256 ^ bs.length := by
  induction bs with
  | nil => simp [leNat]
  | cons b bs ih =>
    have := b.isLt
    simp only [leNat, List.length_cons, pow_succ]
    omega

/-- The number that bytes spell has those bytes. -/
theorem leBytes_leNat (bs : List Byte) : leBytes bs.length (leNat bs) = bs := by
  induction bs with
  | nil => rfl
  | cons b bs ih =>
    have h1 : (b.toNat + 256 * leNat bs) / 256 = leNat bs := by have := b.isLt; omega
    have h2 : BitVec.ofNat 8 (b.toNat + 256 * leNat bs) = b := by
      apply BitVec.eq_of_toNat_eq; rw [BitVec.toNat_ofNat]; have := b.isLt; omega
    simp only [List.length_cons, leNat, leBytes, h1, h2, ih]

namespace State

variable (s : State)

/-! ### Bytes -/

theorem setByte_byte (a c : Nat) (b : Byte) : (s.setByte a b).byte c = if c = a then b else s.byte c := by
  rw [byte, setByte, SMap.get_set, byte]

/-- A byte outside those stored reads as before. -/
theorem setBytes_byte_out (a c : Nat) (bs : List Byte) (h : c < a ∨ a + bs.length ≤ c) : (s.setBytes a bs).byte c = s.byte c := by
  induction bs generalizing s a with
  | nil => rfl
  | cons b bs ih =>
    simp only [List.length_cons] at h
    rw [setBytes, ih _ _ (by omega), setByte_byte, if_neg (by omega)]

/-- A byte stored reads as what was stored. -/
theorem setBytes_byte_in (a i : Nat) (bs : List Byte) (h : i < bs.length) : (s.setBytes a bs).byte (a + i) = bs.getD i 0 := by
  induction bs generalizing s a i with
  | nil => simp at h
  | cons b bs ih =>
    rw [setBytes]
    cases i with
    | zero => rw [setBytes_byte_out _ _ _ _ (Or.inl (by omega)), setByte_byte, if_pos (by omega)]; rfl
    | succ i =>
      have := ih (s.setByte a b) (a + 1) i (by simpa using h)
      rw [show a + (i + 1) = a + 1 + i by omega, this]; rfl

/-- Bytes stored are read back. -/
theorem setBytes_bytes (a : Nat) (bs : List Byte) : (s.setBytes a bs).bytes a bs.length = bs := by
  apply List.ext_getElem?
  intro i
  by_cases h : i < bs.length
  · rw [bytes, tabulate_getElem? _ _ _ h, setBytes_byte_in s a i bs h]
    simp [List.getD_eq_getElem?_getD, h]
  · rw [List.getElem?_eq_none (by simp [bytes]; omega), List.getElem?_eq_none (by omega)]

/-- A number stored is read back, up to its width. -/
theorem setNat_readNat (a n v : Nat) : (s.setNat a n v).readNat a n = v % 256 ^ n := by
  have h := setBytes_bytes s a (leBytes n v)
  rw [leBytes_length] at h
  rw [readNat, setNat, h, leNat_leBytes]

theorem setNat_byte_out (a n v c : Nat) (h : c < a ∨ a + n ≤ c) : (s.setNat a n v).byte c = s.byte c :=
  setBytes_byte_out s a c _ (by simpa using h)

/-! ### The canonical form -/

theorem setByte_wf (a : Nat) (b : Byte) (h : Memory.wf s.mem = true) : Memory.wf (s.setByte a b).mem = true :=
  SMap.wf_set a b h

theorem setBytes_wf (a : Nat) (bs : List Byte) (h : Memory.wf s.mem = true) : Memory.wf (s.setBytes a bs).mem = true := by
  induction bs generalizing s a with
  | nil => exact h
  | cons b bs ih => exact ih _ _ (setByte_wf s a b h)

end State

theorem lineWritten_mem {s t : State} {line n : Nat} (h : lineWritten s line n = some t) : t.mem = s.mem := by
  unfold lineWritten at h
  split at h
  · cases h; rfl
  · split at h
    · split at h
      · cases h
      · cases h; rfl
    · cases h; simp

theorem storeLine_wf (s : State) (a : Nat) (bs : List Byte) (h : Memory.wf s.mem = true) :
    Memory.wf (storeLine s a bs).2.mem = true := by
  unfold storeLine
  dsimp only
  split
  · split
    · simpa using h
    · next t e => exact State.setBytes_wf t a bs (by rw [lineWritten_mem e]; exact h)
  · exact State.setBytes_wf s a bs h

theorem memStoreN_wf (n : Nat) (s : State) (a : Nat) (bs : List Byte) (h : Memory.wf s.mem = true) :
    Memory.wf (memStoreN n s a bs).2.mem = true := by
  induction n generalizing s a bs with
  | zero => exact h
  | succ n ih =>
    unfold memStoreN
    dsimp only
    split
    · exact h
    · exact ih _ _ _ (storeLine_wf s a _ h)

/-- A write of memory keeps its canonical form. -/
theorem memStore_wf (s : State) (a : Nat) (bs : List Byte) (h : Memory.wf s.mem = true) :
    Memory.wf (memStore s a bs).2.mem = true := memStoreN_wf _ s a bs h

/-! ### Lines without errors -/

/-- A line without a correctable error needs no correction. -/
theorem correctLine_clean {s : State} {line : Nat} (h : s.ce.contains line = false) : correctLine s line = s := by
  simp only [correctLine, h]; rfl

theorem correctLines_clean {s : State} {ls : List Nat} (h : ∀ l ∈ ls, s.ce.contains l = false) : ls.foldl correctLine s = s := by
  induction ls with
  | nil => rfl
  | cons l ls ih =>
    rw [List.foldl_cons, correctLine_clean (h l (by simp)), ih (fun k hk => h k (by simp [hk]))]

theorem Clean_iff {s : State} {a n : Nat} :
    Safety.Clean s a n = true ↔ ∀ l ∈ linesOf a n, s.ue.contains l = false ∧ s.ce.contains l = false := by
  simp [Safety.Clean]

/-- A read of lines without errors returns the bytes and changes nothing. -/
theorem memLoad_clean {s : State} {a n : Nat} (h : Safety.Clean s a n = true) : memLoad s a n = (some (s.bytes a n), s) := by
  rw [Clean_iff] at h
  have hf : (linesOf a n).filter (fun l => s.ue.contains l) = [] := by
    rw [List.filter_eq_nil_iff]; intro l hl; rw [(h l hl).1]; simp
  unfold memLoad
  dsimp only
  rw [correctLines_clean (fun l hl => (h l hl).2), hf]
  simp

/-- The read may have corrected lines; without an uncorrectable error it returns the bytes. -/
theorem correctLines_frame (ls : List Nat) (s : State) :
    (ls.foldl correctLine s).mem = s.mem ∧ (ls.foldl correctLine s).ue = s.ue := by
  induction ls generalizing s with
  | nil => exact ⟨rfl, rfl⟩
  | cons l ls ih =>
    rw [List.foldl_cons]; refine ⟨(ih _).1.trans (by simp), (ih _).2.trans (by simp)⟩

theorem memLoad_good {s : State} {a n : Nat} (h : s.bad a n = false) : (memLoad s a n).1 = some (s.bytes a n) := by
  have hf := correctLines_frame (linesOf a n) s
  have hb : ((linesOf a n).foldl correctLine s).bytes a n = s.bytes a n := by simp only [State.bytes, State.byte, hf.1]
  unfold memLoad
  dsimp only
  have hn : (linesOf a n).filter (fun l => ((linesOf a n).foldl correctLine s).ue.contains l) = [] := by
    rw [List.filter_eq_nil_iff, hf.2]
    intro l hl
    simp only [State.bad, List.any_eq_false] at h
    exact h l hl
  rw [hn, hb]; rfl

/-- The lines of a range are those of its bytes. -/
theorem mem_linesOf {a n l : Nat} : l ∈ linesOf a n ↔ ∃ i, i < n ∧ l = (a + i) / 128 := by
  unfold linesOf
  split
  · next h => subst h; simp
  · next h =>
    simp only [List.mem_map, List.mem_range]
    constructor
    · rintro ⟨i, hi, rfl⟩
      refine ⟨if i = 0 then 0 else 128 * (a / 128 + i) - a, ?_, ?_⟩ <;> split <;> omega
    · rintro ⟨i, hi, rfl⟩
      exact ⟨(a + i) / 128 - a / 128, by omega, by omega⟩

theorem storeLine_clean {s : State} {a : Nat} {bs : List Byte} (h : s.flawed (a / 128) = false) :
    storeLine s a bs = (true, s.setBytes a bs) := by
  simp [storeLine, h]

theorem setBytes_append (s : State) (a : Nat) (xs ys : List Byte) :
    s.setBytes a (xs ++ ys) = (s.setBytes a xs).setBytes (a + xs.length) ys := by
  induction xs generalizing s a with
  | nil => rfl
  | cons x xs ih => simp only [List.cons_append, State.setBytes, ih, List.length_cons]; congr 1; omega

theorem setBytes_flawed (s : State) (a : Nat) (bs : List Byte) (line : Nat) : (s.setBytes a bs).flawed line = s.flawed line := by
  induction bs generalizing s a with
  | nil => rfl
  | cons b bs ih => rw [State.setBytes, ih]; simp [State.flawed]

theorem memStoreN_clean {n : Nat} {s : State} {a : Nat} {bs : List Byte} (hn : bs.length < n)
    (h : ∀ i, i < bs.length → s.flawed ((a + i) / 128) = false) : memStoreN n s a bs = (true, s.setBytes a bs) := by
  induction n generalizing s a bs with
  | zero => omega
  | succ n ih =>
    unfold memStoreN
    dsimp only
    by_cases hb : bs = []
    · subst hb; rfl
    · have hl : 0 < bs.length := List.length_pos_iff.mpr hb
      rw [if_neg (by simpa using hb), storeLine_clean (by have := h 0 hl; simpa using this)]
      have hk : 0 < 128 - a % 128 := by omega
      rw [ih (by rw [List.length_drop]; omega) (by
        intro i hi
        rw [List.length_drop] at hi
        rw [setBytes_flawed]
        have := h (128 - a % 128 + i) (by omega)
        rwa [show a + (128 - a % 128) + i = a + (128 - a % 128 + i) by omega])]
      simp only [Bool.and_self, Prod.mk.injEq, true_and]
      by_cases hd : bs.length ≤ 128 - a % 128
      · rw [List.take_of_length_le hd, List.drop_eq_nil_of_le hd]; rfl
      · conv_rhs => rw [← List.take_append_drop (128 - a % 128) bs, setBytes_append]
        rw [List.length_take, Nat.min_eq_left (by omega)]

/-- A write to lines without errors stores its bytes and nothing else. -/
theorem memStore_clean {s : State} {a : Nat} {bs : List Byte} (h : Safety.Clean s a bs.length = true) :
    memStore s a bs = (true, s.setBytes a bs) := by
  rw [Clean_iff] at h
  refine memStoreN_clean (by omega) (fun i hi => ?_)
  obtain ⟨hu, hc⟩ := h ((a + i) / 128) (mem_linesOf.mpr ⟨i, hi, rfl⟩)
  unfold State.flawed
  rw [hu, hc]; rfl

theorem Clean_bad {s : State} {a n : Nat} (h : Safety.Clean s a n = true) : s.bad a n = false := by
  rw [Clean_iff] at h
  simp only [State.bad, List.any_eq_false]
  intro l hl; rw [(h l hl).1]; simp

end Sys2Proof.Machine
end

