-- ==== Sys2Proof/Laws/Translation.lean ====
section
/-! SUPPORT. What a translated access can do: it changes no part of the device but cached translations, counters, the log of errors
and what it still lacks of other devices' memory. -/

namespace Sys2Proof.Machine

open Sys2Proof

/-- The register families that a translated access changes. -/
def readFams : List Nat := logFams ++ [Reg.mmuWalks, Reg.mmuWalkFaults, Reg.mmuLastFault, Reg.mmuLastFaultVa]

/-- `t` is `s` but for what the log of errors changes, cached translations and what reads of other devices still lack. -/
def ReadOnly (s t : State) : Prop :=
  t = { s with regs := t.regs, qps := t.qps, eth := t.eth, outbox := t.outbox, buckets := t.buckets, unwritten := t.unwritten,
               repairs := t.repairs, ce := t.ce, altered := t.altered, ceLog := t.ceLog, tlb := t.tlb, walks := t.walks, farMiss := t.farMiss,
               farLack := t.farLack } ∧
    (∀ f i, f ∉ readFams → t.rd f i = s.rd f i) ∧ (∀ i, (t.qp i).bare = (s.qp i).bare) ∧
    (∀ i, (t.ethPort i).bare = (s.ethPort i).bare)

theorem ReadOnly.refl (s : State) : ReadOnly s s := ⟨rfl, fun _ _ _ => rfl, fun _ => rfl, fun _ => rfl⟩

theorem ReadOnly.trans {s t u : State} (h : ReadOnly s t) (k : ReadOnly t u) : ReadOnly s u := by
  refine ⟨?_, fun f i hf => (k.2.1 f i hf).trans (h.2.1 f i hf), fun i => (k.2.2.1 i).trans (h.2.2.1 i),
    fun i => (k.2.2.2 i).trans (h.2.2.2 i)⟩
  have hk := k.1
  rw [h.1] at hk
  exact hk

theorem Logged.readOnly {s t : State} (h : Logged s t) : ReadOnly s t := by
  refine ⟨?_, fun f i hf => h.2.1 f i (fun hm => hf (List.mem_append_left _ hm)), h.2.2.1, h.2.2.2⟩
  have hk := h.1
  rw [hk]

theorem ReadOnly.wr (s : State) (f i : Nat) (v : W64) (h : f ∈ readFams) : ReadOnly s (s.wr f i v) :=
  ⟨rfl, fun g j hg => State.rd_wr_ne s v (State.key_ne_fam (fun e => hg (by rw [e]; exact h)) j i), fun _ => by simp, fun _ => by simp⟩

theorem ReadOnly.bump (s : State) (f : Reg.Field) (i n : Nat) (h : f.fam ∈ readFams) : ReadOnly s (s.bump f i n) :=
  ReadOnly.wr s f.fam i _ h

theorem noteFault_only (s : State) (h : W32) (va reason level : Nat) : ReadOnly s (noteFault s h va reason level) :=
  (ReadOnly.wr s Reg.mmuLastFault 0 _ (by decide)).trans (ReadOnly.wr _ Reg.mmuLastFaultVa 0 _ (by decide))

theorem tlbAdd_only (s : State) (e : TlbEntry) : ReadOnly s (tlbAdd s e) := ⟨rfl, fun _ _ _ => rfl, fun _ => rfl, fun _ => rfl⟩

theorem tlbFill_only (s : State) (ho : Holder) (e : TlbEntry) : ReadOnly s (tlbFill s ho e) := by
  unfold tlbFill
  generalize ho.backing.toList ++ [ho] = l
  induction l generalizing s with
  | nil => exact .refl s
  | cons b l ih => exact (tlbAdd_only s _).trans (ih _)

/-- All that a look for a cached translation can do. -/
theorem tlbLookup_only (s : State) (ho : Option Holder) (h : W32) (va : Nat) : ReadOnly s (tlbLookup s ho h va).2 := by
  unfold tlbLookup
  split
  · exact .refl s
  · split
    · exact .refl s
    · exact tlbAdd_only s _
    · exact .refl s

/-- All that a walk can do. -/
theorem doWalk_only (s : State) (ho : Option Holder) (h : W32) (chk : W64 → Option Nat) (va : Nat) :
    ReadOnly s (doWalk s ho h chk va).2 := by
  have hw : ∀ (s : State) w, ReadOnly s { s with walks := w } := fun s w => ⟨rfl, fun _ _ _ => rfl, fun _ => rfl, fun _ => rfl⟩
  have hc : ∀ (ls : List Nat) (s : State), ReadOnly s (ls.foldl correctLine s) := fun ls s => (Logged.foldl correctLine_logged ls s).readOnly
  have h0 : ∀ w (ls : List Nat), ReadOnly s (ls.foldl correctLine { s.bump F.mmuWalksCount with walks := w }) := fun w ls =>
    ((ReadOnly.bump s F.mmuWalksCount 0 1 (by decide)).trans (hw _ w)).trans (hc ls _)
  unfold doWalk
  simp only
  split
  · split
    · exact h0 _ _
    · exact (h0 _ _).trans (tlbFill_only _ _ _)
  · refine ReadOnly.trans (ReadOnly.trans ?_ (ReadOnly.bump _ F.mmuWalkFaultsCount 0 1 (by decide))) (noteFault_only _ _ _ _ _)
    split
    · exact (h0 _ _).trans (Logged.foldl (fun s l => logUe_logged s l _ _) _ _).readOnly
    · exact h0 _ _

theorem xlateBy_only (s : State) (ho : Option Holder) (h : W32) (chk : W64 → Option Nat) (va : Nat) :
    ReadOnly s (xlateBy s ho h chk va).2 := by
  have k := tlbLookup_only s ho h va
  unfold xlateBy
  simp only
  generalize tlbLookup s ho h va = l at k ⊢
  obtain ⟨hit, t⟩ := l
  refine ReadOnly.trans k ?_
  cases hit with
  | some e =>
    simp only
    split
    · dsimp only
      split
      · exact noteFault_only _ _ _ _ _
      · exact ReadOnly.trans (noteFault_only _ _ _ _ _) (ReadOnly.bump _ F.mmuWalkFaultsCount 0 1 (by decide))
    · split
      · split <;> exact .refl _
      · exact .refl _
  | none =>
    have key : ReadOnly t (if 2 ^ 48 ≤ va then (Walk.fail 1 3, noteFault t h va 1 3) else doWalk t ho h chk va).2 := by
      split
      · exact noteFault_only t _ _ _ _
      · exact doWalk_only t _ _ _ _
    simp only
    generalize (if 2 ^ 48 ≤ va then (Walk.fail 1 3, noteFault t h va 1 3) else doWalk t ho h chk va) = w at key ⊢
    refine ReadOnly.trans key ?_
    split
    · exact .refl _
    · split
      · dsimp only
        split
        · exact noteFault_only _ _ _ _ _
        · exact ReadOnly.trans (noteFault_only _ _ _ _ _) (ReadOnly.bump _ F.mmuWalkFaultsCount 0 1 (by decide))
      · split
        · split <;> exact .refl _
        · exact .refl _

/-- All that a translation can do. -/
theorem xlate_only (s : State) (ho : Option Holder) (h : W32) (acc : Access) (va : Nat) : ReadOnly s (xlate s ho h acc va).2 :=
  xlateBy_only s ho h _ va

/-- All that a read within one page can do. -/
theorem ctxRead_only (s : State) (ho : Option Holder) (h : W32) (acc : Access) (va n : Nat) :
    ReadOnly s (ctxRead s ho h acc va n).2 := by
  have hx := xlate_only s ho h acc va
  unfold ctxRead
  generalize xlate s ho h acc va = r at hx ⊢
  rcases r with ⟨_ | (a | _ | _), t⟩
  · exact hx
  · have hm := (memLoad_logged t a n).readOnly
    dsimp only
    generalize memLoad t a n = r at hm ⊢
    rcases r with ⟨_ | bs, u⟩ <;> exact ReadOnly.trans hx hm
  · exact hx
  · exact hx

theorem farPiece_only (s : State) (u d a n : Nat) : ReadOnly s (farPiece s u d a n).2 := by
  unfold farPiece
  split
  · split
    · exact .refl s
    · exact ⟨rfl, fun _ _ _ => rfl, fun _ => rfl, fun _ => rfl⟩
  · exact ⟨rfl, fun _ _ _ => rfl, fun _ => rfl, fun _ => rfl⟩

theorem farBytes_only (k : Nat) (s : State) (d a n : Nat) : ReadOnly s (farBytes k s d a n).2 := by
  induction k generalizing s a n with
  | zero => exact .refl s
  | succ k ih =>
    unfold farBytes
    split
    · exact .refl s
    · next u hu =>
      split
      · exact .refl s
      · have hp := farPiece_only s u d a (min n (1024 - a % 1024))
        dsimp only
        generalize farPiece s u d a (min n (1024 - a % 1024)) = r at hp ⊢
        rcases r with ⟨_ | bs, t⟩
        · exact hp
        · have hr := ih t (a + min n (1024 - a % 1024)) (n - min n (1024 - a % 1024))
          dsimp only
          generalize farBytes k t d (a + min n (1024 - a % 1024)) (n - min n (1024 - a % 1024)) = r at hr ⊢
          rcases r with ⟨_ | bs', t'⟩ <;>
            exact ReadOnly.trans hp hr

/-- All that a read of an object can do. -/
theorem ctxReadLong_only (k : Nat) (s : State) (ho : Option Holder) (h : W32) (acc : Access) (va n : Nat) :
    ReadOnly s (ctxReadLong k s ho h acc va n).2 := by
  induction k generalizing s va n with
  | zero => exact .refl s
  | succ k ih =>
    unfold ctxReadLong
    split
    · exact .refl s
    · have hp := ctxRead_only s ho h acc va (min n (4096 - va % 4096))
      dsimp only
      generalize ctxRead s ho h acc va (min n (4096 - va % 4096)) = r at hp ⊢
      rcases r with ⟨_ | (bs | x), t⟩
      · exact hp
      · have ht := ih t (va + min n (4096 - va % 4096)) (n - min n (4096 - va % 4096))
        dsimp only
        generalize ctxReadLong k t ho h acc (va + min n (4096 - va % 4096)) (n - min n (4096 - va % 4096)) = r at ht ⊢
        rcases r with ⟨_ | bs', t'⟩ <;>
          exact ReadOnly.trans hp ht
      · cases x with
        | mem a => exact hp
        | host a b => exact hp
        | remote d a =>
          have hf := farBytes_only 6 t d a (min n (4096 - va % 4096))
          dsimp only
          generalize farBytes 6 t d a (min n (4096 - va % 4096)) = r at hf ⊢
          rcases r with ⟨_ | bs', t'⟩
          · exact ReadOnly.trans hp hf
          · have ht' := ih t' (va + min n (4096 - va % 4096)) (n - min n (4096 - va % 4096))
            dsimp only
            generalize ctxReadLong k t' ho h acc (va + min n (4096 - va % 4096)) (n - min n (4096 - va % 4096)) = r at ht' ⊢
            rcases r with ⟨_ | bs'', t''⟩ <;>
              exact ReadOnly.trans (ReadOnly.trans hp hf) ht'

theorem ctxReadObj_only (s : State) (ho : Option Holder) (h : W32) (acc : Access) (va n : Nat) :
    ReadOnly s (ctxReadObj s ho h acc va n).2 := ctxReadLong_only _ s ho h acc va n

/-- A register of no family that reads change reads as before, and its fields. -/
theorem ReadOnly.rd {s t : State} (h : ReadOnly s t) {f i : Nat} (hf : f ∉ readFams) : t.rd f i = s.rd f i := h.2.1 f i hf

theorem ReadOnly.fld {s t : State} (h : ReadOnly s t) {f : Reg.Field} {i : Nat} (hf : f.fam ∉ readFams) :
    t.fld f i = s.fld f i := by unfold State.fld; rw [h.rd hf]

/-! ### One lemma per field -/

variable {s t : State}


theorem ReadOnly.staged (h : ReadOnly s t) : t.staged = s.staged := by rw [h.1]
theorem ReadOnly.active (h : ReadOnly s t) : t.active = s.active := by rw [h.1]
theorem ReadOnly.mem (h : ReadOnly s t) : t.mem = s.mem := by rw [h.1]
theorem ReadOnly.ue (h : ReadOnly s t) : t.ue = s.ue := by rw [h.1]
theorem ReadOnly.dirty (h : ReadOnly s t) : t.dirty = s.dirty := by rw [h.1]
theorem ReadOnly.lost (h : ReadOnly s t) : t.lost = s.lost := by rw [h.1]
theorem ReadOnly.scLog (h : ReadOnly s t) : t.scLog = s.scLog := by rw [h.1]
theorem ReadOnly.rowMaps (h : ReadOnly s t) : t.rowMaps = s.rowMaps := by rw [h.1]
theorem ReadOnly.patrol (h : ReadOnly s t) : t.patrol = s.patrol := by rw [h.1]
theorem ReadOnly.journalDue (h : ReadOnly s t) : t.journalDue = s.journalDue := by rw [h.1]
theorem ReadOnly.merge (h : ReadOnly s t) : t.merge = s.merge := by rw [h.1]
theorem ReadOnly.ctxs (h : ReadOnly s t) : t.ctxs = s.ctxs := by rw [h.1]
theorem ReadOnly.queues (h : ReadOnly s t) : t.queues = s.queues := by rw [h.1]
theorem ReadOnly.subSeq (h : ReadOnly s t) : t.subSeq = s.subSeq := by rw [h.1]
theorem ReadOnly.startSeq (h : ReadOnly s t) : t.startSeq = s.startSeq := by rw [h.1]
theorem ReadOnly.slotLast (h : ReadOnly s t) : t.slotLast = s.slotLast := by rw [h.1]
theorem ReadOnly.doorSlot (h : ReadOnly s t) : t.doorSlot = s.doorSlot := by rw [h.1]
theorem ReadOnly.rrSlot (h : ReadOnly s t) : t.rrSlot = s.rrSlot := by rw [h.1]
theorem ReadOnly.rrSince (h : ReadOnly s t) : t.rrSince = s.rrSince := by rw [h.1]
theorem ReadOnly.courts (h : ReadOnly s t) : t.courts = s.courts := by rw [h.1]
theorem ReadOnly.fields (h : ReadOnly s t) : t.fields = s.fields := by rw [h.1]
theorem ReadOnly.quarters (h : ReadOnly s t) : t.quarters = s.quarters := by rw [h.1]
theorem ReadOnly.cores (h : ReadOnly s t) : t.cores = s.cores := by rw [h.1]
theorem ReadOnly.launches (h : ReadOnly s t) : t.launches = s.launches := by rw [h.1]
theorem ReadOnly.blocks (h : ReadOnly s t) : t.blocks = s.blocks := by rw [h.1]
theorem ReadOnly.groups (h : ReadOnly s t) : t.groups = s.groups := by rw [h.1]
theorem ReadOnly.passes (h : ReadOnly s t) : t.passes = s.passes := by rw [h.1]
theorem ReadOnly.pipes (h : ReadOnly s t) : t.pipes = s.pipes := by rw [h.1]
theorem ReadOnly.dp (h : ReadOnly s t) : t.dp = s.dp := by rw [h.1]
theorem ReadOnly.streamStates (h : ReadOnly s t) : t.streamStates = s.streamStates := by rw [h.1]
theorem ReadOnly.rasterLeaving (h : ReadOnly s t) : t.rasterLeaving = s.rasterLeaving := by rw [h.1]
theorem ReadOnly.heavyEnd (h : ReadOnly s t) : t.heavyEnd = s.heavyEnd := by rw [h.1]
theorem ReadOnly.zeroing (h : ReadOnly s t) : t.zeroing = s.zeroing := by rw [h.1]
theorem ReadOnly.inspects (h : ReadOnly s t) : t.inspects = s.inspects := by rw [h.1]
theorem ReadOnly.inspected (h : ReadOnly s t) : t.inspected = s.inspected := by rw [h.1]
theorem ReadOnly.keys (h : ReadOnly s t) : t.keys = s.keys := by rw [h.1]
theorem ReadOnly.streams (h : ReadOnly s t) : t.streams = s.streams := by rw [h.1]
theorem ReadOnly.time (h : ReadOnly s t) : t.time = s.time := by rw [h.1]
theorem ReadOnly.iql (h : ReadOnly s t) : t.iql = s.iql := by rw [h.1]
theorem ReadOnly.txns (h : ReadOnly s t) : t.txns = s.txns := by rw [h.1]
theorem ReadOnly.txWait (h : ReadOnly s t) : t.txWait = s.txWait := by rw [h.1]
theorem ReadOnly.far (h : ReadOnly s t) : t.far = s.far := by rw [h.1]
theorem ReadOnly.farUnit (h : ReadOnly s t) : t.farUnit = s.farUnit := by rw [h.1]
theorem ReadOnly.whistle (h : ReadOnly s t) : t.whistle = s.whistle := by rw [h.1]
theorem ReadOnly.flushing (h : ReadOnly s t) : t.flushing = s.flushing := by rw [h.1]
theorem ReadOnly.jobs (h : ReadOnly s t) : t.jobs = s.jobs := by rw [h.1]
theorem ReadOnly.power (h : ReadOnly s t) : t.power = s.power := by rw [h.1]
theorem ReadOnly.stw (h : ReadOnly s t) : t.stw = s.stw := by rw [h.1]
theorem ReadOnly.recoveries (h : ReadOnly s t) : t.recoveries = s.recoveries := by rw [h.1]
theorem ReadOnly.referee (h : ReadOnly s t) : t.referee = s.referee := by rw [h.1]
theorem ReadOnly.mgmt (h : ReadOnly s t) : t.mgmt = s.mgmt := by rw [h.1]
theorem ReadOnly.free (h : ReadOnly s t) : t.free = s.free := by rw [h.1]
theorem ReadOnly.pending (h : ReadOnly s t) : t.pending = s.pending := by rw [h.1]
theorem ReadOnly.at_ctx (h : ReadOnly s t) (j : Nat) : t.ctx j = s.ctx j := by rw [State.ctx, h.ctxs, State.ctx]
theorem ReadOnly.at_queue (h : ReadOnly s t) (j : Nat) : t.queue j = s.queue j := by rw [State.queue, h.queues, State.queue]
theorem ReadOnly.at_court (h : ReadOnly s t) (j : Nat) : t.court j = s.court j := by rw [State.court, h.courts, State.court]
theorem ReadOnly.at_field (h : ReadOnly s t) (j : Nat) : t.field j = s.field j := by rw [State.field, h.fields, State.field]
theorem ReadOnly.at_quarter (h : ReadOnly s t) (j : Nat) : t.quarter j = s.quarter j := by rw [State.quarter, h.quarters, State.quarter]
theorem ReadOnly.at_core (h : ReadOnly s t) (j : Nat) : t.core j = s.core j := by rw [State.core, h.cores, State.core]
theorem ReadOnly.at_launch (h : ReadOnly s t) (j : Nat) : t.launch j = s.launch j := by rw [State.launch, h.launches, State.launch]
theorem ReadOnly.at_block (h : ReadOnly s t) (j : Nat) : t.block j = s.block j := by rw [State.block, h.blocks, State.block]
theorem ReadOnly.at_group (h : ReadOnly s t) (j : Nat) : t.group j = s.group j := by rw [State.group, h.groups, State.group]
theorem ReadOnly.at_pass (h : ReadOnly s t) (j : Nat) : t.pass j = s.pass j := by rw [State.pass, h.passes, State.pass]
theorem ReadOnly.at_pipe (h : ReadOnly s t) (j : Nat) : t.pipe j = s.pipe j := by rw [State.pipe, h.pipes, State.pipe]
theorem ReadOnly.at_dpTx (h : ReadOnly s t) (j : Nat) : t.dpTx j = s.dpTx j := by rw [State.dpTx, h.dp, State.dpTx]
theorem ReadOnly.at_key (h : ReadOnly s t) (j : Nat) : t.key j = s.key j := by rw [State.key, h.keys, State.key]
theorem ReadOnly.at_stream (h : ReadOnly s t) (j : Nat) : t.stream j = s.stream j := by rw [State.stream, h.streams, State.stream]
theorem ReadOnly.at_iqlPort (h : ReadOnly s t) (j : Nat) : t.iqlPort j = s.iqlPort j := by rw [State.iqlPort, h.iql, State.iqlPort]
theorem ReadOnly.at_txn (h : ReadOnly s t) (j : Nat) : t.txn j = s.txn j := by rw [State.txn, h.txns, State.txn]
theorem ReadOnly.byte (h : ReadOnly s t) (b : Nat) : t.byte b = s.byte b := by rw [State.byte, h.mem, State.byte]
theorem ReadOnly.bytes (h : ReadOnly s t) (b n : Nat) : t.bytes b n = s.bytes b n := by simp only [State.bytes, h.byte]

end Sys2Proof.Machine
end

