-- ==== Sys2Proof/Tests/Slice0.lean ====
section
/-! SUPPORT. Tests of the model's own: the smoke test of well-formedness, for every statement with hypotheses a state and operands
that meet them, and results that the spec works out. -/

namespace Sys2Proof.Tests

open Sys2Proof Sys2Proof.Machine Sys2Proof.Safety

set_option Elab.async false

/-! ### Ill-formed commands are refused -/

/-- A packet that is well formed with type `t`. -/
def goodPacket (t : Nat) : Packet := { typ := t, dst := 1, src := 2, epoch := 3, len := 8 }

theorem test_wf_send : Instr.wf (.send 0 0 false (List.replicate 65537 0)) = false := by
  rw [Instr.wf, List.length_replicate]; decide
theorem test_wf_rdmaWrite : Instr.wf (.rdmaWrite 0 0 false 0 0 (List.replicate (2 ^ 32) 0)) = false := by
  rw [Instr.wf, List.length_replicate]; decide
theorem test_wf_rdmaRead : Instr.wf (.rdmaRead 0 0 false 0 0 0x80000000) = false := by decide
theorem test_wf_doorbellRecord : Instr.wf (.doorbellRecord 0 (List.replicate 1041 0)) = false := by
  rw [Instr.wf, List.length_replicate]; decide
theorem test_wf_fetchUnderflow : Instr.wf (.fetchUnderflow 0 0 0 0) = false := by decide
theorem test_wf_avtpPacket : Instr.wf (.avtpPacket 0 0 0 false false { frameBytes := 0 } 0 (List.replicate 9001 0)) = false := by
  rw [Instr.wf, List.length_replicate]; decide
theorem test_wf_packets : (Instr.wf (.read 0 0 (goodPacket 0)) = true ∧ Instr.wf (.read 0 0 (goodPacket 2)) = false) ∧
    Instr.wf (.readRsp 0 0 (goodPacket 0)) = false ∧ Instr.wf (.write 0 0 (goodPacket 3)) = false ∧
    Instr.wf (.writeAck 0 0 (goodPacket 2)) = false ∧ Instr.wf (.atomicPacket 0 0 (goodPacket 5)) = false ∧
    Instr.wf (.atomicRsp 0 0 (goodPacket 4)) = false ∧ Instr.wf (.doorbell 0 0 (goodPacket 7)) = false ∧
    Instr.wf (.fenceNotice 0 0 (goodPacket 6)) = false ∧ Instr.wf (.announce 0 0 (goodPacket 9)) = false := by decide
theorem test_wf_packet_fields : ({ goodPacket 0 with dst := 64 } : Packet).wf = false ∧ ({ goodPacket 0 with src := 64 } : Packet).wf = false ∧
    ({ goodPacket 0 with epoch := 256 } : Packet).wf = false ∧ ({ goodPacket 0 with txid := 4096 } : Packet).wf = false ∧
    ({ goodPacket 0 with txgen := 4096 } : Packet).wf = false ∧ ({ goodPacket 0 with len := 2048 } : Packet).wf = false ∧
    ({ goodPacket 0 with hops := 16 } : Packet).wf = false ∧ ({ goodPacket 0 with op := 256 } : Packet).wf = false ∧
    ({ goodPacket 0 with laddr := 2 ^ 40 } : Packet).wf = false ∧ ({ goodPacket 0 with cls := 4 } : Packet).wf = false ∧
    ({ goodPacket 0 with typ := 16 } : Packet).wf = false := by decide
theorem test_wf_packet_payload : ({ goodPacket 0 with payload := List.replicate 1041 0 } : Packet).wf = false := by
  simp [Packet.wf, -List.reduceReplicate]
theorem test_wf_watchPeriod : Instr.wf (.watchPeriod none (List.replicate 65537 0)) = false := by
  rw [Instr.wf, List.length_replicate]; decide
theorem test_wf_inspections : Instr.wf (.inspectionDue 0 16) = false ∧ Instr.wf (.inspection 2 16 0) = false ∧
    Instr.wf (.inspection 0 0 1) = false ∧ Instr.wf (.inspectionEnd 1 67 1 0 []) = false := by decide
theorem test_wf_boot : Instr.wf (.boot false false 0 false (List.replicate 65536 0) []) = false := by
  rw [Instr.wf, List.length_replicate]; decide
theorem test_wf_recoveryStatus : Instr.wf (.recoveryStatus 2 0 0 0 0 0) = false ∧ Instr.wf (.recoveryStatus 6 0 0 0 0 0) = false := by
  decide
theorem test_wf_recoveryWrite : Instr.wf (.recoveryWrite 0 0 0 0 0 (List.replicate 1025 0)) = false := by
  rw [Instr.wf, List.length_replicate]; decide
/-- No word spells a command: the table gives no row any bits. -/
theorem test_no_word : decodeTableWord 32 0x12345678 = none := by decide

/-! ### Small states -/

/-- A device that has booted: on, READY, every domain ON. -/
def live : State :=
  (List.range 29).foldl (fun s d => s.setFld F.pwrDomainStatusState d lcOn)
    (({ State.reset with power := { on := true } } : State).setFld F.stwBootStatusState 0 1)

/-- The handle of context 1 with generation 1. -/
def h1 : W32 := 0x1001

/-- Context 1, whose tables map the first GiB to itself, with partition 0, which holds court 0, quarter 0 and its front end. -/
def ctxOne : State :=
  let s := live.setCtx 1 { state := .active, gen := 1, root0 := 0x10000 }
  let s := (s.setNat 0x10000 8 0x11001).setNat 0x11000 8 0x73
  let s := s.setFld F.fldPartValidCourtIn 0 1
  s.wr Reg.fePartUnits 0 0x110000

/-- Queue 2 of context 1 in slot 0, with what `f` makes of it. -/
def withQueue (f : Queue → Queue) : State :=
  ctxOne.setQueue 2 (f { state := .active, gen := 1, owner := h1, ringLog2 := 6, cqLog2 := 6, ring := 0x20000, cq := 0x30000,
                         slot := some 0 })

/-- The word of a descriptor of a kind. -/
def word0 (kind : Nat) : W64 := BitVec.ofNat 64 (kind * 2 ^ 56 + (if kind = 2 then 2 ^ 55 else 0))

/-- Queue 2 with a command of a kind at its head, with object `o` and argument `a`, running on unit `u` and not begun. -/
def starts (kind o : Nat) (a : W64) (u : UnitRef) : State :=
  withQueue (fun q => { q with
    phase := .running, on := some u, head := 1, tail := 1
    units := startUnits ctxOne u 0, used := startUnits ctxOne u 0
    cmd := some { words := [word0 kind, BitVec.ofNat 64 (o * 65536), a, 0, 0, 0, 0, 0], entry := 0 } })

/-! ### Witnesses: the machine as a whole -/

theorem witness_EveryStepAnswers : live.pending = [] ∧ live.power.on = true ∧ live.now + 1 < 2 ^ 64 ∧ State.reset.pending = [] ∧
    State.reset.power.on = false := by decide +kernel

theorem witness_StepRunsFrontCommand : ({ live with pending := [.calRead] } : State).pending = .calRead :: [] := rfl

theorem witness_MemoryStaysCanonical : Memory.wf State.reset.mem = true ∧ step State.reset = .next State.reset := ⟨rfl, rfl⟩

theorem witness_FusesNeverFall : imageCommit (1 :: List.replicate 14 0 ++ [3]) = true ∧
    live.stw.fuses ≤ imageSvn (1 :: List.replicate 14 0 ++ [3]) ∧ imageSvn (1 :: List.replicate 14 0 ++ [3]) ≤ 64 ∧
    step State.reset = .next State.reset := by
  refine ⟨?_, ?_, ?_, rfl⟩ <;> decide +kernel

theorem witness_HeldWritesDoNothing : State.reset.power.on = false ∧ (bootReady { State.reset with power := { on := true } } = false) ∧
    ({ live with referee := { cycling := true } } : State).referee.cycling = true ∧
    mgmtHeld (live.setFld F.pwrStateStatusState 0 2) = true ∧
    (live.power.on = true ∧ bootReady (live.setFld F.pwrDomainStatusState domFabric 0) = true ∧ live.referee.cycling = false ∧
      mgmtHeld (live.setFld F.pwrDomainStatusState domFabric 0) = false ∧ (live.setFld F.pwrDomainStatusState domFabric 0).fabricOn = false) := by
  decide +kernel

/-! ### Witnesses: contexts and queues -/

/-- The record of context 2 at its place in a table at 0x50000, and of queue 3 at 0x60000. -/
def withRecords : State :=
  let s := (ctxOne.setFld F.feCtxTableBaseAddr 0 5).setFld F.feQueueTableBaseAddr 0 6
  let s := s.setWords 0x50080 [0x10000, 0x10000, 0, 0x600, 0, 0, 0, 0]
  let s := s.setWords 0x50050 [0x0000140003000000, 0x600, 0]
  s.setWords 0x600C0 [BitVec.ofNat 64 (0x1001 * 2 ^ 32 + 6 * 2 ^ 23 + 6 * 2 ^ 18 + 2 ^ 30), 0x200000000, 0x300000000, 0, 0, 0, 0, 0]

theorem serves_withRecords : Serves withRecords Reg.feOp := by unfold Serves; decide +kernel

theorem witness_create : (withRecords.ctx 2).state = .free ∧ withRecords.fld F.memSdCommitGo = 0 ∧
    withRecords.exists? (ctxRecordAddr withRecords 2) = true ∧ withRecords.bad (ctxRecordAddr withRecords 2) 64 = false ∧
    ctxRootsOk withRecords (tabulate 8 (fun i => withRecords.word (ctxRecordAddr withRecords 2 + 8 * i))) = true ∧
    ctxWordsOk withRecords 0 0x600 0 = true ∧
    (tabulate 8 (fun i => withRecords.word (ctxRecordAddr withRecords 2 + 8 * i))) = [0x10000, 0x10000, 0, 0x600, 0, 0, 0, 0] := by
  decide +kernel

theorem witness_set : withRecords.staleCtx h1 = false ∧ (withRecords.ctx (hIndex h1)).state = .active ∧
    (withRecords.ctx (hIndex h1)).newPart = none ∧ withRecords.exists? (ctxRecordAddr withRecords (hIndex h1) + 16) = true ∧
    withRecords.bad (ctxRecordAddr withRecords (hIndex h1) + 16) 24 = false ∧
    tabulate 3 (fun i => withRecords.word (ctxRecordAddr withRecords (hIndex h1) + 16 + 8 * i)) = [0x0000140003000000, 0x600, 0] ∧
    ctxWordsOk withRecords 0x0000140003000000 0x600 0 = true := by decide +kernel

theorem witness_queueCreate : (withRecords.queue 3).state = .free ∧ withRecords.exists? (queueRecordAddr withRecords 3) = true ∧
    withRecords.bad (queueRecordAddr withRecords 3) 64 = false ∧
    tabulate 8 (fun i => withRecords.word (queueRecordAddr withRecords 3 + 8 * i)) =
      [0x0000100143180000, 0x200000000, 0x300000000, 0, 0, 0, 0, 0] ∧
    withRecords.staleCtx (BitVec.ofNat 32 (bitsOf (0x0000100143180000 : W64) 63 32)) = false ∧
    (withRecords.ctx 1).state = .active ∧
    queueWordsOk [0x0000100143180000, 0x200000000, 0x300000000, 0, 0, 0, 0, 0] = true ∧
    bitsOf (0x0000100143180000 : W64) 29 29 = 0 := by decide +kernel

/-- Queue 4 is made on deck: its record asks for it, and its partition has a free slot. -/
def onDeckRecord : State :=
  (withRecords.setWords 0x60100 [0x0000100123180000, 0x200000000, 0x300000000, 0, 0, 0, 0, 0]).setFld F.fePartCfgSlots 0 2

theorem witness_queueCreateOnDeck : (onDeckRecord.queue 4).state = .free ∧ bitsOf (0x0000100123180000 : W64) 29 29 = 1 ∧
    bitsOf (0x0000100123180000 : W64) 31 30 = 0 ∧ ondeckCount onDeckRecord < 8 ∧ roundRobin onDeckRecord = false ∧
    onDeckRecord.word (queueRecordAddr onDeckRecord 4) = 0x0000100123180000 ∧
    queueWordsOk [0x0000100123180000, 0x200000000, 0x300000000, 0, 0, 0, 0, 0] = true ∧
    freeSlot onDeckRecord (onDeckRecord.ctx 1).part = some 0 := by decide +kernel

theorem witness_HandleOperations : Serves ctxOne Reg.feOp ∧ ctxOne.staleCtx 0x2001 = true ∧ ctxOne.staleQueue 0x4002 = true ∧
    ctxOne.staleCtx h1 = false ∧ (ctxOne.ctx (hIndex h1)).state ≠ .destroying ∧
    ((ctxOne.setCtx 1 { ctxOne.ctx 1 with state := .hostlost }).ctx (hIndex h1)).state = .hostlost ∧
    (withQueue id).staleQueue 0x4002 = false ∧ ((withQueue id).queue (qIndex 0x4002)).state = .active := by
  unfold Serves; decide +kernel

/-- Context 1 in destruction, at step `n`. -/
def dying (n : Nat) : State := ctxOne.setCtx 1 { ctxOne.ctx 1 with state := .destroying, destroyStep := n, destroyAt := 0 }

theorem witness_DestructionSteps :
    ((dying 1).ctx (1 : Fin 4096)).state = .destroying ∧ ((dying 1).ctx (1 : Fin 4096)).destroyStep = 1 ∧
    ((dying 1).ctx (1 : Fin 4096)).destroyAt + 50000000 > (dying 1).now ∧
    ((dying 1).ctx (1 : Fin 4096)).destroyAt + 50000000 ≤ ((dying 1).setFld F.timNowNsNs 0 50000000).now ∧
    queuesOf (dying 1) ((dying 1).handleOf (1 : Fin 4096)) = [] ∧ releasesLeft (dying 2) ((dying 2).handleOf (1 : Fin 4096)) = false ∧
    ((dying 2).ctx (1 : Fin 4096)).destroyAt + 200000000 ≤ ((dying 2).setFld F.timNowNsNs 0 200000000).now ∧
    ((dying 2).ctx (1 : Fin 4096)).destroyStep = 2 ∧ (dying 2).keys = [] := by decide +kernel

/-! ### Witnesses: commands and the scheduler -/

/-- A NOP in the ring of queue 2, submitted. -/
def submitted : State := withQueue (fun q => { q with tail := 1 })

/-- Queue 2 with a NOP that waits for the word at 0x40000 to reach 5. -/
def waits : State := withQueue (fun q => { q with
  phase := .waiting, head := 1, tail := 1, cmd := some { words := [BitVec.ofNat 64 (2 ^ 52), 0, 0, 0x400000000, 5, 0, 0, 0], entry := 0 } })

theorem witness_commandAtHead : feRuns submitted = true ∧ (submitted.queue (2 : Fin 16384)).phase = .empty ∧
    fetches submitted (submitted.queue (2 : Fin 16384)) = true ∧ cqFull (submitted.queue (2 : Fin 16384)) = false ∧
    served submitted (submitted.queue 2) = true := by
  decide +kernel

/-- A translation answered the memory address `a`. -/
def toMem (r : Except W16 Target) (a : Nat) : Bool :=
  match r with
  | .ok (.mem b) => b == a
  | _ => false

theorem toMem_spec (r : Except W16 Target) (a : Nat) (h : toMem r a = true) : r = .ok (.mem a) := by
  unfold toMem at h; split at h <;> simp_all

theorem witness_waitExamine : (waits.queue (2 : Fin 16384)).phase = .waiting ∧ (waits.queue 2).waitAddr = 0x40000 ∧
    (waits.queue 2).waitValue = 5 ∧ blockedWait waits (waits.queue 2) = true ∧
    served waits (waits.queue 2) = true ∧ toMem (xlate waits none h1 .load 0x40000).1 0x40000 = true ∧
    (xlate waits none h1 .load 0x40000).2.bad 0x40000 8 = false ∧
    (xlate waits none h1 .load 0x40000).2.readNat 0x40000 8 < 5 ∧
    5 ≤ (xlate (waits.setNat 0x40000 8 5) none h1 .load 0x40000).2.readNat 0x40000 8 % 2 ^ 63 := by decide +kernel

/-- Queue 2 has waited 10 s for its fence. -/
def waitedLong : State := waits.setQueue 2 { waits.queue 2 with waited := 10000000000, waitMs := 10000 }

theorem witness_waitTimeout : (waitedLong.queue (2 : Fin 16384)).phase = .waiting ∧ blockedWait waitedLong (waitedLong.queue 2) = true ∧
    served waitedLong (waitedLong.queue 2) = true ∧ (waitedLong.queue 2).waitMs * 1000000 ≤ (waitedLong.queue 2).waited := by
  decide +kernel

theorem witness_remoteFenceRead :
    fenceReadOut (waits.setTxn 0 { ({} : Txn) with busy := true, purpose := .fence 2 }) 2 = true ∧
    (waits.queue 2).waitValue ≤ (9 : W64).toNat % 2 ^ 63 := by decide +kernel

/-- A NOP of queue 2 that is ready. -/
def readyNop : State := withQueue (fun q => { q with
  phase := .ready, head := 1, tail := 1, priority := 2, cmd := some { words := [0, 0, 0, 0, 0, 0, 0, 0], entry := 0 } })

theorem witness_commandStart : pick readyNop (.frontEnd 0) = some (2 : Fin 16384).val ∧ roundRobin readyNop = false := by decide +kernel

theorem witness_SchedulerWork : (readyNop.queue (2 : Fin 16384)).phase = .ready ∧ 2 ≤ (readyNop.queue 2).priority ∧
    roundRobin readyNop = false ∧
    (readyNop.setQueue 2 { readyNop.queue 2 with readyFor := 2000000000 }).fld F.feSchedCfgAgeMs * 1000000 <
      ((readyNop.setQueue 2 { readyNop.queue 2 with readyFor := 2000000000 }).queue 2).readyFor ∧ feRuns readyNop = true := by decide +kernel

theorem witness_sliceEnd :
    roundRobin ({ readyNop.setFld F.feSchedCfgMode 0 1 with rrSince := some 0 } : State) = true ∧
    sliceLeft ({ (readyNop.setFld F.feSchedCfgMode 0 1).setFld F.timNowNsNs 0 3000000 with rrSince := some 0 } : State) = false := by
  decide +kernel

/-- Queue 2 on deck, and queue 2 benched with its partition allowed one slot. -/
def onDeck : State := waits.setQueue 2 { waits.queue 2 with ondeck := true }
def benched : State :=
  (readyNop.setQueue 2 { readyNop.queue 2 with slot := none }).setFld F.fePartCfgSlots 0 1

theorem witness_preload : feRuns onDeck = true ∧ (onDeck.queue (2 : Fin 16384)).ondeck = true ∧
    (onDeck.queue 2).state = .active ∧ roundRobin onDeck = false ∧ (onDeck.ctx (hIndex (onDeck.queue 2).owner)).state = .active ∧
    (onDeck.queue 2).preloaded = false ∧ (onDeck.queue 2).phase = .waiting := by
  decide +kernel

theorem witness_benchSwap : feRuns benched = true ∧ roundRobin benched = false ∧ (benched.queue (2 : Fin 16384)).state = .active ∧
    (benched.queue 2).slot = none ∧ condOf benched (benched.queue 2) = .ready ∧
    freeSlot benched (queuePart benched (benched.queue 2)) = some 0 := by decide +kernel

theorem witness_NopAndFree : starting (starts 0 0 0 (.frontEnd 0)) (2 : Fin 16384) 0 = true ∧
    ((starts 8 0 0 (.frontEnd 0)).queue (2 : Fin 16384)).phase = .running ∧ ((starts 8 0 0 (.frontEnd 0)).queue 2).kind = 8 ∧
    ((starts 8 0 0 (.frontEnd 0)).queue 2).stopReq = none := by decide +kernel

theorem witness_FrontEndRegisters : Serves live Reg.feCtxTableBase ∧ liveCtxs live = [] ∧ liveCtxs ctxOne ≠ [] ∧
    Serves ctxOne Reg.feCtxTableBase ∧ (4 ≤ bitsOf (4 : W64) 3 0 ∧ bitsOf (12 : W64) 3 0 ≤ 12 ∧ 12 < bitsOf (13 : W64) 3 0 ∧
      bitsOf (3 : W64) 3 0 < 4) ∧ (bitsOf (0x1000100 : W64) 31 24 ≠ 0 ∧ bitsOf (0x1000100 : W64) 23 8 ≠ 0) ∧
    bitsOf (0x100 : W64) 31 24 = 0 ∧ bitsOf (128 : W64) 7 0 ≤ 128 ∧ 128 < bitsOf (129 : W64) 7 0 ∧
    (live.setFld F.fePartCommitGo 0 1).fld F.fePartCommitGo = 1 := by unfold Serves; decide +kernel

theorem witness_Doorbells : ((withQueue id).validate = true → ((withQueue id).qp (0 : Fin 1024)).kernel = true) ∧
    (withQueue id).staleQueue 0x4002 = false ∧ ((withQueue id).queue (qIndex 0x4002)).state = .active ∧
    ((1 : W32) - ((withQueue id).queue (qIndex 0x4002)).tail).toNat < 2 ^ 31 ∧
    ((1 : W32) - ((withQueue id).queue (qIndex 0x4002)).head).toNat ≤ 2 ^ ((withQueue id).queue (qIndex 0x4002)).ringLog2 := by
  decide +kernel

/-! ### Witnesses: the whistle and the units -/

/-- Courts 3 and 27 still to report on an FLD_FMT_DEFAULT write that a whistle carries. -/
def whistles (waiting : List Nat) : State :=
  { live with whistle := { active := true, began := 0, waiting := waiting
                           carries := [{ change := .fmtDefault, vals := [(Reg.key Reg.fldFmtDefault 0, 1)] }] } }

theorem witness_whistleReport : (whistles [3, 27]).whistle.active = true ∧ (27 : Fin 28).val ∈ (whistles [3, 27]).whistle.waiting ∧
    (whistles [3, 27]).whistle.waiting.filter (· ≠ 27) ≠ [] ∧ (whistles [27]).whistle.waiting = [(27 : Fin 28).val] ∧
    (whistles [27]).whistle.next = [] ∧
    ((whistles [3, 27]).setFld F.timNowNsNs 0 1000000).whistle.began + 1000000 ≤ ((whistles [3, 27]).setFld F.timNowNsNs 0 1000000).now := by
  decide +kernel

theorem witness_whistleWrites : live.whistle.active = false ∧ Serves live Reg.fldFmtDefault ∧ Serves live Reg.fldScrubCfg ∧
    bitsOf (0x80000002 : W32) 1 0 ≠ 3 ∧ scrubLocked live = false ∧
    (live.setFld F.fldScrubCfgLock 0 1).fld F.fldScrubCfgLock = 1 := by unfold Serves; decide +kernel

/-- Layouts staged: court 15 and quarter 3 with front end 3 in partition 1 with 128 slots; and the same without a slot. -/
def layoutStaged (slots : Nat) : State :=
  ((((live.setFld F.pwrDomainPermitPermit 0 0x3FFFFFF).stage Reg.fldPartCfg 0 0x1000000000000000).stage Reg.fldPartValid 0 0x8000).stage Reg.fePartUnits 0 0x881000).stage
    Reg.fePartCfg 1 (BitVec.ofNat 64 slots)

theorem witness_layout : Serves (layoutStaged 128) Reg.fePartCommit ∧ natBit (1 : W32).toNat 0 = true ∧
    (layoutStaged 128).fld F.fePartCommitGo = 0 ∧ layoutReject (layoutStaged 128) (layoutNext (layoutStaged 128)) = none ∧
    layoutUnpermitted (layoutStaged 128) (layoutOf (layoutVals (layoutStaged 128))) = none ∧
    layoutReject (layoutStaged 0) (layoutNext (layoutStaged 0)) = some stInvalid ∧
    (layoutStaged 0).fld F.fePartCommitGo = 0 ∧ (layoutStaged 0).whistle.active = false := by
  unfold Serves; decide +kernel

theorem witness_UnitUpkeep : ServesUnit live Reg.fldSpareMap (.court 15) ∧
    ((live.setFld F.fldCourtStatusRemapPending 15 1).fld F.fldCourtStatusRemapPending 15 = 1 ∧
      (live.setFld F.fldCourtStatusRemapPending 15 1).fld F.fldCourtStatusBusy 15 = 0) ∧
    ((live.setCourt 15 { scrub := .due }).domOn 15 = true ∧ ((live.setCourt 15 { scrub := .due }).court 15).scrub = .due) ∧
    ((live.setCourt 15 { scrub := .running }).court 15).scrub = .running ∧
    (ctxOne.domOn 0 = true ∧ courtPart ctxOne 0 = some 0) ∧ live.domOn 19 = true ∧
    ({ live with heavyEnd := some 0 } : State).heavyEnd = some 0 := by
  unfold ServesUnit Serves; decide +kernel

theorem witness_spareRows (r : Nat) (h : r < 8) : natBit (0x1F1F1F1F1F1F1F1F : W64).toNat (8 * r + 5) = false := by
  have : ∀ r : Fin 8, natBit (0x1F1F1F1F1F1F1F1F : W64).toNat (8 * r.val + 5) = false := by decide
  exact this ⟨r, h⟩

/-- Physical core 16 of quarter 3 with its scrub at a stage. -/
def coreAt (scrub : Scrub) : State := live.setCore (coreKey ⟨3, 16⟩) { scrub := scrub }

/-- Quarter 3 with a pending map that gives its logical core 15 the spare. -/
def remapDue : State := (live.stage Reg.shaSpareMap 3 0x1F).setFld F.shaQuarterStatusRemapPending 3 1

theorem witness_cores : ((coreAt .due).domOn (16 + (3 : Fin 4).val) = true ∧ ((coreAt .due).core (coreKey ⟨3, 16⟩)).holds = [] ∧
      ((coreAt .due).core (coreKey ⟨3, 16⟩)).scrub = .due) ∧
    ((coreAt .running).core (coreKey ⟨3, 16⟩)).scrub = .running ∧ ((coreAt .running).quarter 3).leaving = false ∧
    ((coreAt .running).quarter 3).lastPart = none ∧ ServesUnit live Reg.shaSpareMap (.quarter 3) ∧
    (remapDue.fld F.shaQuarterStatusRemapPending 3 = 1 ∧ remapAffects remapDue 3 = [15] ∧
      ∀ l ∈ remapAffects remapDue 3, (remapDue.core (physCore remapDue 3 l)).holds = []) := by
  unfold ServesUnit Serves; decide +kernel

/-! ### Witnesses: field commands -/

/-- What a read of a context answered. -/
def got (r : (Except W16 (List Byte)) × State) : List Byte :=
  match r.1 with
  | .ok b => b
  | .error _ => []

def fine (r : (Except W16 (List Byte)) × State) : Bool :=
  match r.1 with
  | .ok _ => true
  | .error _ => false

theorem got_spec (r : (Except W16 (List Byte)) × State) (h : fine r = true) : r = (.ok (got r), r.2) := by
  obtain ⟨_ | _, _⟩ := r <;> simp_all [got, fine]

/-- The state in which a command of queue 2 reads, with no answers from elsewhere. -/
def reading (s : State) : State := { s with farUnit := some 2, farMiss := [], farLack := false }

/-- A playbook at 0x100000 with one table, one court and one bundle, and the FIELD command that runs it. -/
def playbook : State :=
  ((starts 1 0x100000 0 (.courts 0)).setFld F.fldCourtStatusDomainOn 0 1).setWords 0x100000
    [0x5042464C20480100, 0x0001000020000001, 64, 0x3E800000000, 0x40, 0x0000200000000008, 0, 0, 0x0008]

/-- Its reads: the header, the parameters, their bounds, the regions and the table. -/
def pb1 := ctxReadObj (beginCmd (reading playbook) 2 none) (some (.court 0)) h1 .fetch 0x100000 64
def pb2 := ctxReadObj pb1.2 (some (.court 0)) h1 .load 0 0
def pb3 := ctxReadObj pb2.2 (some (.court 0)) h1 .fetch 0x100000 0
def pb4 := ctxReadObj pb3.2 (some (.court 0)) h1 .fetch 0x100000 0
def pb5 := ctxReadObj pb4.2 (some (.court 0)) h1 .fetch 0x100040 3072
def pb6 := ctxReadObj pb5.2 (some (.court 0)) h1 .fetch 0x100020 8

theorem witness_FieldBegins_command : starting playbook 2 1 = true ∧ courtsReady playbook [0] 0 h1 = true ∧ (playbook.queue (2 : Fin 16384)).stopReq = none ∧
    replayWords playbook 2 = none ∧ queuePart playbook (playbook.queue 2) = 0 ∧ courtsIn (playbook.queue 2).units = [0] ∧
    (playbook.queue 2).owner = h1 ∧ (playbook.queue 2).object = 0x100000 ∧ (playbook.queue 2).arg = 0 := by decide +kernel

theorem witness_FieldBegins_header : fine pb1 = true ∧
    wordsOf (got pb1) = [0x5042464C20480100, 0x0001000020000001, 64, 0x3E800000000, 0x40, 0x0000200000000008, 0, 0] ∧
    headerInvalid (wordsOf (got pb1)) 0 = false ∧ bitsOf (wordAt (wordsOf (got pb1)) 1) 33 29 = 1 ∧
    placeFoot (bitsOf (wordAt (wordsOf (got pb1)) 1) 63 48) [0] = some 0 ∧
    bitsOf (wordAt (wordsOf (got pb1)) 4) 31 0 = 64 := by decide +kernel

theorem witness_FieldBegins_file : fine pb2 = true ∧ fine pb3 = true ∧ fine pb4 = true ∧ fine pb5 = true ∧ fine pb6 = true ∧ pb6.2.farLack = false ∧ heldByWhistle pb5.2 (playbook.queue 2) true = false ∧
    paramsInvalid (wordsOf (got pb2)) (wordsOf (got pb3)) (wordsOf (got pb4)) = false ∧
    replayUnsafe (wordsOf (got pb2)) (wordsOf (got pb4)) = false := by decide +kernel

theorem witness_FieldBegins_bundles : bundlesAligned 1
    { q := 2, handle := h1, playbook := 0x100000, params := wordsOf (got pb2), bounds := wordsOf (got pb3),
      regions := wordsOf (got pb4), foot := 1, courts := [0], shift := 0, bundleOff := 0x20, bundleBytes := 8, decl := 64,
      replaySafe := true } (fun n => (tablesOf (got pb5) 1).getD n []) (wordsOf (got pb6)) = true := by decide +kernel

theorem witness_FieldBegins_table : ((tablesOf (got pb5) 1).all (fun t => (t.drop 1).all (fun e =>
    !entryInvalid e && !entryUnsupported e))) = true := by decide +kernel

/-- The run of that command on partition 0, with what `f` makes of it. -/
def runs (f : FieldRun → FieldRun) : State :=
  let s := playbook.setQueue 2 { playbook.queue 2 with begun := true }
  s.setField 0 { run := some (f { q := 2, handle := h1, playbook := 0x100000, params := [], bounds := [], regions := []
                                  foot := 1, courts := [0]
                                  shift := 0, bundleOff := 64, bundleBytes := 8, decl := 1, replaySafe := true }) }

/-- A bundle of `n` trips without actions, and one transfer of a flit from court 0 to itself that has been read. -/
def trips (n : Nat) : Bundle := { trips := n, slots := [], dmas := [], last := true, sync := false, heavy := false }
def flit : NetXfer :=
  { src := 0, dst := 0, srcAddr := 0, dstAddr := 64, flits := 2, hops := 0, issued := 0, read := 1, air := [(0, 0, List.replicate 64 7)] }
/-- A load that has only been issued, of 16 bytes from 0x200000 to stream 1's FIFO side of court 0's memory. -/
def slot : DmaSlot :=
  { id := 0, court := 0, stream := 1, w0 := 0x0800000000000000, w1 := 0, issued := 0, consume := none }

def withBundle : State := (runs id).setNat 0x100040 8 0x0008

theorem witness_bundle : ∃ r, (withBundle.field (0 : Fin 16)).run = some r ∧ r.failed = none ∧ (withBundle.queue r.q).stopReq = none ∧
    r.bun = none ∧ r.ended = false ∧ r.pos + 8 ≤ r.bundleBytes ∧
    fine (ctxReadObj (reading withBundle) (some (Holder.court (r.courts.getD 0 0))) r.handle .fetch (r.playbook + r.bundleOff + r.pos) 8) = true ∧
    wordsOf (got (ctxReadObj (reading withBundle) (some (Holder.court (r.courts.getD 0 0))) r.handle .fetch
      (r.playbook + r.bundleOff + r.pos) 8)) = [8] ∧
    (match decodeBundle r [8] with
     | .ok b => decide (b = trips 1)
     | .error _ => false) = true := by
  refine ⟨_, rfl, ?_⟩; decide +kernel

/-- A run with a bundle that waits for its DMA, one that waits in its stagger; further down one that issues in cycle 0. -/
def syncing : State := runs (fun r => { r with bun := some (trips 2), left := 2, syncWait := true, dma := [slot] })
def staggers : State := runs (fun r => { r with bun := some (trips 2), left := 2, stagger := 1 })
/-- A run whose load is late at its consume point, and one that issues in 1 of 64 cycles. -/
def lates : State := runs (fun r => { r with bun := some (trips 2), left := 2, dma := [{ slot with consume := some 0 }] })
def throttles : State := (runs (fun r => { r with bun := some (trips 2), left := 2 })).setFld F.pwrStatusGranted 0 1
def issuesNow : State := (runs (fun r => { r with bun := some (trips 2), left := 2 })).setFld F.pwrStatusGranted 0 64

theorem witness_FieldRuns_clock :
    (∃ r, (syncing.field (0 : Fin 16)).run = some r ∧ r.failed = none ∧ (syncing.queue r.q).stopReq = none ∧
      r.bun = some (trips 2) ∧ r.ended = false ∧ r.syncWait = true ∧ r.dma ≠ []) ∧
    (∃ r, (staggers.field (0 : Fin 16)).run = some r ∧ r.failed = none ∧ r.syncWait = false ∧ r.left ≠ 0 ∧ 0 < r.stagger) ∧
    (∃ r, (lates.field (0 : Fin 16)).run = some r ∧ r.failed = none ∧ r.ended = false ∧ r.syncWait = false ∧ r.left ≠ 0 ∧
      r.stagger = 0 ∧ r.tried = false ∧ consumeLate r = true) ∧
    (∃ r, (throttles.field (0 : Fin 16)).run = some r ∧ r.failed = none ∧ r.ended = false ∧ r.syncWait = false ∧ r.left ≠ 0 ∧
      r.stagger = 0 ∧ r.tried = false ∧ consumeLate r = false ∧
      issues (rampFraction (granted throttles) r.ramp) (r.clk % 64) = false) ∧
    (∃ r, (issuesNow.field (0 : Fin 16)).run = some r ∧ r.failed = none ∧ r.syncWait = false ∧ 1 < r.left ∧ r.stagger = 0 ∧
      issues (rampFraction (granted issuesNow) r.ramp) (r.clk % 64) = true ∧ r.toIssue = [] ∧
      consumeLate r = false ∧ r.net = [] ∧
      (match ((scheduleCycle (landFlits (setRun (countCycles issuesNow 0 r 1) 0 ({ r with tried := true }.pass 1)) 0) 0
          ({ r with tried := true }.pass 1)).field 0).run with
        | some r' => decide (r'.failed = none ∧ r'.left = r.left - 1)
        | none => false) = true) := by
  refine ⟨⟨_, rfl, ?_⟩, ⟨_, rfl, ?_⟩, ⟨_, rfl, ?_⟩, ⟨_, rfl, ?_⟩, ⟨_, rfl, ?_⟩⟩
  · decide +kernel
  · decide +kernel
  · decide +kernel
  · decide +kernel
  · decide +kernel

/-- Runs with a flit on the way whose cycle has passed, with a load that no one has asked for, and at their end. -/
def flying : State := runs (fun r => { r with cycle := 1, net := [flit] })
def loading : State :=
  runs (fun r => { r with params := [0x200000], bounds := [0x200000], regions := [0x400000000010], dma := [slot] })
def ending : State := runs (fun r => { r with ended := true })

theorem witness_networkTransferArrival : ∃ r, (flying.field (0 : Fin 16)).run = some r ∧ r.failed = none ∧
    (flying.queue r.q).stopReq = none ∧ r.net = [flit] ∧ flit.air = [(0, 0, List.replicate 64 7)] ∧ 0 < r.cycle ∧
    flit.read < flit.flits := ⟨_, rfl, by decide +kernel⟩

theorem witness_dmaComplete : dmaPart loading (0 : Fin 16) (1 : Fin 2) = some (0 : Fin 16).val ∧
    ∃ r, (loading.field (0 : Fin 16)).run = some r ∧ r.net = [] ∧
      (loading.queue r.q).phase ≠ .halted ∧ r.dma.find? (fun d => decide (d.court = 0 ∧ d.stream = 1)) = some slot ∧ slot.sent = false ∧ slot.isStore = false ∧
      dmaPieces slot r (slot.rows * slot.rowBytes) 0 = [(0, 16)] ∧
      (match (dmaRun (landFlits loading 0) 0 r slot [(0, 16)] 0).1 with
       | .ok n => n == 0
       | .error _ => false) = true := by
  refine ⟨by decide +kernel, _, rfl, ?_⟩; decide +kernel

theorem witness_fieldEnd : ∃ r, (ending.field (0 : Fin 16)).run = some r ∧ r.failed = none ∧
    (ending.queue r.q).stopReq = none ∧ r.ended = true ∧ r.dma = [] ∧ r.net = [] := ⟨_, rfl, by decide +kernel⟩

/-! ### Witnesses: launches and thread groups -/

/-- A shader program at 0x200000: one group, 16 registers, 1 KiB of local memory; 64 bytes of code, 64 bytes on. -/
def program : List W64 :=
  [0x5042534220480100, BitVec.ofNat 64 (2 * 2 ^ 58 + 2 ^ 44 + 1), BitVec.ofNat 64 (64 * 2 ^ 32 + 64), 0, 0, 0, 0, 0]

/-- A LAUNCH of it over 2 blocks, and the same begun, with what `f` makes of it. -/
def launching : State := (starts 2 0x200000 (BitVec.ofNat 64 (2 ^ 44)) (.quarters 0)).setWords 0x200000 program
def launched (f : Launch → Launch) : State :=
  (launching.setQueue 2 { launching.queue 2 with begun := true }).setLaunch 2 (some (f
    { prog := { code := 0x200040, codeBytes := 64, entry := 0, regs := 16, consts := [], localLen := 1024 }, groups := 1
      localBytes := 1024, replaySafe := true, grid := (2, 1, 1) }))

/-- The header read. -/
def hdr := readHeader (beginCmd { launching with farUnit := some 2, farMiss := [], farLack := false } 2 none) h1 0x200000
def hdrWords : List W64 :=
  match hdr.1 with
  | .ok w => w
  | .error _ => []

theorem witness_LaunchesBegin : (launching.queue (2 : Fin 16384)).stopReq = none ∧ starting launching 2 2 = true ∧
    hdrWords = program ∧ headerCheck program = none ∧ quartersIn (launching.queue 2).units = [0] ∧
    (launchWords hdr.2 2).1.toOption.map List.length = some 32 ∧ (launchWords hdr.2 2).2.farLack = false := by decide +kernel

theorem witness_blockStart : ∃ l, (launched id).launch (2 : Fin 16384) = some l ∧ ((launched id).queue (2 : Fin 16384)).phase = .running ∧
    unitKept (launched id) (.quarter 0) = false ∧ blockFits (launched id) 2 l 0 15 (1024 * 255) = true ∧ blockAhead (launched id) 2 0 15 = false ∧
    l.groups ≤ 32 ∧ l.next < 2 ^ 32 := ⟨_, rfl, by decide +kernel⟩

/-- Group 0 of block 0 on core 0 with `n` threads, register 4 of each 0x80000 and register 6 its lane number plus 1, at an instruction. -/
def grouped (n : Nat) (word : Nat) (f : Group → Group) : State :=
  ((launched (fun l => { l with next := 2, issued := true })).setNat 0x200040 8 word).setGroup 0x4000000000 (some (f
    { q := 2, core := 0, prog := { code := 0x200040, codeBytes := 64, entry := 0, regs := 16, consts := [7], localLen := 1024 }
      base := 0, len := 1024, threads := List.replicate n {}
      regs := ((List.range n).map (fun l => [(l * 256 + 4, 0x80000), (l * 256 + 6, BitVec.ofNat 32 (l + 1))])).flatten }))
def ref0 : GroupRef := ⟨2, 0, 0⟩

theorem witness_groupEnd : ((grouped 2 0 (fun g => { g with threads := [{ exited := true }] })).group (groupKey ref0)).any (fun g =>
    decide (g.live = [] ∧ g.tokens = 0 ∧ g.gfx = none ∧ ((grouped 2 0 id).queue g.q).stopReq = none)) = true := by decide +kernel

theorem witness_launchEnd : ∃ l, (launched (fun l => { l with next := 2 })).launch (2 : Fin 16384) = some l ∧
    ((launched (fun l => { l with next := 2 })).queue 2).phase = .running ∧ l.next = l.total ∧
    (launched (fun l => { l with next := 2 })).blocks = [] ∧ ammaPending (launched (fun l => { l with next := 2 })) 2 = false :=
  ⟨_, rfl, by decide +kernel⟩

/-- A byte at 0x80004 in the merging buffer of core 16 of quarter 3. -/
def merging : State :=
  { ctxOne.setFld F.timNowNsNs 0 1000 with merge := [{ core := 67, line := 0x1000, bytes := [(4, 9)], since := 0 }] }

theorem witness_mergeDrain : ∃ e, merging.merge = [e] ∧ e.core = 17 * (3 : Fin 4).val + (16 : Fin 17).val ∧
    e.line = (0x1000 : BitVec 33).toNat ∧ mergeAged merging e = true ∧ merging.ue = [] ∧ merging.ce = [] ∧ e.bytes = [(4, 9)] := ⟨_, rfl, by decide +kernel⟩

/-! ### Witnesses: instructions of thread groups -/

/-- The issue that `Gathers` describes, where the group has something to issue. -/
def issueOf (s : State) (ref : GroupRef) : Option (Issued × State) :=
  match s.group (groupKey ref) with
  | none => none
  | some g => match g.pick with
    | none => none
    | some pc => match ctxRead s (some (.core g.core)) (s.queue g.q).owner .fetch (g.prog.code + pc) 8 with
      | (.ok (.inl bs), v) =>
        if hasTurn s (groupKey ref) g = true ∧ pc < g.prog.codeBytes ∧ wIllegal (leNat bs) = false ∧
            (∀ l ∈ (g.at' pc).filter (fun l => ((g.thread l).pred (wPreg (leNat bs))) ^^ wPneg (leNat bs)), (g.thread l).owed = []) then
          let g1 := { g.mapLanes (g.at' pc) (fun t => { t with since := g.issues + 1, wait := .ready }) with issues := g.issues + 1 }
          some ({ gk := groupKey ref, g := g1, q := g.q, pc := pc, word := leNat bs, all := g.at' pc
                  lanes := (g.at' pc).filter (fun l => ((g.thread l).pred (wPreg (leNat bs))) ^^ wPneg (leNat bs)) },
            startBudget (takeTurn (v.setGroup (groupKey ref) (some g1)) (groupKey ref) g (leNat bs)) g.q)
        else none
      | _ => none

theorem gathers_of (s u : State) (ref : GroupRef) (x : Issued) (h : issueOf s ref = some (x, u)) : Gathers s ref x u := by
  unfold issueOf at h
  split at h
  · cases h
  · rename_i g hg
    split at h
    · cases h
    · rename_i pc hpc
      split at h
      · rename_i bs v hv
        split at h
        · rename_i hc
          simp only [Option.some.injEq, Prod.mk.injEq] at h
          obtain ⟨rfl, rfl⟩ := h
          exact ⟨g, pc, bs, v, hg, hpc, hc.1, hc.2.1, hv, hc.2.2.1, rfl, hc.2.2.2, rfl⟩
        · cases h
      · cases h

/-- Every address that threads go to lies in the program. -/
def within (x : Issued) (dest : List (Nat × Int)) : Bool := dest.all (fun lp => decide (0 ≤ lp.2 ∧ lp.2 < (x.g.prog.codeBytes : Int)))

/-- Whether the instruction of group 0 gathers its threads and meets a condition. -/
def gathered (s : State) (p : Issued → State → Bool) : Bool := (issueOf s ref0).any (fun xu => p xu.1 xu.2)

/-- Words of the ALU format: CLASS, OP, DST, SA, SB, SC and the low bits. -/
def alu (cls op dst sa sb sc low : Nat) : Nat :=
  cls * 2 ^ 56 + op * 2 ^ 48 + 7 * 2 ^ 44 + dst * 2 ^ 36 + sa * 2 ^ 28 + sb * 2 ^ 20 + sc * 2 ^ 12 + low

/-- Words of the memory format: CLASS, OP, DATA, ADDR, SCOPE and OFFSET. -/
def memw (cls op data addr scope off : Nat) : Nat :=
  2 ^ 63 + cls * 2 ^ 56 + op * 2 ^ 48 + 7 * 2 ^ 44 + data * 2 ^ 36 + addr * 2 ^ 28 + scope * 2 ^ 25 + off

theorem witness_ArithmeticLanes :
    gathered (grouped 32 (alu 0 5 15 15 15 0 0) id) (fun x _ => decide (wClass x.word = 0) && within x x.fall &&
      x.regsOk (x.srcRegs true true true ++ [wDst x.word])) = true ∧
    gathered (grouped 1 (alu 1 0 0 4 4 6 0xF0) id) (fun x _ => decide (wClass x.word = 1) && within x x.fall &&
      x.regsOk (x.srcRegs true true true ++ [wDst x.word])) = true ∧
    gathered (grouped 1 (alu 2 0 0 4 4 6 0xF0) id) (fun x _ => decide (wClass x.word = 2) && within x x.fall &&
      x.regsOk (x.srcRegs true true true ++ [wDst x.word])) = true ∧
    gathered (grouped 1 (alu 3 0 0 4 0 0 0x80) id) (fun x _ => decide (wClass x.word = 3) && within x x.fall &&
      decide (natBits x.word 55 54 ≠ 3) && x.regsOk (x.srcRegs true false false ++ [wDst x.word])) = true ∧
    gathered (grouped 1 (alu 4 0 0 4 0 0 0x80) id) (fun x _ => decide (wClass x.word = 4) && within x x.fall &&
      x.regsOk (x.srcRegs true false false ++ [wDst x.word])) = true := by decide +kernel

theorem witness_MovesAndControl :
    gathered (grouped 2 (alu 5 0 15 4 6 0 0) id) (fun x _ => decide (wClass x.word = 5) && within x x.fall &&
      x.regsOk (x.srcRegs true true false ++ [wDst x.word]) && x.regsOk (x.srcRegs false true false ++ [wDst x.word])) = true ∧
    gathered (grouped 2 (memw 0x18 0 0 0 0 7) id) (fun x _ => decide (wClass x.word = 0x18) && decide (x.target = 56) &&
      within x (x.branchTo (fun _ => x.target)) && x.regsOk [wDst x.word] && within x x.fall && decide (0 ≤ x.target) &&
      within x (x.fallBut x.lanes)) = true ∧
    gathered (grouped 2 (memw 0x18 2 0 5 0 0) id) (fun x _ => decide (wClass x.word = 0x18) &&
      within x (x.branchTo (fun l => ((x.g.reg l (wSa x.word)).toNat : Nat))) && x.regsOk [wSa x.word] &&
      x.lanes.all (fun l => (x.g.reg l (wSa x.word)).toNat % 8 == 0)) = true := by decide +kernel

/-- The targets of the lanes of an access are lane 0's, at the memory address `a`. -/
def leads (s : State) (x : Issued) (acc : Access) (n a : Nat) : Bool :=
  match (laneTargets s x acc n).1 with
  | .ok [(l, .mem b)] => l == 0 && b == a
  | _ => false

theorem witness_GlobalMemoryLane :
    gathered (grouped 1 (memw 0x10 0 8 4 0 0) id) (fun x u => decide (x.lanes = [0]) && within x x.fall && !wRelease x.word &&
      decide (wClass x.word = 0x10) && x.memOk 16 && leads u x .load 16 0x80000 && leads u x .store 16 0x80000 &&
      Clean (drainLine (laneTargets u x .load 16).2 x.g.core (0x80000 / 128)) 0x80000 16) = true ∧
    gathered (grouped 1 (memw 0x12 0 8 4 0 4) id) (fun x u => decide (x.lanes = [0]) && within x x.fall && !wRelease x.word &&
      decide (wClass x.word = 0x12) && x.memOk (4 * atomWords .cas false) && leads u x .atomic 4 0x80004 &&
      Clean (drainLine (laneTargets u x .atomic 4).2 x.g.core (0x80004 / 128)) 0x80004 4) = true := by decide +kernel

theorem witness_LocalMemoryAndFences :
    gathered (grouped 1 (memw 0x11 0 8 5 0 1008) id) (fun x u => decide (x.lanes = [0]) && within x x.fall && !wRelease x.word &&
      decide (wClass x.word = 0x11) && decide (localFaults x 16 = none) && x.localOk 16 &&
      !touchesD u x.g (x.localAddr 0).toNat 16) = true ∧
    gathered (grouped 1 (memw 0x13 0 0 0 2 0) id) (fun x _ => decide (wClass x.word = 0x13) && decide (wScope x.word < 3) &&
      within x x.fall) = true ∧
    gathered (grouped 1 (memw 0x13 0 0 0 5 0) id) (fun x _ => decide (wClass x.word = 0x13) && decide (wScope x.word = 5) &&
      decide (x.lanes ≠ []) && within x x.fall) = true := by
  decide +kernel

theorem witness_WaitsOfThreads :
    gathered (grouped 2 (alu 6 0 15 4 6 0 0) id) (fun x _ => decide (wClass x.word = 6) && laneKnown (.shuffle .idx) &&
      x.regsOk (laneRegs (.shuffle .idx) x) && within x (x.fallBut x.lanes)) = true ∧
    gathered (grouped 2 (memw 0x19 1 0 0 0 0) id) (fun x u => decide (wClass x.word = 0x19) && within x x.fall &&
      decide (wOp x.word = 1) && ((moved u x x.g x.fall).group x.gk).isSome) = true ∧
    gathered (grouped 2 (memw 0x19 0 0 0 0 0) id) (fun x _ => decide (wClass x.word = 0x19) && within x x.fall &&
      decide (wOp x.word = 0)) = true ∧
    gathered (grouped 2 (memw 0x1A 0 0 4 0 0) id) (fun x _ => decide (wClass x.word = 0x1A) && x.regsOk [wSa x.word] &&
      within x (x.fallBut x.lanes)) = true ∧
    gathered (grouped 2 (memw 0x1A 1 128 0 0 0) id) (fun x _ => decide (wClass x.word = 0x1A) && within x x.fall &&
      decide (x.g.tokens &&& (wDst x.word % 256) = 0)) = true ∧
    gathered (grouped 2 (memw 0x1A 1 128 0 0 0) (fun g => { g with tokens := 128 })) (fun x _ => decide (wClass x.word = 0x1A) &&
      within x (x.fallBut x.lanes) && decide (x.g.tokens &&& (wDst x.word % 256) ≠ 0)) = true := by decide +kernel

/-- An asynchronous operation of group 0 on core 0, whose token 7 is pending. -/
def matrixWork : State :=
  (grouped 1 0 (fun g => { g with tokens := 128 })).setCore 0
    { ammas := [{ group := gKey 2 0 0, token := 7, words := List.replicate 8 0, base := 0, len := 1024 }] }

theorem witness_ammaComplete : (matrixWork.core (coreKey ⟨0, 0⟩)).ammas =
      [{ group := gKey 2 0 0, token := 7, words := List.replicate 8 0, base := 0, len := 1024 }] ∧
    ((ammaRun matrixWork (coreKey ⟨0, 0⟩) { group := gKey 2 0 0, token := 7, words := List.replicate 8 0, base := 0, len := 1024 }).group
      (gKey 2 0 0)).isSome = true := by decide +kernel

/-! ### Witnesses: render passes -/

/-- A pass of 32 by 32 pixels with one 8-bit attachment at 0x500000, and its one draw of one triangle with the shader at 0x200000. -/
def passWords : List W64 :=
  [BitVec.ofNat 64 (31 * 2 ^ 50 + 31 * 2 ^ 36 + 1 * 2 ^ 31 + 1 * 2 ^ 19), BitVec.ofNat 64 (0x410000 * 2 ^ 16),
   BitVec.ofNat 64 (0x420000 * 2 ^ 16), 0, 0, 0, 0, 0, BitVec.ofNat 64 (0x500000 * 2 ^ 16 + 2 * 2 ^ 10 + 2 ^ 8), 0,
   BitVec.ofNat 64 (64 * 2 ^ 40), 0] ++ List.replicate 12 0
def drawWords : List W64 :=
  [BitVec.ofNat 64 (0x200000 * 2 ^ 16), 0, BitVec.ofNat 64 (0x430000 * 2 ^ 16), 0, BitVec.ofNat 64 (3 * 2 ^ 32),
   BitVec.ofNat 64 (1 * 2 ^ 32), 0x00200020, 0, 0x4180000041800000, 0x4180000041800000, 0x3F80000000000000] ++ List.replicate 5 0
def heapWords : List W64 := [BitVec.ofNat 64 (0x10000000 * 2 ^ 16), 0x1000000, BitVec.ofNat 64 (0x20000000 * 2 ^ 16), 0x1000000, 1]

/-- The RENDER command of that pass. -/
def rendering : State :=
  ((((starts 3 0x400000 0 (.raster 0)).setWords 0x200000 program).setWords 0x400000 passWords).setWords 0x410000 drawWords).setWords
    0x420000 (heapWords.take 4)

/-- Its reads. -/
def rd0 : State := beginCmd (reading rendering) 2 (some (((rendering.ctx 1).shaderMs) * 1000000))
def rd1 := ctxReadObj rd0 (some (.raster 0)) h1 .load 0x400000 192
def rd2 := heapBusy rd1.2 (some (.raster 0)) h1 0x420000 true
def rd3 := ctxReadObj rd2.2 (some (.raster 0)) h1 .load 0x420000 64
def rd4 := ctxReadObj rd3.2 (some (.raster 0)) h1 .load 0x410000 128
def rd5 := drawProgs rd4.2 (some (.raster 0)) h1 [drawWords]
def rdDraws : List Draw :=
  match rd5.1 with
  | .ok (ds, _) => ds
  | .error _ => []

theorem witness_RenderBegins_command : starting rendering 2 3 = true ∧ (rendering.queue (2 : Fin 16384)).stopReq = none ∧
    (rendering.queue (2 : Fin 16384)).on = some (.raster (0 : Fin 4)) ∧ replayWords rendering 2 = none ∧
    (rendering.queue (2 : Fin 16384)).owner = h1 ∧ (rendering.queue (2 : Fin 16384)).units ≠ [] ∧
    pHeap passWords = 0x420000 ∧ pDraws passWords = 0x410000 ∧ pNdraw passWords = 1 := by decide +kernel

theorem witness_RenderBegins_reads : fine rd1 = true ∧ words64 24 (got rd1) = passWords ∧
    (match rd2.1 with
     | .ok b => !b
     | .error _ => false) = true ∧
    fine rd3 = true ∧ words64 8 (got rd3) = heapWords ++ [0, 0, 0] ∧ fine rd4 = true ∧
    (tabulate 1 (fun i => words64 16 ((got rd4).drop (128 * i)))) = [drawWords] ∧ passReserved passWords [drawWords] = false ∧
    (∀ n ∈ atts passWords, aFormat passWords n ≤ 8) ∧ passInvalid passWords [drawWords] (heapWords ++ [0, 0, 0]) = false ∧
    pReplaySafe passWords = false := by decide +kernel

theorem witness_RenderBegins_draws : rdDraws.map (·.words) = [drawWords] ∧ rd5.2.farLack = false := by decide +kernel

/-- A pass under way, with what `f` makes of it, and one of its tiles at a state. -/
def passing (f : Pass → Pass) : State :=
  let s := rendering.setQueue 2 { rendering.queue 2 with begun := true }
  s.setPass 0 (some (f
    { q := 2, words := passWords, heapVa := 0x420000, heapBase := 0x10000000, heapSize := 0x1000000, spillBase := 0x20000000
      draws := [{ words := drawWords, vs := { code := 0x200040, codeBytes := 64, regs := 16 }, fs := none }] }))
def passTile (t : Tile) : State := passing (fun p => p.setTile 0 t)

/-- Three vertices of a triangle that covers pixels of the tile: x, y, z, w. -/
def corner (x y : W32) : List W32 := [x, y, 0, 0x3F800000]
def shadedVerts : SMap (List W32) :=
  [(0, corner 0xBF800000 0xBF800000), (1, corner 0x3F800000 0xBF800000), (2, corner 0xBF800000 0x3F800000)]

theorem witness_tilerWrite :
    ((passing (fun p => { p with verts := shadedVerts, vert := 3 })).pass (0 : Fin 4)).any (fun p =>
      binning (passing (fun p => { p with verts := shadedVerts, vert := 3 })) p && (nextTri p).any (fun dv =>
        heapFits (binTri p dv.1 dv.2).1)) = true ∧
    ((passing (fun p => { p with verts := shadedVerts, vert := 3, heapSize := 0, records := 1 })).pass (0 : Fin 4)).any (fun p =>
      binning (passing (fun p => { p with verts := shadedVerts, vert := 3, heapSize := 0 })) p && (nextTri p).any (fun dv =>
        !heapFits (binTri p dv.1 dv.2).1)) = true := by decide +kernel

theorem witness_binningEnd : ((passing (fun p => { p with draw := 1 })).pass (0 : Fin 4)).any (fun p =>
      binning (passing (fun p => { p with draw := 1 })) p && p.current.isNone && !p.vgroup) = true ∧
    ((passing (fun p => { p with partialOn := true })).pass (0 : Fin 4)).any (fun p =>
      issuing (passing (fun p => { p with partialOn := true })) p.q && p.partialOn && p.tiles.isEmpty) = true := by decide +kernel

theorem witness_tileBufferGrant : ((passTile { st := .waitMem }).pass (0 : Fin 4)).any (fun p =>
    waitingTile p == some 0 && coreTakes (passTile { st := .waitMem }) ((passTile { st := .waitMem }).queue p.q) 0 (15 : Fin 16) &&
      decide (tilesOn (passTile { st := .waitMem }) 15 < 2) &&
      localFree (passTile { st := .waitMem }) 15 (1024 * (255 : Fin 257).val) (pFoot p.words) false &&
      issuing (passTile { st := .waitMem }) p.q) = true := by decide +kernel

theorem witness_tileWay :
    ((passTile { st := .loading, core := 15 }).pass (0 : Fin 4)).any (fun p => (p.tile 0).st == .loading) = true ∧
    ((passTile { st := .shading, core := 15 }).pass (0 : Fin 4)).any (fun p => (p.tile 0).st == .shading && (p.tile 0).shaded &&
      issuing (passTile { st := .shading, core := 15 }) p.q && !p.partialOn) = true ∧
    ((passTile { st := .spilling, core := 15 }).pass (0 : Fin 4)).any (fun p => (p.tile 0).st == .spilling) = true ∧
    ((passTile { st := .storing, core := 15 }).pass (0 : Fin 4)).any (fun p => (p.tile 0).st == .storing) = true := by decide +kernel

/-- Group 0 of the pass, at a word of the TILE class. -/
def staged (fragment : Bool) (word : Nat) : State :=
  grouped 1 word (fun g => { g with gfx := some { fe := 0, fragment := fragment, nattr := 2, ncolor := 1
                                                  verts := [(5, 6)], frags := [{ x := 0, y := 0, mask := 1, tri := 0 }] } })

theorem witness_TileInstructions :
    gathered (staged false (memw 0x15 0 15 0 0 1)) (fun x _ => decide (wClass x.word = 0x15) && within x x.fall &&
      decide (wOp x.word = 0) && decide (wVec x.word < 2) && x.regsOk [wDst x.word] && x.g.gfx.any (fun y => !y.fragment)) = true ∧
    gathered (staged false (memw 0x15 1 12 0 0 2)) (fun x _ => decide (wOp x.word = 1) && within x x.fall &&
      x.regsOk [wDst x.word, wDst x.word + 1, wDst x.word + 2, wDst x.word + 3] &&
      x.g.gfx.any (fun y => !y.fragment && decide (wVec x.word ≤ y.nattr))) = true ∧
    gathered (staged true (memw 0x15 2 12 0 0 1)) (fun x _ => decide (wOp x.word = 2) && within x x.fall &&
      x.regsOk [wDst x.word, wDst x.word + 1, wDst x.word + 2, wDst x.word + 3] &&
      x.g.gfx.any (fun y => y.fragment && decide (wVec x.word < y.nattr))) = true ∧
    gathered (staged true (memw 0x15 6 12 0 0 0)) (fun x _ => decide (wOp x.word = 6) && within x x.fall && decide (x.lanes = [0]) &&
      x.regsOk [wDst x.word, wDst x.word + 1, wDst x.word + 2, wDst x.word + 3] &&
      x.g.gfx.any (fun y => y.fragment && decide (wVec x.word < y.ncolor))) = true ∧
    gathered (staged true (memw 0x15 4 15 0 0 0)) (fun x _ => decide (wOp x.word = 4) && within x x.fall && x.regsOk [wDst x.word] &&
      x.g.gfx.any (fun y => y.fragment)) = true := by decide +kernel

/-- A SAMPLE of an image with 1 by 1 texel: its descriptor at 0x80000. -/
def sampling : State := ((grouped 1 (memw 0x14 0 8 4 0 0) id).setWords 0x80000 [0, 0, 0, 0, 0, 0, 0, 0])

theorem witness_sample : (issueOf (reading sampling) ref0).any (fun xu => decide (wClass xu.1.word = 0x14) && decide (wOp xu.1.word ≤ 1) &&
    decide (wSa xu.1.word % 2 = 0) && decide (xu.1.lanes = [0]) && within xu.1 xu.1.fall &&
    xu.1.regsOk [wSa xu.1.word, wSa xu.1.word + 1, wDst xu.1.word, wDst xu.1.word + 1, wDst xu.1.word + 2, wDst xu.1.word + 3] &&
    (match (sampleLane xu.2 xu.1 0).1 with
     | .ok vs => decide (vs.length = 4)
     | .error _ => false) && !(sampleLane xu.2 xu.1 0).2.farLack) = true := by decide +kernel

/-! ### Witnesses: the composer and the displays -/

/-- Pipe 3 with the smallest timing and a life-cycle state. -/
def pipeAt (st : Nat) (f : State → State) : State :=
  let s := (ctxOne.wr Reg.lyrTimingH 3 0x027F000100010001).wr Reg.lyrTimingV 3 0x01DF000100010001
  f (((s.setFld F.lyrPclkKhz 3 25000).setFld F.pwrDomainPermitPermit 0 0x3FFFFFF).setFld F.lyrPipeStatusState 3 st)

theorem witness_PipeControl : ServesUnit (pipeAt lcOff id) Reg.lyrPipeCtrl (.pipe 3) ∧
    (pipeAt lcOff id).fld F.lyrPipeStatusState 3 = lcOff ∧ timingHOk ((pipeAt lcOff id).rd Reg.lyrTimingH 3) = true ∧
    timingVOk ((pipeAt lcOff id).rd Reg.lyrTimingV 3) = true ∧ pclkOk ((pipeAt lcOff id).fld F.lyrPclkKhz 3) = true ∧
    (pipeAt lcOff id).domPermitted domComposer = true ∧ (pipeAt lcOn id).fld F.lyrPipeStatusState 3 = lcOn := by
  unfold ServesUnit Serves; decide +kernel

theorem witness_frameBoundary : (pipeAt lcStarting id).domOn domComposer = true ∧ ((pipeAt lcStarting id).pipe 3).resetting = false ∧
    ((pipeAt lcStarting id).pipe 3).began = none ∧ ((pipeAt lcStarting id).pipe 3).applied = [] ∧
    ((pipeAt lcStarting id).pipe 3).held = [] ∧ (pipeAt lcStarting id).fld F.lyrPipeStatusState 3 = lcStarting ∧
    (pipeAt lcStopping id).fld F.lyrPipeStatusState 3 = lcStopping := by decide +kernel

/-- A PRESENT of one layer on pipe 3: 1 by 1 pixels of format 4 at 0x600000. -/
def presenting (st : Nat) : State :=
  let s := starts 4 0x500000 0 (.frontEnd 0)
  let s := { (pipeAt st id) with queues := s.queues }
  let s := s.setWords 0x500000 [0x80000003, 0x6000004200, 0x400000000000, 0, 0]
  (s.wr Reg.lyrLayerOwner 31 0x100001001).latch Reg.lyrLayerOwner 31

def pr1 (s : State) := ctxReadObj (reading s) none h1 .load 0x500000 8
def pr2 (s : State) := ctxReadObj (setOn (pr1 s).2 2 (.pipe 3)) (some (.pipe 3)) h1 .load 0x500008 32

theorem witness_present : ((presenting lcOn).queue (2 : Fin 16384)).phase = .running ∧ ((presenting lcOn).queue 2).kind = 4 ∧
    ((presenting lcOn).queue 2).stopReq = none ∧ ((presenting lcOn).queue 2).begun = false ∧ fine (pr1 (presenting lcOn)) = true ∧
    wordsOf (got (pr1 (presenting lcOn))) = [0x80000003] ∧ fine (pr2 (presenting lcOn)) = true ∧
    (pr2 (presenting lcOn)).2.farLack = false ∧ (retarget (pr1 (presenting lcOn)).2 2 (.pipe 3)).isNone = true ∧
    (retarget (pr1 (presenting lcStarting)).2 2 (.pipe 3)).isNone = true ∧
    presentRefused (pr2 (presenting lcOn)).2 3 h1 0x80000003 (presentLayers 0x80 (wordsOf (got (pr2 (presenting lcOn))))) = none ∧
    (pr2 (presenting lcOn)).2.fld F.lyrPipeStatusState 3 = lcOn ∧ bitsOf (0x80000003 : W64) 63 32 = 0 ∧
    presentRefused (pr2 (presenting lcStarting)).2 3 h1 0x80000003
      (presentLayers 0x80 (wordsOf (got (pr2 (presenting lcStarting))))) = none ∧
    (pr2 (presenting lcStarting)).2.fld F.lyrPipeStatusState 3 = lcStarting := by decide +kernel

/-- Pipe 3 with a frame in progress, layer 7 shown, and the record of a written slot due. -/
def showing : State :=
  pipeAt lcOn (fun s => s.setPipe 3 { s.pipe 3 with
    began := some 0
    layers := [(7, some (h1, [0x6000004200, 0x400000000000, 0, 0]))]
    recs := [{ owner := h1, recordAt := 0x610000, fence := 0x620000, slot := 0, seq := 5, time := 0, under := false, shown := true
               mismatch := 0, base := 0x630000, pitch := 64, width := 1, lines := 1 }] })

theorem witness_PipeFetches : (showing.pipe 3).began.isSome = true ∧ 0 < (1 : W16).toNat ∧
    (639 : W16).toNat + (1 : W16).toNat ≤ hActive showing 3 ∧ (479 : W16).toNat < vActive showing 3 ∧
    SMap.get none (showing.pipe 3).layers 7 = some (h1, [0x6000004200, 0x400000000000, 0, 0]) ∧ showing.staleCtx h1 = false := by
  decide +kernel

theorem witness_frameRecord : ((showing.pipe 3).recs.head?).any (fun r =>
    let u := ctxStore (showing.setPipe 3 { showing.pipe 3 with recs := [] }) (some (.pipe 3)) r.owner r.recordAt (frameRecordBytes r)
      (.frame 3 r.seq)
    !frameOpen showing 3 r.seq && !r.recorded && decide (u.1 = none) && !frameOpen u.2 3 r.seq &&
      decide ((unitSignal u.2 (some (.pipe 3)) r.owner r.fence r.seq).1 = none)) = true := by decide +kernel

theorem witness_ComposerRegisters : ServesUnit (pipeAt lcOff id) Reg.lyrCommit (.pipe 3) ∧
    ServesUnit (pipeAt lcOff id) Reg.lyrSigRect (.pipe 3) ∧ (pipeAt lcOff id).fld F.lyrSigCtrlLock 3 = 0 ∧
    rectInside (pipeAt lcOff id) 3 0x027F01DF00000000 = true ∧
    (pipeAt lcOff (fun s => s.setFld F.lyrSigCtrlLock 3 1)).fld F.lyrSigCtrlLock 3 = 1 ∧
    timingHOk (0x1DFF000100010001 : W64) = true ∧ pclkOk (bitsOf (2400000 : W64) 31 0) = true ∧
    (pipeAt lcOn id).fld F.lyrPipeStatusState 3 ≠ lcOff ∧ ServesUnit (pipeAt lcOff id) Reg.lyrWbCtrl (.pipe 3) ∧
    bitsOf (0x92 : W32) 7 4 ∈ [2, 4, 5, 9] ∧ bitsOf (0x92 : W32) 3 1 ≠ 0 := by unfold ServesUnit Serves; decide +kernel

/-- Transmitter 1 enabled, with its status fields and what it keeps. -/
def linkAt (trained : Nat) (x : DpTx) : State :=
  pipeAt lcOff (fun s => (((s.setFld F.dpxLinkCtrlEn 1 1).setFld F.dpxLinkStatusHpd 1 1).setFld F.dpxLinkStatusTrained 1 trained).setDpTx 1 x)

theorem witness_DisplayLinks : (linkAt 0 {}).power.on = true ∧ (linkAt 0 {}).fld F.dpxLinkCtrlEn 1 = 1 ∧
    ((linkAt 0 { training := true }).dpTx 1).training = true ∧ (linkAt 0 {}).domOn domComposer = true ∧
    (linkAt 0 {}).fld F.pwrDomainStatusPadsHeld domComposer = 0 ∧ (0 : Fin 7).val ≤ (linkAt 0 {}).fld F.dpxLinkCtrlMaxRate 1 ∧
    (0 : Fin 3).val ≤ (linkAt 0 {}).fld F.dpxLinkCtrlMaxLanes 1 ∧
    ((linkAt 0 { failedAt := some 0 }).setFld F.timNowNsNs 0 1000000000).now = 1000000000 ∧
    ((linkAt 0 { failedAt := some 0 }).dpTx 1).failedAt = some 0 ∧ (linkAt 0 {}).fld F.dpxLinkStatusHpd 1 = 1 ∧
    (linkAt 1 {}).fld F.dpxLinkStatusTrained 1 = 1 ∧ Serves (linkAt 0 {}) Reg.dpxLinkCtrl ∧ bitsOf (0x6801 : W32) 15 12 < 7 ∧
    bitsOf (0x6801 : W32) 11 10 ≠ 3 ∧ natBit (0x6801 : W32).toNat 0 = true ∧ Serves (linkAt 0 {}) Reg.dpxStream ∧
    (linkAt 0 {}).fld F.lyrPipeStatusState 3 = lcOff ∧
    (bitsOf (0x13000000 : W64) 28 28 = 1 → 128 ≤ bitsOf (0x13000000 : W64) 25 17 ∧ bitsOf (0x13000000 : W64) 25 17 ≤ 384) ∧
    (bitsOf (0x13020000 : W64) 28 28 = 1 ∧ 384 < bitsOf (0x13020000 : W64) 25 17) ∧
    (bitsOf (0x10FE0000 : W64) 28 28 = 1 ∧ bitsOf (0x10FE0000 : W64) 25 17 < 128) := by unfold Serves; decide +kernel

/-- A record waits while a store of its slot is unanswered (R412). -/
theorem witness_frameWaits : ((showing.pipe 3).recs.head?).any (fun r =>
    frameOpen { showing with txWait := [({ typ := 0x80, dst := 1, src := 0, epoch := 0 }, .frame 3 r.seq)] } 3 r.seq) = true := by
  decide +kernel

/-! ### Witnesses: memory and translation -/

/-- No context; the map staged gives every court a share, or, with `bad`, leaves a range without courts. -/
def mapped (bad : Bool) : State :=
  (List.range 32).foldl (fun s i => s.stage Reg.memSdRange i
    (if i = 0 then (if bad then 0x8000000100000000 else 0xFFFF800100000000) else 0)) live

theorem witness_StackedMap : Serves (mapped false) Reg.memSdCommit ∧ natBit (1 : W32).toNat 0 = true ∧
    (mapped false).fld F.memSdCommitGo = 0 ∧ liveCtxs (mapped false) = [] ∧ (mapped false).whistle.active = false ∧
    bitsOf (0xFFFF800100000000 : W64) 32 24 = 256 := by unfold Serves; decide +kernel

theorem witness_mapValid : mapValid (tabulate 32 (fun i => (mapped false).rdStaged Reg.memSdRange i)) = true ∧
    mapValid (tabulate 32 (fun i => (mapped true).rdStaged Reg.memSdRange i)) = false := by decide +kernel

/-- Zeroing under way, with a byte at each end of the stacked DRAM and one on each side. -/
def zeroes : State :=
  { live with zeroing := true, mem := [(0x3FFFFFFFFF, 1), (0x4000000000, 2), (0x47FFFFFFFF, 3), (0x4800000000, 4)], ue := [0x80000000] }

theorem witness_sdZeroingEnd : zeroes.zeroing = true ∧ SMap.wf 0 zeroes.mem = true := by decide +kernel

theorem witness_MemoryServices : ctxOne.staleCtx h1 = false ∧ ctxOne.tlb = [] ∧ (0xFFFFFFFFFFFF : W64).toNat < 2 ^ 48 ∧
    (live.fld F.memPatrolCfgHours ≠ 0 ∧ live.domOn domLpddr = true ∧ live.domOn domStacked = true ∧ live.ce = [] ∧ live.ue = []) ∧
    Serves live Reg.memScRetire ∧ Serves live Reg.memQosCfg ∧
    (∀ k ∈ List.range 4, natBits (0x01010101 : W32).toNat (8 * k + 7) (8 * k) ≠ 0) ∧
    natBits (0x00FFFFFF : W32).toNat (8 * 3 + 7) (8 * 3) = 0 := by unfold Serves; decide +kernel

/-- A line whose array loses the last byte of its data and of its check code, and one that loses two bytes more. -/
def struck (n : Nat) : State :=
  upset (live.setFld F.memCfgInlineEcc 0 1) (.cells 0 ([(0, 1), (135, 2), (127, 3), (128, 4)].take n))

theorem witness_upset : (live.setFld F.memCfgInlineEcc 0 1).exists? 0 = true ∧ (live.setFld F.memCfgInlineEcc 0 1).flawed 0 = false ∧
    (struck 3).ce = [0] ∧ (struck 3).ue = [] ∧ (struck 4).ue = [0] ∧ (memLoad (struck 3) 0 1).1 = some [0] ∧
    (memLoad (struck 4) 0 1).1 = none := by decide +kernel

/-- The address at the end of the stacked DRAM, and one at address 0, offered for repair. -/
def repairing : State := { live.setFld F.memCfgInlineEcc 0 1 with repairs := [0x47FFFFFFFF, 0] }

theorem witness_rowRemap : repairing.exists? 0x47FFFFFFFF = true ∧ isSd 0x47FFFFFFFF = true ∧ repairing.exists? 0 = true ∧
    isSd 0 = false ∧ repairing.eccOn = true ∧ repairing.rowMaps = [] := by decide +kernel

theorem witness_rowFailing : rowFailing repairing 0x47FFFFFFFF = true ∧ rowFailing repairing 0 = true := by
  simp [rowFailing, repairing, sameRow]

/-- A translation command of queue 2, with its record at 0x700000 and a cached translation of its context. -/
def retranslating (op : Nat) : State :=
  let s := (starts 5 0x700000 0 (.frontEnd 0)).setWords 0x700000 [BitVec.ofNat 64 (op * 2 ^ 56), 0xFFFFFFFFF000, 1, 0]
  (xlate s (some (.court 0)) h1 .load 0x700000).2

def xr (op : Nat) := ctxReadObj (reading (retranslating op)) none h1 .load 0x700000 32

theorem witness_TranslationCommands : ∀ op ∈ [1, 2, 3], translating (retranslating op) 2 = true ∧
    ((retranslating op).queue (2 : Fin 16384)).begun = false ∧ ((retranslating op).queue 2).stopReq = none ∧
    fine (xr op) = true ∧ (xr op).2.farLack = false ∧ ctxOutstanding (xr op).2 h1 = false ∧
    xlateRecord (wordsOf (got (xr op))) = some (op, if op = 1 then 0xFFFFFFFFF000 else 0, if op = 1 then 4096 else 0) := by
  decide +kernel

/-! ### Witnesses: Ethernet -/

/-- Port 7 ON with its link up, and queue pair 5 on it in RTS with a role and what `f` makes of it. -/
def onPort (f : State → State) : State :=
  f (((ctxOne.setFld F.pwrDomainPermitPermit 0 0x3FFFFFF).setFld F.ethPortStatusState 7 lcOn).setFld F.ethPortStatusLinkUp 7 1)
def paired (role : Nat) (reqs : List QpReq) : State :=
  onPort (fun s => s.setQp 5 { state := .rts, role := role, port := 7, mtu := 2, retry := 7, timeout := 1, remoteQpn := 9, reqs := reqs
                               spsn := 0xFFFFFF, rpsn := 0xFFFFFF })

/-- A key of that pair whose window is 0x1000 bytes at 0x900000. -/
def keyed : State :=
  (paired 1 []).setKey 3 { loaded := true, device := true, write := true, read := true, atomic := true, qp := 5, rkey := 0x7003
                           base := 0x900000, length := 0x1000 }

theorem witness_HostRequests : TakesRequest keyed 5 (0xFFFFFF : BitVec 24).toNat ∧
    (keyFor keyed 5 0x7003 .write ((0x900FFF : W64).toNat - 0x900000) 1).any (fun k => decide (k.base = 0x900000 ∧ k.owner = 0)) = true ∧
    keyed.exists? 0x900FFF = true ∧ Clean keyed 0x900FFF 1 = true ∧
    (keyFor keyed 5 0x7003 .read ((0x900FFE : W64).toNat - 0x900000) (2 : W32).toNat).isSome = true ∧
    Clean keyed 0x900FFE 2 = true ∧
    (keyFor keyed 5 0x7003 .atomic ((0x900FF8 : W64).toNat - 0x900000) 8).isSome = true ∧ (0x900FF8 : W64).toNat % 8 = 0 ∧
    Clean keyed 0x900FF8 8 = true ∧ keyFor keyed 5 0x7003 .write ((0x900FFF : W64).toNat - 0x900000) 2 = none ∧
    keyFor keyed 5 0x6003 .write ((0x900FFF : W64).toNat - 0x900000) 1 = none := by unfold TakesRequest; decide +kernel

/-- A request for the register at 0x7F00000000. -/
def reqBytes : List Byte := leBytes 8 (2 ^ 32 * 6) ++ leBytes 8 0x7F00000000 ++ leBytes 8 0 ++ leBytes 8 0

theorem witness_send : TakesRequest (paired 1 []) 5 (0xFFFFFF : BitVec 24).toNat ∧ ((paired 1 []).qp 5).role = 1 ∧
    (paired 1 []).jobs = [] ∧ reqBytes.length = 32 ∧
    (request { ackRequest (received (paired 1 []) 5 false) 5 0xFFFFFF (packets (paired 1 []) 5 32) with
      jobs := [{ qp := 5, todo := reqBytes }] } reqBytes).1.wait = none ∧
    TakesRequest (paired 2 []) 5 (0xFFFFFF : BitVec 24).toNat ∧ ((paired 2 []).qp 5).role = 2 ∧
    TakesRequest (paired 0 []) 5 (0xFFFFFF : BitVec 24).toNat ∧ ((paired 0 []).qp 5).role ≠ 1 ∧ ((paired 0 []).qp 5).role ≠ 2 := by
  unfold TakesRequest; decide +kernel

/-- An unacknowledged request with sequence number 0 and `n` retries left. -/
def unacked (n : Nat) : QpReq := { psn := 0, body := .send 5 0 [1], purpose := .none, retries := n, rnrRetries := 0 }

theorem witness_acks : (paired 0 [unacked 1]).keys = [] ∧ (∀ r ∈ ((paired 0 [unacked 1]).qp 5).reqs, r.purpose = .none) ∧
    ((paired 0 [unacked 1]).qp 5).state = .rts ∧ ((paired 0 [unacked 1]).qp 5).reqs = [unacked 1] ∧ (unacked 1).retries ≠ 0 ∧
    (unacked 0).retries = 0 ∧ (∀ x ∈ ((paired 0 [unacked 1]).qp 5).reqs, x.psn = (0 : BitVec 24).toNat ∨
      psnLe x.psn (0 : BitVec 24).toNat = false) := by decide +kernel

/-- Tables at 0xA00000, 0xB00000 and 0xC00000, with the records of queue pair 1023, key 4095 and stream 63 on port 7. -/
def tables : State :=
  onPort (fun s =>
    let s := ((s.setFld F.ethQpTableBaseAddr 0 0xA0).setFld F.ethKeyTableBaseAddr 0 0xB0).setFld F.ethStreamTableBaseAddr 0 0xC0
    let s := s.setWords 0xA0FFC0 [BitVec.ofNat 64 (7 * 2 ^ 57 + 2 ^ 32 + 9), 0, 0, 0, BitVec.ofNat 64 (0x1001 * 2 ^ 32 + 7), 0, 0, 0]
    let s := s.setWords 0xB1FFE0 [BitVec.ofNat 64 (2 ^ 61 + 5 * 2 ^ 48 + 0x1001), 0, 0x900000, 0x1000]
    s.setWords 0xC00FC0 [BitVec.ofNat 64 (7 * 2 ^ 59 + 2 ^ 40), 77, BitVec.ofNat 64 (0xD00000 * 2 ^ 16),
      BitVec.ofNat 64 (0x1001 * 2 ^ 32 + 64), BitVec.ofNat 64 (0xD10000 * 2 ^ 16), BitVec.ofNat 64 (0xD20000 * 2 ^ 16),
      BitVec.ofNat 64 (0xD30000 * 2 ^ 16), 0])
def withTables (f : State → State) : State := f tables

/-- The words of a record. -/
def rec' (s : State) (a n : Nat) : Option (List W64) :=
  match (readRecord s a n).1 with
  | .ok w => some w
  | .error _ => none

theorem witness_EthernetOperations_records : Serves tables Reg.ethOp ∧ (1023 : W32).toNat ≤ 1023 ∧ (tables.qp 1023).state = .reset ∧
    (rec' tables (tables.fld F.ethQpTableBaseAddr * 65536 + 64 * 1023) 8).any (fun w =>
      qpWordsOk (readRecord tables (tables.fld F.ethQpTableBaseAddr * 65536 + 64 * 1023) 8).2 w) = true ∧
    (rec' tables (tables.fld F.ethKeyTableBaseAddr * 65536 + 32 * 4095) 4).any (fun w =>
      keyWordsOk (readRecord tables (tables.fld F.ethKeyTableBaseAddr * 65536 + 32 * 4095) 4).2 4095 w) = true ∧
    (tables.stream 63).running = false ∧
    (rec' tables (tables.fld F.ethStreamTableBaseAddr * 65536 + 64 * 63) 8).any (fun w =>
      decide (streamCheck (readRecord tables (tables.fld F.ethStreamTableBaseAddr * 65536 + 64 * 63) 8).2 w = stOk)) = true ∧
    tables.qps = [] ∧ tables.streams = [] ∧ Serves tables Reg.ethQpTableBase := by unfold Serves; decide +kernel

/-- Pair 1023 in a state, key 4095 loaded, stream 63 running between two slots. -/
def established (st : QpState) : State :=
  withTables (fun s => ((s.setQp 1023 { state := st, port := 7 }).setKey 4095 { loaded := true, qp := 5 }).setStream 63 { running := true, port := 7 })

theorem witness_EthernetOperations_stops : ((established .rts).qp 1023).state ≠ .reset ∧ ((established .rts).qp 1023).state = .rts ∧
    ((established .error).qp 1023).state = .error ∧ ((established .rts).key 4095).loaded = true ∧
    keyBusy (established .rts) ((established .rts).key 4095) = false ∧ ((established .rts).stream 63).running = true ∧
    ((established .rts).stream 63).done = 0 ∧ ((established .rts).stream 63).discard = false ∧
    ((established .rts).stream 63).frames = [] ∧ ((established .rts).stream 63).unsignalled = [] := by decide +kernel

/-- Port 7 at a life-cycle state. -/
def portAt (st : Nat) (f : State → State) : State := onPort (fun s => f (s.setFld F.ethPortStatusState 7 st))
/-- A frame that waits on port 7. -/
def gptpFrame : Frame := { cls := 2, pcp := 7, vid := 0, body := .pdelay }

theorem witness_EthernetPorts : Serves (portAt lcOff id) Reg.ethPortCtrl ∧ (portAt lcOff id).fld F.ethPortStatusState 7 = lcOff ∧
    (portAt lcOff id).domPermitted (ethDomain 7) = true ∧
    (portAt lcOff (fun s => s.setFld F.pwrDomainPermitPermit 0 0)).domPermitted (ethDomain 7) = false ∧
    Serves (portAt lcOff id) Reg.ethPortMac ∧ (portAt lcOn id).fld F.ethPortStatusState 7 = lcOn ∧
    (portAt lcOn id).streams = [] ∧ (portAt lcOn id).qps = [] ∧
    ((portAt lcOn (fun s => s.setQp 5 { state := .rts, port := 7 })).qps = [(5, { state := .rts, port := (7 : Fin 8).val })]) ∧
    (portAt lcStarting id).domOn (ethDomain 7) = true ∧ (portAt lcStarting id).fld F.ethPortStatusState 7 = lcStarting ∧
    (portAt lcStopping id).fld F.ethPortStatusState 7 = lcStopping ∧
    (portAt lcOn (fun s => s.setFld F.ethPortCtrlSleepOk 7 1)).fld F.ethPortCtrlSleepOk 7 = 1 ∧
    (portAt lcOn id).fld F.ethPortStatusLinkUp 7 = 1 ∧
    ((portAt lcOn (fun s => (s.setFld F.timCfgSlavePort 0 7).setFld F.timStatusState 0 tmLocked)).timeState = tmLocked ∧
      (portAt lcOn (fun s => s.setFld F.timCfgSlavePort 0 7)).fld F.timCfgSlavePort = (7 : Fin 8).val) := by
  unfold Serves; decide +kernel

theorem witness_sleepAndFrames :
    ((portAt lcOn (fun s => s.setFld F.ethPortStatusAsleep 7 1)).power.on = true ∧
      (portAt lcOn (fun s => s.setFld F.ethPortStatusAsleep 7 1)).fld F.ethPortStatusAsleep 7 = 1 ∧
      (portAt lcOn id).powerState = pwActive ∧ (portAt lcOn id).power.huddle = none ∧ (portAt lcOn id).power.entering = none) ∧
    (let s := portAt lcOn (fun s => ((s.setFld F.ethEgressLimitMbps 7 1).setFld F.ethEgressClasses 7 7).setEthPort 7 { egress := [gptpFrame], tokens := 1000 })
     nextFrame (s.ethPort 7).egress = some gptpFrame ∧ natBit (s.fld F.ethEgressClasses 7) 2 = true ∧
       s.fld F.ethEgressLimitMbps 7 ≠ 0 ∧ s.fld F.ethEgressLimitMbps 7 * 1000 ≤ (s.ethPort 7).tokens ∧
       s.fld F.ethPortStatusMacsec 7 = 0 ∧ s.fld F.ethPortStatusAsleep 7 = 0 ∧ s.fld F.ethPortStatusLinkUp 7 = 1) := by decide +kernel

/-- The slave port is 7, in a time state with what `x` says. -/
def timed (st : Nat) (x : TimeSt) : State :=
  portAt lcOn (fun s => { ((s.setFld F.timCfgSlavePort 0 7).setFld F.timStatusState 0 st) with time := x })

theorem witness_NetworkTime : gptpOn (timed tmFreeRun { entered := true, left := true }) 7 = true ∧
    (timed tmFreeRun { entered := true, left := true }).fld F.timCfgSlavePort = (7 : Fin 8).val ∧
    (timed tmFreeRun { entered := true, left := true }).timeState = tmFreeRun ∧
    (timed tmAcquiring { left := true, run := 15 }).timeState = tmAcquiring ∧ (signed 64 (100 : W64).toNat).natAbs ≤ 100 ∧
    ((timed tmAcquiring { entered := true }).fld F.timStatusEverStepped = 0 ∧
      liveCtxs ((timed tmAcquiring { entered := true }).setCtx 1 {}) = [] ∧
      1000000 < (signed 64 (BitVec.ofNat 64 (2 ^ 64 - 1000001)).toNat).natAbs) ∧
    ((timed tmLocked {}).timeState = tmLocked ∧ (timed tmLocked {}).rd Reg.timGmId ≠ 5) ∧
    (timed tmLocked {}).fld F.timCfgSlavePort ≠ (6 : Fin 8).val ∧ gptpOn ((timed tmLocked {}).setFld F.ethPortStatusState 6 lcOn) 6 = true ∧
    ((timed tmLocked {}).setFld F.timCfgMasterMask 0 128).fld F.timCfgMasterMask = 2 ^ (7 : Fin 8).val ∧
    (3 * 1000000000 ≤ (((timed tmLocked {}).setFld F.timNowNsNs 0 3000000000).now -
      ((timed tmLocked {}).setFld F.timNowNsNs 0 3000000000).time.lastSync) *
        2 ^ ((timed tmLocked {}).setFld F.timNowNsNs 0 3000000000).fld F.timCfgSyncExp) ∧
    (timed tmHoldover {}).timeState = tmHoldover ∧ Serves (timed tmHoldover {}) Reg.timCfg ∧
    (bitsOf (0x00108006 : W32) 31 20 ≠ 0 ∧ natBit (bitsOf (0x00108006 : W32) 15 8) (bitsOf (0x00108006 : W32) 2 0) = false) ∧
    natBit (bitsOf (0x00108007 : W32) 15 8) (bitsOf (0x00108007 : W32) 2 0) = true := by unfold Serves; decide +kernel

/-- Stream 63 with 64-byte slots: a listener one byte short of a slot's end, and a talker with one frame of 64 bytes. -/
def streaming (x : Stream) : State := portAt lcOn (fun s => s.setStream 63 x)
def listener : Stream :=
  { running := true, rvf := true, port := 7, nslots := 2, ring := 0xD00000, owner := h1, slotBytes := 64, done := 63, lastSeq := some 255 }
def talker : Stream :=
  { running := true, talker := true, rvf := true, port := 7, pcp := 3, vid := 5, rateMbps := 1, lastSeq := some 255
    frames := [{ owner := h1, base := 0xD00000, pitch := 64, width := 64, lines := 1, time := 0 }] }

theorem witness_MediaStreams : ((streaming listener).stream 63).running = true ∧ ((streaming listener).stream 63).rvf = true ∧
    0 < ((streaming listener).stream 63).done ∧ ((streaming listener).stream 63).discard = false ∧
    ((streaming listener).stream 63).lastSeq = some (((0 : BitVec 8).toNat + 255) % 256) ∧
    ((streaming listener).stream 63).done + ([9] : List Byte).length ≤ ((streaming listener).stream 63).slotBytes ∧
    (ctxStore (streaming listener) (some .net) h1 (0xD00000 + 0 % 2 * 64 + 63) [9] .none).1 = none ∧
    ((streaming talker).stream 63).running = true ∧ ((streaming talker).stream 63).talker = true ∧ feRuns (streaming talker) = true ∧
    ((streaming talker).stream 63).frames.length = 1 ∧ (streaming talker).now ≤ 0 + ((streaming talker).stream 63).ptOffset ∧
    ((streaming talker).stream 63).nextAt ≤ (streaming talker).now ∧
    fine (ctxReadObj { streaming talker with farUnit := some (talkUnit 63), farMiss := [], farLack := false } (some .net) h1 .load
      (0xD00000 + 0 / 64 * 64 + 0 % 64) 63) = true := by decide +kernel

/-! ### Witnesses: Ihlique -/

/-- This is device 63; port 2 is up; device 62 lies beyond it and its EPOCH 9 is held. -/
def linked : State :=
  let s := (((ctxOne.setFld F.iqlCfgDevice 0 63).setFld F.iqlPortStatusState 2 lcOn).setFld F.iqlPortStatusLinkUp 2 1).setFld
    F.pwrDomainPermitPermit 0 0x3FFFFFF
  ((((s.setFld F.iqlEpochKnown 62 1).setFld F.iqlEpochEpoch 62 9).setFld F.iqlRouteValid 62 1).setFld F.iqlRoutePrimary 62 2).setFld
    F.iqlPortStatusWidth 2 2

/-- A packet from device 62 for 8 bytes at the end of a page. -/
def packet : Packet := { typ := 0, dst := 63, src := 62, epoch := 9, len := 8, laddr := 0xA00FF8, payload := List.replicate 8 1, cls := 3 }

theorem witness_LinkPackets : portUp linked 2 = true ∧ (linked.iqlPort 2).accepts linked.now packet = true ∧ packet.dst = linked.device ∧ linked.fld F.iqlEpochKnown packet.src = 1 ∧
    linked.fld F.iqlEpochEpoch packet.src = packet.epoch ∧ rangeOk packet.laddr packet.len = true ∧
    rangeUsable linked packet.laddr packet.len = true ∧ (packet.cls = 0 ∨ packet.cls = 3) ∧
    Clean linked packet.laddr packet.len = true ∧ packet.payload.length = packet.len ∧
    rangeOk 0xA00FF8 9 = false ∧
    (let p := { packet with op := 129, cls := 0 }
     p.op = 128 + p.op % 16 ∧ p.op % 16 ≠ 10 ∧ p.laddr % 8 = 0 ∧ rangeUsable linked p.laddr 8 = true ∧
       (atomicFn (p.op % 16) 64 (linked.readNat p.laddr 8) (leNat p.payload) (leNat p.payload)).isSome = true) ∧
    (linked.txn packet.txid).busy = false ∧
    ((linked.setTxn 0 { busy := true }).txn packet.txid = { busy := true, gen := packet.txgen } ∧ linked.txWait = []) ∧
    linked.validate = false ∧ linked.fld F.iqlEpochEpoch 61 ≠ 9 ∧ linked.txns = [] ∧
    (({ packet with dst := 62 } : Packet).dst ≠ linked.device ∧ packet.hops + 1 < 15 ∧ routeTo linked 62 = some 2) := by
  decide +kernel

/-- Port 3 at a life-cycle state, with what the link is. -/
def linkPort (st keyed : Nat) (i : IqlPort) : State :=
  ((((linked.setFld F.iqlPortStatusState 3 st).setFld F.iqlPortStatusKeyed 3 keyed).setFld F.iqlPortStatusWidth 3 2).setFld
    F.iqlPortCtrlAllowX2 3 1).setIqlPort 3 i

theorem witness_LinkPorts : ServesUnit (linkPort lcOff 0 {}) Reg.iqlPortCtrl (.port 3) ∧
    (linkPort lcOff 0 {}).fld F.iqlPortStatusState 3 = lcOff ∧ (linkPort lcOff 0 {}).domPermitted domIhlique = true ∧
    iqlPadsFree (linkPort lcStarting 0 { expectDevice := some 62 }) = true ∧
    widthOf (usableLanes ((linkPort lcStarting 0 { expectDevice := some 62 }).iqlPort 3) (3 : BitVec 4).toNat) true ≠ 0 ∧
    (linkPort lcStarting 0 { expectDevice := some 62 }).fld F.iqlPortCtrlAllowX2 3 = 1 ∧
    iqlStarting (linkPort lcStarting 0 { expectDevice := some 62 }) 3 = true ∧
    ((linkPort lcStarting 0 { expectDevice := some 62 }).iqlPort 3).expectDevice = some (62 : Fin 64).val ∧
    ((linkPort lcStarting 1 {}).fld F.iqlPortStatusKeyed 3 = 1 ∧ (linkPort lcStarting 1 {}).fld F.iqlPortStatusWidth 3 ≠ 0) ∧
    (linkPort lcStopping 0 {}).fld F.iqlPortStatusState 3 = lcStopping ∧ (linkPort lcOn 1 {}).fld F.iqlPortStatusLinkUp 3 = 0 ∧
    (linkPort lcOn 1 {}).fld F.iqlPortStatusWidth 3 = 2 ∧ 16 < (17 : W32).toNat ∧
    ((linkPort lcOn 1 { failRun := 15 }).iqlPort 3).failRun = 15 ∧
    ((linkPort lcOn 1 { failRun := 15 }).setFld F.iqlPortStatusLinkUp 3 1).fld F.iqlPortStatusLinkUp 3 = 1 ∧
    ((linkPort lcOn 1 { retraining := true }).iqlPort 3).retraining = true ∧
    ((linkPort lcOn 1 { retraining := true }).iqlPort 3).pairBad = none ∧
    2 ^ 40 ≤ ((linkPort lcOn 1 { frames := 2 ^ 40 }).iqlPort 3).frames ∧
    ((linked.setTxn 4095 { busy := true }).txn (4095 : Fin 4096)).purpose = .none ∧
    linked.fld F.iqlCfgTxTimeoutUs * 1000 ≤ (linked.setFld F.timNowNsNs 0 20000000).now - 0 := by
  unfold ServesUnit Serves; decide +kernel

/-- A BULK of 16 bytes whose record lies at 0x800000; the second GiB of the context leads to device 62. -/
def bulkOf (src dst : Nat) : State :=
  let s := starts 7 0x800000 0 (.frontEnd 0)
  let s := (s.setNat 0x11008 8 (62 * 2 ^ 40 + 0x37)).setWords 0x800000
    [BitVec.ofNat 64 (src * 2 ^ 16), BitVec.ofNat 64 (dst * 2 ^ 16), 16, 0]
  { linked with queues := s.queues, mem := s.mem }

def bk (s : State) := ctxReadObj { s with farUnit := some 2, farMiss := [], farLack := false } none h1 .load 0x800000 32
def bulkPush : State := bulkOf 0x900000 0x40000000
def bulkPull : State := bulkOf 0x40000000 0x900000
def bulkHere : State := bulkOf 0x900000 0x910000

/-- The translations of the two ends of a transfer. -/
def ends (s : State) (src dst : Nat) : Option (Target × Target) :=
  match (xlate (bk s).2 none h1 .load src).1, (xlate (xlate (bk s).2 none h1 .load src).2 none h1 .store dst).1 with
  | .ok a, .ok b => some (a, b)
  | _, _ => none

/-- Whether a transfer's pieces all leave, with nothing lacking at its end. -/
def moved (s : State) (push : Bool) (src dst : Nat) : Bool :=
  let s := (xlate (xlate (bk s).2 none h1 .load src).2 none h1 .store dst).2
  ((bulkPort s 62).bind (retarget s 2)).isNone && (match bulkMove 2 (beginCmd (bulkOn s 2 62) 2 (some 1000004)) 2 push 62 src dst 16 with
  | (none, w) => !(complete w 2 stOk).farLack
  | _ => false)

theorem witness_LinkRegistersAndBulk : Serves linked Reg.iqlRoute ∧
    (bitsOf (0x94 : W32) 7 7 = 1 ∧ bitsOf (0x94 : W32) 4 4 = 1 ∧ bitsOf (0x94 : W32) 6 5 ≠ bitsOf (0x94 : W32) 3 2) ∧
    (bitsOf (0xB4 : W32) 7 7 = 1 ∧ bitsOf (0xB4 : W32) 4 4 = 1 ∧ bitsOf (0xB4 : W32) 6 5 = bitsOf (0xB4 : W32) 3 2) ∧
    ServesUnit (linkPort lcOff 0 {}) Reg.iqlPortCtrl (.port 3) ∧ bitsOf (0x0C : W32) 0 0 = 0 ∧
    bitsOf (0x08 : W32) 3 2 ≠ bitsOf ((linkPort lcOn 0 {}).rd Reg.iqlPortCtrl 3) 3 2 ∧ Serves linked Reg.iqlCfg ∧
    bitsOf (0x40 : W32) 19 6 ≠ 0 ∧ starting bulkPush 2 7 = true ∧ (bulkPush.queue (2 : Fin 16384)).stopReq = none ∧
    fine (bk bulkPush) = true ∧ bulkFields (wordsOf (got (bk bulkPush))) = some (0x900000, 0x40000000, 16) ∧
    ends bulkPush 0x900000 0x40000000 = some (.mem 0x900000, .remote 62 0) ∧
    ends bulkPull 0x40000000 0x900000 = some (.remote 62 0, .mem 0x900000) ∧
    ends bulkHere 0x900000 0x910000 = some (.mem 0x900000, .mem 0x910000) ∧ moved bulkPush true 0x900000 0x40000000 = true ∧
    moved bulkPull false 0x40000000 0x900000 = true := by unfold ServesUnit Serves; decide +kernel

theorem witness_credit : (live.iqlPort 0).retraining = false ∧ (live.iqlPort 0).traffic = [] ∧
    (live.iqlPort 0).credit.getD 2 0 < frameUnits { typ := 0, dst := 1, src := 0, epoch := 0 } ∧
    frameUnits { typ := 0, dst := 1, src := 0, epoch := 0 } ≤ ((live.iqlPort 0).granted).credit.getD 2 0 := by
  refine ⟨by decide +kernel, by decide +kernel, by decide +kernel, ?_⟩
  simp [frameUnits, IqlPort.granted, tabulate]; omega

/-! ### Witnesses: the compression engine -/

/-- Channel 3 at a life-cycle state. -/
def channelAt (st : Nat) : State := (ctxOne.setFld F.pwrDomainPermitPermit 0 0x3FFFFFF).setFld F.cdeChanStatusState 3 st

/-- A COMPRESS of 16 bytes at 0x900000 as raw DEFLATE, with one destination of 256 bytes, on channel 3. -/
def cdeWords (op : Nat) : List W64 :=
  [BitVec.ofNat 64 (op * 2 ^ 62 + 15 * 2 ^ 52 + 2 ^ 40), BitVec.ofNat 64 (0x900000 * 2 ^ 16), 16, BitVec.ofNat 64 (0xA00000 * 2 ^ 16), 0,
   BitVec.ofNat 64 (0xB00000 * 2 ^ 16), 0, 0]
def compressing (op : Nat) : State :=
  let s := ((starts 6 0x800000 0 (.channel 3)).setWords 0x800000 (cdeWords op)).setWords 0xA00000 [BitVec.ofNat 64 (0xC00000 * 2 ^ 16), 256]
  { channelAt lcOn with queues := s.queues, mem := s.mem }
def cde (op : Nat) : Cde := { w := cdeWords op, dst := [(0xC00000, 256)] }

def c1 (op : Nat) := ctxReadObj (reading (compressing op)) (some (.channel 3)) h1 .load 0x800000 64
def c2 (op : Nat) := ctxReadObj (c1 op).2 (some (.channel 3)) h1 .load 0xA00000 16
def c3 (op : Nat) : State := (beginCmd (c2 op).2 2 (some (cde op).budget)).setFld F.cdeChanStatusCtxIndex 3 1
def c4 (op : Nat) := ctxReadObj (c3 op) (some (.channel 3)) h1 .load 0 0
def c5 (op : Nat) := ctxReadObj (c4 op).2 (some (.channel 3)) h1 .load 0x900000 16

theorem witness_CompressionEngine_channel : ServesUnit (channelAt lcOff) Reg.cdeChanCtrl (.channel 3) ∧
    (channelAt lcOff).fld F.cdeChanStatusState 3 = lcOff ∧ (channelAt lcOff).domPermitted domCompression = true ∧
    (channelAt lcOn).fld F.cdeChanStatusState 3 = lcOn ∧ (channelAt lcStarting).domOn domCompression = true ∧
    (channelAt lcStarting).fld F.cdeChanStatusState 3 = lcStarting := by unfold ServesUnit Serves; decide +kernel

theorem witness_CompressionEngine_command : ∀ op ∈ [0, 1], starting (compressing op) 2 6 = true ∧
    ((compressing op).queue (2 : Fin 16384)).stopReq = none ∧ ((compressing op).queue 2).on = some (.channel (3 : Fin 4)) ∧
    fine (c1 op) = true ∧ wordsOf (got (c1 op)) = (cde op).w ∧ (cde op).headOk = true ∧ (cde op).resume = false ∧
    (cde op).op = op ∧ fine (c2 op) = true ∧ dstEntries (wordsOf (got (c2 op))) = (cde op).dst ∧
    dstOk (wordsOf (got (c2 op))) = true ∧ (cde op).apart = true ∧ ((c2 op).2.queue 2).owner = h1 ∧ (cde op).dictLen = 0 ∧
    fine (c4 op) = true ∧ fine (c5 op) = true := by decide +kernel

/-- A descriptor of one operation, format and flush, with room for `n` bytes. -/
def packing (op format flush n : Nat) : Cde :=
  { w := [BitVec.ofNat 64 (op * 2 ^ 62 + format * 2 ^ 59 + 2 ^ 57 + 15 * 2 ^ 52 + flush * 2 ^ 50 + 2 ^ 40), 0, 3, 0, 0, 0, 0, 0],
    dst := [(0, n)] }
def abc : List Byte := [97, 98, 99]

/-- Published check values: of "123456789", and of no bytes. -/
theorem test_check_values : adler32 [49, 50, 51, 52, 53, 54, 55, 56, 57] = 0x091E01DE ∧
    crc32 [49, 50, 51, 52, 53, 54, 55, 56, 57] = 0xCBF43926 ∧ xxh64 [] = 0xEF46DB3751D8E999#64 := by decide +kernel

/-- RFC 1951, 3.2.6: "abc" in fixed codes, by hand; RFC 1950 around it. -/
theorem test_unzlib : (unzlib [] [0x78, 0x9C, 0x4B, 0x4C, 0x4A, 0x06, 0x00, 0x02, 0x4D, 0x01, 0x27]).out = abc ∧
    (unzlib [] [0x78, 0x9C, 0x4B, 0x4C, 0x4A, 0x06, 0x00, 0x02, 0x4D, 0x01, 0x28]).stop = .bad 4 ∧
    (unzlib [] [0x78, 0x9D]).stop = .bad 1 := by decide +kernel

/-- R660: a stream of no bytes that ends, as raw DEFLATE, is an empty stored block (RFC 1951, 3.2.4). -/
theorem test_packed_empty : (cdeRun (packing 0 0 2 100) {} [] []).out = [1, 0, 0, 255, 255] ∧
    (cdeRun (packing 1 0 2 100) {} [] [1, 0, 0, 255, 255]).reason = 0 := by decide +kernel

theorem witness_cdeRun : (cdeRun (packing 0 0 0 100) {} [] abc).reason = 1 ∧ (cdeRun (packing 0 0 2 2) {} [] []).reason = 2 ∧
    (cdeRun (packing 0 0 2 100) {} [] []).reason = 0 ∧ (cdeRun (packing 1 0 2 100) {} [] [7]).error = 2 := by decide +kernel

/-- What a coder gives: 3 bytes and nothing wrong. -/
def coded : CdeEnd := { reason := 3, error := 0, used := 16, out := [1, 2, 3], next := {} }

theorem witness_cdeEnd : (scatter (c5 0).2 2 3 h1 (cde 0).dst [1, 2, 3]).1 = none ∧
    (ctxStore (scatter (c5 0).2 2 3 h1 (cde 0).dst [1, 2, 3]).2 (some (.channel 3)) h1 (cde 0).stateOut (stateBytes coded)
      (.store 2)).1 = none := by decide +kernel

/-! ### Witnesses: power -/

/-- Every domain permitted, domain `d` at a life-cycle state. -/
def domainAt (d st : Nat) : State := (live.setFld F.pwrDomainPermitPermit 0 0x3FFFFFF).setFld F.pwrDomainStatusState d st

theorem witness_PowerDomains : Serves (domainAt 20 lcOff) Reg.pwrDomainReq ∧ (domainAt 20 lcOff).domState 20 = lcOff ∧
    (domainAt 20 lcOff).domPermitted 20 = true ∧ live.domPermitted 20 = false ∧
    domInPartition (live.setFld F.fldCourtStatusInPartition 15 1) 15 = true ∧ domInPartition (domainAt 15 lcOn) 15 = false ∧
    courtIdle (domainAt 15 lcOn) 15 = true ∧ (domainAt 15 lcOn).domState 15 = lcOn ∧ (domainAt 15 lcOn).whistle.active = false ∧
    ((domainAt 15 lcStarting).power.on = true ∧ (domainAt 15 lcStarting).domState 15 = lcStarting ∧
      (domainAt 15 lcStarting).power.waking = false ∧ (domainAt 15 lcStarting).power.padsLow.contains 15 = false) ∧
    ((domainAt 28 lcStopping).domState 28 = lcStopping ∧ (domainAt 28 lcStopping).power.entering = none) ∧
    Serves ((domainAt 28 lcOn).setFld F.pwrDomainStatusPadsHeld 28 1) Reg.padRelease := by unfold Serves; decide +kernel

/-- The pads of domain 28 are held while it is ON. -/
def padsHeld : State := (domainAt 28 lcOn).setFld F.pwrDomainStatusPadsHeld 28 1

theorem witness_padRelease : ∀ d ∈ List.range 29, natBit (0x10000000 : W32).toNat d = true →
    padsHeld.fld F.pwrDomainStatusPadsHeld d = 1 → padsHeld.domOn d = true := by decide +kernel

/-- The clock stands at `mhz` and the goal at 1250 MHz. -/
def clockAt (mhz : Nat) : State := live.setFld F.pwrStatusArithMhz 0 mhz

theorem witness_clockStep : (clockAt 1225).power.stepAt = none ∧
    (clockAt 1225).fld F.pwrStatusArithMhz < min (clockAt 1225).power.goal (clockCap (clockAt 1225)) ∧
    min (clockAt 1275).power.goal (clockCap (clockAt 1275)) < (clockAt 1275).fld F.pwrStatusArithMhz := by decide +kernel

/-- A power state, and what the controller keeps there. -/
def powered (st : Nat) (f : Power → Power) : State :=
  let s := live.setFld F.pwrStateStatusState 0 st
  { s with power := f s.power }
def huddling (target : Nat) (asked delayed : List Nat) : State :=
  powered pwActive (fun p => { p with huddle := some { target := target, asked := asked, delayed := delayed } })

theorem witness_PowerStates_target : live.power.on = true ∧ bootReady live = true ∧ live.referee.cycling = false ∧
    live.powerState = pwActive ∧ chipRecovers live = false ∧ live.power.huddle = none ∧ live.power.entering = none := by decide +kernel

theorem witness_huddle :
    ((huddling pwWatch [0x08, 0x0E] []).power.huddle).any (fun h => agentBlock .memory ∈ h.asked &&
      decide (huddleSays (huddling pwWatch [0x08, 0x0E] []) h.target .memory = .refuse 6) && decide (6 < 256)) = true ∧
    ((({ huddling pwWatch [0x02] [] with queues := (starts 0 0 0 (.frontEnd 0)).queues } : State)).power.huddle).any (fun h =>
      decide (huddleSays { huddling pwWatch [0x02] [] with queues := (starts 0 0 0 (.frontEnd 0)).queues } h.target .frontEnd = .delay) &&
        decide (SMap.get 0 h.delays (agentBlock .frontEnd) < 3)) = true ∧
    ((huddling pwStandby [0x00, 0x0E] []).power.huddle).any (fun h =>
      decide (huddleSays (huddling pwStandby [0x00, 0x0E] []) h.target .steward = .accept) &&
        decide (h.asked.filter (· ≠ agentBlock .steward) ≠ [])) = true ∧
    ((huddling pwStandby [0x0E] []).power.huddle).any (fun h =>
      decide (huddleSays (huddling pwStandby [0x0E] []) h.target .referee = .accept) &&
        decide (h.asked.filter (· ≠ agentBlock .referee) = []) && h.delayed.isEmpty && (huddling pwStandby [0x0E] []).domOn domFabric) = true ∧
    ((huddling pwStandby [] [0x0E]).power.huddle).any (fun h => agentBlock .referee ∈ h.delayed) = true := by decide +kernel

/-- The save of WATCH under way, with bytes at both ends of the stacked DRAM and the save area at 1 GiB. -/
def saves : State :=
  { (powered pwActive (fun p => { p with entering := some pwWatch, saving := true })).setFld F.pwrWatchSaveAddr 0 1 with
    mem := [(0x3FFFFFFF, 1), (0x40000000, 2), (0x840000000, 3), (0x4000000000, 4), (0x47FFFFFFFF, 5)] }
def restores : State :=
  { (powered pwWatch (fun p => { p with waking := true })).setFld F.pwrWatchSaveAddr 0 1 with
    mem := [(0x40000000, 2), (0x83FFFFFFF, 3), (0x4000000001, 4)] }

theorem witness_saveAndWake : saves.power.saving = true ∧ saves.qps = [] ∧ saves.streams = [] ∧
    (let s := powered pwStandby (fun p => { p with wake := 8 })
     s.power.wake ≠ 0 ∧ s.power.entering = none ∧ s.power.waking = false ∧ s.powerState = pwStandby) ∧
    restores.power.waking = true ∧ restores.powerState = pwWatch ∧ allBack restores = true ∧
    (let s := (powered pwActive (fun p => { p with idleSince := some 0 })).setFld F.pwrIdleCfgAutoIdle 0 1
     let s := s.setFld F.timNowNsNs 0 1000000000
     s.power.on = true ∧ s.fld F.pwrIdleCfgAutoIdle = 1 ∧ s.powerState = pwActive ∧ s.power.huddle = none ∧
     s.power.entering = none ∧ workNow s = false ∧ idleDue s = true) := by decide +kernel

/-- In WATCH with the sensor watched, and with the audio watched over a window of 1 ms. -/
def watching (cfg : W64) : State := powered pwWatch (fun p => { p with watch := [cfg, 0, 0] })

theorem witness_watchPeriod : (watching 0x10).power.watch = [0x10, 0, 0] ∧ (bitsOf (0x10 : W64) 3 3 = 0 ∧ bitsOf (0x10 : W64) 4 4 = 1) ∧
    (bitsOf (0x808 : W64) 3 3 = 1 ∧ bitsOf (0x808 : W64) 4 4 = 0) ∧ 32 * bitsOf (0x808 : W64) 17 11 = 32 := by decide +kernel

theorem witness_PowerControl : live.power.on = true ∧ live.powerState ≠ pwTripped ∧ live.fld F.pwrFixedModeEn = 0 ∧
    1 ≤ grantLimit live ∧ live.fld F.pwrStatusTrust = 0 ∧ live.fld F.pwrStatusThermalStep = 0 ∧
    Serves live Reg.pwrBoostCfg ∧ Serves live Reg.pwrCapMw ∧ 40000 ≤ bitsOf (240000 : W32) 17 0 ∧ bitsOf (240000 : W32) 17 0 ≤ 240000 ∧
    live.fld F.pwrFloorMwMw ≤ bitsOf (240000 : W32) 17 0 ∧ bitsOf (39999 : W32) 17 0 < 40000 ∧ fixedComing live = false ∧
    Serves live Reg.pwrFixedMode ∧ natBit (1 : W32).toNat 31 = false ∧ (1 ≤ bitsOf (64 : W32) 6 0 ∧ bitsOf (64 : W32) 6 0 ≤ 64) ∧
    (256 ≤ bitsOf (4096 : W32) 12 0 ∧ bitsOf (4096 : W32) 12 0 ≤ 4096) ∧ Serves live Reg.pwrWatchSave ∧
    bitsOf (0x40000000 : W64) 0 0 = 0 ∧ Serves live Reg.pwrWatchCfg ∧
    (let v : W32 := BitVec.ofNat 32 (100 * 2 ^ 18 + 100 * 2 ^ 11 + 2 ^ 7 + 16)
     10 ≤ bitsOf v 31 18 ∧ bitsOf v 31 18 ≤ 10000 ∧ 1 ≤ bitsOf v 17 11 ∧ bitsOf v 17 11 ≤ 100 ∧ bitsOf v 17 11 ≤ bitsOf v 31 18 ∧
       bitsOf v 10 7 ≠ 0 ∧ bitsOf v 4 3 ≠ 0) ∧
    live.domOn domStacked = true ∧ live.domOn domLpddr = true := by unfold Serves; decide +kernel

/-- The throttle at a step since 0, at a time. -/
def throttled (step now : Nat) : State :=
  let s := (live.setFld F.pwrStatusThermalStep 0 step).setFld F.timNowNsNs 0 now
  { s with power := { s.power with hotSince := some 0, coolSince := some 0, fitting := true } }

theorem witness_throttle : (throttled 2 10000000).power.hotSince = some 0 ∧ 1 ≤ (throttled 2 10000000).fld F.pwrStatusThermalStep ∧
    (throttled 2 10000000).fld F.pwrStatusThermalStep < 3 ∧ 0 + 10000000 ≤ (throttled 2 10000000).now ∧
    (throttled 1 100000000).power.coolSince = some 0 ∧ 0 + 100000000 ≤ (throttled 1 100000000).now ∧
    (throttled 1 10000000000).power.fitting = true ∧
    (throttled 1 10000000000).power.fitAt + 10000000000 ≤ (throttled 1 10000000000).now := by decide +kernel

theorem witness_sensors : corrected live 31 0 < 100 ∧ (100 ≤ corrected live 31 (100 * 16) ∧ corrected live 31 (100 * 16) < 115) ∧
    115 ≤ corrected live 31 (115 * 16) := by decide +kernel

theorem witness_permit : Serves (live.setFld F.pwrCapMwCap 0 240000) Reg.pwrDomainPermit ∧
    floorMw (live.setFld F.pwrCapMwCap 0 240000) (bitsOf (0 : W32) 25 0) ≤ (live.setFld F.pwrCapMwCap 0 240000).fld F.pwrCapMwCap := by
  unfold Serves; decide +kernel

/-! ### Witnesses: the referee, inspections -/

/-- A running FIELD command of queue 2 on court 0 whose budget ends now, and one suspected by a recovery. -/
def overrun : State :=
  let s := runs id
  s.setQueue 2 { s.queue 2 with deadline := some 0 }
def suspected : Suspect := { q := 2, overran := true, began := 0, budgetEnd := 0 }
def recovering (s : State) (r : Recovery) : State := { s with recoveries := [r] }
def contextStop : Recovery := { id := 0xFFFFFFFF, level := 0, since := 0, suspects := [suspected] }
def missed : State := (recovering (runs id) contextStop).setFld F.timNowNsNs 0 1000000

theorem witness_RecoveryBegins : overBudget overrun 2 = true ∧ (overrun.queue (2 : Fin 16384)).replaying = false ∧
    (overrun.queue 2).phase = .running ∧ (overrun.queue 2).kind ≠ 2 ∧ (overrun.queue 2).kind ≠ 3 ∧
    (unitsOf overrun 2).any (unitKept overrun) = false ∧ overrun.recoveries.any (fun r => decide (r.level = 3)) = false ∧
    missed.recoveries = [contextStop] ∧ contextStop.id = (0xFFFFFFFF : W32).toNat ∧ contextStop.suspects = [suspected] ∧
    (missed.queue suspected.q).phase = .running ∧ unitsOf missed suspected.q = [.court 0] ∧
    contextStop.since + 1000000 ≤ missed.now := by decide +kernel

theorem witness_chipLevel : live.recoveries.any (fun r => decide (r.level = 3 ∧ r.ended = false)) = false ∧ live.fabricOn = true ∧
    live.power.clkReqHigh = false ∧ live.powerState ≠ pwTripped ∧
    ((recovering live { id := 0, level := 3, since := 0 }).setFld F.timNowNsNs 0 3000000000).recoveries.any
      (fun r => decide (r.level = 3 ∧ r.since + 3000000000 ≤ 3000000000)) = true ∧
    ({ live with referee := { cycleDue := some 2 } } : State).referee.cycleDue = some 2 ∧
    (let s := (live.setFld F.refStatusTrayPending 0 1).setFld F.timNowNsNs 0 60000000000
     s.fld F.refStatusTrayPending = 1 ∧ (s.rd Reg.refTrayLast).toNat + 60000000000 ≤ s.now) := by decide +kernel

/-- An engine-level reset of court 15, before and after its drain, and with the suspect to be replayed. -/
def engine (drained ended : Bool) (xs : List Suspect) (n : Nat) : Recovery :=
  { id := 7, level := 1, since := 0, units := if ended then [] else [.court n], first := [.court n], suspects := xs, drained := drained, ended := ended }
def draining : State := (recovering live (engine false false [] 15)).setFld F.timNowNsNs 0 10000
def scrubbed : State := recovering live (engine true false [] 15)
def halted : State :=
  let s := playbook.setQueue 2 { playbook.queue 2 with phase := .halted }
  recovering s (engine true true [suspected] 0)

/-- The same, with its context lost before the replay. -/
def lostContext : State := halted.setCtx 1 { halted.ctx 1 with state := .lost }

theorem witness_RecoveryGoesOn : draining.recoveries = [engine false false [] 15] ∧ (engine false false [] 15).id = (7 : W32).toNat ∧
    (engine false false [] 15).since + 10000 ≤ draining.now ∧ draining.domOn (15 : Fin 16) = true ∧
    (scrubbed.court (15 : Fin 16)).scrub = .clean ∧ scrubbed.ctxs = [] ∧ (engine true true [suspected] 0).replay = none ∧
    unitsAlone halted (engine true true [suspected] 0) = true ∧
    lostFor lostContext (lostContext.queue suspected.q) = true ∧ (halted.queue suspected.q).phase = .halted ∧ lostFor halted (halted.queue suspected.q) = false ∧
    (recovering live { id := 7, level := 3, since := 0 }).referee.cycleDue = none ∧ Serves live Reg.refBudgetMargin ∧
    10000 ≤ (10000000 : W32).toNat ∧ (9999 : W32).toNat < 10000 ∧ Serves live Reg.refFaultRing ∧ liveCtxs live = [] ∧
    (6 ≤ bitsOf (12 : W64) 3 0 ∧ bitsOf (12 : W64) 3 0 ≤ 12) ∧ 12 < bitsOf (13 : W64) 3 0 ∧ liveCtxs ctxOne ≠ [] := by
  unfold Serves; decide +kernel

/-- Court 15 with a routine inspection due after an hour, waiting, and running. -/
def inspecting (running : Bool) : State := { live with inspects := [{ kind := 0, unit := 15, routine := false, running := running }] }
def oneHour : State := (live.setFld F.stwInspectCfgPeriodH 0 1).setFld F.timNowNsNs 0 3600000000000
def repaired : State := (live.setFld F.stwRepairJournalUsed 0 1023).setFld F.stwInspectionsCount 0 5
def journalDue : State := { repaired with journalDue := [{ typ := 6, unit := 3, sub := 0, addr := 5, time := 9 }] }

theorem witness_Inspections : oneHour.fabricOn = true ∧ routineDue oneHour (1 : Fin 2) (67 : Fin 68) = true ∧ oneHour.inspects = [] ∧
    Serves live Reg.stwInspectReq ∧ bitsOf (0x40004300 : W32) 31 30 < 2 ∧
    unitExists (bitsOf (0x40004300 : W32) 31 30) (bitsOf (0x40004300 : W32) 15 8) = true ∧
    unitRetired live (bitsOf (0x40004300 : W32) 31 30) (bitsOf (0x40004300 : W32) 15 8) 0 = false ∧
    (inspecting false).inspects = [{ kind := 0, unit := (15 : Fin 68).val }] ∧
    mayTake (inspecting false) { kind := 0, unit := 15 } = true ∧
    (inspecting true).inspects = [{ kind := 0, unit := 15, running := true }] ∧ courtPart (inspecting true) 15 = none ∧
    (inspecting true).domOn (15 : Fin 68) = true ∧
    journalDue.journalDue.length = 1 ∧ journalDue.fld F.stwRepairJournalUsed = 1023 := by unfold Serves; decide +kernel

/-! ### Witnesses: the event recorder, the boot, the steward -/

/-- The recorder with a bucket in use, frozen for at most 2 ms, and with a flush wanted or under way. -/
def bucketed : State := { live with buckets := [(0x0101, { used := 3 })] }
def frozen : State := (live.setFld F.evrFreezeFrozen 0 1).setFld F.evrFreezeFreezeMaxMs 0 2
def flushWanted (taken : Bool) : State :=
  { frozen with stw := { frozen.stw with
      flushDue := some 2, flushed := if taken then [some [], some []] else [none, none] } }
def flushRuns : State :=
  { live with flushing := true, stw := { live.stw with flushRegion := some 1, flushed := [some [], none] } }
def failing : State := { live with power := { live.power with failLow := true } }

theorem witness_EventRecorder : SMap.wf {} bucketed.buckets = true ∧ Serves live Reg.evrCfg ∧
    (let v : W32 := 0x00640020
     1 ≤ bitsOf v 31 16 ∧ bitsOf v 31 16 ≤ 1000 ∧ 1 ≤ bitsOf v 15 0 ∧ bitsOf v 15 0 ≤ 1024) ∧ bitsOf (0x00000020 : W32) 31 16 = 0 ∧
    1000 < bitsOf (0x03E90020 : W32) 31 16 ∧ bitsOf (0x00640000 : W32) 15 0 = 0 ∧ 1024 < bitsOf (0x00640401 : W32) 15 0 ∧
    Serves live Reg.evrFreeze ∧ Serves frozen Reg.evrFreeze ∧ bitsOf (1 : W32) 23 8 = 0 ∧ 60000 < bitsOf (0x00EA6101 : W32) 23 8 ∧
    (let v : W32 := 0x00000201
     1 ≤ bitsOf v 23 8 ∧ bitsOf v 23 8 ≤ 60000 ∧ natBit v.toNat 1 = false) ∧ natBit (0x00EA6002 : W32).toNat 0 = false ∧
    bitsOf (0x00EA6002 : W32) 23 8 = 60000 ∧ frozen.fld F.evrFreezeFrozen = 1 ∧ live.fld F.evrFreezeFrozen = 0 ∧
    frozen.flushing = false ∧
    (let s := frozen.setFld F.timNowNsNs 0 2000000
     s.fld F.evrFreezeFrozen = 1 ∧ s.flushing = false ∧ s.stw.frozenAt + s.fld F.evrFreezeFreezeMaxMs * 1000000 ≤ s.now) := by
  unfold Serves; decide +kernel

theorem witness_flush : (∀ b, (flushWanted b).stw.flushDue = some 2) ∧ (flushWanted false).stw.flushed.getD 0 none = none ∧
    ((flushWanted true).stw.flushed.getD 0 none ≠ none ∧ (flushWanted true).stw.flushed.getD 1 none ≠ none) ∧
    flushRuns.flushing = true ∧ flushRuns.stw.flushRegion = some 1 ∧ 1 < flushRuns.stw.flushed.length ∧
    (live.power.on = true ∧ live.power.failLow = false ∧ live.flushing = false ∧ live.stw.flushDue = none) ∧
    failing.power.on = true ∧ failing.power.failLow = true ∧ Serves live Reg.stwCaptureStatus := by unfold Serves; decide +kernel

/-- A device that has missed two boots. -/
def missedTwice : State := { State.reset with stw := { State.reset.stw with misses := 2 } }

theorem witness_BootAndOff : State.reset.power.on = false ∧ State.reset.power.failLow = false ∧ State.reset.stw.restart = false ∧
    State.reset.stw.misses < 2 ∧ missedTwice.power.on = false ∧ missedTwice.power.failLow = false ∧
    missedTwice.stw.restart = false ∧ 2 ≤ missedTwice.stw.misses ∧ State.reset.domState domLpddr = lcOff := by decide +kernel

theorem witness_OffUntilBoot : State.reset.power.on = false ∧ exec .trstN State.reset = execTrstN State.reset ∧
    execTrstN State.reset = .next (match execTrstN State.reset with | .next t => t | _ => State.reset) ∧
    (∀ f r a k x p, Instr.trstN ≠ .boot f r a k x p) := ⟨rfl, rfl, rfl, by intros; simp⟩

/-- Recovery boot, with request 5 answered, and bytes in the flash. -/
def serving : State :=
  let s : State := (live.setFld F.stwBootStatusState 0 2).setFld F.stwBootStatusError 0 0x21
  { s with stw := { s.stw with lastSeq := some 5, lastRsp := [1, 2, 3], flash := [(0x02010000, 0xF0), (0x02020000, 7)] } }

theorem witness_RecoveryServiceRequests : serviceRuns serving = true ∧ flashArea (2 : BitVec 8).toNat = some (0x02010000, 0x40000) ∧
    flashArea (3 : BitVec 8).toNat = some (0x02050000, 0x100000) ∧ flashArea (0 : BitVec 8).toNat = some (0, 0x10000) ∧
    (∀ q, serving.stw.lastSeq = some q → (6 : W16).toNat = (q + 1) % 65536) ∧
    (1 ≤ (1024 : W32).toNat ∧ (1024 : W32).toNat ≤ 1024 ∧ (0x3FC00 : W32).toNat + (1024 : W32).toNat ≤ 0x40000) ∧
    ((0x30000 : W32).toNat % 65536 = 0 ∧ (0x30000 : W32).toNat + 65536 ≤ 0x40000) ∧
    ([(0x0F : Byte)].length = (1 : W32).toNat ∧ (0 : W32).toNat + (1 : W32).toNat ≤ 0x40000) ∧
    serving.stw.lastSeq = some (5 : W16).toNat ∧
    (∀ q, serving.stw.lastSeq = some q → (7 : W16).toNat ≠ q ∧ (7 : W16).toNat ≠ (q + 1) % 65536) := by
  simp only [show serving.stw.lastSeq = some 5 from rfl, Option.some.injEq]
  refine ⟨by decide +kernel, rfl, rfl, rfl, ?_, by decide, by decide, by decide, rfl, ?_⟩ <;> rintro q rfl <;> decide

theorem clean_live (a n : Nat) : Clean live a n = true := by
  have h1 : live.ue = [] := by decide +kernel
  have h2 : live.ce = [] := by decide +kernel
  simp [Clean, h1, h2]

theorem buffer_live (n : Nat) (h : n < 0x3BC0000000) : bufferOk live 0 n = true := by
  have he : live.eccOn = false := by decide +kernel
  simp [bufferOk, State.usable, he, isSd]; omega

theorem length_words (ws : List W64) : ((ws.map (fun w => leBytes 8 w.toNat)).flatten).length = 8 * ws.length := by
  induction ws with
  | nil => rfl
  | cons w ws ih => rw [List.map_cons, List.flatten_cons, List.length_append, leBytes_length, ih, List.length_cons]; omega

theorem length_sha3 (bs : List Byte) : (sha3 bs).length ≤ 32 := by
  rw [sha3, length_words, List.length_take]; omega

/-- A configuration record of its header alone at address 0, whose CRC holds. -/
def recorded : State :=
  ((live.setNat 0 8 0x5042434620480101).setNat 8 8 0x0000004030486F9C).setNat 24 8 9

theorem length_report (nonce : List Byte) : (attestReport live nonce).length ≤ nonce.length + 256 := by
  have h1 := length_sha3 live.stw.cfg
  have h2 := length_sha3 (live.stw.cal.take calJournal)
  have h3 := length_words (tabulate 4 (fun i => live.rd Reg.stwImageHash i))
  simp only [tabulate, List.map_map, List.length_map, List.length_range] at h3
  simp only [attestReport, tabulate, List.length_append, leBytes_length, List.length_replicate]
  simp only [Function.comp_def] at h3
  omega

theorem witness_StewardOperations_output : Serves live Reg.stwOp ∧ live.fld F.stwOpArgAddr = 0 ∧
    bufferOk live 0 live.stw.cal.length = true ∧ bufferOk live 0 live.stw.cfg.length = true ∧
    bufferOk live 0 (certificate live).length = true ∧ bufferOk live 0 32 = true ∧
    (∃ r bs, r = attestReport live (live.bytes 0 32) ∧ bs = r ++ tabulate 2420 (Config.signature (sha3 r)) ∧
      bufferOk live 0 bs.length = true ∧ Clean live 0 bs.length = true) := by
  have hr := length_report (live.bytes 0 32)
  have hn : (live.bytes 0 32).length = 32 := by simp [State.bytes, tabulate]
  refine ⟨by unfold Serves; decide +kernel, by decide +kernel, buffer_live _ (by decide +kernel), buffer_live _ (by decide +kernel),
    buffer_live _ ?_, buffer_live _ (by decide), _, _, rfl, rfl, buffer_live _ ?_, clean_live _ _⟩
  · simp [certificate, State.flashBytes, tabulate]
  · simp only [List.length_append, tabulate, List.length_map, List.length_range]; omega

theorem witness_StewardOperations_input : (bufferOk live 0 calBytes = true ∧ Clean live 0 calBytes = true) ∧ Serves recorded Reg.stwOp ∧
    recorded.fld F.stwOpArgAddr = 0 ∧ bufferOk recorded 0 64 = true ∧ cfgHeaderBad (recorded.bytes 0 64) = none ∧
    64 = leAt (recorded.bytes 0 64) 12 4 ∧ Clean recorded 0 64 = true ∧
    cfgCrc (recorded.bytes 0 64) = leAt (recorded.bytes 0 64) 8 4 ∧
    (64 ≤ (4096 : W32).toNat ∧ (4096 : W32).toNat ≤ 0x2000000 ∧ bufferOk live 0 (4096 : W32).toNat = true ∧
      Clean live 0 (4096 : W32).toNat = true) := by
  refine ⟨⟨buffer_live _ (by decide), clean_live _ _⟩, by unfold Serves; decide +kernel, by decide +kernel, by decide +kernel,
    by decide +kernel, by decide +kernel, by decide +kernel, by decide +kernel, by decide, by decide, buffer_live _ (by decide),
    clean_live _ _⟩

/-- An UPDATE runs. -/
def updating : State := { live with stw := { live.stw with update := some { image := [], left := 5 } } }

theorem witness_StewardOperations_update : Serves updating Reg.stwOp ∧ updating.fld F.stwOpArgAddr % 64 = 0 ∧
    updating.stw.update ≠ none ∧ live.stw.update = none ∧ (updateTick updating).stw.update = some { image := [], left := 4 } := by
  unfold Serves; decide +kernel

/-- GPIO pin 15 claimed by the host, and port 0 with a transmit association installed. -/
def pinHeld : State := live.setFld F.stwClaimOwner 15 2
def keyedPort : State := live.setEthPort 0 { live.ethPort 0 with txAssocs := [{ installed := true }, {}, {}, {}] }

theorem witness_claims : claimOk (bitsOf (0x000F0100 : W32) 31 24) (bitsOf (0x000F0100 : W32) 23 16) (bitsOf (0x000F0100 : W32) 15 8) 2 = true ∧
    claimOwner live (claimKey 0 15) = 0 ∧ claimOwner pinHeld (claimKey 0 15) = 2 ∧ Serves pinHeld Reg.stwOp ∧
    (live.ethPort 7).txAssocs.length = 4 ∧ natBit (0xE3000000 : W32).toNat 28 = false ∧ (keyedPort.ethPort 0).txAssocs.length = 4 ∧
    (((keyedPort.ethPort 0).txAssocs.getD (bitsOf (0 : W32) 25 24) {}).installed = true) := by unfold Serves; decide +kernel

/-- The host's timer 3 set to 7 ns. -/
def alarmSet : State :=
  (((live.setFld F.stwClaimOwner 19 2).wr Reg.stwTimer 3 7).setFld F.timNowNsNs 0 7)

theorem witness_TrayAndTestPorts : alarmSet.power.on = true ∧ claimOwner alarmSet (16 + (3 : Fin 4).val) = 2 ∧ (alarmSet.rd Reg.stwTimer (3 : Fin 4)).toNat = 7 ∧
    alarmSet.now = 7 ∧ (3 : Fin 4).val ∉ alarmSet.stw.alarmed ∧
    (let s := powered pwStandby id
     s.power.on = true ∧ s.power.huddle = none ∧ s.power.waking = false ∧ s.power.entering = none ∧ s.powerState = pwStandby) ∧
    natBit (1 : W32).toNat 0 = true := by decide +kernel

/-! ### Witnesses: rules of the whole device -/

theorem witness_TestPortResets : execTrstN live = .next (match execTrstN live with | .next t => t | _ => live) ∧
    execTck true true [] live = .next (match execTck true true [] live with | .next t => t | _ => live) ∧
    execStwCaptureStatus 0 live = .next (match execStwCaptureStatus 0 live with | .next t => t | _ => live) ∧
    (match execTck true true [] live with | .next t => t.stw.tap.st == .reset | _ => false) = true := by
  refine ⟨rfl, rfl, rfl, ?_⟩; decide +kernel

theorem witness_GenerationsAdvance : (withRecords.ctx 2).state = .free ∧
    (match execCreate 2 withRecords with | .next t => decide ((t.ctx 2).state ≠ .free ∧ (t.ctx 2).gen = 1) | _ => false) = true ∧
    (withRecords.queue 3).state = .free ∧
    (match execQueueCreate 3 withRecords with | .next t => decide ((t.queue 3).state ≠ .free ∧ (t.queue 3).gen = 1) | _ => false) = true ∧
    (1 : Nat) < 2 ^ 20 - 1 ∧ hGen (5 : W32) = 0 ∧ qGen (5 : W32) = 0 := by decide +kernel

/-! ### Results on fixed values -/

/-- SHA3-256 of no bytes, as FIPS 202 gives it (R815, R844). -/
theorem test_sha3_empty : sha3 [] =
    [0xA7, 0xFF, 0xC6, 0xF8, 0xBF, 0x1E, 0xD7, 0x66, 0x51, 0xC1, 0x47, 0x56, 0xA0, 0x61, 0xD6, 0x62,
     0xF5, 0x80, 0xFF, 0x4D, 0xE4, 0x3B, 0x49, 0xFA, 0x82, 0xD8, 0x0A, 0x4B, 0x80, 0xF8, 0x43, 0x4A] := by decide +kernel

/-- The check value of CRC-32C: that of the nine digits (R401). -/
theorem test_crc32c_digits : crc32c [0x31, 0x32, 0x33, 0x34, 0x35, 0x36, 0x37, 0x38, 0x39] = 0xE3069283 := by decide +kernel

/-- The identification code of R877, captured by a TCK cycle in Capture-DR. -/
theorem test_idcode : bitsNat (tapCapture 2 false []) = 0x120482A7 := by decide +kernel

/-- The MXFP4 block against MXFP8 activations that spec/02 works out. -/
theorem test_mx_block : blockSum ([(0x38, 0x3), (0x01, 0x7), (0xC4, 0xD), (0x55, 0x1)].map
    (fun p => (Num.decode .e4m3 p.1, Num.decode .e2m1 p.2)) ++ List.replicate 28 (Num.decode .e4m3 0, Num.decode .e2m1 0)) 0x79 0x80 =
      0x3F081800 := by decide +kernel

/-- The FP16 beam against BF16 weights that spec/02 works out. -/
theorem test_fp16_bf16_block : blockSum ([(0x7800, 0x0040), (0x0001, 0x3F80), (0x0001, 0x0380)].map
    (fun p => (Num.decode .fp16 p.1, Num.decode .bf16 p.2))) 127 127 = 0x33800000 := by decide +kernel

/-- The E4M3 stores that spec/02 works out: 300, 464 and 470, and the scale of a block whose largest magnitude is 470. -/
theorem test_e4m3_stores : ((Num.ofInt 300).convert .e4m3 false).bits = 0x79 ∧ ((Num.ofInt 464).convert .e4m3 true).bits = 0x7E ∧
    ((Num.ofInt 470).convert .e4m3 false).bits = 0x7E ∧ ((Num.ofInt 470).convert .e4m3 true).bits = 0x7F ∧
    blockScale .e4m3 [Num.ofInt 300, Num.ofInt 464, Num.ofInt 470] = 127 := by decide +kernel

end Sys2Proof.Tests
end

section
/-! DisplayPort links (spec/08 R413 to R421): what allocating slots, losing a link and training it can change, what the commands of
a transmitter lead to, and the obligation about them. -/

namespace Sys2Proof.Machine

open Sys2Proof Sys2Proof.Safety

/-! ### Slots of a transmitter's streams -/

/-- The register families that an allocation of slots changes: DPX_STREAM, and those of its event. -/
def slotFams : List Nat := Reg.dpxStream :: eventFams

/-- `t` is `s` but for what an allocation of slots changes: SLOTS of the streams, a free value taken, and an event's effects. -/
def SlotsOnly (s t : State) : Prop :=
  t = { s with regs := t.regs, qps := t.qps, eth := t.eth, outbox := t.outbox, buckets := t.buckets, unwritten := t.unwritten,
               free := t.free } ∧
    ∀ f i, f ∉ slotFams → t.rd f i = s.rd f i

theorem SlotsOnly.refl (s : State) : SlotsOnly s s := ⟨rfl, fun _ _ _ => rfl⟩

theorem SlotsOnly.trans {s t u : State} (h : SlotsOnly s t) (k : SlotsOnly t u) : SlotsOnly s u := by
  obtain ⟨ht, hrd⟩ := h
  obtain ⟨hu, krd⟩ := k
  rw [ht] at hu
  exact ⟨hu, fun f i hf => (krd f i hf).trans (hrd f i hf)⟩

theorem SlotsOnly.foldl {α : Type} {f : State → α → State} (h : ∀ s a, SlotsOnly s (f s a)) (xs : List α) (s : State) :
    SlotsOnly s (xs.foldl f s) := by
  induction xs generalizing s with
  | nil => exact .refl s
  | cons x xs ih => exact (h s x).trans (ih _)

theorem SlotsOnly.wr (s : State) (f i : Nat) (v : W64) (h : f ∈ slotFams) : SlotsOnly s (s.wr f i v) :=
  ⟨rfl, fun _ j hg => State.rd_wr_ne s v (State.key_ne_fam (ne_of_mem_of_not_mem h hg).symm j i)⟩

theorem SlotsOnly.setSlots (s : State) (p n : Nat) : SlotsOnly s (s.setFld F.dpxStreamSlots p n) :=
  .wr s Reg.dpxStream p _ (by decide)

theorem SlotsOnly.fresh (s : State) : SlotsOnly s s.fresh.2 := ⟨rfl, fun _ _ _ => rfl⟩

theorem EventOnly.slotsOnly {s t : State} (h : EventOnly s t) : SlotsOnly s t := by
  obtain ⟨ht, hrd, -, -⟩ := h
  refine ⟨?_, fun f i hf => hrd f i fun he => hf (List.mem_cons_of_mem _ he)⟩
  rw [ht]

theorem SlotsOnly.dpTx {s t : State} (h : SlotsOnly s t) (j : Nat) : t.dpTx j = s.dpTx j := by rw [h.1, State.dpTx, State.dpTx]

theorem SlotsOnly.fld {s t : State} (h : SlotsOnly s t) {g : Reg.Field} (hg : g.fam ∉ slotFams) (j : Nat) :
    t.fld g j = s.fld g j := by rw [State.fld, h.2 _ _ hg, State.fld]

/-- All that the allocation of one stream can do: its SLOTS set to 0 or to what it takes, or event 0x0702 (R415). -/
theorem allocStream_slotsOnly (s : State) (p : Nat) : SlotsOnly s (allocStream s p) := by
  have unsent : SlotsOnly s (event (s.setFld F.dpxStreamSlots p 0) 0x0702 0 p) :=
    (SlotsOnly.setSlots s p 0).trans (event_only _ _ _ _ _).slotsOnly
  unfold allocStream
  dsimp only
  split
  · exact .setSlots s p 0
  · split
    · split
      · exact .setSlots s p _
      · exact unsent
    · split
      · exact (SlotsOnly.fresh s).trans (.setSlots _ p _)
      · exact unsent

theorem allocLink_slotsOnly (s : State) (t : Nat) : SlotsOnly s (allocLink s t) :=
  (SlotsOnly.foldl (fun s p => .setSlots s p 0) _ s).trans (SlotsOnly.foldl allocStream_slotsOnly _ _)

/-! ### A link lost, and a link that trains -/

@[simp] theorem linkLost_dpTx (s : State) (t j : Nat) : (linkLost s t).dpTx j = s.dpTx j := by
  rw [linkLost, (allocLink_slotsOnly _ t).dpTx, State.setFld_at_dpTx]

@[simp] theorem linkLost_trained (s : State) (t : Nat) : (linkLost s t).fld F.dpxLinkStatusTrained t = 0 := by
  rw [linkLost, (allocLink_slotsOnly _ t).fld (by decide), State.fld_setFld_same _ _ _ _ (by decide) (by decide)]
  rfl

/-- A lost link keeps the other fields of DPX_LINK_STATUS. -/
theorem linkLost_status (s : State) (t : Nat) {g : Reg.Field} (hf : g.fam = Reg.dpxLinkStatus) (hd : g.hi < 24 ∨ 24 < g.lo) :
    (linkLost s t).fld g t = s.fld g t := by
  rw [linkLost, (allocLink_slotsOnly _ t).fld (by rw [hf]; decide),
    State.fld_setFld_apart _ _ _ _ _ hf.symm (by decide) (by decide) hd]

/-- A lost link keeps DPX_LINK_CTRL. -/
theorem linkLost_ctrl (s : State) (t : Nat) {g : Reg.Field} (hf : g.fam = Reg.dpxLinkCtrl) (j : Nat) :
    (linkLost s t).fld g j = s.fld g j := by
  rw [linkLost, (allocLink_slotsOnly _ t).fld (by rw [hf]; decide),
    State.fld_setFld_ne _ _ _ _ _ _ (State.key_ne_fam (by rw [hf]; decide) _ _)]

section
variable (s : State) (t : Nat)

/-- A transmitter that is enabled, with its sink's hot-plug detect asserted, trains (R414). -/
theorem trainStart_of_ready (hen : s.fld F.dpxLinkCtrlEn t = 1) (hhpd : s.fld F.dpxLinkStatusHpd t = 1) :
    trainStart s t = linkLost (s.setDpTx t { training := true, failedAt := none }) t := if_pos ⟨hen, hhpd⟩

/-- What stands once training has started: the transmitter trains, its link is not trained, and hot-plug detect is as before. -/
theorem trainStart_starts (hen : s.fld F.dpxLinkCtrlEn t = 1) (hhpd : s.fld F.dpxLinkStatusHpd t = 1) :
    (trainStart s t).fld F.dpxLinkStatusHpd t = 1 ∧ ((trainStart s t).dpTx t).training = true ∧
      (trainStart s t).fld F.dpxLinkStatusTrained t = 0 := by
  rw [trainStart_of_ready s t hen hhpd]
  refine ⟨?_, by simp, by simp⟩
  rw [linkLost_status _ _ rfl (by decide), State.setDpTx_fld, hhpd]

end

/-! ### The commands of a transmitter -/

section
variable (s : State) (t : Fin 2)

/-- Hot-plug detect asserted: the status shows it, and an enabled transmitter trains (R414). -/
theorem hotPlug_assert_trains (hon : s.power.on = true) (hen : s.fld F.dpxLinkCtrlEn t = 1) :
    ∃ u, exec (.hotPlug t .assert) s = .next u ∧ u.fld F.dpxLinkStatusHpd t = 1 ∧ (u.dpTx t).training = true ∧
      u.fld F.dpxLinkStatusTrained t = 0 := by
  have hexec : exec (.hotPlug t .assert) s = .next (trainStart (s.setFld F.dpxLinkStatusHpd t 1) t) := if_pos hon
  have hen' : (s.setFld F.dpxLinkStatusHpd t 1).fld F.dpxLinkCtrlEn t = 1 := by
    rw [State.fld_setFld_ne _ _ _ _ _ _ (State.key_ne_fam (by decide) _ _), hen]
  have hhpd : (s.setFld F.dpxLinkStatusHpd t 1).fld F.dpxLinkStatusHpd t = 1 :=
    State.fld_setFld_same _ _ _ _ (by decide) (by decide)
  exact ⟨_, hexec, trainStart_starts _ _ hen' hhpd⟩

/-- Hot-plug detect deasserted: the status shows it, and the link is down and no longer tried (R414, log 42). -/
theorem hotPlug_deassert_drops (hon : s.power.on = true) :
    ∃ u, exec (.hotPlug t .deassert) s = .next u ∧ u.fld F.dpxLinkStatusHpd t = 0 ∧ u.fld F.dpxLinkStatusTrained t = 0 ∧
      u.dpTx t = {} := by
  have hexec : exec (.hotPlug t .deassert) s = .next (linkLost ((s.setFld F.dpxLinkStatusHpd t 0).setDpTx t {}) t) := if_pos hon
  refine ⟨_, hexec, ?_, by simp, by simp⟩
  rw [linkLost_status _ _ rfl (by decide), State.setDpTx_fld]
  exact State.fld_setFld_same _ _ _ _ (by decide) (by decide)

/-- RATE, LANES and TRAINED of DPX_LINK_STATUS set as a training that succeeds sets them. -/
def markTrained (r : Fin 7) (l : Fin 3) : State :=
  ((s.setFld F.dpxLinkStatusRate t r).setFld F.dpxLinkStatusLanes t l).setFld F.dpxLinkStatusTrained t 1

/-- Each of the three fields is wide enough for its value and apart from the other two. -/
theorem markTrained_status (r : Fin 7) (l : Fin 3) :
    (markTrained s t r l).fld F.dpxLinkStatusTrained t = 1 ∧ (markTrained s t r l).fld F.dpxLinkStatusRate t = r ∧
      (markTrained s t r l).fld F.dpxLinkStatusLanes t = l := by
  have hr : r.val % 2 ^ 4 = r := Nat.mod_eq_of_lt (by omega)
  have hl : l.val % 2 ^ 2 = l := Nat.mod_eq_of_lt (by omega)
  unfold markTrained
  refine ⟨State.fld_setFld_same _ _ _ _ (by decide) (by decide), ?_, ?_⟩
  · rw [State.fld_setFld_apart _ F.dpxLinkStatusTrained F.dpxLinkStatusRate _ _ rfl (by decide) (by decide) (by decide),
      State.fld_setFld_apart _ F.dpxLinkStatusLanes F.dpxLinkStatusRate _ _ rfl (by decide) (by decide) (by decide),
      State.fld_setFld_same _ _ _ _ (by decide) (by decide)]
    exact hr
  · rw [State.fld_setFld_apart _ F.dpxLinkStatusTrained F.dpxLinkStatusLanes _ _ rfl (by decide) (by decide) (by decide),
      State.fld_setFld_same _ _ _ _ (by decide) (by decide)]
    exact hl

/-- Training ends at a rate and lane count within DPX_LINK_CTRL, with the composer domain ON and its pads free (R414, R415). -/
theorem linkTrainingEnd_success {r : Fin 7} {l : Fin 3} (htr : (s.dpTx t).training = true) (hdom : s.domOn domComposer = true)
    (hpads : s.fld F.pwrDomainStatusPadsHeld domComposer = 0) (hr : r.val ≤ s.fld F.dpxLinkCtrlMaxRate t)
    (hl : l.val ≤ s.fld F.dpxLinkCtrlMaxLanes t) :
    ∃ u, exec (.linkTrainingEnd t (some (r, l))) s = .next u ∧ u.fld F.dpxLinkStatusTrained t = 1 ∧
      u.fld F.dpxLinkStatusRate t = r ∧ u.fld F.dpxLinkStatusLanes t = l ∧ (u.dpTx t).training = false := by
  have hexec : exec (.linkTrainingEnd t (some (r, l))) s = .next (allocLink ((markTrained s t r l).setDpTx t {}) t) :=
    (if_pos htr).trans (if_pos ⟨hdom, hpads, hr, hl⟩)
  obtain ⟨htrained, hrate, hlanes⟩ := markTrained_status s t r l
  have frame := allocLink_slotsOnly ((markTrained s t r l).setDpTx t {}) t
  refine ⟨_, hexec, ?_, ?_, ?_, ?_⟩
  · rw [frame.fld (by decide), State.setDpTx_fld, htrained]
  · rw [frame.fld (by decide), State.setDpTx_fld, hrate]
  · rw [frame.fld (by decide), State.setDpTx_fld, hlanes]
  · rw [frame.dpTx, State.setDpTx_dpTx_same]

/-- Training fails at every rate: the time is kept, and TRAIN_FAILS goes up by 1 and wraps (R414). -/
theorem linkTrainingEnd_failure (htr : (s.dpTx t).training = true) :
    ∃ u, exec (.linkTrainingEnd t none) s = .next u ∧ (u.dpTx t).failedAt = some s.now ∧
      u.fld F.dpxLinkStatusTrainFails t =
        (s.fld F.dpxLinkStatusTrainFails t + 1) % 2 ^ (F.dpxLinkStatusTrainFails.hi + 1 - F.dpxLinkStatusTrainFails.lo) := by
  have hexec : exec (.linkTrainingEnd t none) s = .next (event
      ((s.setDpTx t { training := false, failedAt := some s.now }).bump F.dpxLinkStatusTrainFails t) 0x0701 0 t) := if_pos htr
  refine ⟨_, hexec, by simp, ?_⟩
  rw [event_fld _ _ _ _ _ (by decide), State.bump, State.fld_setFld_same _ _ _ _ (by decide) (by decide), State.setDpTx_fld]

/-- A second after a failure, a transmitter that is still enabled and plugged trains again (R414). -/
theorem trainRetry_trains {k : Nat} (hfail : (s.dpTx t).failedAt = some k) (hk : k + 1000000000 ≤ s.now)
    (hen : s.fld F.dpxLinkCtrlEn t = 1) (hhpd : s.fld F.dpxLinkStatusHpd t = 1) :
    ∃ u, exec (.trainRetry t) s = .next u ∧ (u.dpTx t).training = true := by
  have hexec : exec (.trainRetry t) s = .next (trainStart s t) := by
    change execTrainRetry t s = _
    rw [execTrainRetry, hfail]
    exact if_pos hk
  exact ⟨_, hexec, (trainStart_starts s t hen hhpd).2.1⟩

/-- A trained link that loses lock trains again (R414). -/
theorem lossOfLock_trains (htrained : s.fld F.dpxLinkStatusTrained t = 1) (hen : s.fld F.dpxLinkCtrlEn t = 1)
    (hhpd : s.fld F.dpxLinkStatusHpd t = 1) :
    ∃ u, exec (.lossOfLock t) s = .next u ∧ (u.dpTx t).training = true ∧ u.fld F.dpxLinkStatusTrained t = 0 := by
  have hexec : exec (.lossOfLock t) s = .next (trainStart (linkLost s t) t) := if_pos htrained
  have hen' : (linkLost s t).fld F.dpxLinkCtrlEn t = 1 := by rw [linkLost_ctrl s t rfl, hen]
  have hhpd' : (linkLost s t).fld F.dpxLinkStatusHpd t = 1 := by rw [linkLost_status s t rfl (by decide), hhpd]
  exact ⟨_, hexec, (trainStart_starts _ _ hen' hhpd').2⟩

end

/-! ### Register writes -/

/-- A write of DPX_LINK_CTRL that the device serves. -/
theorem exec_dpxLinkCtrl_of_serves {s : State} (t : Fin 2) (v : W32) (h : Serves s Reg.dpxLinkCtrl) :
    exec (.dpxLinkCtrl t v) s = .next (linkCtrlWrite s t v) :=
  congrArg Host.Outcome.next (guarded_serves _ none h (by simp))

/-- A write of DPX_STREAM that the device serves. -/
theorem exec_dpxStream_of_serves {s : State} (p : Fin 4) (v : W64) (h : Serves s Reg.dpxStream) :
    exec (.dpxStream p v) s = .next (streamWrite s p v) :=
  congrArg Host.Outcome.next (guarded_serves _ none h (by simp))

/-- A write that keeps an enabled transmitter enabled, with no reserved code, sets the register and nothing else (R420). -/
theorem linkCtrlWrite_of_stays_enabled (s : State) (t : Nat) {v : W32} (hrate : bitsOf v 15 12 < 7) (hlanes : bitsOf v 11 10 ≠ 3)
    (hv : natBit v.toNat 0 = true) (hen : s.fld F.dpxLinkCtrlEn t = 1) :
    linkCtrlWrite s t v = (s.wrPlain Reg.dpxLinkCtrl t (v.setWidth 64)).answer stOk := by
  have hcodes : ¬ (7 ≤ bitsOf v 15 12 ∨ bitsOf v 11 10 = 3) := by omega
  simp only [linkCtrlWrite, hcodes, hv, hen, if_true, if_false]

section
variable (s : State) (p : Nat) {v : W64}

/-- DPX_STREAM of a pipe that is OFF takes a value whose BPP_X16 is in range where DSC is set (R421). -/
theorem streamWrite_of_valid (hoff : s.fld F.lyrPipeStatusState p = lcOff)
    (hbpp : bitsOf v 28 28 = 1 → 128 ≤ bitsOf v 25 17 ∧ bitsOf v 25 17 ≤ 384) :
    streamWrite s p v = (s.wrPlain Reg.dpxStream p v).answer stOk := by
  have hrange : ¬ (bitsOf v 28 28 = 1 ∧ (bitsOf v 25 17 < 128 ∨ 384 < bitsOf v 25 17)) := by omega
  rw [streamWrite, if_neg (not_not_intro hoff), if_neg hrange]

/-- DSC with BPP_X16 out of range is INVALID_COMMAND and leaves the register (R421). -/
theorem streamWrite_of_bpp_out (hoff : s.fld F.lyrPipeStatusState p = lcOff) (hdsc : bitsOf v 28 28 = 1)
    (hbpp : bitsOf v 25 17 < 128 ∨ 384 < bitsOf v 25 17) : streamWrite s p v = s.answer stInvalid := by
  rw [streamWrite, if_neg (not_not_intro hoff), if_pos ⟨hdsc, hbpp⟩]

/-- DPX_STREAM of a pipe that is not OFF is RESOURCE_BUSY (R378). -/
theorem streamWrite_of_not_off (hoff : s.fld F.lyrPipeStatusState p ≠ lcOff) : streamWrite s p v = s.answer stBusy := if_pos hoff

end

/-- Settles O33: each clause is the lemma above about its command; what carries them is that an allocation of slots leaves the
transmitters, DPX_LINK_CTRL and DPX_LINK_STATUS alone (`allocLink_slotsOnly`). -/
theorem displayLinks : Obligations.DisplayLinks := by
  unfold Obligations.DisplayLinks
  intro s t p
  refine ⟨fun hon => ⟨hotPlug_assert_trains s t hon, hotPlug_deassert_drops s t hon⟩,
    fun htr => ⟨fun _ _ => linkTrainingEnd_success s t htr, linkTrainingEnd_failure s t htr⟩,
    fun _ => trainRetry_trains s t, lossOfLock_trains s t, ?_, ?_⟩
  · intro v hs hrate hlanes hv hen
    rw [exec_dpxLinkCtrl_of_serves t v hs, linkCtrlWrite_of_stays_enabled s t hrate hlanes hv hen]
  · intro v hs
    rw [exec_dpxStream_of_serves p v hs]
    exact ⟨fun hoff hbpp => by rw [streamWrite_of_valid s p hoff hbpp],
      fun hoff hdsc hbpp => by rw [streamWrite_of_bpp_out s p hoff hdsc hbpp],
      fun hoff => by rw [streamWrite_of_not_off s p hoff]⟩

end Sys2Proof.Machine
end

section
/-! Handles (spec/10 R478 to R492): the generations that follow one another and the handles that name nothing, what CREATE and
QUEUE_CREATE can do to the table of contexts and of queues, and the obligation about them. -/

namespace Sys2Proof.Machine

open Sys2Proof Sys2Proof.Safety

/-! ### Generations -/

theorem nextGen_of_lt {w g : Nat} (h : g < 2 ^ w - 1) : nextGen w g = g + 1 := if_pos (by omega)

/-- After the largest generation of its field comes 1 (R479). -/
theorem nextGen_largest (w : Nat) : nextGen w (2 ^ w - 1) = 1 := if_neg (by omega)

theorem nextGen_ne_zero (w g : Nat) : nextGen w g ≠ 0 := by
  unfold nextGen
  split
  · exact Nat.succ_ne_zero g
  · exact Nat.one_ne_zero

theorem staleCtx_of_hGen_zero (s : State) {h : W32} (hg : hGen h = 0) : s.staleCtx h = true :=
  decide_eq_true (.inr (.inr hg))

theorem staleQueue_of_qGen_zero (s : State) {h : W32} (hg : qGen h = 0) : s.staleQueue h = true :=
  decide_eq_true (.inr (.inr hg))

/-! ### What the front end's operations leave alone -/

section
variable (s : State)

/-- All that a guarded management write can do: nothing, the write, or a refusal (R42, R700, R747). -/
theorem guarded_cases (fam : Nat) (f : State → State) (u : Option ResetUnit) :
    guarded s fam f u = s ∨ guarded s fam f u = f s ∨ guarded s fam f u = s.answer stBusy := by
  unfold guarded
  dsimp only
  split_ifs
  · exact .inl rfl
  · exact .inr (.inl rfl)
  · exact .inr (.inr rfl)

@[simp] theorem feResult_at_ctx (st : W16) (x h j : Nat) : (feResult s st x h).ctx j = s.ctx j := by simp [feResult]

@[simp] theorem feResult_at_queue (st : W16) (x h j : Nat) : (feResult s st x h).queue j = s.queue j := by simp [feResult]

/-- Reading a record changes memory's own state at most. -/
theorem readRecord_state (a n : Nat) : (readRecord s a n).2 = s ∨ (readRecord s a n).2 = (memLoad s a (8 * n)).2 := by
  unfold readRecord
  split
  · exact .inl rfl
  · right
    split <;> simp [*]

@[simp] theorem readRecord_at_ctx (a n j : Nat) : (readRecord s a n).2.ctx j = s.ctx j := by
  obtain h | h := readRecord_state s a n <;> simp [h]

@[simp] theorem readRecord_at_queue (a n j : Nat) : (readRecord s a n).2.queue j = s.queue j := by
  obtain h | h := readRecord_state s a n <;> simp [h]

/-! ### Creations -/

/-- CREATE leaves a context as it is, or gives it the next generation (R479, R485). -/
theorem feCreate_at_ctx (arg : W32) (j : Nat) :
    (feCreate s arg).ctx j = s.ctx j ∨ ((feCreate s arg).ctx j).gen = nextGen 20 (s.ctx j).gen := by
  have hread := readRecord_at_ctx s (ctxRecordAddr s arg.toNat) 8
  unfold feCreate
  dsimp only
  split
  · simp
  split
  · simp
  split
  · simp
  generalize readRecord s (ctxRecordAddr s arg.toNat) 8 = r at hread
  obtain ⟨_ | w, u⟩ := r
  · exact .inl ((feResult_at_ctx ..).trans (hread j))
  dsimp only at hread ⊢
  split
  · by_cases hj : j = arg.toNat
    · subst hj
      exact .inr (by simp [Ctx.limits, hread])
    · exact .inl (by simp [State.setCtx_ctx, hj, hread])
  · exact .inl (by simp [hread])

/-- FE_OP QUEUE_CREATE leaves a queue as it is, or gives it the next generation (R479, R492). -/
theorem feQueueCreate_at_queue (arg : W32) (j : Nat) :
    (feQueueCreate s arg).queue j = s.queue j ∨ ((feQueueCreate s arg).queue j).gen = nextGen 18 (s.queue j).gen := by
  have hread := readRecord_at_queue s (queueRecordAddr s arg.toNat) 8
  unfold feQueueCreate
  dsimp only
  split
  · simp
  split
  · simp
  generalize readRecord s (queueRecordAddr s arg.toNat) 8 = r at hread
  obtain ⟨_ | w, u⟩ := r
  · exact .inl ((feResult_at_queue ..).trans (hread j))
  dsimp only at hread ⊢
  -- six refusals, each with every queue as it was, stand before the new queue
  iterate 6
    split
    · exact .inl (by simp [hread])
  by_cases hj : j = arg.toNat
  · subst hj
    exact .inr (by simp [hread])
  · exact .inl (by simp [State.setQueue_queue, hj, hread])

end

/-! ### A swap keeps the names of queues -/

/-- Each queue keeps its state and its generation from `s` to `t`: the handles that name a queue are the same. -/
def KeepsNames (s t : State) : Prop := ∀ j, (t.queue j).state = (s.queue j).state ∧ (t.queue j).gen = (s.queue j).gen

theorem KeepsNames.refl (s : State) : KeepsNames s s := fun _ => ⟨rfl, rfl⟩

theorem KeepsNames.trans {s t u : State} (h : KeepsNames s t) (k : KeepsNames t u) : KeepsNames s u := fun j =>
  ⟨(k j).1.trans (h j).1, (k j).2.trans (h j).2⟩

theorem KeepsNames.of_queues {s t : State} (h : t.queues = s.queues) : KeepsNames s t := fun j => by
  simp [State.queue, h]

theorem KeepsNames.setQueue (s : State) {i : Nat} {q : Queue} (hst : q.state = (s.queue i).state) (hgen : q.gen = (s.queue i).gen) :
    KeepsNames s (s.setQueue i q) := by
  intro j
  rw [State.setQueue_queue]
  split
  · next hj => exact hj ▸ ⟨hst, hgen⟩
  · exact ⟨rfl, rfl⟩

section
variable (s : State) (qi : Nat)

theorem saveQueue_queues : (saveQueue s qi).queues = s.queues := by
  unfold saveQueue
  extract_lets q a
  split
  · exact memStore_queues ..
  · rfl

theorem reloadQueue_keepsNames : KeepsNames s (reloadQueue s qi) := by
  unfold reloadQueue
  dsimp only
  split
  · have hload := memLoad_queues s (queueRecordAddr s qi + 24) 16
    generalize memLoad s (queueRecordAddr s qi + 24) 16 = r at hload
    obtain ⟨_ | bs, u⟩ := r
    · exact .of_queues hload
    · exact (KeepsNames.of_queues hload).trans (.setQueue u rfl rfl)
  · exact .refl s

theorem placeQueue_keepsNames (sl : Nat) : KeepsNames s (placeQueue s qi sl) := by
  have hslot := KeepsNames.setQueue (reloadQueue s qi) (i := qi) (q := { (reloadQueue s qi).queue qi with slot := some sl }) rfl rfl
  exact ((reloadQueue_keepsNames s qi).trans hslot).trans (.of_queues (State.bump_queues ..))

/-- Benching one queue for another changes slots and pointers, and no queue's state or generation (R529, R531). -/
theorem swapIn_keepsNames (only3 : Bool) : KeepsNames s (swapIn s qi only3) := by
  unfold swapIn
  dsimp only
  split
  · exact placeQueue_keepsNames s qi _
  · split
    · exact .refl s
    · next vi _ =>
      have hsave := KeepsNames.of_queues (saveQueue_queues s vi)
      have hbench := KeepsNames.setQueue (saveQueue s vi) (i := vi) (q := { s.queue vi with slot := none })
        (hsave vi).1.symm (hsave vi).2.symm
      exact (hsave.trans hbench).trans (placeQueue_keepsNames _ qi _)

end

/-- QUEUE_CREATE, with the slot that an on-deck queue takes, keeps a queue's state or gives it the next generation (R479, R492,
R525). -/
theorem queueCreate_at_queue (s : State) (arg : W32) (j : Nat) :
    ((queueCreate s arg).queue j).state = (s.queue j).state ∨ ((queueCreate s arg).queue j).gen = nextGen 18 (s.queue j).gen := by
  have hslot : KeepsNames (feQueueCreate s arg) (queueCreate s arg) := by
    unfold queueCreate
    dsimp only
    split
    · exact swapIn_keepsNames _ _ _
    · exact .refl _
  obtain ⟨hst, hgen⟩ := hslot j
  rw [hst, hgen]
  exact (feQueueCreate_at_queue s arg j).imp_left (congrArg Queue.state)

/-! ### The commands -/

theorem exec_create_at_ctx {s t : State} {arg : W32} (h : exec (.create arg) s = .next t) (i : Nat) :
    (t.ctx i).state = (s.ctx i).state ∨ (t.ctx i).gen = nextGen 20 (s.ctx i).gen := by
  obtain rfl : guarded s Reg.feOp (feCreate · arg) = t := Host.Outcome.next.inj h
  obtain hg | hg | hg := guarded_cases s Reg.feOp (feCreate · arg) none <;> rw [hg]
  · exact .inl rfl
  · exact (feCreate_at_ctx s arg i).imp_left (congrArg Ctx.state)
  · exact .inl (by rw [State.answer_at_ctx])

theorem exec_queueCreate_at_queue {s t : State} {arg : W32} (h : exec (.queueCreate arg) s = .next t) (i : Nat) :
    (t.queue i).state = (s.queue i).state ∨ (t.queue i).gen = nextGen 18 (s.queue i).gen := by
  obtain rfl : guarded s Reg.feOp (queueCreate · arg) = t := Host.Outcome.next.inj h
  obtain hg | hg | hg := guarded_cases s Reg.feOp (queueCreate · arg) none <;> rw [hg]
  · exact .inl rfl
  · exact queueCreate_at_queue s arg i
  · exact .inl (by rw [State.answer_at_queue])

/-- Settles O60: a context or queue that a creation takes out of FREE has changed its state, so it has the next generation
(`exec_create_at_ctx`, `exec_queueCreate_at_queue`); the slot that an on-deck queue takes on the way keeps every queue's generation
(`swapIn_keepsNames`). -/
theorem generationsAdvance : Obligations.GenerationsAdvance := by
  unfold Obligations.GenerationsAdvance
  refine ⟨fun s t arg h i hfree hused => ?_, fun s t arg h i hfree hused => ?_, fun w g _ => ⟨nextGen_of_lt, ?_⟩,
    nextGen_ne_zero, fun s h => ⟨staleCtx_of_hGen_zero s, staleQueue_of_qGen_zero s⟩⟩
  · exact (exec_create_at_ctx h i).resolve_left fun hst => hused (hst.trans hfree)
  · exact (exec_queueCreate_at_queue h i).resolve_left fun hst => hused (hst.trans hfree)
  · rintro rfl
    exact nextGen_largest w

end Sys2Proof.Machine
end

section
/-! Registers of the links and BULK (spec/12 R625, R636 to R639, R646, R647): when a write of IQL_ROUTE, IQL_PORT_CTRL or IQL_CFG is
taken and when it is refused, how a BULK command runs on its port and ends, and the obligation about them. -/

namespace Sys2Proof.Machine

open Sys2Proof Sys2Proof.Safety

/-! ### IQL_ROUTE and IQL_CFG -/

section
variable {s : State} (v : W32)

/-- A write of IQL_ROUTE that the device serves. -/
theorem exec_iqlRoute_of_serves (d : Fin 64) (h : Serves s Reg.iqlRoute) : exec (.iqlRoute d v) s = .next (iqlRouteWrite s d v) :=
  congrArg Host.Outcome.next (guarded_serves _ none h (by simp))

/-- A write of IQL_CFG that the device serves. -/
theorem exec_iqlCfg_of_serves (h : Serves s Reg.iqlCfg) : exec (.iqlCfg v) s = .next (iqlCfgWrite s v) :=
  congrArg Host.Outcome.next (guarded_serves _ none h (by simp))

end

section
variable (s : State) {v : W32}

/-- A route that is not VALID, has no ALTERNATE, or has one apart from its PRIMARY is taken (R646). -/
theorem iqlRouteWrite_of_apart (d : Nat) (h : bitsOf v 7 7 = 0 ∨ bitsOf v 4 4 = 0 ∨ bitsOf v 6 5 ≠ bitsOf v 3 2) :
    iqlRouteWrite s d v = (s.wrPlain Reg.iqlRoute d (v.setWidth 64)).answer stOk := if_neg (by omega)

/-- A VALID route whose ALTERNATE is its PRIMARY is INVALID_COMMAND and leaves the register (R646). -/
theorem iqlRouteWrite_of_same_port (d : Nat) (hvalid : bitsOf v 7 7 = 1) (halt : bitsOf v 4 4 = 1)
    (hsame : bitsOf v 6 5 = bitsOf v 3 2) : iqlRouteWrite s d v = s.answer stInvalid := if_pos ⟨hvalid, halt, hsame⟩

theorem iqlCfgWrite_of_timeout (h : bitsOf v 19 6 ≠ 0) :
    iqlCfgWrite s v = (s.wrPlain Reg.iqlCfg 0 (v.setWidth 64)).answer stOk := if_neg h

/-- TX_TIMEOUT_US of 0 is INVALID_COMMAND and leaves the register (R646). -/
theorem iqlCfgWrite_of_no_timeout (h : bitsOf v 19 6 = 0) : iqlCfgWrite s v = s.answer stInvalid := if_pos h

end

/-! ### IQL_PORT_CTRL -/

/-- DATELINE and ALLOW_X2 of IQL_PORT_CTRL as one field: the bits that change only while the port is OFF (R647). -/
def portModes : Reg.Field := ⟨Reg.iqlPortCtrl, 3, 2⟩

/-- A write of IQL_PORT_CTRL that the device serves. -/
theorem exec_iqlPortCtrl_of_serves {s : State} (p : Fin 4) (v : W32) (h : ServesUnit s Reg.iqlPortCtrl (.port p)) :
    exec (.iqlPortCtrl p v) s = .next (iqlPortCtrlWrite s p v) :=
  congrArg Host.Outcome.next (guarded_serves _ (some (.port p)) h.1 fun _ hx => Option.some.inj hx ▸ h.2)

section
variable (s : State) (p : Nat)

/-- A port that is OFF stays OFF when it is disabled (R607). -/
theorem iqlDisable_of_off (hoff : s.fld F.iqlPortStatusState p = lcOff) :
    iqlDisable s p = ((s.setFld F.iqlPortStatusState p lcOff).setFld F.iqlPortCtrlEnable p 0).answer stOk := by
  rw [iqlDisable, iqlEvent, hoff]
  rfl

/-- Setting the modes leaves the port's STATE. -/
theorem setFld_portModes_state (x : Nat) : (s.setFld portModes p x).fld F.iqlPortStatusState p = s.fld F.iqlPortStatusState p :=
  State.fld_setFld_ne _ _ _ _ _ _ (State.key_ne_fam (by decide) _ _)

variable {v : W32}

/-- A write with ENABLE at 0 to a port that is OFF sets the modes, whatever they were, and disables (R607, R647). -/
theorem iqlPortCtrlWrite_of_off (hen : bitsOf v 0 0 = 0) (hoff : s.fld F.iqlPortStatusState p = lcOff) :
    iqlPortCtrlWrite s p v = iqlDisable (s.setFld portModes p (bitsOf v 3 2)) p :=
  (if_neg fun h => h.2 hoff).trans (if_neg (by omega))

/-- A write that would change the modes of a port that is not OFF is RESOURCE_BUSY (R647, log 61). -/
theorem iqlPortCtrlWrite_of_not_off (hoff : s.fld F.iqlPortStatusState p ≠ lcOff)
    (hmodes : bitsOf v 3 2 ≠ bitsOf (s.rd Reg.iqlPortCtrl p) 3 2) : iqlPortCtrlWrite s p v = s.answer stBusy :=
  if_pos ⟨hmodes, hoff⟩

/-- What stands after a write with ENABLE at 0 to a port that is OFF: it answers OK, the modes read as written, and the port is OFF. -/
theorem iqlPortCtrlWrite_off_result (hen : bitsOf v 0 0 = 0) (hoff : s.fld F.iqlPortStatusState p = lcOff) :
    (iqlPortCtrlWrite s p v).mgmt = stOk ∧ bitsOf ((iqlPortCtrlWrite s p v).rd Reg.iqlPortCtrl p) 3 2 = bitsOf v 3 2 ∧
      (iqlPortCtrlWrite s p v).fld F.iqlPortStatusState p = lcOff := by
  rw [iqlPortCtrlWrite_of_off s p hen hoff, iqlDisable_of_off _ p ((setFld_portModes_state s p _).trans hoff)]
  refine ⟨rfl, ?_, ?_⟩
  · change State.fld _ portModes p = _
    rw [State.answer_fld, State.fld_setFld_apart _ F.iqlPortCtrlEnable portModes _ _ rfl (by decide) (by decide) (by decide),
      State.fld_setFld_ne _ _ _ _ _ _ (State.key_ne_fam (by decide) _ _), State.fld_setFld_same _ _ _ _ (by decide) (by decide)]
    exact Nat.mod_eq_of_lt (natBits_lt _ 3 2)
  · rw [State.answer_fld, State.fld_setFld_ne _ _ _ _ _ _ (State.key_ne_fam (by decide) _ _),
      State.fld_setFld_same _ _ _ _ (by decide) (by decide)]
    rfl

end

/-! ### BULK -/

/-- A BULK transfer between this device and device `d`, its descriptor read and its two ends translated: on the port that leads to
`d`, piece by piece and within its time budget (R637 to R639). -/
def bulkTransfer (s : State) (qi : Nat) (push : Bool) (d src dst n : Nat) : State :=
  match (bulkPort s d).bind (retarget s qi) with
  | some t => t
  | none =>
    match bulkMove (n / 16 + 1) (beginCmd (bulkOn s qi d) qi (some (n / 4 + 1000000))) qi push d src dst n with
    | (some e, t) => complete t qi e
    | (none, t) => complete t qi stOk

/-- A transfer on its own port whose pieces are all on their way goes on to complete with OK (R637, R638). -/
theorem bulkTransfer_of_moved {s w : State} {qi d src dst n : Nat} {push : Bool} (hport : (bulkPort s d).bind (retarget s qi) = none)
    (hmove : bulkMove (n / 16 + 1) (beginCmd (bulkOn s qi d) qi (some (n / 4 + 1000000))) qi push d src dst n = (none, w)) :
    bulkTransfer s qi push d src dst n = complete w qi stOk := by
  simp only [bulkTransfer, hport, hmove]

section
variable {s s1 s2 s3 : State} {qi src dst n : Nat} {bs : List Byte}
  (hread : ctxReadObj s none (s.queue qi).owner .load (s.queue qi).object 32 = (.ok bs, s1))
  (hfields : bulkFields (wordsOf bs) = some (src, dst, n))
include hread hfields

/-- From here to another device, the transfer pushes (R636). -/
theorem bulkRun_of_push {x d y : Nat} (hsrc : xlate s1 none (s.queue qi).owner .load src = (.ok (.mem x), s2))
    (hdst : xlate s2 none (s.queue qi).owner .store dst = (.ok (.remote d y), s3)) :
    bulkRun s qi = bulkTransfer s3 qi true d src dst n := by
  simp only [bulkRun, hread, hfields, hsrc, hdst]
  rfl

/-- From another device to here, it pulls (R636). -/
theorem bulkRun_of_pull {d x y : Nat} (hsrc : xlate s1 none (s.queue qi).owner .load src = (.ok (.remote d x), s2))
    (hdst : xlate s2 none (s.queue qi).owner .store dst = (.ok (.mem y), s3)) :
    bulkRun s qi = bulkTransfer s3 qi false d src dst n := by
  simp only [bulkRun, hread, hfields, hsrc, hdst]
  rfl

/-- A transfer with both ends here is INVALID_COMMAND (R636). -/
theorem bulkRun_of_local {x y : Nat} (hsrc : xlate s1 none (s.queue qi).owner .load src = (.ok (.mem x), s2))
    (hdst : xlate s2 none (s.queue qi).owner .store dst = (.ok (.mem y), s3)) : bulkRun s qi = complete s3 qi stInvalid := by
  simp only [bulkRun, hread, hfields, hsrc, hdst]

end

/-- A command's step that lacks nothing of other devices is taken: it ends its own requests for their memory (log 32). -/
theorem withFarCmd_of_no_lack {s t : State} {qi : Nat} {f : State → State}
    (hf : f { s with farUnit := some qi, farMiss := [], farLack := false } = t) (hlack : t.farLack = false) :
    withFarCmd s qi f = { t with farUnit := none, far := t.far.filter (fun x => x.unit ≠ qi) } := by
  subst hf
  exact if_neg (by simp [hlack])

/-- A BULK that starts without a stop request, and lacks nothing, leads to the state that its run ends in. -/
theorem exec_bulk_of_run {s t : State} {q : Fin 16384} (hstart : starting s q 7 = true) (hstop : (s.queue q).stopReq = none)
    (hrun : bulkRun { s with farUnit := some q.val, farMiss := [], farLack := false } q = t) (hlack : t.farLack = false) :
    exec (.bulk q) s = .next { t with farUnit := none, far := t.far.filter (fun x => x.unit ≠ q.val) } := by
  change execBulk q s = _
  rw [execBulk, if_pos hstart, hstop]
  exact congrArg Host.Outcome.next (withFarCmd_of_no_lack hrun hlack)

/-- Settles O45: each register's clauses are the lemmas above about its write; a BULK runs as its two ends say (`bulkRun_of_push`,
`bulkRun_of_pull`, `bulkRun_of_local`), and one that lacks nothing is taken (`exec_bulk_of_run`). -/
theorem linkRegistersAndBulk : Obligations.LinkRegistersAndBulk := by
  unfold Obligations.LinkRegistersAndBulk
  intro s v
  refine ⟨fun d hs => ?_, fun p hs hen => ?_, fun hs => ?_, ?_⟩
  · rw [exec_iqlRoute_of_serves v d hs]
    exact ⟨fun h => by rw [iqlRouteWrite_of_apart s d h],
      fun hvalid halt hsame => by rw [iqlRouteWrite_of_same_port s d hvalid halt hsame]⟩
  · rw [exec_iqlPortCtrl_of_serves p v hs]
    exact ⟨fun hoff => ⟨_, rfl, iqlPortCtrlWrite_off_result s p hen hoff⟩,
      fun hoff hmodes => by rw [iqlPortCtrlWrite_of_not_off s p hoff hmodes]⟩
  · rw [exec_iqlCfg_of_serves v hs]
    exact ⟨fun h => by rw [iqlCfgWrite_of_timeout s h], fun h => by rw [iqlCfgWrite_of_no_timeout s h]⟩
  · rintro q bs src dst n _ u1 u2 u3 hstart hstop rfl hread hfields
    refine ⟨fun x d y w hsrc hdst hport hmove => ?_, fun d x y w hsrc hdst hport hmove => ?_, fun x y hsrc hdst => ?_⟩
    · exact exec_bulk_of_run hstart hstop
        ((bulkRun_of_push hread hfields hsrc hdst).trans (bulkTransfer_of_moved hport hmove))
    · exact exec_bulk_of_run hstart hstop
        ((bulkRun_of_pull hread hfields hsrc hdst).trans (bulkTransfer_of_moved hport hmove))
    · exact exec_bulk_of_run hstart hstop (bulkRun_of_local hread hfields hsrc hdst)

end Sys2Proof.Machine
end

section
/-! The event recorder (spec/16 R798 to R802, R806, R810): tokens that return to their buckets, what a record counts while the ring is
held and while it is not, freezes and flushes, the writes of EVR_CFG and EVR_FREEZE, and the obligation about them. -/

namespace Sys2Proof.Machine

open Sys2Proof Sys2Proof.Safety

/-! ### Token buckets -/

namespace SMap

variable {α : Type}

theorem get_of_forall_ne (d : α) (m : SMap α) {k : Nat} (h : ∀ kv ∈ m, kv.1 ≠ k) : SMap.get d m k = d := by
  induction m with
  | nil => rfl
  | cons kv m ih =>
    obtain ⟨hk, hm⟩ := List.forall_mem_cons.1 h
    exact (if_neg fun e => hk e.symm).trans (ih hm)

/-- A function of every value that leaves the default is that function of every read. -/
theorem get_map_of_default {d : α} {f : α → α} (hd : f d = d) (m : SMap α) (k : Nat) :
    SMap.get d (m.map fun kv => (kv.1, f kv.2)) k = f (SMap.get d m k) := by
  induction m with
  | nil => exact hd.symm
  | cons kv m ih =>
    by_cases h : k = kv.1
    · simp [SMap.get, h]
    · simpa [SMap.get, h] using ih

/-- With one entry for each key, the entries at the default are not missed. -/
theorem get_filter_ne_default [DecidableEq α] (d : α) {m : SMap α} (hm : m.Pairwise fun x y => x.1 < y.1) (k : Nat) :
    SMap.get d (m.filter fun kv => decide (kv.2 ≠ d)) k = SMap.get d m k := by
  induction m with
  | nil => rfl
  | cons kv m ih =>
    obtain ⟨hlt, hm⟩ := List.pairwise_cons.1 hm
    by_cases hv : kv.2 = d
    · rw [List.filter_cons_of_neg (by simpa using hv), ih hm]
      by_cases hk : k = kv.1
      · rw [hk, get_of_forall_ne d m fun x hx => (hlt x hx).ne']
        simp [SMap.get, hv]
      · simp [SMap.get, hk]
    · rw [List.filter_cons_of_pos (by simpa using hv)]
      simp only [SMap.get, ih hm]

/-- A function of every value, with those dropped that come to the default. -/
theorem get_filter_map [DecidableEq α] {d : α} {f : α → α} (hd : f d = d) {m : SMap α} (hm : SMap.wf d m = true) (k : Nat) :
    SMap.get d ((m.map fun kv => (kv.1, f kv.2)).filter fun kv => decide (kv.2 ≠ d)) k = f (SMap.get d m k) := by
  have hkeys : (m.map fun kv => (kv.1, f kv.2)).Pairwise fun x y => x.1 < y.1 := List.pairwise_map.2 ((wf_iff d m).1 hm).1
  rw [get_filter_ne_default d hkeys, get_map_of_default hd]

end SMap

/-- A full bucket stays full. -/
theorem Bucket.back_default (now rate : Nat) : ({} : Bucket).back now rate = {} := by simp [Bucket.back]

/-- The tokens return to every code's bucket, and to nothing else (R798). -/
theorem exec_tokenRefill {s : State} (hwf : SMap.wf {} s.buckets = true) :
    ∃ t, exec .tokenRefill s = .next t ∧
      (∀ c, SMap.get {} t.buckets c = (SMap.get {} s.buckets c).back s.now (s.fld F.evrCfgRate)) ∧ t.regs = s.regs := by
  have hfull := Bucket.back_default s.now (s.fld F.evrCfgRate)
  exact ⟨_, rfl, SMap.get_filter_map (f := fun b : Bucket => b.back s.now (s.fld F.evrCfgRate)) hfull hwf, rfl⟩

/-! ### What a record counts -/

/-- A field is read from the registers alone. -/
theorem State.fld_of_regs {s t : State} (h : t.regs = s.regs) (g : Reg.Field) (i : Nat) : t.fld g i = s.fld g i := by
  rw [State.fld, State.rd, h, ← State.rd, ← State.fld]

/-- `t` has the recorder of `s`: of the registers only the ports' counts of dropped frames may differ, as they do after a SEND. -/
def SendOnly (s t : State) : Prop := t.unwritten = s.unwritten ∧ ∀ f i, f ≠ Reg.ethTxDrops → t.rd f i = s.rd f i

theorem SendOnly.refl (s : State) : SendOnly s s := ⟨rfl, fun _ _ _ => rfl⟩

theorem SendOnly.trans {s t u : State} (h : SendOnly s t) (k : SendOnly t u) : SendOnly s u :=
  ⟨k.1.trans h.1, fun f i hf => (k.2 f i hf).trans (h.2 f i hf)⟩

theorem SendOnly.fld {s t : State} (h : SendOnly s t) {g : Reg.Field} (hg : g.fam ≠ Reg.ethTxDrops) (i : Nat) :
    t.fld g i = s.fld g i := by rw [State.fld, h.2 _ _ hg, State.fld]

theorem offerFrame_sendOnly (s : State) (p : Nat) (f : Frame) : SendOnly s (offerFrame s p f) := by
  unfold offerFrame
  dsimp only
  split
  · exact .refl s
  · split
    · exact ⟨by simp, fun _ _ _ => by simp⟩
    · split
      · exact ⟨by simp, fun _ j hg => State.rd_setFld_ne _ _ _ _ _ _ (State.key_ne_fam hg j p)⟩
      · exact ⟨by simp, fun _ _ _ => by simp⟩

theorem qpSend_sendOnly (s : State) (i : Nat) (data : List Byte) (p : Purpose) : SendOnly s (qpSend s i data p) :=
  SendOnly.trans (t := s.setQp i _) ⟨by simp, fun _ _ _ => by simp⟩ (offerFrame_sendOnly _ _ _)

theorem sendEvent_sendOnly (s : State) (ws : List W64) : SendOnly s (sendEvent s ws) := by
  unfold sendEvent
  induction qpsOf s 3 generalizing s with
  | nil => exact .refl s
  | cons i is ih => exact (qpSend_sendOnly s i _ _).trans (ih _)

section
variable (s : State) (code : Nat) (c : W32) (p q : Nat)

/-- Every record takes the next number (R796). -/
theorem putRecord_headCount : (putRecord s code c p q).fld F.evrHeadCount = (s.fld F.evrHeadCount + 1) % 2 ^ 64 := by
  have hbump : (s.bump F.evrHeadCount).fld F.evrHeadCount = (s.fld F.evrHeadCount + 1) % 2 ^ 64 :=
    State.fld_setFld_same _ _ _ _ (by decide) (by decide)
  have ring : ∀ (u : State) i v, (u.wr Reg.evrRing i v).fld F.evrHeadCount = u.fld F.evrHeadCount :=
    fun u i v => State.fld_wr_ne u v _ (State.key_ne_fam (by decide) _ _)
  have other : ∀ (u : State) (f : Reg.Field) x, f.fam ≠ Reg.evrHead → (u.setFld f 0 x).fld F.evrHeadCount = u.fld F.evrHeadCount :=
    fun u f x h => State.fld_setFld_ne u f _ _ _ _ (State.key_ne_fam h.symm _ _)
  rw [putRecord, (sendEvent_sendOnly _ _).fld (by decide), ← hbump]
  split
  · exact other _ F.evrLostCount _ (by decide)
  · rw [ring, ring, ring, ring, other _ _ _ (by decide)]

/-- While the ring is not held, no record goes unwritten (R800, R801). -/
theorem putRecord_unwritten (h : s.recorderHeld = false) : (putRecord s code c p q).unwritten = s.unwritten := by
  have hbump : (s.bump F.evrHeadCount).recorderHeld = false := by
    rw [State.recorderHeld, State.bump_flushing, State.bump,
      State.fld_setFld_ne _ _ _ _ _ _ (State.key_ne_fam (by decide) _ _)]
    exact h
  rw [putRecord, (sendEvent_sendOnly _ _).1, if_neg (by simp [hbump])]
  simp

theorem putRecord_fld {f : Reg.Field} (h : f.fam ∉ eventFams) (i : Nat) : (putRecord s code c p q).fld f i = s.fld f i := by
  rw [State.fld, (putRecord_only s code c p q).2.1 _ _ h, State.fld]

@[simp] theorem putRecord_stw : (putRecord s code c p q).stw = s.stw := by rw [(putRecord_only s code c p q).1]
@[simp] theorem putRecord_flushing : (putRecord s code c p q).flushing = s.flushing := by rw [(putRecord_only s code c p q).1]
@[simp] theorem putRecord_power : (putRecord s code c p q).power = s.power := by rw [(putRecord_only s code c p q).1]

end

/-! ### Freezes -/

theorem frozen_lt_two (s : State) : s.fld F.evrFreezeFrozen < 2 := natBits_lt _ 31 31

/-- A freeze set to begin or to end. -/
theorem fld_setFrozen (s : State) (x : Nat) : (s.setFld F.evrFreezeFrozen 0 x).fld F.evrFreezeFrozen = x % 2 :=
  State.fld_setFld_same _ _ _ _ (by decide) (by decide)

section
variable (s : State)

@[simp] theorem thawed_stw : (thawed s).stw = s.stw := putRecord_stw _ _ _ _ _
@[simp] theorem thawed_flushing : (thawed s).flushing = s.flushing := putRecord_flushing _ _ _ _ _

theorem thawed_fld {f : Reg.Field} (h : f.fam ∉ eventFams) (i : Nat) : (thawed s).fld f i = s.fld f i :=
  putRecord_fld _ _ _ _ _ h i

/-- The THAWED record takes a number as any record does. -/
theorem thawed_headCount : (thawed s).fld F.evrHeadCount = (s.fld F.evrHeadCount + 1) % 2 ^ 64 := by
  rw [thawed, putRecord_headCount]
  rfl

/-- Where the ring is not held, the THAWED record is written, and the count of unwritten ones starts again from 0. -/
theorem thawed_unwritten (h : s.recorderHeld = false) : (thawed s).unwritten = 0 := by
  rw [thawed, putRecord_unwritten]
  exact h

@[simp] theorem thaw_stw : (thaw s).stw = s.stw := by
  unfold thaw
  dsimp only
  split
  · split <;> simp
  · rfl

/-- After a thaw no freeze is left, whether or not there was one and whether or not a flush goes on. -/
theorem thaw_frozen : (thaw s).fld F.evrFreezeFrozen = 0 := by
  unfold thaw
  dsimp only
  split
  next =>
    split
    · exact fld_setFrozen s 0
    · exact (thawed_fld _ (by decide) 0).trans (fld_setFrozen s 0)
  next h => have := frozen_lt_two s; omega

end

section
variable {s : State} (hflush : s.flushing = false)
include hflush

/-- The end of a freeze while no flush runs: one record that tells how many were not written (R800). -/
theorem thaw_of_frozen (hfrozen : s.fld F.evrFreezeFrozen = 1) : thaw s = thawed (s.setFld F.evrFreezeFrozen 0 0) := by
  rw [thaw, if_pos hfrozen]
  exact if_neg (by simp [hflush])

theorem thaw_unwritten (hfrozen : s.fld F.evrFreezeFrozen = 1) : (thaw s).unwritten = 0 := by
  have hheld : (s.setFld F.evrFreezeFrozen 0 0).recorderHeld = false := by
    rw [State.recorderHeld, fld_setFrozen, State.setFld_flushing, hflush]
    decide
  rw [thaw_of_frozen hflush hfrozen, thawed_unwritten _ hheld]

theorem thaw_headCount (hfrozen : s.fld F.evrFreezeFrozen = 1) :
    (thaw s).fld F.evrHeadCount = (s.fld F.evrHeadCount + 1) % 2 ^ 64 := by
  rw [thaw_of_frozen hflush hfrozen, thawed_headCount, State.fld_setFld_ne _ _ _ _ _ _ (State.key_ne_fam (by decide) _ _)]

end

/-- A freeze that has lasted its limit ends (R800). -/
theorem exec_freezeTimeout_of_due {s : State} (hfrozen : s.fld F.evrFreezeFrozen = 1)
    (hdue : s.stw.frozenAt + s.fld F.evrFreezeFreezeMaxMs * 1000000 ≤ s.now) : exec .freezeTimeout s = .next (thaw s) :=
  if_pos ⟨hfrozen, hdue⟩

/-- A freeze begins at the present time (R800). -/
theorem freeze_of_running {s : State} (hrun : s.fld F.evrFreezeFrozen = 0) :
    (∀ g i, (freeze s).fld g i = (s.setFld F.evrFreezeFrozen 0 1).fld g i) ∧ (freeze s).stw.frozenAt = s.now := by
  have hnot : ¬ s.fld F.evrFreezeFrozen = 1 := by omega
  have hregs : (freeze s).regs = (s.setFld F.evrFreezeFrozen 0 1).regs := by rw [freeze, if_neg hnot]
  exact ⟨State.fld_of_regs hregs, by rw [freeze, if_neg hnot]⟩

/-! ### EVR_FREEZE -/

/-- The limit of a freeze, as a write sets it before it freezes or thaws. -/
abbrev State.setLimit (s : State) (v : W32) : State := s.setFld F.evrFreezeFreezeMaxMs 0 (bitsOf v 23 8)

section
variable (s : State) (v : W32)

theorem setLimit_limit : (s.setLimit v).fld F.evrFreezeFreezeMaxMs = bitsOf v 23 8 :=
  (State.fld_setFld_same _ _ _ _ (by decide) (by decide)).trans (Nat.mod_eq_of_lt (natBits_lt _ 23 8))

theorem setLimit_frozen : (s.setLimit v).fld F.evrFreezeFrozen = s.fld F.evrFreezeFrozen :=
  State.fld_setFld_apart _ _ _ _ _ rfl (by decide) (by decide) (by decide)

theorem setLimit_fld {g : Reg.Field} (h : g.fam ≠ Reg.evrFreeze) : (s.setLimit v).fld g = s.fld g :=
  State.fld_setFld_ne _ _ _ _ _ _ (State.key_ne_fam h _ _)

theorem natBit_or (a b i : Nat) : natBit (a ||| b) i = (natBit a i || natBit b i) := by
  have test : ∀ n, natBit n i = n.testBit i := fun n => (Nat.testBit_eq_decide_div_mod_eq).symm
  rw [test, test, test, Nat.testBit_or]

/-- FREEZE_MAX_MS lies above FREEZE and THAW, which a command sets beside it. -/
theorem freezeMaxMs_or {x : W32} (hx : x.toNat < 2 ^ 8) : bitsOf (v ||| x) 23 8 = bitsOf v 23 8 := by
  rw [bitsOf, BitVec.toNat_or, natBits, ← Nat.shiftRight_eq_div_pow, Nat.shiftRight_or_distrib,
    Nat.shiftRight_eq_div_pow x.toNat, Nat.div_eq_of_lt hx, Nat.or_zero, Nat.shiftRight_eq_div_pow, bitsOf, natBits]

end

/-- A limit in range is taken; THAW then acts on a ring that is frozen, and FREEZE on one that is not (R800). -/
theorem evrFreezeWrite_of_limit {s : State} {v x : W32} (hlo : 1 ≤ bitsOf v 23 8) (hhi : bitsOf v 23 8 ≤ 60000)
    (hx : x.toNat < 2 ^ 8) :
    evrFreezeWrite s (v ||| x) =
      (if s.fld F.evrFreezeFrozen = 1 then (if natBit (v ||| x).toNat 1 then thaw (s.setLimit v) else s.setLimit v)
       else if natBit (v ||| x).toNat 0 then freeze (s.setLimit v) else s.setLimit v).answer stOk := by
  rw [← freezeMaxMs_or v hx] at hlo hhi
  rw [State.setLimit, ← freezeMaxMs_or v hx]
  exact if_neg (by omega)

section
variable {s : State} {v : W32} (hs : Serves s Reg.evrFreeze)
include hs

theorem exec_freeze_of_serves : exec (.freeze v) s = .next (evrFreezeWrite s (v ||| 1)) :=
  congrArg Host.Outcome.next (guarded_serves _ none hs (by simp))

theorem exec_thaw_of_serves : exec (.thaw v) s = .next (evrFreezeWrite s (v ||| 2)) :=
  congrArg Host.Outcome.next (guarded_serves _ none hs (by simp))

/-- A limit out of range is INVALID_COMMAND and leaves the register (R810). -/
theorem exec_freeze_thaw_of_bad_limit (h : bitsOf v 23 8 = 0 ∨ 60000 < bitsOf v 23 8) :
    exec (.freeze v) s = .next (s.answer stInvalid) ∧ exec (.thaw v) s = .next (s.answer stInvalid) := by
  have hbad : ∀ x : W32, x.toNat < 2 ^ 8 → evrFreezeWrite s (v ||| x) = s.answer stInvalid :=
    fun x hx => if_pos (by rwa [freezeMaxMs_or v hx])
  rw [exec_freeze_of_serves hs, exec_thaw_of_serves hs, hbad 1 (by decide), hbad 2 (by decide)]
  exact ⟨rfl, rfl⟩

variable (hlo : 1 ≤ bitsOf v 23 8) (hhi : bitsOf v 23 8 ≤ 60000)
include hlo hhi

theorem exec_freeze_of_running (hrun : s.fld F.evrFreezeFrozen = 0) :
    exec (.freeze v) s = .next ((freeze (s.setLimit v)).answer stOk) := by
  rw [exec_freeze_of_serves hs, evrFreezeWrite_of_limit hlo hhi (by decide), if_neg (by omega),
    if_pos (by simp [natBit_or, show natBit 1 0 = true from rfl])]

theorem exec_thaw_of_frozen (hfrozen : s.fld F.evrFreezeFrozen = 1) :
    exec (.thaw v) s = .next ((thaw (s.setLimit v)).answer stOk) := by
  rw [exec_thaw_of_serves hs, evrFreezeWrite_of_limit hlo hhi (by decide), if_pos hfrozen,
    if_pos (by simp [natBit_or, show natBit 2 1 = true from rfl])]

/-- A ring that is frozen takes from a FREEZE without THAW its limit alone. -/
theorem exec_freeze_of_frozen (hfrozen : s.fld F.evrFreezeFrozen = 1) (hthaw : natBit v.toNat 1 = false) :
    exec (.freeze v) s = .next ((s.setLimit v).answer stOk) := by
  rw [exec_freeze_of_serves hs, evrFreezeWrite_of_limit hlo hhi (by decide), if_pos hfrozen,
    if_neg (by simp [natBit_or, hthaw, show natBit 1 1 = false from rfl])]

/-- A ring that is not frozen takes from a THAW without FREEZE its limit alone. -/
theorem exec_thaw_of_running (hrun : s.fld F.evrFreezeFrozen = 0) (hfreeze : natBit v.toNat 0 = false) :
    exec (.thaw v) s = .next ((s.setLimit v).answer stOk) := by
  rw [exec_thaw_of_serves hs, evrFreezeWrite_of_limit hlo hhi (by decide), if_neg (by omega),
    if_neg (by simp [natBit_or, hfreeze, show natBit 2 0 = false from rfl])]

/-- What stands after a freeze: it holds the ring from now on, within its limit, and no record is numbered. -/
theorem exec_freeze_result (hrun : s.fld F.evrFreezeFrozen = 0) :
    ∃ t, exec (.freeze v) s = .next t ∧ t.mgmt = stOk ∧ t.fld F.evrFreezeFrozen = 1 ∧
      t.fld F.evrFreezeFreezeMaxMs = bitsOf v 23 8 ∧ t.stw.frozenAt = s.now ∧ t.fld F.evrHeadCount = s.fld F.evrHeadCount := by
  obtain ⟨hfld, hat⟩ := freeze_of_running ((setLimit_frozen s v).trans hrun)
  refine ⟨_, exec_freeze_of_running hs hlo hhi hrun, rfl, ?_, ?_, ?_, ?_⟩
  · rw [State.answer_fld, hfld, fld_setFrozen]
  · rw [State.answer_fld, hfld,
      State.fld_setFld_apart _ F.evrFreezeFrozen F.evrFreezeFreezeMaxMs _ _ rfl (by decide) (by decide) (by decide), setLimit_limit]
  · rw [State.answer_stw, hat, State.now, setLimit_fld s v (by decide), State.now]
  · rw [State.answer_fld, hfld, State.fld_setFld_ne _ _ _ _ _ _ (State.key_ne_fam (by decide) _ _), setLimit_fld s v (by decide)]

/-- What stands after a thaw: the ring is no longer held, and the one record of the thaw is written. -/
theorem exec_thaw_result (hfrozen : s.fld F.evrFreezeFrozen = 1) (hflush : s.flushing = false) :
    ∃ t, exec (.thaw v) s = .next t ∧ t.mgmt = stOk ∧ t.fld F.evrFreezeFrozen = 0 ∧ t.unwritten = 0 ∧
      t.fld F.evrHeadCount = (s.fld F.evrHeadCount + 1) % 2 ^ 64 := by
  have hfrozen' := (setLimit_frozen s v).trans hfrozen
  have hflush' : (s.setLimit v).flushing = false := hflush
  refine ⟨_, exec_thaw_of_frozen hs hlo hhi hfrozen, rfl, ?_, ?_, ?_⟩
  · rw [State.answer_fld, thaw_frozen]
  · rw [State.answer_unwritten, thaw_unwritten hflush' hfrozen']
  · rw [State.answer_fld, thaw_headCount hflush' hfrozen', setLimit_fld s v (by decide)]

end

/-! ### EVR_CFG -/

/-- A field that lies within a cut of a word reads the same in the cut. -/
theorem bitsOf_setWidth {w n : Nat} (x : BitVec w) {hi lo : Nat} (h : hi < n) : bitsOf (x.setWidth n) hi lo = bitsOf x hi lo := by
  have cut : ∀ {w : Nat} (y : BitVec w), bitsOf y hi lo = (y.extractLsb' lo (hi + 1 - lo)).toNat := fun y => by
    rw [BitVec.extractLsb'_toNat, Nat.shiftRight_eq_div_pow, bitsOf, natBits]
  by_cases hlo : lo ≤ hi + 1
  · rw [cut, cut, BitVec.extractLsb'_setWidth_of_le (by omega)]
  · rw [bitsOf, bitsOf, natBits, natBits, Nat.sub_eq_zero_of_le (by omega), Nat.pow_zero, Nat.mod_one, Nat.mod_one]

/-- A write by the access codes of a register of 32 RW bits puts the word there. -/
theorem setWidth_applyWrite_rw32 {d : RegDesc} (hrw : ∀ i < 32, d.rw.getLsbD i = true) (hrwl : d.rwl = 0#64) (hw1c : d.w1c = 0#64)
    (hw1s : d.w1s = 0#64) (old : W64) (v : W32) : (applyWrite d old (v.setWidth 64) false).setWidth 32 = v := by
  refine BitVec.eq_of_getLsbD_eq fun i hi => ?_
  have hi64 : i < 64 := by omega
  simp only [applyWrite, hrwl, hw1c, hw1s, BitVec.getLsbD_setWidth, BitVec.getLsbD_or, BitVec.getLsbD_and, BitVec.getLsbD_not,
    BitVec.getLsbD_zero]
  simp [hrw i hi, hi, hi64, -BitVec.getLsbD_eq_getElem]

/-- A field of EVR_CFG reads what a write put there: all its bits are RW (R809). -/
theorem fld_wrPlain_evrCfg (s : State) (v : W32) {g : Reg.Field} (hg : g.fam = Reg.evrCfg) (hhi : g.hi < 32) :
    (s.wrPlain Reg.evrCfg 0 (v.setWidth 64)).fld g = bitsOf v g.hi g.lo := by
  rw [State.fld, hg, State.wrPlain, State.rd_wr_same, ← bitsOf_setWidth (n := 32) _ hhi]
  congr 1
  exact setWidth_applyWrite_rw32 (d := regDesc Reg.evrCfg) (by decide) rfl rfl rfl _ v

section
variable {s : State} {v : W32} (hs : Serves s Reg.evrCfg)
include hs

theorem exec_evrCfg_of_serves : exec (.evrCfg v) s = .next (evrCfgWrite s v) :=
  congrArg Host.Outcome.next (guarded_serves _ none hs (by simp))

theorem exec_evrCfg_of_bad (h : bitsOf v 31 16 = 0 ∨ 1000 < bitsOf v 31 16 ∨ bitsOf v 15 0 = 0 ∨ 1024 < bitsOf v 15 0) :
    exec (.evrCfg v) s = .next (s.answer stInvalid) := by
  rw [exec_evrCfg_of_serves hs, evrCfgWrite, if_pos h]

/-- RATE and BURST in their ranges are taken (R810). -/
theorem exec_evrCfg_of_good
    (h : ¬ (bitsOf v 31 16 = 0 ∨ 1000 < bitsOf v 31 16 ∨ bitsOf v 15 0 = 0 ∨ 1024 < bitsOf v 15 0)) :
    ∃ t, exec (.evrCfg v) s = .next t ∧ t.mgmt = stOk ∧ t.fld F.evrCfgRate = bitsOf v 31 16 ∧
      t.fld F.evrCfgBurst = bitsOf v 15 0 := by
  obtain ⟨hmgmt, hregs⟩ : (evrCfgWrite s v).mgmt = stOk ∧
      (evrCfgWrite s v).regs = (s.wrPlain Reg.evrCfg 0 (v.setWidth 64)).regs := by
    rw [evrCfgWrite, if_neg h]
    exact ⟨rfl, rfl⟩
  have hfld := State.fld_of_regs hregs
  exact ⟨_, exec_evrCfg_of_serves hs, hmgmt, by rw [hfld, fld_wrPlain_evrCfg s v rfl (by decide)],
    by rw [hfld, fld_wrPlain_evrCfg s v rfl (by decide)]⟩

end

/-! ### Flushes -/

/-- The first of the two regions that a test picks. -/
theorem find?_range_two (p : Nat → Bool) :
    (List.range 2).find? p = if p 0 then some 0 else if p 1 then some 1 else none := by
  by_cases h : p 0 = true
  · exact (List.find?_cons_of_pos h).trans (if_pos h).symm
  · exact (List.find?_cons_of_neg h).trans (List.find?_singleton.trans (if_neg h).symm)

section
variable {s : State} {c : Nat}

theorem exec_flush_of_due (h : s.stw.flushDue = some c) : exec .flush s = .next (flushBegin s c) := by
  change execFlush s = _
  rw [execFlush, h]

/-- A flush begins in region 0 where that is erased: it ends a freeze, and holds the ring (R801). -/
theorem flushBegin_of_erased (h : s.stw.flushed.getD 0 none = none) :
    (flushBegin s c).flushing = true ∧ (flushBegin s c).stw.flushRegion = some 0 ∧ (flushBegin s c).stw.flushDue = none ∧
      (flushBegin s c).fld F.evrFreezeFrozen = 0 := by
  rw [flushBegin, find?_range_two, if_pos (by simpa using h)]
  refine ⟨rfl, rfl, ?_, ?_⟩
  · change (putRecord _ _ _ _ _).stw.flushDue = none
    rw [putRecord_stw, thaw_stw]
  · change (putRecord _ _ _ _ _).fld F.evrFreezeFrozen = 0
    rw [putRecord_fld _ _ _ _ _ (by decide), thaw_frozen]

/-- With neither region erased there is no flush, and it is counted (R802). -/
theorem flushBegin_of_none_erased (h0 : s.stw.flushed.getD 0 none ≠ none) (h1 : s.stw.flushed.getD 1 none ≠ none) :
    flushBegin s c = ({ s with stw := { s.stw with flushDue := none } } : State).bumpSat F.evrFlushStatusFlushSkips := by
  rw [flushBegin, find?_range_two, if_neg (by simpa using h0), if_neg (by simpa using h1)]

/-- The end of a flush: its region holds the ring's words, and is named as the last (R801). -/
theorem flushDone_of_region {r : Nat} (h : s.stw.flushRegion = some r) (hlen : r < s.stw.flushed.length) (hr : r < 2) :
    (flushDone s).flushing = false ∧ (flushDone s).stw.lastFlush = some r ∧
      (flushDone s).stw.flushed.getD r none = some (ringWords s) ∧ (flushDone s).fld F.evrFlushStatusLast = r := by
  simp only [flushDone, h]
  refine ⟨?_, ?_, ?_, ?_⟩
  · rw [thawed_flushing, State.setFld_flushing]
  · rw [thawed_stw, State.setFld_stw]
  · rw [thawed_stw, State.setFld_stw]
    simp [hlen]
  · rw [thawed_fld _ (by decide), State.fld_setFld_same _ _ _ _ (by decide) (by decide)]
    exact Nat.mod_eq_of_lt hr

/-! ### The power-fail pin -/

@[simp] theorem flushCause_power (s : State) (c : Nat) : (flushCause s c).power = s.power := by
  unfold flushCause
  split <;> rfl

/-- With no flush under way or due, a cause asks for one (R801, R802). -/
theorem flushCause_of_idle (hflush : s.flushing = false) (hdue : s.stw.flushDue = none) :
    (flushCause s c).stw.flushDue = some c := by
  rw [flushCause, if_neg (by simp [hflush, hdue])]

/-- PWR_FAIL_N low asks for a flush (R801). -/
theorem exec_pwrFail_of_on (hon : s.power.on = true) (hlow : s.power.failLow = false) :
    exec .pwrFail s = .next (flushCause { s with power := { s.power with failLow := true } } 1) := if_pos ⟨hon, hlow⟩

/-- PWR_FAIL_N high again puts one record (R801). -/
theorem exec_powerRestored_of_on (hon : s.power.on = true) (hlow : s.power.failLow = true) :
    ∃ t, exec .powerRestored s = .next t ∧ t.power.failLow = false ∧
      t.fld F.evrHeadCount = (s.fld F.evrHeadCount + 1) % 2 ^ 64 := by
  change ∃ t, execPowerRestored s = _ ∧ _
  simp only [execPowerRestored, hon, hlow, if_true]
  split
  · exact ⟨_, rfl, by rw [putRecord_power], putRecord_headCount _ _ _ _ _⟩
  · exact ⟨_, rfl, by rw [putRecord_power], putRecord_headCount _ _ _ _ _⟩

end

/-- Settles O53: tokens by `exec_tokenRefill`, EVR_CFG by `exec_evrCfg_of_good` and its refusal, freezes and thaws by
`exec_freeze_result` and `exec_thaw_result`, flushes by `flushBegin_of_erased` and `flushDone_of_region`; that a held ring's end is one
record is `putRecord_headCount` and `putRecord_unwritten`. -/
theorem eventRecorder : Obligations.EventRecorder := by
  unfold Obligations.EventRecorder
  intro s v
  refine ⟨exec_tokenRefill, fun hs => ⟨fun _ _ _ _ => exec_evrCfg_of_good hs (by omega), exec_evrCfg_of_bad hs⟩,
    exec_freeze_thaw_of_bad_limit,
    fun hs hlo hhi => ⟨exec_freeze_of_frozen hs hlo hhi, exec_thaw_of_running hs hlo hhi⟩,
    fun hs hlo hhi => ⟨exec_freeze_result hs hlo hhi, exec_thaw_result hs hlo hhi⟩,
    fun hfrozen hflush hdue =>
      ⟨_, exec_freezeTimeout_of_due hfrozen hdue, thaw_frozen s, thaw_unwritten hflush hfrozen⟩,
    fun c hdue => ⟨fun h => ⟨_, exec_flush_of_due hdue, flushBegin_of_erased h⟩, fun h0 h1 => ?_⟩,
    fun r hflush hr hlen hlt => ⟨_, if_pos hflush, flushDone_of_region hr hlen hlt⟩,
    fun hon hlow => ⟨_, exec_pwrFail_of_on hon hlow, ?_, fun hflush hdue => flushCause_of_idle hflush hdue⟩,
    exec_powerRestored_of_on,
    fun hs => congrArg Host.Outcome.next (guarded_serves _ none hs (by simp))⟩
  · rw [exec_flush_of_due hdue, flushBegin_of_none_erased h0 h1]
  · rw [flushCause_power]

end Sys2Proof.Machine
end

section
/-! The anti-rollback fuses (spec/17 R816): what may change them, and the obligation about them.

Of all the operations of the model only `fusesRaised` writes the fuses. This is said once for each operation that makes a state, as
a lemma `<operation>_fuses`, in the order of the model's files: an operation is the operations it is made of, so its lemma follows
from theirs, branch by branch, and no proof looks into an operation below its own. (`grind` takes a lemma marked `!` wherever the
operation it is about occurs; `State.fuses` is on its list where an operation writes a field of the state itself.) `exec` and `step`
then have one case for each row, and only the boot's needs an order instead of an equality. -/

namespace Sys2Proof.Machine

open Sys2Proof

/-- The number of 64 anti-rollback fuses that are blown (R816). -/
def State.fuses (s : State) : Nat := s.stw.fuses

/-! ### Rules for the shapes that an operation is made of -/

theorem State.fuses_of_stw {s t : State} (h : t.stw = s.stw) : t.fuses = s.fuses := congrArg Steward.fuses h

theorem withSteward_fuses (s : State) (w : Steward) : ({ s with stw := w } : State).fuses = w.fuses := rfl

theorem fuses_withSteward (s : State) (w : Steward) (h : w.fuses = s.fuses) : ({ s with stw := w } : State).fuses = s.fuses := h

theorem fuses_ite {c : Prop} [Decidable c] {a b : State} {n : Nat} (ha : a.fuses = n) (hb : b.fuses = n) :
    (if c then a else b).fuses = n := by
  split <;> assumption

/-- A fold keeps the fuses of the state inside what it carries when each of its steps does. -/
theorem foldl_at_fuses {α β : Type} (st : β → State) {f : β → α → β}
    (h : ∀ b a, (st (f b a)).fuses = (st b).fuses) (xs : List α) (b : β) :
    (st (xs.foldl f b)).fuses = (st b).fuses := by
  induction xs generalizing b with
  | nil => rfl
  | cons x xs ih => exact (ih _).trans (h b x)

theorem foldl_fuses {α : Type} {f : State → α → State} (h : ∀ s a, (f s a).fuses = s.fuses) (xs : List α) (s : State) :
    (xs.foldl f s).fuses = s.fuses := foldl_at_fuses id h xs s

theorem foldl_snd_fuses {α β : Type} {f : β × State → α → β × State} (h : ∀ b a, (f b a).2.fuses = b.2.fuses)
    (xs : List α) (b : β × State) : (xs.foldl f b).2.fuses = b.2.fuses := foldl_at_fuses Prod.snd h xs b

/-- The state that a match takes out of an operation's result. -/
theorem snd_fuses {α : Type} {x : α × State} {s : State} (h : x.2.fuses = s.fuses) {r : α} {t : State} (heq : x = (r, t)) :
    t.fuses = s.fuses := by
  subst heq
  exact h

/-! ### Operations whose laws say that they leave the steward -/

theorem State.wr_fuses (s : State) (fam i v) : (s.wr fam i v).fuses = s.fuses := State.fuses_of_stw (State.wr_stw ..)
theorem State.setFld_fuses (s : State) (f i x) : (s.setFld f i x).fuses = s.fuses := State.fuses_of_stw (State.setFld_stw ..)
theorem State.bump_fuses (s : State) (f i n) : (s.bump f i n).fuses = s.fuses := State.fuses_of_stw (State.bump_stw ..)
theorem State.stage_fuses (s : State) (fam i v) : (s.stage fam i v).fuses = s.fuses := State.fuses_of_stw (State.stage_stw ..)
theorem State.wrPlain_fuses (s : State) (fam i v locked) : (s.wrPlain fam i v locked).fuses = s.fuses :=
  State.fuses_of_stw (State.wrPlain_stw ..)
theorem State.resetFam_fuses (s : State) (fam) : (s.resetFam fam).fuses = s.fuses := State.fuses_of_stw (State.resetFam_stw ..)
theorem State.latch_fuses (s : State) (fam i) : (s.latch fam i).fuses = s.fuses := State.fuses_of_stw (State.latch_stw ..)
theorem State.fresh_fuses (s : State) : s.fresh.2.fuses = s.fuses := State.fuses_of_stw (State.fresh_stw ..)
theorem State.setByte_fuses (s : State) (a b) : (s.setByte a b).fuses = s.fuses := State.fuses_of_stw (State.setByte_stw ..)
theorem State.setCtx_fuses (s : State) (i c) : (s.setCtx i c).fuses = s.fuses := State.fuses_of_stw (State.setCtx_stw ..)
theorem State.setQueue_fuses (s : State) (i q) : (s.setQueue i q).fuses = s.fuses := State.fuses_of_stw (State.setQueue_stw ..)
theorem State.setCourt_fuses (s : State) (i c) : (s.setCourt i c).fuses = s.fuses := State.fuses_of_stw (State.setCourt_stw ..)
theorem State.setField_fuses (s : State) (p f) : (s.setField p f).fuses = s.fuses := State.fuses_of_stw (State.setField_stw ..)
theorem State.setQuarter_fuses (s : State) (i q) : (s.setQuarter i q).fuses = s.fuses :=
  State.fuses_of_stw (State.setQuarter_stw ..)
theorem State.setCore_fuses (s : State) (i c) : (s.setCore i c).fuses = s.fuses := State.fuses_of_stw (State.setCore_stw ..)
theorem State.setLaunch_fuses (s : State) (q l) : (s.setLaunch q l).fuses = s.fuses := State.fuses_of_stw (State.setLaunch_stw ..)
theorem State.setBlock_fuses (s : State) (i b) : (s.setBlock i b).fuses = s.fuses := State.fuses_of_stw (State.setBlock_stw ..)
theorem State.setGroup_fuses (s : State) (i g) : (s.setGroup i g).fuses = s.fuses := State.fuses_of_stw (State.setGroup_stw ..)
theorem State.setPass_fuses (s : State) (i p) : (s.setPass i p).fuses = s.fuses := State.fuses_of_stw (State.setPass_stw ..)
theorem State.setPipe_fuses (s : State) (i p) : (s.setPipe i p).fuses = s.fuses := State.fuses_of_stw (State.setPipe_stw ..)
theorem State.setDpTx_fuses (s : State) (i t) : (s.setDpTx i t).fuses = s.fuses := State.fuses_of_stw (State.setDpTx_stw ..)
theorem State.setEthPort_fuses (s : State) (i p) : (s.setEthPort i p).fuses = s.fuses :=
  State.fuses_of_stw (State.setEthPort_stw ..)
theorem State.setQp_fuses (s : State) (i q) : (s.setQp i q).fuses = s.fuses := State.fuses_of_stw (State.setQp_stw ..)
theorem State.setKey_fuses (s : State) (i k) : (s.setKey i k).fuses = s.fuses := State.fuses_of_stw (State.setKey_stw ..)
theorem State.setStream_fuses (s : State) (i x) : (s.setStream i x).fuses = s.fuses := State.fuses_of_stw (State.setStream_stw ..)
theorem State.setIqlPort_fuses (s : State) (i p) : (s.setIqlPort i p).fuses = s.fuses :=
  State.fuses_of_stw (State.setIqlPort_stw ..)
theorem State.setTxn_fuses (s : State) (i t) : (s.setTxn i t).fuses = s.fuses := State.fuses_of_stw (State.setTxn_stw ..)
theorem State.emit_fuses (s : State) (m) : (s.emit m).fuses = s.fuses := State.fuses_of_stw (State.emit_stw ..)
theorem event_fuses (s code ctx p0 p1) : (event s code ctx p0 p1).fuses = s.fuses := State.fuses_of_stw (event_stw ..)
theorem logUe_fuses (s line source patrol) : (logUe s line source patrol).fuses = s.fuses := State.fuses_of_stw (logUe_stw ..)
theorem correctLine_fuses (s line) : (correctLine s line).fuses = s.fuses := State.fuses_of_stw (correctLine_stw ..)
theorem memLoad_fuses (s a n) : (memLoad s a n).2.fuses = s.fuses := State.fuses_of_stw (memLoad_stw ..)
theorem memStore_fuses (s a bs) : (memStore s a bs).2.fuses = s.fuses := State.fuses_of_stw (memStore_stw ..)
theorem State.answer_fuses (s : State) (st) : (s.answer st).fuses = s.fuses := State.fuses_of_stw (State.answer_stw ..)

/-! ### Registers, memory and the numbered parts -/

theorem State.bumpSat_fuses (s : State) (f i) : (s.bumpSat f i).fuses = s.fuses := by
  unfold State.bumpSat; grind [!State.setFld_fuses]
theorem tick_fuses (s) : (tick s).fuses = s.fuses := by
  unfold tick; grind [!State.bump_fuses]
theorem State.unstage_fuses (s : State) (fam i) : (s.unstage fam i).fuses = s.fuses := by
  unfold State.unstage; grind [!State.wr_fuses, State.fuses]
theorem State.setBytes_fuses (s : State) (a bs) : (s.setBytes a bs).fuses = s.fuses := by
  induction bs generalizing s a with
  | nil => rfl
  | cons b bs ih => exact (ih _ _).trans (State.setByte_fuses ..)
theorem State.mend_fuses (s : State) (p) : (s.mend p).fuses = s.fuses := by
  unfold State.mend; grind [State.fuses]

/-! ### Frames and requests -/

theorem offerFrame_fuses (s p f) : (offerFrame s p f).fuses = s.fuses := by
  unfold offerFrame; grind [!State.emit_fuses, !State.setEthPort_fuses, !State.bump_fuses]
theorem qpFrame_fuses (s i b) : (qpFrame s i b).fuses = s.fuses := by
  unfold qpFrame; grind [!offerFrame_fuses]
theorem qpSend_fuses (s i data p) : (qpSend s i data p).fuses = s.fuses := by
  unfold qpSend; grind [!State.setQp_fuses, !qpFrame_fuses]
theorem qpWrite_fuses (fuel s i rkey va data p) : (qpWrite fuel s i rkey va data p).fuses = s.fuses := by
  induction fuel generalizing s va data with
  | zero => rfl
  | succ fuel ih => unfold qpWrite; grind [!State.setQp_fuses, !qpFrame_fuses]

/-! ### Event and fault records -/

theorem sendEvent_fuses (s ws) : (sendEvent s ws).fuses = s.fuses := by
  unfold sendEvent; grind [!qpSend_fuses, foldl_fuses]
theorem putRecord_fuses (s code ctx p0 p1) : (putRecord s code ctx p0 p1).fuses = s.fuses := by
  unfold putRecord; grind [!State.bump_fuses, !State.setFld_fuses, !State.wr_fuses, !sendEvent_fuses, State.fuses]
theorem memLoadNat_fuses (s a n) : (memLoadNat s a n).2.fuses = s.fuses := by
  unfold memLoadNat; grind [!memLoad_fuses]
theorem lineWritten_fuses (s line n) {t} (h : lineWritten s line n = some t) : t.fuses = s.fuses := by
  unfold lineWritten at h; grind [!State.mend_fuses, !correctLine_fuses]
theorem storeLine_fuses (s a bs) : (storeLine s a bs).2.fuses = s.fuses := by
  unfold storeLine; grind [!lineWritten_fuses, !logUe_fuses, !State.setBytes_fuses]
theorem memStoreNat_fuses (s a n v) : (memStoreNat s a n v).2.fuses = s.fuses := by
  unfold memStoreNat; grind [!memStore_fuses]
theorem inspectQueue_fuses (s x) : (inspectQueue s x).fuses = s.fuses := by
  unfold inspectQueue; grind [State.fuses]
theorem faultRecord_fuses (s ws) : (faultRecord s ws).fuses = s.fuses := by
  unfold faultRecord; grind [!memStore_fuses, !State.bump_fuses]

/-! ### Translation -/

theorem tlbAdd_fuses (s e) : (tlbAdd s e).fuses = s.fuses := by
  unfold tlbAdd; grind [State.fuses]
theorem tlbFill_fuses (s ho e) : (tlbFill s ho e).fuses = s.fuses := by
  unfold tlbFill; grind [!tlbAdd_fuses, foldl_fuses]
theorem tlbLookup_fuses (s holder h va) : (tlbLookup s holder h va).2.fuses = s.fuses := by
  unfold tlbLookup; grind [!tlbAdd_fuses]
theorem noteFault_fuses (s h va reason level) : (noteFault s h va reason level).fuses = s.fuses := by
  unfold noteFault; grind [!State.wr_fuses]
theorem doWalk_fuses (s holder h chk va) : (doWalk s holder h chk va).2.fuses = s.fuses := by
  unfold doWalk; grind [!State.bump_fuses, !correctLine_fuses, !tlbFill_fuses, !logUe_fuses, !noteFault_fuses, foldl_fuses,
    State.fuses]
theorem xlateBy_fuses (s holder h chk va) : (xlateBy s holder h chk va).2.fuses = s.fuses := by
  unfold xlateBy; grind [!tlbLookup_fuses, !noteFault_fuses, !doWalk_fuses, !State.bump_fuses]
theorem xlate_fuses (s holder h acc va) : (xlate s holder h acc va).2.fuses = s.fuses := by
  unfold xlate; grind [!xlateBy_fuses]
theorem dropAll_fuses (s h) : (dropAll s h).fuses = s.fuses := by
  unfold dropAll; grind [State.fuses]
theorem dropRange_fuses (s h va len) : (dropRange s h va len).fuses = s.fuses := by
  unfold dropRange; grind [State.fuses]
theorem ctxRead_fuses (s holder h acc va n) : (ctxRead s holder h acc va n).2.fuses = s.fuses := by
  unfold ctxRead; grind [!xlate_fuses, !memLoad_fuses]
theorem farPiece_fuses (s u d a n) : (farPiece s u d a n).2.fuses = s.fuses := by
  unfold farPiece; grind [State.fuses]
theorem farSet_fuses (s d a) : (farSet s d a).2.fuses = s.fuses := by
  unfold farSet; grind [State.fuses]
theorem farBytes_fuses (fuel s d a n) : (farBytes fuel s d a n).2.fuses = s.fuses := by
  induction fuel generalizing s a n with
  | zero => rfl
  | succ fuel ih => unfold farBytes; grind [!farPiece_fuses]
theorem ctxReadLong_fuses (fuel s holder h acc va n) : (ctxReadLong fuel s holder h acc va n).2.fuses = s.fuses := by
  induction fuel generalizing s va n with
  | zero => rfl
  | succ fuel ih => unfold ctxReadLong; grind [!ctxRead_fuses, !farBytes_fuses]
theorem ctxReadObj_fuses (s holder h acc va n) : (ctxReadObj s holder h acc va n).2.fuses = s.fuses := by
  unfold ctxReadObj; grind [!ctxReadLong_fuses]

/-! ### Ihlique links -/

theorem portFrame_fuses (s out vc p) : (portFrame s out vc p).fuses = s.fuses := by
  unfold portFrame; grind [!State.setIqlPort_fuses, !State.emit_fuses, !State.bump_fuses]
theorem portGo_fuses (s out) : (portGo s out).fuses = s.fuses := by
  unfold portGo; grind [!portFrame_fuses, !State.setIqlPort_fuses, !foldl_snd_fuses]
theorem portSend_fuses (s out vc p) : (portSend s out vc p).fuses = s.fuses := by
  unfold portSend; grind [!portGo_fuses, !State.setIqlPort_fuses]
theorem frameFailed_fuses (s port) : (frameFailed s port).fuses = s.fuses := by
  unfold frameFailed; grind [!State.setIqlPort_fuses, !event_fuses, !State.setFld_fuses, !State.emit_fuses, !State.bump_fuses]
theorem frameIn_fuses (s port vc p) : (frameIn s port vc p).fuses = s.fuses := by
  unfold frameIn; grind [!portGo_fuses, !State.setIqlPort_fuses]
theorem sendPacket_fuses (s p) : (sendPacket s p).2.fuses = s.fuses := by
  unfold sendPacket; grind [!State.bump_fuses, !portSend_fuses]
theorem sendRequest_fuses (s p pu) : (sendRequest s p pu).2.fuses = s.fuses := by
  unfold sendRequest; grind [!State.bump_fuses, !State.setTxn_fuses, !portSend_fuses, State.fuses]
theorem remoteRead_fuses (s dev a n cls pu) : (remoteRead s dev a n cls pu).2.fuses = s.fuses := by
  unfold remoteRead; grind [!sendRequest_fuses]
theorem remoteWrite_fuses (s dev a bs cls pu) : (remoteWrite s dev a bs cls pu).2.fuses = s.fuses := by
  unfold remoteWrite; grind [!sendRequest_fuses]
theorem remoteAtomic_fuses (s dev a op bs pu) : (remoteAtomic s dev a op bs pu).2.fuses = s.fuses := by
  unfold remoteAtomic; grind [!sendRequest_fuses]
theorem farAsk_fuses (s unit d a n) : (farAsk s unit d a n).2.fuses = s.fuses := by
  unfold farAsk; grind [!remoteRead_fuses, !remoteAtomic_fuses]
theorem clearBusy_fuses (s d a pu) : (clearBusy s d a pu).fuses = s.fuses := by
  unfold clearBusy; grind [!remoteAtomic_fuses]
theorem forgetFar_fuses (s unit) : (forgetFar s unit).fuses = s.fuses := by
  unfold forgetFar; grind [!clearBusy_fuses, foldl_fuses, State.fuses]
theorem withFarFrom_fuses (mark s unit f) (hmark : (mark s).fuses = s.fuses) (hf : ∀ t, t.fuses = s.fuses → (f t).fuses = s.fuses)
    : (withFarFrom mark s unit f).fuses = s.fuses := by
  unfold withFarFrom; grind [!farAsk_fuses, foldl_fuses, State.fuses]
theorem withFar_fuses (s unit f) (hf : ∀ t, t.fuses = s.fuses → (f t).fuses = s.fuses) : (withFar s unit f).fuses = s.fuses := by
  unfold withFar; grind [!withFarFrom_fuses]
theorem farAnswered_fuses (s unit d a n st bs) : (farAnswered s unit d a n st bs).fuses = s.fuses := by
  unfold farAnswered; grind [State.fuses]
theorem sendWaiting_fuses (s p pu) : (sendWaiting s p pu).fuses = s.fuses := by
  unfold sendWaiting; grind [!State.setTxn_fuses, !State.bump_fuses, !sendRequest_fuses]
theorem drainTxWait_fuses (fuel s) : (drainTxWait fuel s).fuses = s.fuses := by
  delta drainTxWait
  induction fuel generalizing s with
  | zero => rfl
  | succ fuel ih =>
    dsimp only [Nat.brecOn, drainTxWait._f] at ih ⊢
    generalize s.txWait = waiting
    match waiting with
    | [] => rfl
    | (p, pu) :: rest =>
      split
      · rfl
      · exact (ih _).trans (sendWaiting_fuses { s with txWait := rest } p pu)

/-! ### Completion -/

theorem noPreloads_fuses (s f) : (noPreloads s f).fuses = s.fuses := by
  unfold noPreloads; grind [State.fuses]
theorem loseCtx_fuses (s i seq) : (loseCtx s i seq).fuses = s.fuses := by
  unfold loseCtx; grind [!State.setCtx_fuses, !noPreloads_fuses]
theorem toFallback_fuses (s i r) : (toFallback s i r).fuses = s.fuses := by
  unfold toFallback; grind [!State.setCtx_fuses, !memStore_fuses]
theorem hostGone_fuses (s i key) : (hostGone s i key).fuses = s.fuses := by
  unfold hostGone; grind [!event_fuses, !State.setCtx_fuses]
theorem hostRefused_fuses (s i r key) : (hostRefused s i r key).fuses = s.fuses := by
  unfold hostRefused; grind [!State.setCtx_fuses, !loseCtx_fuses, !toFallback_fuses, !event_fuses]
theorem writeCompletionAt_fuses (s qi n r) : (writeCompletionAt s qi n r).fuses = s.fuses := by
  unfold writeCompletionAt; grind [!toFallback_fuses, !loseCtx_fuses, !xlate_fuses, !memStore_fuses, !remoteWrite_fuses,
    !qpWrite_fuses, !hostRefused_fuses]
theorem writeCompletion_fuses (s qi r) : (writeCompletion s qi r).fuses = s.fuses := by
  unfold writeCompletion; grind [!writeCompletionAt_fuses]
theorem keepRecord_fuses (s qi) : (keepRecord s qi).fuses = s.fuses := by
  unfold keepRecord; grind [!memStore_fuses]
theorem cqStep_fuses (s qi) : (cqStep s qi).fuses = s.fuses := by
  unfold cqStep; grind [!keepRecord_fuses, !State.setQueue_fuses]
theorem saveQueue_fuses (s qi) : (saveQueue s qi).fuses = s.fuses := by
  unfold saveQueue
  exact fuses_ite ((memStore_fuses ..).trans ((State.fresh_fuses _).trans ((State.fresh_fuses _).trans (State.fresh_fuses _)))) rfl
theorem benchQueue_fuses (s qi) : (benchQueue s qi).fuses = s.fuses := by
  unfold benchQueue; grind [!saveQueue_fuses, !State.setQueue_fuses]
theorem trimSlots_fuses (s p quota) : (trimSlots s p quota).fuses = s.fuses := by
  unfold trimSlots
  extract_lets rs cands
  clear_value rs cands
  exact foldl_fuses (fun _ _ => benchQueue_fuses _ _) _ _
theorem applyNewPart_fuses (s i) : (applyNewPart s i).fuses = s.fuses := by
  unfold applyNewPart; grind [!State.setCtx_fuses, !saveQueue_fuses, !trimSlots_fuses, foldl_fuses, State.fuses]
theorem readEntry_fuses (s q n) : (readEntry s q n).2.fuses = s.fuses := by
  unfold readEntry; grind [!xlateBy_fuses, !memLoad_fuses]
theorem absorb_fuses (s qi bs) : (absorb s qi bs).fuses = s.fuses := by
  unfold absorb; grind [!State.setQueue_fuses]
theorem abortUnstarted_fuses (fuel s qi) : (abortUnstarted fuel s qi).fuses = s.fuses := by
  induction fuel generalizing s with
  | zero => rfl
  | succ fuel ih => unfold abortUnstarted; grind [!State.setQueue_fuses, !cqStep_fuses, !writeCompletion_fuses, !readEntry_fuses,
    !remoteRead_fuses]
theorem stopOn_fuses (s qi) : (stopOn s qi).fuses = s.fuses := by
  unfold stopOn
  extract_lets s1 q
  have h1 : s1.fuses = s.fuses := abortUnstarted_fuses _ _ _
  have h2 (x : Queue) : (s1.setQueue qi x).fuses = s.fuses := (State.setQueue_fuses ..).trans h1
  clear_value q s1
  cases q.phase <;> simp only [h1, h2]
theorem stopFetched_fuses (s qi bs) : (stopFetched s qi bs).fuses = s.fuses := by
  unfold stopFetched; grind [!absorb_fuses, !State.setQueue_fuses, !stopOn_fuses]
theorem retire_fuses (s qi) : (retire s qi).fuses = s.fuses := by
  unfold retire; grind [!stopOn_fuses, !State.setQueue_fuses, !benchQueue_fuses, !applyNewPart_fuses, State.fuses]
theorem finishCmd_fuses (s qi status flags) : (finishCmd s qi status flags).fuses = s.fuses := by
  unfold finishCmd; grind [!cqStep_fuses, !writeCompletion_fuses, !loseCtx_fuses, !retire_fuses]
theorem fenceUpdate_fuses (s a f) : (fenceUpdate s a f).2.fuses = s.fuses := by
  unfold fenceUpdate; grind [!memLoadNat_fuses, !memStoreNat_fuses]
theorem hostSignal_fuses (s qi k off value status flags) : (hostSignal s qi k off value status flags).fuses = s.fuses := by
  unfold hostSignal; grind [!State.setQueue_fuses, !qpWrite_fuses, !hostRefused_fuses, !retire_fuses, !cqStep_fuses]
theorem doSignal_fuses (s qi status flags) : (doSignal s qi status flags).fuses = s.fuses := by
  unfold doSignal; grind [!xlateBy_fuses, !finishCmd_fuses, !fenceUpdate_fuses, !remoteAtomic_fuses, !State.fresh_fuses,
    !hostSignal_fuses, !State.setQueue_fuses]
theorem refShow_fuses (s) : (refShow s).fuses = s.fuses := by
  unfold refShow; grind [!State.setFld_fuses, foldl_fuses]
theorem refRecord_fuses (s r x st) : (refRecord s r x st).fuses = s.fuses := by
  unfold refRecord; grind [!faultRecord_fuses, foldl_fuses]
theorem refTransient_fuses (s r) : (refTransient s r).fuses = s.fuses := by
  unfold refTransient; grind [!event_fuses, !State.bump_fuses, !inspectQueue_fuses, foldl_fuses, State.fuses]
theorem recoveryEnd_fuses (s r) : (recoveryEnd s r).fuses = s.fuses := by
  unfold recoveryEnd; grind [!refTransient_fuses, !event_fuses, !State.setFld_fuses, !refShow_fuses, State.fuses]
theorem recoveryPut_fuses (s r) : (recoveryPut s r).fuses = s.fuses := by
  unfold recoveryPut; grind [!recoveryEnd_fuses, !refShow_fuses, State.fuses]
theorem suspectJudged_fuses (s r x st) : (suspectJudged s r x st).fuses = s.fuses := by
  unfold suspectJudged; grind [!refRecord_fuses, !State.bump_fuses, !recoveryPut_fuses]
theorem replayOver_fuses (s qi st) : (replayOver s qi st).fuses = s.fuses := by
  unfold replayOver; grind [!suspectJudged_fuses]
theorem advance_fuses (s qi) : (advance s qi).fuses = s.fuses := by
  unfold advance; grind [!State.setQueue_fuses, !replayOver_fuses, !doSignal_fuses]
theorem complete_fuses (s qi status) : (complete s qi status).fuses = s.fuses := by
  unfold complete; grind [!advance_fuses, !State.setQueue_fuses]
theorem requestStop_fuses (s qi status) : (requestStop s qi status).fuses = s.fuses := by
  unfold requestStop; grind [!State.setQueue_fuses]
theorem ctxStorePage_fuses (s holder h va bs pu) : (ctxStorePage s holder h va bs pu).2.fuses = s.fuses := by
  unfold ctxStorePage; grind [!xlate_fuses, !memStore_fuses, !remoteWrite_fuses, !qpWrite_fuses]
theorem ctxStoreN_fuses (fuel s holder h va bs pu) : (ctxStoreN fuel s holder h va bs pu).2.fuses = s.fuses := by
  induction fuel generalizing s va bs with
  | zero => rfl
  | succ fuel ih => unfold ctxStoreN; grind [!ctxStorePage_fuses]
theorem ctxStore_fuses (s holder h va bs pu) : (ctxStore s holder h va bs pu).2.fuses = s.fuses := by
  unfold ctxStore; grind [!ctxStoreN_fuses]
theorem unitSignal_fuses (s holder h va v) : (unitSignal s holder h va v).2.fuses = s.fuses := by
  unfold unitSignal; grind [!xlateBy_fuses, !fenceUpdate_fuses, !remoteAtomic_fuses, !qpWrite_fuses, !hostGone_fuses]
theorem accessFailed_fuses (s qi st) : (accessFailed s qi st).fuses = s.fuses := by
  unfold accessFailed; grind [!requestStop_fuses, !State.setQueue_fuses]
theorem completionStale_fuses (s) : (completionStale s).fuses = s.fuses := by
  unfold completionStale; grind [!State.bump_fuses]
theorem completionLost_fuses (s i r) : (completionLost s i r).fuses = s.fuses := by
  unfold completionLost; grind [!toFallback_fuses, !loseCtx_fuses]

/-! ### The life cycle that units share -/

theorem railCommand_fuses (s mv) : (railCommand s mv).fuses = s.fuses := by
  unfold railCommand; grind [!State.emit_fuses, State.fuses]
theorem railFollow_fuses (s) : (railFollow s).fuses = s.fuses := by
  unfold railFollow; grind [!railCommand_fuses]
theorem scrubAhead_fuses (s d) : (scrubAhead s d).fuses = s.fuses := by
  unfold scrubAhead; grind [!State.setFld_fuses]
theorem domEvent_fuses (s d e) : (domEvent s d e).fuses = s.fuses := by
  unfold domEvent; grind [!State.setFld_fuses, !scrubAhead_fuses]
theorem domStart_fuses (s d) : (domStart s d).2.fuses = s.fuses := by
  unfold domStart; grind [!domEvent_fuses]
theorem domStop_fuses (s d) : (domStop s d).fuses = s.fuses := by
  unfold domStop; grind [!domEvent_fuses]
theorem guarded_fuses (s fam f u) (hf : ∀ s, (f s).fuses = s.fuses) : (guarded s fam f u).fuses = s.fuses := by
  unfold guarded
  exact fuses_ite rfl (fuses_ite (hf s) (State.answer_fuses s _))
theorem huddleOver_fuses (s result refuser reason) : (huddleOver s result refuser reason).fuses = s.fuses := by
  unfold huddleOver; grind [!State.setFld_fuses, State.fuses]
theorem wakeEvent_fuses (s bits) : (wakeEvent s bits).fuses = s.fuses := by
  unfold wakeEvent; grind [!huddleOver_fuses, State.fuses]
theorem idleLeave_fuses (s) : (idleLeave s).fuses = s.fuses := by
  unfold idleLeave; grind [!State.setFld_fuses, State.fuses]
theorem workBegins_fuses (s) : (workBegins s).fuses = s.fuses := by
  unfold workBegins; grind [!huddleOver_fuses, !idleLeave_fuses]

end Sys2Proof.Machine
end

section
/-! The anti-rollback fuses (R816), continued: the front end, the whistle and scheduling leave them. -/

namespace Sys2Proof.Machine

open Sys2Proof

/-! ### Front end: records, ring entries and doorbells -/

theorem feResult_fuses (s st state handle) : (feResult s st state handle).fuses = s.fuses := by
  unfold feResult; grind [!State.answer_fuses, !State.wr_fuses]
theorem readRecord_fuses (s a words) : (readRecord s a words).2.fuses = s.fuses := by
  unfold readRecord; grind [!memLoad_fuses]
theorem feCreate_fuses (s arg) : (feCreate s arg).fuses = s.fuses := by
  unfold feCreate; grind [!feResult_fuses, !readRecord_fuses, !State.setCtx_fuses]
theorem feStale_fuses (s) : (feStale s).fuses = s.fuses := by
  unfold feStale; grind [!feResult_fuses, !State.bump_fuses]
theorem ringFault_fuses (s qi st) : (ringFault s qi st).fuses = s.fuses := by
  unfold ringFault; grind [!State.setQueue_fuses, !finishCmd_fuses]
theorem checkCmd_fuses (s qi) : (checkCmd s qi).fuses = s.fuses := by
  unfold checkCmd; grind [!keepRecord_fuses, !State.setQueue_fuses, !finishCmd_fuses, !workBegins_fuses]
theorem fetchOn_fuses (fuel s qi) : (fetchOn fuel s qi).fuses = s.fuses := by
  induction fuel generalizing s qi with
  | zero => rfl
  | succ fuel ih => unfold fetchOn; grind [!State.setQueue_fuses, !checkCmd_fuses, !readEntry_fuses, !ringFault_fuses,
    !absorb_fuses, !remoteRead_fuses]
theorem stopQueue_fuses (s qi) : (stopQueue s qi).fuses = s.fuses := by
  unfold stopQueue; grind [!stopOn_fuses, !State.setQueue_fuses]
theorem destroyBegin_fuses (s i) : (destroyBegin s i).fuses = s.fuses := by
  unfold destroyBegin; grind [!State.setCtx_fuses, !stopQueue_fuses, !requestStop_fuses, foldl_fuses]
theorem placeHeld_fuses (s i) : (placeHeld s i).fuses = s.fuses := by
  unfold placeHeld; grind [!writeCompletionAt_fuses, !State.setCtx_fuses, foldl_fuses]
theorem feDestroy_fuses (s h) : (feDestroy s h).fuses = s.fuses := by
  unfold feDestroy; grind [!feStale_fuses, !feResult_fuses, !State.setCtx_fuses, !advance_fuses, !placeHeld_fuses,
    !destroyBegin_fuses, foldl_fuses]
theorem feSet_fuses (s h) : (feSet s h).fuses = s.fuses := by
  unfold feSet; grind [!feStale_fuses, !feResult_fuses, !readRecord_fuses, !State.setCtx_fuses, !applyNewPart_fuses]
theorem flushHeld_fuses (fuel s i) : (flushHeld fuel s i).fuses = s.fuses := by
  induction fuel generalizing s i with
  | zero => rfl
  | succ fuel ih => unfold flushHeld; grind [!toFallback_fuses, !State.setCtx_fuses]
theorem feResume_fuses (s h) : (feResume s h).fuses = s.fuses := by
  unfold feResume; grind [!feStale_fuses, !feResult_fuses, !State.setCtx_fuses, !flushHeld_fuses, !State.setQueue_fuses,
    !advance_fuses, foldl_fuses]
theorem feQuery_fuses (s h) : (feQuery s h).fuses = s.fuses := by
  unfold feQuery; grind [!feStale_fuses, !feResult_fuses]
theorem feQueueCreate_fuses (s arg) : (feQueueCreate s arg).fuses = s.fuses := by
  unfold feQueueCreate; grind [!feResult_fuses, !readRecord_fuses, !State.bump_fuses, !State.setQueue_fuses]
theorem feQueueDestroy_fuses (s h) : (feQueueDestroy s h).fuses = s.fuses := by
  unfold feQueueDestroy; grind [!feStale_fuses, !feResult_fuses, !stopQueue_fuses]
theorem feQueueQuery_fuses (s h) : (feQueueQuery s h).fuses = s.fuses := by
  unfold feQueueQuery; grind [!feStale_fuses, !feResult_fuses]
theorem doorUpdate_fuses (s viaIql typ h value) : (doorUpdate s viaIql typ h value).fuses = s.fuses := by
  unfold doorUpdate; grind [!State.bump_fuses, !keepRecord_fuses, !State.setQueue_fuses, State.fuses]
theorem doorRecord_fuses (s viaIql bs) : (doorRecord s viaIql bs).fuses = s.fuses := by
  unfold doorRecord; grind [!State.bump_fuses, !doorUpdate_fuses, foldl_fuses]
theorem doorbellIn_fuses (s viaIql bs) : (doorbellIn s viaIql bs).fuses = s.fuses := by
  unfold doorbellIn; grind [!idleLeave_fuses, !memStore_fuses, !doorRecord_fuses, State.fuses]

/-! ### The whistle and the layout -/

theorem courtScrubDue_fuses (s n) : (courtScrubDue s n).fuses = s.fuses := by
  unfold courtScrubDue; grind [!State.setFld_fuses, !State.setCourt_fuses]
theorem coreScrubDue_fuses (s c) : (coreScrubDue s c).fuses = s.fuses := by
  unfold coreScrubDue; grind [!State.setFld_fuses, !State.setCore_fuses]
theorem quarterScrubDue_fuses (s q) : (quarterScrubDue s q).fuses = s.fuses := by
  unfold quarterScrubDue; grind [!coreScrubDue_fuses, foldl_fuses]
theorem courtJoin_fuses (s n p was) : (courtJoin s n p was).fuses = s.fuses := by
  unfold courtJoin; grind [!State.setCourt_fuses, !courtScrubDue_fuses]
theorem quarterJoin_fuses (s q p was) : (quarterJoin s q p was).fuses = s.fuses := by
  unfold quarterJoin; grind [!State.setQuarter_fuses, !quarterScrubDue_fuses]
theorem courtSettle_fuses (s n) : (courtSettle s n).fuses = s.fuses := by
  unfold courtSettle; grind [!domStop_fuses, !State.setCourt_fuses, !courtJoin_fuses]
theorem quarterSettle_fuses (s q) : (quarterSettle s q).fuses = s.fuses := by
  unfold quarterSettle; grind [!domStop_fuses, !State.setQuarter_fuses, !quarterJoin_fuses]
theorem rasterSettle_fuses (s) : (rasterSettle s).fuses = s.fuses := by
  unfold rasterSettle; grind [!domStop_fuses, State.fuses]
theorem settleUnits_fuses (s us) : (settleUnits s us).fuses = s.fuses := by
  unfold settleUnits; grind [!courtSettle_fuses, !quarterSettle_fuses, !rasterSettle_fuses, foldl_fuses]
theorem completeOn_fuses (s qi st) : (completeOn s qi st).fuses = s.fuses := by
  unfold completeOn; grind [!settleUnits_fuses, !complete_fuses]
theorem layoutEffect_fuses (s a b) : (layoutEffect s a b).fuses = s.fuses := by
  unfold layoutEffect
  extract_lets s1 s2 s3 s4 s5
  have h1 : s1.fuses = s.fuses := by
    refine foldl_fuses (fun t n => ?_) _ _
    grind [!State.setFld_fuses, !courtJoin_fuses, !State.setCourt_fuses, !domEvent_fuses, !courtSettle_fuses]
  have h2 : s2.fuses = s1.fuses := by
    refine foldl_fuses (fun t q => ?_) _ _
    grind [!State.setFld_fuses, !quarterJoin_fuses, !State.setQuarter_fuses, !domEvent_fuses, !quarterSettle_fuses]
  have h3 : s3.fuses = s2.fuses := by
    refine foldl_fuses (fun t q => ?_) _ _
    grind [!State.setFld_fuses]
  have h4 : s4.fuses = s3.fuses := by
    refine fuses_ite ((domStart_fuses ..).trans (State.fuses_of_stw rfl)) (fuses_ite ?_ rfl)
    exact (rasterSettle_fuses _).trans (State.fuses_of_stw rfl)
  have h5 : s5.fuses = s4.fuses := by
    refine foldl_fuses (fun t p => ?_) _ _
    grind [!State.setFld_fuses]
  have h6 (t : State) : ((List.range 16).foldl (fun s p => trimSlots s p (b.slots.getD p 0)) t).fuses = t.fuses :=
    foldl_fuses (fun _ _ => trimSlots_fuses ..) _ _
  rw [noPreloads_fuses, h6, h5, h4, h3, h2, h1]
theorem inspectAbort_fuses (s) : (inspectAbort s).fuses = s.fuses := by
  unfold inspectAbort; grind [!courtScrubDue_fuses, !State.setFld_fuses, !coreScrubDue_fuses, !State.wr_fuses, foldl_fuses,
    State.fuses]
theorem lockScrub_fuses (s ps) : (lockScrub s ps).fuses = s.fuses := by
  unfold lockScrub; grind [!State.setFld_fuses]
theorem whistleFailed_fuses (s u) : (whistleFailed s u).fuses = s.fuses := by
  unfold whistleFailed; grind [!lockScrub_fuses, !State.setFld_fuses, !event_fuses, State.fuses]
theorem whistleBegin_fuses (s ps) : (whistleBegin s ps).fuses = s.fuses := by
  unfold whistleBegin; grind [!State.setFld_fuses, !idleLeave_fuses, !inspectAbort_fuses, !whistleFailed_fuses, State.fuses]
theorem whistleSubmit_fuses (s p) : (whistleSubmit s p).fuses = s.fuses := by
  unfold whistleSubmit; grind [!whistleBegin_fuses, State.fuses]
theorem whistleNext_fuses (s) : (whistleNext s).fuses = s.fuses := by
  unfold whistleNext; grind [!whistleBegin_fuses, State.fuses]
theorem takeVal_fuses (s kv) : (takeVal s kv).fuses = s.fuses := by
  unfold takeVal; grind [!State.wr_fuses]
theorem whistleDone_fuses (s) : (whistleDone s).fuses = s.fuses := by
  unfold whistleDone; grind [!State.setFld_fuses, !State.bump_fuses, !lockScrub_fuses, !takeVal_fuses, !layoutEffect_fuses,
    !railFollow_fuses, !whistleNext_fuses, foldl_fuses, State.fuses]
theorem whistleReport_fuses (s u) : (whistleReport s u).fuses = s.fuses := by
  unfold whistleReport; grind [!whistleDone_fuses, State.fuses]
theorem whistleUnawait_fuses (s) : (whistleUnawait s).fuses = s.fuses := by
  unfold whistleUnawait; grind [!whistleDone_fuses, State.fuses]
theorem whistleTimeout_fuses (s) : (whistleTimeout s).fuses = s.fuses := by
  unfold whistleTimeout; grind [!whistleNext_fuses, !whistleFailed_fuses, foldl_fuses]
theorem whistleStart_fuses (s c vals lock) : (whistleStart s c vals lock).fuses = s.fuses := by
  unfold whistleStart; grind [!whistleUnawait_fuses, !whistleSubmit_fuses]
theorem partCommit_fuses (s go) : (partCommit s go).fuses = s.fuses := by
  unfold partCommit; grind [!State.answer_fuses, !State.setFld_fuses, !whistleStart_fuses]

/-! ### Scheduling -/

theorem examineValue_fuses (s qi v) : (examineValue s qi v).fuses = s.fuses := by
  unfold examineValue; grind [!workBegins_fuses, !State.setQueue_fuses, !complete_fuses]
theorem examineWait_fuses (s qi) : (examineWait s qi).fuses = s.fuses := by
  unfold examineWait; grind [!complete_fuses, !xlate_fuses, !memLoadNat_fuses, !examineValue_fuses, !remoteRead_fuses]
theorem startOn_fuses (s u) : (startOn s u).fuses = s.fuses := by
  unfold startOn; grind [!State.setQueue_fuses, !complete_fuses, State.fuses]
theorem unstart_fuses (s qi) : (unstart s qi).fuses = s.fuses := by
  unfold unstart; grind [!State.setQueue_fuses]
theorem retarget_fuses (s qi u) {t} (h : retarget s qi u = some t) : t.fuses = s.fuses := by
  unfold retarget at h; grind [!unstart_fuses]
theorem setOn_fuses (s qi u) : (setOn s qi u).fuses = s.fuses := by
  unfold setOn; grind [!State.setQueue_fuses]
theorem beginCmd_fuses (s qi budget) : (beginCmd s qi budget).fuses = s.fuses := by
  unfold beginCmd; grind [!State.setQueue_fuses]
theorem withFarCmd_fuses (s qi f) (hf : ∀ t, t.fuses = s.fuses → (f t).fuses = s.fuses) : (withFarCmd s qi f).fuses = s.fuses := by
  unfold withFarCmd; grind [!withFarFrom_fuses, !State.setQueue_fuses]
theorem setFlag_fuses (s qi f) : (setFlag s qi f).fuses = s.fuses := by
  unfold setFlag; grind [!State.setQueue_fuses]
theorem markThrottled_fuses (s) : (markThrottled s).fuses = s.fuses := by
  unfold markThrottled; grind [!setFlag_fuses, foldl_fuses]
theorem reloadQueue_fuses (s qi) : (reloadQueue s qi).fuses = s.fuses := by
  unfold reloadQueue
  refine fuses_ite ?_ rfl
  split <;> grind [!memLoad_fuses, !State.setQueue_fuses]
theorem placeQueue_fuses (s qi sl) : (placeQueue s qi sl).fuses = s.fuses := by
  unfold placeQueue; grind [!reloadQueue_fuses, !State.bump_fuses, !State.setQueue_fuses]
theorem swapIn_fuses (s qi only3) : (swapIn s qi only3).fuses = s.fuses := by
  unfold swapIn; grind [!placeQueue_fuses, !saveQueue_fuses, !State.setQueue_fuses]
theorem queueCreate_fuses (s arg) : (queueCreate s arg).fuses = s.fuses := by
  unfold queueCreate; grind [!feQueueCreate_fuses, !swapIn_fuses]
theorem queueTick_fuses (s) : (queueTick s).fuses = s.fuses := by
  unfold queueTick; grind [foldl_fuses, State.fuses]
theorem deadlockSearch_fuses (s p) : (deadlockSearch s p).fuses = s.fuses := by
  unfold deadlockSearch
  extract_lets rs stuck last
  refine fuses_ite rfl ?_
  clear_value last
  match last with
  | none => rfl
  | some (_, qi) => exact (event_fuses ..).trans ((complete_fuses _ _ _).trans (State.bump_fuses ..))
theorem usageSettle_fuses (s) : (usageSettle s).fuses = s.fuses := by
  unfold usageSettle; grind [!State.setCtx_fuses, !State.setCore_fuses, !State.setPass_fuses, foldl_fuses]
theorem shareEnergy_fuses (s pj) : (shareEnergy s pj).fuses = s.fuses := by
  unfold shareEnergy; grind [State.fuses]
theorem writeScore_fuses (s i) : (writeScore s i).fuses = s.fuses := by
  unfold writeScore; grind [!memStore_fuses]

end Sys2Proof.Machine
end

section
/-! The anti-rollback fuses (R816), continued: compression, display and Ethernet leave them. -/

namespace Sys2Proof.Machine

open Sys2Proof

/-! ### Compression -/

theorem channelEvent_fuses (s c e) : (channelEvent s c e).fuses = s.fuses := by
  unfold channelEvent; grind [!State.setFld_fuses, !domStop_fuses]
theorem channelSettle_fuses (s c) : (channelSettle s c).fuses = s.fuses := by
  unfold channelSettle; grind [!channelEvent_fuses]
theorem channelEnable_fuses (s c) : (channelEnable s c).fuses = s.fuses := by
  unfold channelEnable; grind [!State.answer_fuses, !State.setFld_fuses, !domStart_fuses]
theorem channelDisable_fuses (s c) : (channelDisable s c).fuses = s.fuses := by
  unfold channelDisable; grind [!channelSettle_fuses, !State.answer_fuses, !State.setFld_fuses, !channelEvent_fuses]
theorem execChannelEnable_fuses (channel s) {t} (h : execChannelEnable channel s = .next t) : t.fuses = s.fuses := by
  unfold execChannelEnable at h; grind [!guarded_fuses, !channelEnable_fuses]
theorem execChannelDisable_fuses (channel s) {t} (h : execChannelDisable channel s = .next t) : t.fuses = s.fuses := by
  unfold execChannelDisable at h; grind [!guarded_fuses, !channelDisable_fuses]
theorem execChannelPowered_fuses (channel s) {t} (h : execChannelPowered channel s = .next t) : t.fuses = s.fuses := by
  unfold execChannelPowered at h; grind [!channelSettle_fuses, !channelEvent_fuses]
theorem scatter_fuses (s qi c h pieces bs) : (scatter s qi c h pieces bs).2.fuses = s.fuses := by
  induction pieces generalizing s bs with
  | nil => rfl
  | cons x pieces ih => unfold scatter; grind [!ctxStore_fuses]
theorem cdeFinish_fuses (s qi c st) : (cdeFinish s qi c st).fuses = s.fuses := by
  unfold cdeFinish; grind [!channelSettle_fuses, !complete_fuses, !State.bump_fuses]
theorem cdeEnd_fuses (s qi c d e) : (cdeEnd s qi c d e).fuses = s.fuses := by
  unfold cdeEnd; grind [!scatter_fuses, !cdeFinish_fuses, !ctxStore_fuses, !State.bump_fuses, !State.setCtx_fuses, State.fuses]
theorem cdeResume_fuses (s c h d) : (cdeResume s c h d).2.fuses = s.fuses := by
  unfold cdeResume; grind [!ctxReadObj_fuses]
theorem cdeWork_fuses (s qi c d) : (cdeWork s qi c d).fuses = s.fuses := by
  unfold cdeWork; grind [!State.setFld_fuses, !beginCmd_fuses, !cdeResume_fuses, !cdeFinish_fuses, !cdeEnd_fuses, !ctxReadObj_fuses]
theorem cdeCommand_fuses (s qi c op) : (cdeCommand s qi c op).fuses = s.fuses := by
  unfold cdeCommand; grind [!ctxReadObj_fuses, !cdeFinish_fuses, !beginCmd_fuses, !cdeWork_fuses, State.fuses]
theorem cdeStep_fuses (s qi op) : (cdeStep s qi op).fuses = s.fuses := by
  unfold cdeStep; grind [!channelSettle_fuses, !complete_fuses, !cdeFinish_fuses, !withFarCmd_fuses, !cdeCommand_fuses]
theorem execCompress_fuses (q s) {t} (h : execCompress q s = .next t) : t.fuses = s.fuses := by
  unfold execCompress at h; grind [!cdeStep_fuses]
theorem execDecompress_fuses (q s) {t} (h : execDecompress q s = .next t) : t.fuses = s.fuses := by
  unfold execDecompress at h; grind [!cdeStep_fuses]

/-! ### Composing a frame -/

theorem fetchPixel_fuses (s p h va n) : (fetchPixel s p h va n).2.fuses = s.fuses := by
  unfold fetchPixel; grind [!xlate_fuses, !memLoadNat_fuses]
theorem layerFault_fuses (s p l y h va st) : (layerFault s p l y h va st).fuses = s.fuses := by
  unfold layerFault; grind [!loseCtx_fuses, !faultRecord_fuses, !State.setPipe_fuses]
theorem underflow_fuses (s p px py n) : (underflow s p px py n).fuses = s.fuses := by
  unfold underflow; grind [!event_fuses, !State.bump_fuses, !State.setPipe_fuses]
theorem composeLayers_fuses (s p px py noSkip layers below) : (composeLayers s p px py noSkip layers below).2.fuses = s.fuses := by
  induction layers generalizing s below with
  | nil => rfl
  | cons x layers ih => unfold composeLayers; grind [!fetchPixel_fuses, !layerFault_fuses, !underflow_fuses]
theorem composePixel_fuses (s p px py) : (composePixel s p px py).2.fuses = s.fuses := by
  unfold composePixel; grind [!State.bump_fuses, !composeLayers_fuses, foldl_fuses]
theorem composeLine_fuses (s p py) : (composeLine s p py).2.fuses = s.fuses := by
  unfold composeLine; grind [!composePixel_fuses, !foldl_snd_fuses]
theorem composeTo_fuses (s p n) : (composeTo s p n).2.fuses = s.fuses := by
  unfold composeTo; grind [!composeLine_fuses, !foldl_snd_fuses]
theorem composeFrame_fuses (s p) : (composeFrame s p).2.fuses = s.fuses := by
  unfold composeFrame; grind [!composeTo_fuses]
theorem heldPixel_fuses (s p k px py) : (heldPixel s p k px py).2.fuses = s.fuses := by
  have h := fetchPixel_fuses s p (BitVec.ofNat 32 (s.fldActive F.lyrWbOwnerHandle p))
  unfold heldPixel
  extract_lets w
  split
  next va n _ =>
    have h1 := h va n
    generalize fetchPixel s p (BitVec.ofNat 32 (s.fldActive F.lyrWbOwnerHandle p)) va n = r at h1 ⊢
    split <;> exact h1
theorem heldFrame_fuses (s p k) : (heldFrame s p k).2.fuses = s.fuses := by
  unfold heldFrame
  refine foldl_snd_fuses (fun acc py => ?_) _ _
  generalize hx : List.foldl _ _ _ = x
  have hrow : x.2.fuses = (([], acc.2) : List (List Nat) × State).2.fuses := by
    rw [← hx]
    refine foldl_snd_fuses (fun a px => ?_) _ _
    split
    next => exact snd_fuses (heldPixel_fuses ..) ‹_›
  exact hrow
theorem showFrame_fuses (s p frame) : (showFrame s p frame).fuses = s.fuses := by
  unfold showFrame; grind [!State.setPipe_fuses, !heldFrame_fuses]
theorem judgeRegion_fuses (s p r frame) : (judgeRegion s p r frame).2.fuses = s.fuses := by
  unfold judgeRegion; grind [!State.setFld_fuses, !event_fuses, !State.bump_fuses]
theorem judgeFrame_fuses (s p frame) : (judgeFrame s p frame).2.fuses = s.fuses := by
  unfold judgeFrame; grind [!judgeRegion_fuses, !foldl_snd_fuses]

/-! ### DisplayPort outputs -/

theorem composerSettle_fuses (s) : (composerSettle s).fuses = s.fuses := by
  unfold composerSettle; grind [!domStop_fuses]
theorem allocStream_fuses (s p) : (allocStream s p).fuses = s.fuses := by
  unfold allocStream; grind [!State.setFld_fuses, !event_fuses, !State.fresh_fuses, foldl_fuses]
theorem allocLink_fuses (s t) : (allocLink s t).fuses = s.fuses := by
  unfold allocLink; grind [!State.setFld_fuses, !allocStream_fuses, foldl_fuses]
theorem linkLost_fuses (s t) : (linkLost s t).fuses = s.fuses := by
  unfold linkLost; grind [!allocLink_fuses, !State.setFld_fuses]
theorem trainStart_fuses (s t) : (trainStart s t).fuses = s.fuses := by
  unfold trainStart; grind [!linkLost_fuses, !State.setDpTx_fuses]
theorem execHotPlug_fuses (tx ev s) {t} (h : execHotPlug tx ev s = .next t) : t.fuses = s.fuses := by
  unfold execHotPlug at h; grind [!trainStart_fuses, !State.setFld_fuses, !linkLost_fuses, !State.setDpTx_fuses]
theorem execLinkTrainingEnd_fuses (tx result s) {t} (h : execLinkTrainingEnd tx result s = .next t) : t.fuses = s.fuses := by
  unfold execLinkTrainingEnd at h; grind [!State.setFld_fuses, !allocLink_fuses, !State.setDpTx_fuses, !event_fuses,
    !State.bump_fuses]
theorem execTrainRetry_fuses (tx s) {t} (h : execTrainRetry tx s = .next t) : t.fuses = s.fuses := by
  unfold execTrainRetry at h
  split at h
  · cases h; rfl
  · split at h <;> cases h
    · exact trainStart_fuses s tx
    · rfl
theorem execLossOfLock_fuses (tx s) {t} (h : execLossOfLock tx s = .next t) : t.fuses = s.fuses := by
  unfold execLossOfLock at h; grind [!trainStart_fuses, !linkLost_fuses]
theorem linkCtrlWrite_fuses (s t v) : (linkCtrlWrite s t v).fuses = s.fuses := by
  unfold linkCtrlWrite; grind [!State.answer_fuses, !State.wrPlain_fuses, !domStart_fuses, !trainStart_fuses,
    !composerSettle_fuses, !linkLost_fuses, !State.setDpTx_fuses]
theorem execDpxLinkCtrl_fuses (tx v s) {t} (h : execDpxLinkCtrl tx v s = .next t) : t.fuses = s.fuses := by
  unfold execDpxLinkCtrl at h; grind [!guarded_fuses, !linkCtrlWrite_fuses]
theorem streamWrite_fuses (s p v) : (streamWrite s p v).fuses = s.fuses := by
  unfold streamWrite; grind [!State.answer_fuses, !State.wrPlain_fuses]
theorem execDpxStream_fuses (pipe v s) {t} (h : execDpxStream pipe v s = .next t) : t.fuses = s.fuses := by
  unfold execDpxStream at h; grind [!guarded_fuses, !streamWrite_fuses]

/-! ### Composer pipes -/

theorem applyPresent_fuses (s p r) : (applyPresent s p r).fuses = s.fuses := by
  unfold applyPresent; grind [!event_fuses, !State.bump_fuses, !State.setQueue_fuses, !State.setPipe_fuses]
theorem takePresent_fuses (s p r) : (takePresent s p r).fuses = s.fuses := by
  unfold takePresent; grind [!State.setPipe_fuses, !applyPresent_fuses]
theorem presentBegin_fuses (s qi) : (presentBegin s qi).fuses = s.fuses := by
  unfold presentBegin; grind [!ctxReadObj_fuses, !complete_fuses, !beginCmd_fuses, !retarget_fuses, !setOn_fuses,
    !takePresent_fuses, !State.setPipe_fuses]
theorem presentDrop_fuses (s qi) : (presentDrop s qi).fuses = s.fuses := by
  unfold presentDrop; grind [!State.setPipe_fuses, foldl_fuses]
theorem execPresent_fuses (q s) {t} (h : execPresent q s = .next t) : t.fuses = s.fuses := by
  unfold execPresent at h; grind [!complete_fuses, !presentDrop_fuses, !withFarCmd_fuses, !presentBegin_fuses]
theorem pipeCtrlWrite_fuses (s p enable noSkip bpc) : (pipeCtrlWrite s p enable noSkip bpc).fuses = s.fuses := by
  unfold pipeCtrlWrite; grind [!State.setFld_fuses, !State.answer_fuses, !domStart_fuses]
theorem execPipeEnable_fuses (pipe noSkip bpc s) {t} (h : execPipeEnable pipe noSkip bpc s = .next t) : t.fuses = s.fuses := by
  unfold execPipeEnable at h; grind [!guarded_fuses, !pipeCtrlWrite_fuses]
theorem execPipeDisable_fuses (pipe noSkip bpc s) {t} (h : execPipeDisable pipe noSkip bpc s = .next t) : t.fuses = s.fuses := by
  unfold execPipeDisable at h; grind [!guarded_fuses, !pipeCtrlWrite_fuses]
theorem wbOff_fuses (s p) : (wbOff s p).fuses = s.fuses := by
  unfold wbOff; grind [!State.latch_fuses, !State.setFld_fuses, !State.setPipe_fuses]
theorem wbFault_fuses (s p h) : (wbFault s p h).fuses = s.fuses := by
  unfold wbFault; grind [!wbOff_fuses, !loseCtx_fuses]
theorem wbPagesOk_fuses (fuel s p h va n) : (wbPagesOk fuel s p h va n).2.fuses = s.fuses := by
  induction fuel generalizing s p h va n with
  | zero => rfl
  | succ fuel ih => unfold wbPagesOk; grind [!xlate_fuses]
theorem writeback_fuses (s p frame mism) : (writeback s p frame mism).fuses = s.fuses := by
  unfold writeback; grind [!wbFault_fuses, !wbPagesOk_fuses, !ctxStore_fuses, !State.setPipe_fuses, foldl_fuses]
theorem judgeDisplay_fuses (s p mism) : (judgeDisplay s p mism).fuses = s.fuses := by
  unfold judgeDisplay; grind [!State.setFld_fuses, !State.setPipe_fuses, !event_fuses]
theorem latchPipe_fuses (s p starting) : (latchPipe s p starting).fuses = s.fuses := by
  unfold latchPipe
  grind [!State.latch_fuses, !State.setFld_fuses, !State.setPipe_fuses, !foldl_fuses, !foldl_snd_fuses]
theorem releaseHeld_fuses (s p) : (releaseHeld s p).fuses = s.fuses := by
  unfold releaseHeld; grind [!takePresent_fuses, !State.setPipe_fuses, foldl_fuses]
theorem wbEnd_fuses (s p) : (wbEnd s p).fuses = s.fuses := by
  unfold wbEnd; grind [!wbOff_fuses, !State.latch_fuses, !State.setFld_fuses, !State.setPipe_fuses]
theorem pipeOff_fuses (s p) : (pipeOff s p).fuses = s.fuses := by
  unfold pipeOff; grind [!State.setPipe_fuses, !State.setFld_fuses, !complete_fuses, foldl_fuses]
theorem frameEnd_fuses (s p) : (frameEnd s p).2.fuses = s.fuses := by
  unfold frameEnd; grind [!composeFrame_fuses, !showFrame_fuses, !judgeFrame_fuses, !writeback_fuses]
theorem frameBoundary_fuses (s p) : (frameBoundary s p).fuses = s.fuses := by
  unfold frameBoundary; grind [!frameEnd_fuses, !State.bump_fuses, !State.setFld_fuses, !pipeOff_fuses, !composerSettle_fuses,
    !judgeDisplay_fuses, !latchPipe_fuses, !wbOff_fuses, !wbEnd_fuses, !State.setPipe_fuses, !complete_fuses, !allocStream_fuses,
    !releaseHeld_fuses, foldl_fuses, State.fuses]
theorem execFrameBoundary_fuses (pipe s) {t} (h : execFrameBoundary pipe s = .next t) : t.fuses = s.fuses := by
  unfold execFrameBoundary at h; grind [!frameBoundary_fuses]
theorem execFetchUnderflow_fuses (pipe x y n s) {t} (h : execFetchUnderflow pipe x y n s = .next t) : t.fuses = s.fuses := by
  unfold execFetchUnderflow at h; grind [!underflow_fuses]
theorem fetchLine_fuses (s p l py h w xs) : (fetchLine s p l py h w xs).fuses = s.fuses := by
  induction xs generalizing s with
  | nil => rfl
  | cons x xs ih => unfold fetchLine; grind [!xlate_fuses, !layerFault_fuses, !memLoad_fuses, !remoteRead_fuses, State.fuses]
theorem execLayerFetch_fuses (pipe layer line s) {t} (h : execLayerFetch pipe layer line s = .next t) : t.fuses = s.fuses := by
  unfold execLayerFetch at h; grind [!fetchLine_fuses]
theorem talkersFrame_fuses (s p r) : (talkersFrame s p r).fuses = s.fuses := by
  unfold talkersFrame; grind [State.fuses]
theorem wbLate_fuses (s p h) : (wbLate s p h).fuses = s.fuses := by
  unfold wbLate; grind [!loseCtx_fuses, !State.setPipe_fuses]
theorem frameSignal_fuses (s p r) : (frameSignal s p r).fuses = s.fuses := by
  unfold frameSignal; grind [!unitSignal_fuses, !wbLate_fuses, !talkersFrame_fuses]
theorem frameRecord_fuses (s p) : (frameRecord s p).fuses = s.fuses := by
  unfold frameRecord; grind [!State.setPipe_fuses, !frameSignal_fuses, !ctxStore_fuses, !wbLate_fuses]
theorem frameStored_fuses (s p seq ok) : (frameStored s p seq ok).fuses = s.fuses := by
  unfold frameStored; grind [!wbLate_fuses, !State.setPipe_fuses, !frameRecord_fuses]
theorem execFrameRecord_fuses (pipe s) {t} (h : execFrameRecord pipe s = .next t) : t.fuses = s.fuses := by
  unfold execFrameRecord at h; grind [!frameRecord_fuses]
theorem execLyrCommit_fuses (pipe v s) {t} (h : execLyrCommit pipe v s = .next t) : t.fuses = s.fuses := by
  unfold execLyrCommit at h; grind [!guarded_fuses, !State.answer_fuses, !State.wrPlain_fuses]
theorem execLyrLayerOwner_fuses (pipe layer v s) {t} (h : execLyrLayerOwner pipe layer v s = .next t) : t.fuses = s.fuses := by
  unfold execLyrLayerOwner at h; grind [!guarded_fuses, !State.answer_fuses, !State.wrPlain_fuses]
theorem sigRegionWrite_fuses (s p r reg v) : (sigRegionWrite s p r reg v).fuses = s.fuses := by
  unfold sigRegionWrite; grind [!State.answer_fuses, !State.wrPlain_fuses]
theorem execLyrSigRegion_fuses (pipe region reg v s) {t} (h : execLyrSigRegion pipe region reg v s = .next t) :
    t.fuses = s.fuses := by
  unfold execLyrSigRegion at h; grind [!guarded_fuses, !sigRegionWrite_fuses]
theorem execLyrSigCtrl_fuses (pipe v s) {t} (h : execLyrSigCtrl pipe v s = .next t) : t.fuses = s.fuses := by
  unfold execLyrSigCtrl at h; grind [!guarded_fuses, !State.answer_fuses, !State.wrPlain_fuses]
theorem timingWrite_fuses (s p reg v) : (timingWrite s p reg v).fuses = s.fuses := by
  unfold timingWrite; grind [!State.answer_fuses, !State.wrPlain_fuses]
theorem execLyrTiming_fuses (pipe reg v s) {t} (h : execLyrTiming pipe reg v s = .next t) : t.fuses = s.fuses := by
  unfold execLyrTiming at h; grind [!guarded_fuses, !timingWrite_fuses]
theorem wbCtrlWrite_fuses (s p v) : (wbCtrlWrite s p v).fuses = s.fuses := by
  unfold wbCtrlWrite; grind [!State.answer_fuses, !State.wrPlain_fuses]
theorem execLyrWbCtrl_fuses (pipe v s) {t} (h : execLyrWbCtrl pipe v s = .next t) : t.fuses = s.fuses := by
  unfold execLyrWbCtrl at h; grind [!guarded_fuses, !wbCtrlWrite_fuses]

/-! ### Ethernet -/

theorem ethResult_fuses (s st state) : (ethResult s st state).fuses = s.fuses := by
  unfold ethResult; grind [!State.answer_fuses, !State.wr_fuses]
theorem opQpStart_fuses (s i) : (opQpStart s i).fuses = s.fuses := by
  unfold opQpStart; grind [!ethResult_fuses, !readRecord_fuses, !State.setQp_fuses]
theorem opQpStop_fuses (s i) : (opQpStop s i).fuses = s.fuses := by
  unfold opQpStop; grind [!ethResult_fuses, !State.setQp_fuses]
theorem opQpQuery_fuses (s i) : (opQpQuery s i).fuses = s.fuses := by
  unfold opQpQuery; grind [!ethResult_fuses]
theorem opKeyLoad_fuses (s i) : (opKeyLoad s i).fuses = s.fuses := by
  unfold opKeyLoad; grind [!ethResult_fuses, !readRecord_fuses, !State.setKey_fuses]
theorem finishRevoke_fuses (s i) : (finishRevoke s i).fuses = s.fuses := by
  unfold finishRevoke; grind [!State.setKey_fuses, !ethResult_fuses]
theorem opKeyRevoke_fuses (s i) : (opKeyRevoke s i).fuses = s.fuses := by
  unfold opKeyRevoke; grind [!ethResult_fuses, !finishRevoke_fuses, !State.setKey_fuses]
theorem revokeOwned_fuses (s h) : (revokeOwned s h).fuses = s.fuses := by
  unfold revokeOwned; grind [!finishRevoke_fuses, foldl_fuses, State.fuses]
theorem nak_fuses (s i psn code) : (nak s i psn code).fuses = s.fuses := by
  unfold nak; grind [!qpFrame_fuses]
theorem takePsn_fuses (s i n) : (takePsn s i n).fuses = s.fuses := by
  unfold takePsn; grind [!State.setQp_fuses]
theorem received_fuses (s i ecn) : (received s i ecn).fuses = s.fuses := by
  unfold received; grind [!State.bump_fuses]
theorem inSequence_fuses (s i psn f dup) (hf : ∀ s, (f s).fuses = s.fuses) (hdup : ∀ g ∈ dup, ∀ s, (g s).fuses = s.fuses) :
    (inSequence s i psn f dup).fuses = s.fuses := by
  unfold inSequence
  refine fuses_ite ?_ rfl
  split
  · exact hf s
  · split
    · exact qpFrame_fuses _ _ _
    · exact hdup _ rfl s
  · exact nak_fuses _ _ _ _
theorem windowTarget_fuses (s k acc off) : (windowTarget s k acc off).2.fuses = s.fuses := by
  unfold windowTarget; grind [!xlate_fuses]
theorem refuseAccess_fuses (s i psn) : (refuseAccess s i psn).fuses = s.fuses := by
  unfold refuseAccess; grind [!nak_fuses, !State.bump_fuses]
theorem windowWrite_fuses (fuel s k off bs) : (windowWrite fuel s k off bs).2.fuses = s.fuses := by
  induction fuel generalizing s k off bs with
  | zero => rfl
  | succ fuel ih => unfold windowWrite; grind [!windowTarget_fuses, !memStore_fuses]
theorem windowRead_fuses (fuel s k off n) : (windowRead fuel s k off n).2.fuses = s.fuses := by
  induction fuel generalizing s k off n with
  | zero => rfl
  | succ fuel ih => unfold windowRead; grind [!windowTarget_fuses, !memLoad_fuses]
theorem ackRequest_fuses (s i psn n) : (ackRequest s i psn n).fuses = s.fuses := by
  unfold ackRequest; grind [!qpFrame_fuses, !takePsn_fuses]
theorem rdmaWriteIn_fuses (s i psn rkey va bs) : (rdmaWriteIn s i psn rkey va bs).fuses = s.fuses := by
  unfold rdmaWriteIn; grind [!refuseAccess_fuses, !windowWrite_fuses, !ackRequest_fuses, !nak_fuses]
theorem rdmaReadIn_fuses (s i psn rkey va n again) : (rdmaReadIn s i psn rkey va n again).fuses = s.fuses := by
  unfold rdmaReadIn; grind [!refuseAccess_fuses, !windowRead_fuses, !qpFrame_fuses, !takePsn_fuses, !nak_fuses]
theorem hostAtomic_fuses (s i psn rkey va f) : (hostAtomic s i psn rkey va f).fuses = s.fuses := by
  unfold hostAtomic; grind [!refuseAccess_fuses, !nak_fuses, !windowTarget_fuses, !memLoadNat_fuses, !memStoreNat_fuses,
    !takePsn_fuses, !State.setQp_fuses, !qpFrame_fuses]
theorem atomicAgain_fuses (s i psn) : (atomicAgain s i psn).fuses = s.fuses := by
  unfold atomicAgain; grind [!qpFrame_fuses]
theorem opStreamStart_fuses (s i) : (opStreamStart s i).fuses = s.fuses := by
  unfold opStreamStart; grind [!ethResult_fuses, !readRecord_fuses, !State.setStream_fuses, State.fuses]
theorem endStream_fuses (s i) : (endStream s i).fuses = s.fuses := by
  unfold endStream; grind [!State.setStream_fuses]
theorem stopStream_fuses (s i) : (stopStream s i).fuses = s.fuses := by
  unfold stopStream; grind [!endStream_fuses, !State.setStream_fuses]
theorem opStreamStop_fuses (s i) : (opStreamStop s i).fuses = s.fuses := by
  unfold opStreamStop; grind [!ethResult_fuses, !stopStream_fuses]
theorem streamFault_fuses (s i) : (streamFault s i).fuses = s.fuses := by
  unfold streamFault; grind [!loseCtx_fuses, !State.setStream_fuses]
theorem farConsumed_fuses (s i d a) : (farConsumed s i d a).2.fuses = s.fuses := by
  unfold farConsumed; grind [!remoteRead_fuses, State.fuses]
theorem signalSlots_fuses (fuel s i) : (signalSlots fuel s i).fuses = s.fuses := by
  induction fuel generalizing s i with
  | zero => rfl
  | succ fuel ih => unfold signalSlots; grind [!unitSignal_fuses, !streamFault_fuses, !State.setStream_fuses, !endStream_fuses]
theorem slotStored_fuses (s i slot ok) : (slotStored s i slot ok).fuses = s.fuses := by
  unfold slotStored; grind [!signalSlots_fuses, !streamFault_fuses]
theorem finishSlot_fuses (s i) : (finishSlot s i).fuses = s.fuses := by
  unfold finishSlot; grind [!ctxStore_fuses, !streamFault_fuses, !State.bump_fuses, !State.setStream_fuses, !signalSlots_fuses]
theorem slotFree_fuses (s i) : (slotFree s i).2.fuses = s.fuses := by
  unfold slotFree; grind [!xlate_fuses, !memLoadNat_fuses, !farConsumed_fuses]
theorem putStream_fuses (fuel s i bs pt frameBytes rate) : (putStream fuel s i bs pt frameBytes rate).fuses = s.fuses := by
  induction fuel generalizing s i bs pt frameBytes rate with
  | zero => rfl
  | succ fuel ih => unfold putStream; grind [!slotFree_fuses, !streamFault_fuses, !event_fuses, !State.bump_fuses, !ctxStore_fuses,
    !State.setStream_fuses, !finishSlot_fuses]
theorem endFrame_fuses (s i) : (endFrame s i).fuses = s.fuses := by
  unfold endFrame; grind [!endStream_fuses, !State.setStream_fuses, !finishSlot_fuses]
theorem avtpIn_fuses (s i seq ts first last width frameBytes rate bs) :
    (avtpIn s i seq ts first last width frameBytes rate bs).fuses = s.fuses := by
  unfold avtpIn; grind [!State.bump_fuses, !putStream_fuses, !State.setStream_fuses, !endFrame_fuses]
theorem setTime_fuses (s st) : (setTime s st).fuses = s.fuses := by
  unfold setTime; grind [!State.setFld_fuses, !State.wr_fuses, State.fuses]
theorem toHoldover_fuses (s) : (toHoldover s).fuses = s.fuses := by
  unfold toHoldover; grind [!event_fuses, !setTime_fuses]
theorem toFreeRun_fuses (s) : (toFreeRun s).fuses = s.fuses := by
  unfold toFreeRun; grind [!event_fuses, !setTime_fuses]
theorem slew_fuses (s) : (slew s).fuses = s.fuses := by
  unfold slew; grind [!State.fresh_fuses, !State.wr_fuses]
theorem syncIn_fuses (s gm off) : (syncIn s gm off).fuses = s.fuses := by
  unfold syncIn; grind [!State.wr_fuses, !setTime_fuses, !State.setFld_fuses, !event_fuses, !slew_fuses, State.fuses]
theorem slaveLinkFell_fuses (s) : (slaveLinkFell s).fuses = s.fuses := by
  unfold slaveLinkFell; grind [!toHoldover_fuses]
theorem linkFell_fuses (s p) : (linkFell s p).fuses = s.fuses := by
  unfold linkFell; grind [!event_fuses, !State.bump_fuses, !State.setFld_fuses, !slaveLinkFell_fuses]
theorem linkWoke_fuses (s p) : (linkWoke s p).fuses = s.fuses := by
  unfold linkWoke; grind [!State.setFld_fuses, !State.setEthPort_fuses]

end Sys2Proof.Machine
end

section
/-! The anti-rollback fuses (R816), continued: courts, field commands and thread groups leave them. -/

namespace Sys2Proof.Machine

open Sys2Proof

/-! ### Field commands -/

theorem extendBudgets_fuses (s) : (extendBudgets s).fuses = s.fuses := by
  unfold extendBudgets; grind [!State.setField_fuses, !State.setQueue_fuses, foldl_fuses]
theorem fieldRefuse_fuses (s qi st) : (fieldRefuse s qi st).fuses = s.fuses := by
  unfold fieldRefuse; grind [!completeOn_fuses]
theorem loadTables_fuses (s r tableOf) : (loadTables s r tableOf).fuses = s.fuses := by
  unfold loadTables; grind [!State.setCourt_fuses, foldl_fuses]
theorem occupyCourts_fuses (s courts h) : (occupyCourts s courts h).fuses = s.fuses := by
  unfold occupyCourts; grind [!State.setCourt_fuses, !State.setFld_fuses, foldl_fuses]
theorem fieldGo_fuses (s qi p r allow) : (fieldGo s qi p r allow).fuses = s.fuses := by
  unfold fieldGo; grind [!State.setQueue_fuses, !markThrottled_fuses, !occupyCourts_fuses, !State.setField_fuses]
theorem fieldBegin_fuses (s qi replay) : (fieldBegin s qi replay).fuses = s.fuses := by
  unfold fieldBegin
  extract_lets x p h courts s1 ho
  have h1 : s1.fuses = s.fuses := beginCmd_fuses ..
  clear_value s1
  rw [← h1]
  refine fuses_ite (fieldRefuse_fuses ..) ?_
  split
  next => exact (fieldRefuse_fuses ..).trans (snd_fuses (ctxReadObj_fuses ..) ‹_›)
  next bs s2 hbs =>
  rw [← snd_fuses (ctxReadObj_fuses ..) hbs]
  extract_lets w w0 w1 np nr nt foot rp place
  refine fuses_ite (fieldRefuse_fuses ..) (fuses_ite (fieldRefuse_fuses ..) ?_)
  have hrp : rp.2.fuses = s2.fuses := by
    cases replay with
    | none => exact ctxReadObj_fuses ..
    | some ps => rfl
  clear_value rp
  split
  next => exact (fieldRefuse_fuses ..).trans hrp
  next pb s3 =>
  rw [← (hrp : s3.fuses = s2.fuses)]
  split
  next => exact (fieldRefuse_fuses ..).trans (snd_fuses (ctxReadObj_fuses ..) ‹_›)
  next bb s4 hbb =>
  rw [← snd_fuses (ctxReadObj_fuses ..) hbb]
  split
  next => exact (fieldRefuse_fuses ..).trans (snd_fuses (ctxReadObj_fuses ..) ‹_›)
  next rb s5 hrb =>
  rw [← snd_fuses (ctxReadObj_fuses ..) hrb]
  split
  next => exact (fieldRefuse_fuses ..).trans (snd_fuses (ctxReadObj_fuses ..) ‹_›)
  next tb s6 htb =>
  rw [← snd_fuses (ctxReadObj_fuses ..) htb]
  extract_lets params regions tables entries held run tableOf
  clear_value run tableOf
  refine fuses_ite (unstart_fuses ..) (fuses_ite (fieldRefuse_fuses ..) (fuses_ite (fieldRefuse_fuses ..)
    (fuses_ite (fieldRefuse_fuses ..) ?_)))
  split
  next bw s7 hbw =>
    rw [← snd_fuses (ctxReadObj_fuses ..) hbw]
    exact fuses_ite ((fieldGo_fuses ..).trans (loadTables_fuses ..)) (fieldRefuse_fuses ..)
  next =>
    exact (fieldGo_fuses ..).trans ((loadTables_fuses ..).trans (snd_fuses (ctxReadObj_fuses ..) ‹_›))
theorem fieldRecord_fuses (s r st kind addr cycle court) : (fieldRecord s r st kind addr cycle court).fuses = s.fuses := by
  unfold fieldRecord; grind [!faultRecord_fuses]
theorem setRun_fuses (s p r) : (setRun s p r).fuses = s.fuses := by
  unfold setRun; grind [!State.setField_fuses]
theorem heavySignal_fuses (s was is others) : (heavySignal s was is others).fuses = s.fuses := by
  unfold heavySignal; grind [!railFollow_fuses, !State.setFld_fuses, State.fuses]
theorem cacheSlots_fuses (s r b) : (cacheSlots s r b).fuses = s.fuses := by
  unfold cacheSlots; grind [!State.setCourt_fuses, foldl_fuses]
theorem nextBundle_fuses (s p r) : (nextBundle s p r).fuses = s.fuses := by
  unfold nextBundle; grind [!setRun_fuses, !fieldRecord_fuses, !ctxReadObj_fuses, !heavySignal_fuses, !cacheSlots_fuses]
theorem dmaPlace_fuses (s d o bs) : (dmaPlace s d o bs).fuses = s.fuses := by
  unfold dmaPlace; grind [!State.setCourt_fuses, foldl_fuses]
theorem dmaFailed_fuses (s p d st addr) : (dmaFailed s p d st addr).fuses = s.fuses := by
  unfold dmaFailed; grind [!fieldRecord_fuses, !setRun_fuses]
theorem dmaPiece_fuses (s p r d o n) : (dmaPiece s p r d o n).2.fuses = s.fuses := by
  unfold dmaPiece; grind [!xlate_fuses, !memStore_fuses, !remoteWrite_fuses, !qpWrite_fuses, !memLoad_fuses, !dmaPlace_fuses,
    !remoteRead_fuses]
theorem dmaRun_fuses (s p r d pieces k) : (dmaRun s p r d pieces k).2.fuses = s.fuses := by
  induction pieces generalizing s k with
  | nil => rfl
  | cons x pieces ih => unfold dmaRun; grind [!dmaPiece_fuses]
theorem dmaStoreCheck_fuses (s r d pieces) : (dmaStoreCheck s r d pieces).2.fuses = s.fuses := by
  induction pieces generalizing s with
  | nil => rfl
  | cons x pieces ih => unfold dmaStoreCheck; grind [!xlate_fuses]
theorem landIn_fuses (s r) : (landIn s r).1.fuses = s.fuses := by
  unfold landIn; grind [!State.setCourt_fuses, foldl_fuses]
theorem landFlits_fuses (s p) : (landFlits s p).fuses = s.fuses := by
  unfold landFlits; grind [!landIn_fuses, !setRun_fuses]
theorem dmaComplete_fuses (s p court stream) : (dmaComplete s p court stream).fuses = s.fuses := by
  unfold dmaComplete; grind [!landFlits_fuses, !dmaStoreCheck_fuses, !dmaFailed_fuses, !dmaRun_fuses, !setRun_fuses]
theorem dmaAnswered_fuses (s p o id a) : (dmaAnswered s p o id a).fuses = s.fuses := by
  unfold dmaAnswered; grind [!dmaFailed_fuses, !dmaPlace_fuses, !setRun_fuses]
theorem rowCycle_fuses (s r l i) : (rowCycle s r l i).2.1.fuses = s.fuses := by
  unfold rowCycle; grind [!State.setCourt_fuses]
theorem settleLate_fuses (s r) : (settleLate s r).1.fuses = s.fuses := by
  unfold settleLate
  refine foldl_at_fuses Prod.fst (fun a d => ?_) _ _
  exact State.setCourt_fuses _ _ _
theorem countCycles_fuses (s p r n) : (countCycles s p r n).fuses = s.fuses := by
  unfold countCycles; grind [!State.setCtx_fuses, !State.bump_fuses]
theorem conflictCycles_fuses (s p r n) : (conflictCycles s p r n).fuses = s.fuses := by
  unfold conflictCycles; grind [!State.bump_fuses, !countCycles_fuses]
theorem scheduleCycle_fuses (s p r) : (scheduleCycle s p r).fuses = s.fuses := by
  unfold scheduleCycle
  extract_lets r1 conf r2
  clear_value r1 conf r2
  split
  next ok s1 r3 hrows =>
    have h1 : s1.fuses = s.fuses := by
      have h := foldl_at_fuses (fun a : Bool × State × FieldRun => a.2.1)
        (f := fun a li => match rowCycle a.2.1 a.2.2 li.1 li.2 with | (ok, s, r) => (a.1 && ok, s, r))
        (by grind [!rowCycle_fuses]) (r2.logical.map (fun l => tabulate 8 (fun i => (l, i)))).flatten (true, s, r2)
      grind
    grind [!setRun_fuses, !fieldRecord_fuses, !conflictCycles_fuses, !settleLate_fuses]
theorem cycleNow_fuses (s p r b) : (cycleNow s p r b).fuses = s.fuses := by
  unfold cycleNow; grind [!landFlits_fuses, !setRun_fuses, !scheduleCycle_fuses]
theorem bundleCycle_fuses (s p r b) : (bundleCycle s p r b).fuses = s.fuses := by
  unfold bundleCycle; grind [!setRun_fuses, !State.bump_fuses, !cycleNow_fuses]
theorem courtClock_fuses (s p) : (courtClock s p).fuses = s.fuses := by
  unfold courtClock; grind [!setRun_fuses, !State.bump_fuses, !countCycles_fuses, !bundleCycle_fuses]
theorem bundleClock_fuses (s p) : (bundleClock s p).fuses = s.fuses := by
  unfold bundleClock; grind [!withFar_fuses, !courtClock_fuses, !nextBundle_fuses]
theorem drainRun_fuses (fuel s r) : (drainRun fuel s r).fuses = s.fuses := by
  induction fuel generalizing s r with
  | zero => rfl
  | succ fuel ih => unfold drainRun; grind [!landIn_fuses, !settleLate_fuses]
theorem freeCourts_fuses (s courts) : (freeCourts s courts).fuses = s.fuses := by
  unfold freeCourts; grind [!State.setFld_fuses, !State.setCourt_fuses, !courtScrubDue_fuses, !courtSettle_fuses, foldl_fuses]
theorem dropRun_fuses (s p r) : (dropRun s p r).fuses = s.fuses := by
  unfold dropRun; grind [!heavySignal_fuses, !State.setField_fuses, !freeCourts_fuses]
theorem fieldEnd_fuses (s p) : (fieldEnd s p).fuses = s.fuses := by
  unfold fieldEnd; grind [!drainRun_fuses, !dropRun_fuses, !completeOn_fuses, foldl_fuses]

/-! ### Merging buffers -/

theorem storeMask_fuses (s line bs) : (storeMask s line bs).2.fuses = s.fuses := by
  unfold storeMask; grind [!State.setByte_fuses, !lineWritten_fuses, !logUe_fuses, foldl_fuses]
theorem drainEntry_fuses (s e) : (drainEntry s e).fuses = s.fuses := by
  unfold drainEntry; grind [!storeMask_fuses, !accessFailed_fuses, foldl_fuses, State.fuses]
theorem drainIf_fuses (s p) : (drainIf s p).fuses = s.fuses := by
  unfold drainIf; grind [!drainEntry_fuses, foldl_fuses]
theorem drainCore_fuses (s core) : (drainCore s core).fuses = s.fuses := by
  unfold drainCore; grind [!drainIf_fuses]
theorem drainLine_fuses (s core line) : (drainLine s core line).fuses = s.fuses := by
  unfold drainLine; grind [!drainIf_fuses]
theorem drainQueue_fuses (s q cores) : (drainQueue s q cores).fuses = s.fuses := by
  unfold drainQueue; grind [!drainIf_fuses]
theorem mergeStore_fuses (s core q a data) : (mergeStore s core q a data).fuses = s.fuses := by
  unfold mergeStore; grind [!drainEntry_fuses, foldl_fuses, State.fuses]
theorem execMergeDrain_fuses (core line s) {t} (h : execMergeDrain core line s = .next t) : t.fuses = s.fuses := by
  unfold execMergeDrain at h; grind [!drainIf_fuses]

/-! ### Thread groups -/

theorem cmdFault_fuses (s q r) : (cmdFault s q r).fuses = s.fuses := by
  unfold cmdFault; grind [!State.setLaunch_fuses, !requestStop_fuses, !State.setQueue_fuses, State.fuses]
theorem shaderFault_fuses (s gk kind pc addr lanes) : (shaderFault s gk kind pc addr lanes).fuses = s.fuses := by
  unfold shaderFault; grind [!cmdFault_fuses, !State.bump_fuses, !State.setGroup_fuses]
theorem writeFault_fuses (s q f) : (writeFault s q f).fuses = s.fuses := by
  unfold writeFault; grind [!faultRecord_fuses]
theorem goOn_fuses (s x g dest) : (goOn s x g dest).fuses = s.fuses := by
  unfold goOn; grind [!State.setGroup_fuses, !shaderFault_fuses, foldl_fuses]
theorem Issued.fault_fuses (x s kind addr ls) : (Issued.fault x s kind addr ls).fuses = s.fuses := by
  unfold Issued.fault; grind [!shaderFault_fuses]
theorem startBudget_fuses (s q) : (startBudget s q).fuses = s.fuses := by
  unfold startBudget; grind [!State.setQueue_fuses, !State.setLaunch_fuses]
theorem takeTurn_fuses (s gk g w) : (takeTurn s gk g w).fuses = s.fuses := by
  unfold takeTurn; grind [!State.setCore_fuses]
theorem issueN_fuses (fuel s gk cls regs other body) (hbody : ∀ s a, (body s a).fuses = s.fuses) :
    (issueN fuel s gk cls regs other body).fuses = s.fuses := by
  induction fuel generalizing s gk cls regs other body with
  | zero => rfl
  | succ fuel ih => unfold issueN; grind [!startBudget_fuses, !takeTurn_fuses, !State.setGroup_fuses, !shaderFault_fuses,
    !ctxRead_fuses]
theorem issueIf_fuses (s ref cls regs other body) (hbody : ∀ s a, (body s a).fuses = s.fuses) :
    (issueIf s ref cls regs other body).fuses = s.fuses := by
  unfold issueIf; grind [!issueN_fuses]
theorem issue_fuses (s ref cls regs body) (hbody : ∀ s a, (body s a).fuses = s.fuses) :
    (issue s ref cls regs body).fuses = s.fuses := by
  unfold issue; grind [!issueIf_fuses]
theorem Issued.holdPipe_fuses (x n s) : (Issued.holdPipe x n s).fuses = s.fuses := by
  unfold Issued.holdPipe; grind [!State.setCore_fuses]
theorem finishAlu_fuses (s x rs) : (finishAlu s x rs).fuses = s.fuses := by
  unfold finishAlu; grind [!goOn_fuses, foldl_fuses]
theorem aluBody_fuses (a b c writes m f s x) : (aluBody a b c writes m f s x).fuses = s.fuses := by
  unfold aluBody; grind [!Issued.fault_fuses, !finishAlu_fuses]
theorem settleTeam_fuses (s gk t) : (settleTeam s gk t).fuses = s.fuses := by
  unfold settleTeam; grind [!shaderFault_fuses, !finishAlu_fuses]
theorem settleTeams_fuses (s gk) : (settleTeams s gk).fuses = s.fuses := by
  unfold settleTeams; grind [!settleTeam_fuses, foldl_fuses]
theorem settleGroupBar_fuses (s gk) : (settleGroupBar s gk).fuses = s.fuses := by
  unfold settleGroupBar; grind [!State.setGroup_fuses]
theorem settleBlockBar_fuses (s gk) : (settleBlockBar s gk).fuses = s.fuses := by
  unfold settleBlockBar; grind [!State.setGroup_fuses, foldl_fuses]
theorem laneTarget_fuses (s x acc n va) : (laneTarget s x acc n va).2.fuses = s.fuses := by
  unfold laneTarget; grind [!xlate_fuses]
theorem laneTargets_fuses (s x acc n) : (laneTargets s x acc n).2.fuses = s.fuses := by
  unfold laneTargets
  exact foldl_at_fuses (fun a : List (Nat × Target) × Option (Nat × Nat) × List Nat × State => a.2.2.2)
    (by grind [!laneTarget_fuses]) x.lanes _
theorem releaseDrain_fuses (s x) : (releaseDrain s x).fuses = s.fuses := by
  unfold releaseDrain; grind [!drainCore_fuses]
theorem setLocal_fuses (s core a bs) : (setLocal s core a bs).fuses = s.fuses := by
  unfold setLocal; grind [!State.setCore_fuses, foldl_fuses]

/-! ### Memory access of thread groups -/

theorem laneAnswered_fuses (s gk l r sg bs) : (laneAnswered s gk l r sg bs).fuses = s.fuses := by
  unfold laneAnswered; grind [!State.setGroup_fuses]
theorem laneStored_fuses (s gk l va pc) : (laneStored s gk l va pc).fuses = s.fuses := by
  unfold laneStored; grind [!State.setGroup_fuses]
theorem laneFailed_fuses (s q gk l va st p) : (laneFailed s q gk l va st p).fuses = s.fuses := by
  unfold laneFailed; grind [!accessFailed_fuses, !shaderFault_fuses, !State.setGroup_fuses]
theorem atomAnswered_fuses (s gk op w ls old) : (atomAnswered s gk op w ls old).fuses = s.fuses := by
  unfold atomAnswered; grind [!State.setGroup_fuses, foldl_fuses]
theorem loadLocals_fuses (s core n ts) : (loadLocals s core n ts).2.2.fuses = s.fuses := by
  unfold loadLocals
  exact foldl_at_fuses (fun a : List (Nat × List Byte) × List Nat × State => a.2.2)
    (by grind [!memLoad_fuses, !drainLine_fuses]) ts _
theorem loadRemotes_fuses (s x n sg ts) : (loadRemotes s x n sg ts).fuses = s.fuses := by
  unfold loadRemotes; grind [!remoteRead_fuses, foldl_fuses]
theorem globalLoad_fuses (s x n sg) : (globalLoad s x n sg).fuses = s.fuses := by
  unfold globalLoad; grind [!Issued.fault_fuses, !laneTargets_fuses, !loadLocals_fuses, !goOn_fuses, !loadRemotes_fuses,
    foldl_fuses]
theorem globalStore_fuses (s x n) : (globalStore s x n).fuses = s.fuses := by
  unfold globalStore; grind [!Issued.fault_fuses, !laneTargets_fuses, !releaseDrain_fuses, !goOn_fuses, !mergeStore_fuses,
    !drainLine_fuses, !remoteWrite_fuses, !ctxStorePage_fuses, foldl_fuses]
theorem atomRemote_fuses (s x f wide d a ls) : (atomRemote s x f wide d a ls).fuses = s.fuses := by
  unfold atomRemote; grind [!remoteAtomic_fuses, foldl_fuses]
theorem globalAtomic_fuses (s x f wide) : (globalAtomic s x f wide).fuses = s.fuses := by
  unfold globalAtomic
  extract_lets n
  refine fuses_ite (Issued.fault_fuses ..) ?_
  split
  next => exact (Issued.fault_fuses ..).trans (snd_fuses (laneTargets_fuses ..) ‹_›)
  next ts s1 hts =>
  rw [← snd_fuses (laneTargets_fuses ..) hts]
  extract_lets s2 s3 bad sBad r far s4
  have h2 : s2.fuses = s1.fuses := releaseDrain_fuses ..
  have h3 : s3.fuses = s2.fuses := by
    refine foldl_fuses (fun t lt => ?_) _ _
    split
    · exact drainLine_fuses ..
    · rfl
  have hr : r.2.fuses = s3.fuses := by
    refine foldl_snd_fuses (fun acc e => ?_) _ _
    split
    · exact (memStoreNat_fuses ..).trans (memLoadNat_fuses ..)
    · rfl
  have hBad : sBad.fuses = s3.fuses := by
    refine foldl_fuses (fun t lt => ?_) _ _
    split
    · exact memLoad_fuses ..
    · rfl
  have h4 : s4.fuses = r.2.fuses := goOn_fuses ..
  clear_value s4 r sBad bad s3 s2
  rw [← h2, ← h3]
  split
  next => exact (Issued.fault_fuses ..).trans hBad
  next =>
    rw [← hr, ← h4]
    refine fuses_ite (foldl_fuses (fun t e => ?_) _ _) rfl
    split
    · exact atomRemote_fuses ..
    · rfl
theorem writeLocal_fuses (s g a bs) : (writeLocal s g a bs).fuses = s.fuses := by
  unfold writeLocal; grind [!State.setCore_fuses, !setLocal_fuses]
theorem readLocal_fuses (s g a n) : (readLocal s g a n).2.fuses = s.fuses := by
  unfold readLocal; grind [!State.fresh_fuses, !foldl_snd_fuses]
theorem localAccess_fuses (s x n regs f) (hf : ∀ s, (f s).fuses = s.fuses) : (localAccess s x n regs f).fuses = s.fuses := by
  unfold localAccess; grind [!Issued.fault_fuses, !releaseDrain_fuses]
theorem localLoad_fuses (s x n sg) : (localLoad s x n sg).fuses = s.fuses := by
  unfold localLoad; grind [!localAccess_fuses, !readLocal_fuses, !goOn_fuses, !foldl_snd_fuses]
theorem localStore_fuses (s x n) : (localStore s x n).fuses = s.fuses := by
  unfold localStore; grind [!localAccess_fuses, !writeLocal_fuses, !goOn_fuses, foldl_fuses]
theorem localAtomic_fuses (s x f wide) : (localAtomic s x f wide).fuses = s.fuses := by
  unfold localAtomic; grind [!Issued.fault_fuses, !localAccess_fuses, !readLocal_fuses, !writeLocal_fuses, !goOn_fuses,
    !foldl_snd_fuses]
theorem ammaIssue_fuses (s core m) : (ammaIssue s core m).fuses = s.fuses := by
  unfold ammaIssue; grind [!State.setCore_fuses]
theorem settleAmma_fuses (s gk) : (settleAmma s gk).fuses = s.fuses := by
  unfold settleAmma; grind [!shaderFault_fuses, !readLocal_fuses, !ammaIssue_fuses, !goOn_fuses]
theorem freeBytes_fuses (n s) : (freeBytes n s).2.fuses = s.fuses := by
  induction n generalizing s with
  | zero => rfl
  | succ n ih => unfold freeBytes; grind [!State.fresh_fuses]
theorem ammaRun_fuses (s core m) : (ammaRun s core m).fuses = s.fuses := by
  unfold ammaRun; grind [!freeBytes_fuses, !setLocal_fuses, foldl_fuses]

end Sys2Proof.Machine
end

section
/-! The anti-rollback fuses (R816), continued: answers and the rows of the front end, the network and the memory
leave them. -/

namespace Sys2Proof.Machine

open Sys2Proof

/-! ### Answers -/

theorem answered_fuses (s p r host) : (answered s p r host).fuses = s.fuses := by
  unfold answered; grind [!hostGone_fuses, !loseCtx_fuses, !slotStored_fuses, !frameStored_fuses, !State.bump_fuses,
    !advance_fuses, !accessFailed_fuses, !finishCmd_fuses, !hostRefused_fuses, !retire_fuses, !cqStep_fuses,
    !completionStale_fuses, !completionLost_fuses, !examineValue_fuses, !stopFetched_fuses, !fetchOn_fuses, !absorb_fuses,
    !ringFault_fuses, !memStore_fuses, !laneAnswered_fuses, !laneFailed_fuses, !laneStored_fuses, !atomAnswered_fuses,
    !clearBusy_fuses, !farAnswered_fuses, !dmaAnswered_fuses]

/-! ### Rows of the network ports -/

theorem hostRequest_fuses (s i psn ecn f dup) (hf : ∀ s, (f s).fuses = s.fuses) (hdup : ∀ g ∈ dup, ∀ s, (g s).fuses = s.fuses) :
    (hostRequest s i psn ecn f dup).fuses = s.fuses := by
  unfold hostRequest; grind [!received_fuses, !wakeEvent_fuses, !nak_fuses, !inSequence_fuses]
theorem execRdmaWrite_fuses (qp psn ecn rkey va data s) {t} (h : execRdmaWrite qp psn ecn rkey va data s = .next t) :
    t.fuses = s.fuses := by
  unfold execRdmaWrite at h; grind [!hostRequest_fuses, !rdmaWriteIn_fuses]
theorem execRdmaRead_fuses (qp psn ecn rkey va len s) {t} (h : execRdmaRead qp psn ecn rkey va len s = .next t) :
    t.fuses = s.fuses := by
  unfold execRdmaRead at h; grind [!hostRequest_fuses, !rdmaReadIn_fuses]
theorem execCompareAndSwap_fuses (qp psn ecn rkey va cmp swap s) {t} (h : execCompareAndSwap qp psn ecn rkey va cmp swap s = .next
    t) : t.fuses = s.fuses := by
  unfold execCompareAndSwap at h; grind [!hostRequest_fuses, !hostAtomic_fuses, !atomicAgain_fuses]
theorem execFetchAndAdd_fuses (qp psn ecn rkey va add s) {t} (h : execFetchAndAdd qp psn ecn rkey va add s = .next t) :
    t.fuses = s.fuses := by
  unfold execFetchAndAdd at h; grind [!hostRequest_fuses, !hostAtomic_fuses, !atomicAgain_fuses]
theorem execInvalidRequest_fuses (qp psn ecn s) {t} (h : execInvalidRequest qp psn ecn s = .next t) : t.fuses = s.fuses := by
  unfold execInvalidRequest at h; grind [!hostRequest_fuses, !nak_fuses]
theorem qpDrained_fuses (s i) : (qpDrained s i).fuses = s.fuses := by
  unfold qpDrained; grind [!State.setQp_fuses, !finishRevoke_fuses, foldl_fuses]
theorem settle_fuses (s i rs r) : (settle s i rs r).fuses = s.fuses := by
  unfold settle; grind [!answered_fuses, foldl_fuses]
theorem qpFail_fuses (s i) : (qpFail s i).fuses = s.fuses := by
  unfold qpFail; grind [!State.setQp_fuses, !settle_fuses, !event_fuses, !finishRevoke_fuses, foldl_fuses]
theorem execAckReceived_fuses (qp psn s) {t} (h : execAckReceived qp psn s = .next t) : t.fuses = s.fuses := by
  unfold execAckReceived at h; grind [!State.setQp_fuses, !qpDrained_fuses, !settle_fuses]
theorem resend_fuses (s i) : (resend s i).fuses = s.fuses := by
  unfold resend; grind [!qpFrame_fuses, foldl_fuses]
theorem retryOrFail_fuses (s i) : (retryOrFail s i).fuses = s.fuses := by
  unfold retryOrFail; grind [!qpFail_fuses, !resend_fuses, !State.setQp_fuses]
theorem execNakReceived_fuses (qp psn code s) {t} (h : execNakReceived qp psn code s = .next t) : t.fuses = s.fuses := by
  unfold execNakReceived at h; grind [!settle_fuses, !State.setQp_fuses, !retryOrFail_fuses, !qpFail_fuses]
theorem execAckTimeout_fuses (qp rnr s) {t} (h : execAckTimeout qp rnr s = .next t) : t.fuses = s.fuses := by
  unfold execAckTimeout at h; grind [!resend_fuses, !qpDrained_fuses, !State.bump_fuses, !State.setQp_fuses, !qpFail_fuses,
    !retryOrFail_fuses]
theorem execQpStart_fuses (arg s) {t} (h : execQpStart arg s = .next t) : t.fuses = s.fuses := by
  unfold execQpStart at h; grind [!guarded_fuses, !opQpStart_fuses]
theorem execQpStop_fuses (arg s) {t} (h : execQpStop arg s = .next t) : t.fuses = s.fuses := by
  unfold execQpStop at h; grind [!guarded_fuses, !opQpStop_fuses]
theorem execQpQuery_fuses (arg s) {t} (h : execQpQuery arg s = .next t) : t.fuses = s.fuses := by
  unfold execQpQuery at h; grind [!guarded_fuses, !opQpQuery_fuses]
theorem execKeyLoad_fuses (arg s) {t} (h : execKeyLoad arg s = .next t) : t.fuses = s.fuses := by
  unfold execKeyLoad at h; grind [!guarded_fuses, !opKeyLoad_fuses]
theorem execKeyRevoke_fuses (arg s) {t} (h : execKeyRevoke arg s = .next t) : t.fuses = s.fuses := by
  unfold execKeyRevoke at h; grind [!guarded_fuses, !opKeyRevoke_fuses]
theorem execStreamStart_fuses (arg s) {t} (h : execStreamStart arg s = .next t) : t.fuses = s.fuses := by
  unfold execStreamStart at h; grind [!guarded_fuses, !opStreamStart_fuses]
theorem execStreamStop_fuses (arg s) {t} (h : execStreamStop arg s = .next t) : t.fuses = s.fuses := by
  unfold execStreamStop at h; grind [!guarded_fuses, !opStreamStop_fuses]
theorem portEnable_fuses (s p) : (portEnable s p).fuses = s.fuses := by
  unfold portEnable; grind [!domStart_fuses, !State.answer_fuses, !State.setFld_fuses]
theorem portHalt_fuses (s p) : (portHalt s p).fuses = s.fuses := by
  unfold portHalt; grind [!qpFail_fuses, !endStream_fuses, !State.setEthPort_fuses, foldl_fuses]
theorem portEvent_fuses (s p e) : (portEvent s p e).fuses = s.fuses := by
  unfold portEvent; grind [!State.setFld_fuses, !portHalt_fuses, !domStart_fuses, !domStop_fuses]
theorem execPortEnable_fuses (port s) {t} (h : execPortEnable port s = .next t) : t.fuses = s.fuses := by
  unfold execPortEnable at h; grind [!guarded_fuses, !portEnable_fuses]
theorem portDisable_fuses (s p) : (portDisable s p).fuses = s.fuses := by
  unfold portDisable; grind [!State.answer_fuses, !State.setFld_fuses, !portEvent_fuses]
theorem execPortDisable_fuses (port s) {t} (h : execPortDisable port s = .next t) : t.fuses = s.fuses := by
  unfold execPortDisable at h; grind [!guarded_fuses, !portDisable_fuses]
theorem execPhyPowered_fuses (port s) {t} (h : execPhyPowered port s = .next t) : t.fuses = s.fuses := by
  unfold execPhyPowered at h; grind [!portEvent_fuses]
theorem execPhyPoweredDown_fuses (port s) {t} (h : execPhyPoweredDown port s = .next t) : t.fuses = s.fuses := by
  unfold execPhyPoweredDown at h; grind [!portEvent_fuses]
theorem execLinkUp_fuses (port s) {t} (h : execLinkUp port s = .next t) : t.fuses = s.fuses := by
  unfold execLinkUp at h; grind [!State.setFld_fuses]
theorem execLinkDown_fuses (port s) {t} (h : execLinkDown port s = .next t) : t.fuses = s.fuses := by
  unfold execLinkDown at h; grind [!linkFell_fuses]
theorem execTc10SleepRequest_fuses (port s) {t} (h : execTc10SleepRequest port s = .next t) : t.fuses = s.fuses := by
  unfold execTc10SleepRequest at h; grind [!State.setFld_fuses]
theorem execTc10WakeTimeout_fuses (port s) {t} (h : execTc10WakeTimeout port s = .next t) : t.fuses = s.fuses := by
  unfold execTc10WakeTimeout at h; grind [!State.bump_fuses, !State.setEthPort_fuses]
theorem macsecUse_fuses (s p) {t} (h : macsecUse s p = some t) : t.fuses = s.fuses := by
  unfold macsecUse at h; grind [!State.setEthPort_fuses, !event_fuses]
theorem frameOut_fuses (s p) : (frameOut s p).fuses = s.fuses := by
  unfold frameOut; grind [!State.bump_fuses, !State.setEthPort_fuses, !macsecUse_fuses, !State.emit_fuses]
theorem execFrameTransmit_fuses (port s) {t} (h : execFrameTransmit port s = .next t) : t.fuses = s.fuses := by
  unfold execFrameTransmit at h; grind [!frameOut_fuses]
theorem execUnclassifiedFrame_fuses (port why s) {t} (h : execUnclassifiedFrame port why s = .next t) : t.fuses = s.fuses := by
  unfold execUnclassifiedFrame at h; grind [!State.bump_fuses]
theorem ethPortMacWrite_fuses (s p reg v) : (ethPortMacWrite s p reg v).fuses = s.fuses := by
  unfold ethPortMacWrite; grind [!State.answer_fuses, !State.wrPlain_fuses]
theorem execEthPortMac_fuses (port reg v s) {t} (h : execEthPortMac port reg v s = .next t) : t.fuses = s.fuses := by
  unfold execEthPortMac at h; grind [!guarded_fuses, !ethPortMacWrite_fuses]
theorem ethTableWrite_fuses (s t v) : (ethTableWrite s t v).fuses = s.fuses := by
  unfold ethTableWrite; grind [!State.answer_fuses, !State.wrPlain_fuses]
theorem execEthQpTableBase_fuses (table v s) {t} (h : execEthQpTableBase table v s = .next t) : t.fuses = s.fuses := by
  unfold execEthQpTableBase at h; grind [!guarded_fuses, !ethTableWrite_fuses]
theorem execAvtpPacket_fuses (stream seq ts first last samples rate data s) {t} (h : execAvtpPacket stream seq ts first last
    samples rate data s = .next t) : t.fuses = s.fuses := by
  unfold execAvtpPacket at h; grind [!avtpIn_fuses]
theorem execSyncMessage_fuses (port gm offset s) {t} (h : execSyncMessage port gm offset s = .next t) : t.fuses = s.fuses := by
  unfold execSyncMessage at h; grind [!syncIn_fuses]
theorem execAnnounceMessage_fuses (port gm s) {t} (h : execAnnounceMessage port gm s = .next t) : t.fuses = s.fuses := by
  unfold execAnnounceMessage at h; grind [!State.bump_fuses, !State.wr_fuses, !setTime_fuses]
theorem execPeerDelayRequest_fuses (port s) {t} (h : execPeerDelayRequest port s = .next t) : t.fuses = s.fuses := by
  unfold execPeerDelayRequest at h; grind [!offerFrame_fuses]
theorem execSyncTransmit_fuses (s) {t} (h : execSyncTransmit s = .next t) : t.fuses = s.fuses := by
  unfold execSyncTransmit at h; grind [!offerFrame_fuses, foldl_fuses]
theorem execSyncTimeout_fuses (s) {t} (h : execSyncTimeout s = .next t) : t.fuses = s.fuses := by
  unfold execSyncTimeout at h; grind [!toHoldover_fuses, !toFreeRun_fuses]
theorem execHoldoverExpiry_fuses (s) {t} (h : execHoldoverExpiry s = .next t) : t.fuses = s.fuses := by
  unfold execHoldoverExpiry at h; grind [!toFreeRun_fuses]
theorem timCfgWrite_fuses (s v) : (timCfgWrite s v).fuses = s.fuses := by
  unfold timCfgWrite; grind [!State.answer_fuses, !State.wrPlain_fuses, !setTime_fuses, State.fuses]
theorem execTimCfg_fuses (v s) {t} (h : execTimCfg v s = .next t) : t.fuses = s.fuses := by
  unfold execTimCfg at h; grind [!guarded_fuses, !timCfgWrite_fuses, foldl_fuses]
theorem execEthRefclkLost_fuses (s) {t} (h : execEthRefclkLost s = .next t) : t.fuses = s.fuses := by
  unfold execEthRefclkLost at h; grind [!event_fuses, !linkFell_fuses, foldl_fuses]

/-! ### Register reads -/

theorem readVal_fuses (s fam i) : (readVal s fam i).2.fuses = s.fuses := by
  unfold readVal; grind [!State.fresh_fuses, foldl_fuses]

/-! ### Rows of the front end -/

theorem execCreate_fuses (arg s) {t} (h : execCreate arg s = .next t) : t.fuses = s.fuses := by
  unfold execCreate at h; grind [!guarded_fuses, !feCreate_fuses]
theorem execDestroy_fuses (h s) {t} (heq : execDestroy h s = .next t) : t.fuses = s.fuses := by
  unfold execDestroy at heq; grind [!guarded_fuses, !feDestroy_fuses]
theorem execSet_fuses (h s) {t} (heq : execSet h s = .next t) : t.fuses = s.fuses := by
  unfold execSet at heq; grind [!guarded_fuses, !feSet_fuses]
theorem execResume_fuses (h s) {t} (heq : execResume h s = .next t) : t.fuses = s.fuses := by
  unfold execResume at heq; grind [!guarded_fuses, !feResume_fuses]
theorem execQuery_fuses (h s) {t} (heq : execQuery h s = .next t) : t.fuses = s.fuses := by
  unfold execQuery at heq; grind [!guarded_fuses, !feQuery_fuses]
theorem execQueueCreate_fuses (arg s) {t} (h : execQueueCreate arg s = .next t) : t.fuses = s.fuses := by
  unfold execQueueCreate at h; grind [!guarded_fuses, !queueCreate_fuses]
theorem execQueueDestroy_fuses (h s) {t} (heq : execQueueDestroy h s = .next t) : t.fuses = s.fuses := by
  unfold execQueueDestroy at heq; grind [!guarded_fuses, !feQueueDestroy_fuses]
theorem execQueueQuery_fuses (h s) {t} (heq : execQueueQuery h s = .next t) : t.fuses = s.fuses := by
  unfold execQueueQuery at heq; grind [!guarded_fuses, !feQueueQuery_fuses]
theorem doorbellFromQp_fuses (s qp data) : (doorbellFromQp s qp data).fuses = s.fuses := by
  unfold doorbellFromQp; grind [!State.bump_fuses, !doorbellIn_fuses]
theorem execDoorbellRecord_fuses (qp data s) {t} (h : execDoorbellRecord qp data s = .next t) : t.fuses = s.fuses := by
  unfold execDoorbellRecord at h; grind [!doorbellFromQp_fuses]
theorem execCommandAtHead_fuses (q s) {t} (h : execCommandAtHead q s = .next t) : t.fuses = s.fuses := by
  unfold execCommandAtHead at h; grind [!stopOn_fuses, !complete_fuses, !fetchOn_fuses]
theorem execWaitExamine_fuses (q s) {t} (h : execWaitExamine q s = .next t) : t.fuses = s.fuses := by
  unfold execWaitExamine at h; grind [!examineWait_fuses]
theorem execRemoteFenceRead_fuses (q value s) {t} (h : execRemoteFenceRead q value s = .next t) : t.fuses = s.fuses := by
  unfold execRemoteFenceRead at h; grind [!drainTxWait_fuses, !examineValue_fuses, State.fuses]
theorem execWaitTimeout_fuses (q s) {t} (h : execWaitTimeout q s = .next t) : t.fuses = s.fuses := by
  unfold execWaitTimeout at h; grind [!complete_fuses, !State.bump_fuses]
theorem execCommandStart_fuses (u s) {t} (h : execCommandStart u s = .next t) : t.fuses = s.fuses := by
  unfold execCommandStart at h; grind [!startOn_fuses]
theorem execAging_fuses (q s) {t} (h : execAging q s = .next t) : t.fuses = s.fuses := by
  unfold execAging at h; grind [!State.setQueue_fuses]
theorem execSliceEnd_fuses (s) {t} (h : execSliceEnd s = .next t) : t.fuses = s.fuses := by
  unfold execSliceEnd at h; grind [State.fuses]
theorem execFwFallback_fuses (s) {t} (h : execFwFallback s = .next t) : t.fuses = s.fuses := by
  unfold execFwFallback at h; grind [!event_fuses, !State.setFld_fuses]
theorem execBenchSwap_fuses (q s) {t} (h : execBenchSwap q s = .next t) : t.fuses = s.fuses := by
  unfold execBenchSwap at h; grind [!swapIn_fuses]
theorem execBenchCheck_fuses (s) {t} (h : execBenchCheck s = .next t) : t.fuses = s.fuses := by
  unfold execBenchCheck at h; grind [!swapIn_fuses, foldl_fuses]
theorem execDeadlockSearch_fuses (part s) {t} (h : execDeadlockSearch part s = .next t) : t.fuses = s.fuses := by
  unfold execDeadlockSearch at h; grind [!deadlockSearch_fuses]
theorem execScoreboardUpdate_fuses (s) {t} (h : execScoreboardUpdate s = .next t) : t.fuses = s.fuses := by
  unfold execScoreboardUpdate at h; grind [!writeScore_fuses, !usageSettle_fuses, foldl_fuses]
theorem execScoreboardWalk_fuses (s) {t} (h : execScoreboardWalk s = .next t) : t.fuses = s.fuses := by
  unfold execScoreboardWalk at h; grind [!State.setCtx_fuses, foldl_fuses]
theorem execNop_fuses (q s) {t} (h : execNop q s = .next t) : t.fuses = s.fuses := by
  unfold execNop at h; grind [!complete_fuses, !beginCmd_fuses]
theorem execFree_fuses (q s) {t} (h : execFree q s = .next t) : t.fuses = s.fuses := by
  unfold execFree at h; grind [!complete_fuses, !beginCmd_fuses]
theorem feRegWrite_fuses (s reg v) : (feRegWrite s reg v).fuses = s.fuses := by
  unfold feRegWrite; grind [!State.answer_fuses, !State.wrPlain_fuses, !State.stage_fuses]
theorem execFeCtxTableBase_fuses (reg v s) {t} (h : execFeCtxTableBase reg v s = .next t) : t.fuses = s.fuses := by
  unfold execFeCtxTableBase at h; grind [!guarded_fuses, !feRegWrite_fuses]

/-! ### Launches -/

theorem readHeader_fuses (s h va) : (readHeader s h va).2.fuses = s.fuses := by
  unfold readHeader; grind [!ctxReadObj_fuses]
theorem ringEntries_fuses (s q n i) : (ringEntries s q n i).2.fuses = s.fuses := by
  induction n generalizing s i with
  | zero => rfl
  | succ n ih => unfold ringEntries; grind [!readEntry_fuses, !farBytes_fuses]
theorem launchWords_fuses (s qi) : (launchWords s qi).2.fuses = s.fuses := by
  unfold launchWords; grind [!ringEntries_fuses]
theorem holdSettle_fuses (s core) : (holdSettle s core).fuses = s.fuses := by
  unfold holdSettle; grind [!State.setPass_fuses]
theorem coreHold_fuses (s core h) : (coreHold s core h).fuses = s.fuses := by
  unfold coreHold; grind [!State.setCore_fuses]
theorem coreFree_fuses (s core h) : (coreFree s core h).fuses = s.fuses := by
  unfold coreFree; grind [!State.setCore_fuses, !State.setCtx_fuses]
theorem markBusy_fuses (s core) : (markBusy s core).fuses = s.fuses := by
  unfold markBusy; grind [!State.setFld_fuses]
theorem launchBegin_fuses (s qi) : (launchBegin s qi).fuses = s.fuses := by
  unfold launchBegin; grind [!beginCmd_fuses, !readHeader_fuses, !completeOn_fuses, !faultRecord_fuses, !launchWords_fuses,
    !State.setQueue_fuses, !markThrottled_fuses, !State.setLaunch_fuses]
theorem execLaunch_fuses (q s) {t} (h : execLaunch q s = .next t) : t.fuses = s.fuses := by
  unfold execLaunch at h; grind [!completeOn_fuses, !withFarCmd_fuses, !launchBegin_fuses]
theorem placeGroup_fuses (s gk g) : (placeGroup s gk g).fuses = s.fuses := by
  unfold placeGroup; grind [!State.setGroup_fuses]
theorem blockStart_fuses (s q quarter logical base l) : (blockStart s q quarter logical base l).fuses = s.fuses := by
  unfold blockStart; grind [!State.setQueue_fuses, !State.setLaunch_fuses, !State.setBlock_fuses, !placeGroup_fuses,
    !markBusy_fuses, !coreHold_fuses, foldl_fuses]
theorem execBlockStart_fuses (q quarter core base s) {t} (h : execBlockStart q quarter core base s = .next t) :
    t.fuses = s.fuses := by
  unfold execBlockStart at h; grind [!blockStart_fuses]
theorem blockDone_fuses (s bk h) : (blockDone s bk h).fuses = s.fuses := by
  unfold blockDone; grind [!State.setBlock_fuses, !quarterSettle_fuses, !holdSettle_fuses, !markBusy_fuses, !coreFree_fuses]
theorem groupDone_fuses (s gk g) : (groupDone s gk g).fuses = s.fuses := by
  unfold groupDone; grind [!State.setGroup_fuses, !blockDone_fuses]
theorem dropGroups_fuses (s q) : (dropGroups s q).fuses = s.fuses := by
  unfold dropGroups; grind [!blockDone_fuses, foldl_fuses, State.fuses]
theorem launchEnd_fuses (s q l) : (launchEnd s q l).fuses = s.fuses := by
  unfold launchEnd; grind [!drainQueue_fuses, !dropGroups_fuses, !writeFault_fuses, !State.setLaunch_fuses, !coreScrubDue_fuses,
    !completeOn_fuses, foldl_fuses]
theorem execLaunchEnd_fuses (q s) {t} (h : execLaunchEnd q s = .next t) : t.fuses = s.fuses := by
  unfold execLaunchEnd at h; grind [!launchEnd_fuses]
theorem execCoreScrub_fuses (core s) {t} (h : execCoreScrub core s = .next t) : t.fuses = s.fuses := by
  unfold execCoreScrub at h; grind [!State.setFld_fuses, !State.setCore_fuses, !idleLeave_fuses]
theorem markScrubbing_fuses (s quarter) : (markScrubbing s quarter).fuses = s.fuses := by
  unfold markScrubbing; grind [!State.setFld_fuses]
theorem execCoreScrubEnd_fuses (core s) {t} (h : execCoreScrubEnd core s = .next t) : t.fuses = s.fuses := by
  unfold execCoreScrubEnd at h; grind [!quarterSettle_fuses, !markScrubbing_fuses, !State.setCore_fuses]
theorem shaSpareMapPut_fuses (s quarter v) : (shaSpareMapPut s quarter v).fuses = s.fuses := by
  unfold shaSpareMapPut; grind [!State.setFld_fuses, !State.stage_fuses]
theorem shaSpareMapWrite_fuses (s quarter v) : (shaSpareMapWrite s quarter v).fuses = s.fuses := by
  unfold shaSpareMapWrite; grind [!State.answer_fuses, !shaSpareMapPut_fuses]
theorem execShaSpareMap_fuses (quarter v s) {t} (h : execShaSpareMap quarter v s = .next t) : t.fuses = s.fuses := by
  unfold execShaSpareMap at h; grind [!guarded_fuses, !shaSpareMapWrite_fuses]
theorem markRetired_fuses (s quarter) : (markRetired s quarter).fuses = s.fuses := by
  unfold markRetired; grind [!State.setFld_fuses]
theorem retireCore_fuses (s unit) : (retireCore s unit).fuses = s.fuses := by
  unfold retireCore; grind [!markRetired_fuses, !State.setQuarter_fuses]
theorem coreRemap_fuses (s quarter) : (coreRemap s quarter).fuses = s.fuses := by
  unfold coreRemap
  extract_lets old s1 new s2
  have h1 : s1.fuses = s.fuses := (State.setFld_fuses ..).trans (State.unstage_fuses _ _ _)
  have h2 : s2.fuses = s.fuses := (markRetired_fuses _ _).trans h1
  exact fuses_ite ((coreScrubDue_fuses _ _).trans h2) h2
theorem execCoreRemap_fuses (quarter s) {t} (h : execCoreRemap quarter s = .next t) : t.fuses = s.fuses := by
  unfold execCoreRemap at h; grind [!coreRemap_fuses]

/-! ### Rows of the memory and translation blocks -/

theorem sdCommit_fuses (s go) : (sdCommit s go).fuses = s.fuses := by
  unfold sdCommit; grind [!State.answer_fuses, !State.setFld_fuses, !whistleStart_fuses]
theorem execMemSdCommit_fuses (v s) {t} (h : execMemSdCommit v s = .next t) : t.fuses = s.fuses := by
  unfold execMemSdCommit at h; grind [!guarded_fuses, !sdCommit_fuses]
theorem zeroSd_fuses (s) : (zeroSd s).fuses = s.fuses := by
  unfold zeroSd; grind [!State.mend_fuses, State.fuses]
theorem execSdZeroingEnd_fuses (s) {t} (h : execSdZeroingEnd s = .next t) : t.fuses = s.fuses := by
  unfold execSdZeroingEnd at h; grind [!State.setFld_fuses, !zeroSd_fuses, State.fuses]
theorem execTableWalk_fuses (ho h acc va s) {t} (heq : execTableWalk ho h acc va s = .next t) : t.fuses = s.fuses := by
  unfold execTableWalk at heq; grind [!xlate_fuses]
theorem patrolRun_fuses (s n) : (patrolRun s n).fuses = s.fuses := by
  unfold patrolRun; grind [!correctLine_fuses, !logUe_fuses, foldl_fuses, State.fuses]
theorem execPatrol_fuses (lines s) {t} (h : execPatrol lines s = .next t) : t.fuses = s.fuses := by
  unfold execPatrol at h; grind [!patrolRun_fuses]
theorem writeBack_fuses (s slice ways) : (writeBack s slice ways).fuses = s.fuses := by
  unfold writeBack; grind [State.fuses]
theorem scRetire_fuses (s i v) : (scRetire s i v).fuses = s.fuses := by
  unfold scRetire; grind [!State.answer_fuses, !State.wrPlain_fuses, !writeBack_fuses]
theorem execMemScRetire_fuses (slice v s) {t} (h : execMemScRetire slice v s = .next t) : t.fuses = s.fuses := by
  unfold execMemScRetire at h; grind [!guarded_fuses, !scRetire_fuses]
theorem qosWrite_fuses (s v) : (qosWrite s v).fuses = s.fuses := by
  unfold qosWrite; grind [!State.answer_fuses, !State.wrPlain_fuses]
theorem execMemQosCfg_fuses (v s) {t} (h : execMemQosCfg v s = .next t) : t.fuses = s.fuses := by
  unfold execMemQosCfg at h; grind [!guarded_fuses, !qosWrite_fuses]
theorem writeSel_fuses (s i) : (writeSel s i).fuses = s.fuses := by
  delta writeSel
  exact memStoreNat_fuses _ _ _ _
theorem xlateEffect_fuses (s h op va len) : (xlateEffect s h op va len).fuses = s.fuses := by
  unfold xlateEffect; grind [!dropRange_fuses, !dropAll_fuses, !writeSel_fuses, !State.setCtx_fuses]
theorem xlateSettle_fuses (s qi) : (xlateSettle s qi).fuses = s.fuses := by
  unfold xlateSettle; grind [!complete_fuses, !noPreloads_fuses, !State.bump_fuses]
theorem xlateCommand_fuses (s qi op) : (xlateCommand s qi op).fuses = s.fuses := by
  unfold xlateCommand; grind [!complete_fuses, !xlateSettle_fuses, !withFarCmd_fuses, !ctxReadObj_fuses, !beginCmd_fuses,
    !xlateEffect_fuses, State.fuses]
theorem execInvalRange_fuses (q s) {t} (h : execInvalRange q s = .next t) : t.fuses = s.fuses := by
  unfold execInvalRange at h; grind [!xlateCommand_fuses]
theorem execInvalAll_fuses (q s) {t} (h : execInvalAll q s = .next t) : t.fuses = s.fuses := by
  unfold execInvalAll at h; grind [!xlateCommand_fuses]
theorem execRootSwitch_fuses (q s) {t} (h : execRootSwitch q s = .next t) : t.fuses = s.fuses := by
  unfold execRootSwitch at h; grind [!xlateCommand_fuses]
theorem rowRemap_fuses (s a) : (rowRemap s a).fuses = s.fuses := by
  unfold rowRemap; grind [!event_fuses, !State.bump_fuses, State.fuses]
theorem execRowRemap_fuses (a s) {t} (h : execRowRemap a s = .next t) : t.fuses = s.fuses := by
  unfold execRowRemap at h; grind [!rowRemap_fuses]

/-! ### Rows of the whistle and the field -/

theorem execFePartCommit_fuses (v s) {t} (h : execFePartCommit v s = .next t) : t.fuses = s.fuses := by
  unfold execFePartCommit at h; grind [!guarded_fuses, !partCommit_fuses]
theorem execWhistleReport_fuses (unit s) {t} (h : execWhistleReport unit s = .next t) : t.fuses = s.fuses := by
  unfold execWhistleReport at h; grind [!whistleReport_fuses]
theorem execWhistleTimeout_fuses (s) {t} (h : execWhistleTimeout s = .next t) : t.fuses = s.fuses := by
  unfold execWhistleTimeout at h; grind [!whistleTimeout_fuses]
theorem fmtDefaultWrite_fuses (s v) : (fmtDefaultWrite s v).fuses = s.fuses := by
  unfold fmtDefaultWrite; grind [!State.answer_fuses, !whistleStart_fuses]
theorem execFldFmtDefault_fuses (v s) {t} (h : execFldFmtDefault v s = .next t) : t.fuses = s.fuses := by
  unfold execFldFmtDefault at h; grind [!guarded_fuses, !fmtDefaultWrite_fuses]
theorem scrubCfgWrite_fuses (s v) : (scrubCfgWrite s v).fuses = s.fuses := by
  unfold scrubCfgWrite; grind [!State.answer_fuses, !whistleStart_fuses]
theorem execFldScrubCfg_fuses (v s) {t} (h : execFldScrubCfg v s = .next t) : t.fuses = s.fuses := by
  unfold execFldScrubCfg at h; grind [!guarded_fuses, !scrubCfgWrite_fuses]
theorem spareMapWrite_fuses (s n v) : (spareMapWrite s n v).fuses = s.fuses := by
  unfold spareMapWrite; grind [!State.answer_fuses, !State.setFld_fuses, !State.stage_fuses]
theorem execFldSpareMap_fuses (court v s) {t} (h : execFldSpareMap court v s = .next t) : t.fuses = s.fuses := by
  unfold execFldSpareMap at h; grind [!guarded_fuses, !spareMapWrite_fuses]
theorem courtRemap_fuses (s n) : (courtRemap s n).fuses = s.fuses := by
  unfold courtRemap; grind [!State.unstage_fuses, !State.setFld_fuses, !State.setCourt_fuses, foldl_fuses]
theorem execCourtRemap_fuses (court s) {t} (h : execCourtRemap court s = .next t) : t.fuses = s.fuses := by
  unfold execCourtRemap at h; grind [!courtRemap_fuses]
theorem execField_fuses (q s) {t} (h : execField q s = .next t) : t.fuses = s.fuses := by
  unfold execField at h; grind [!completeOn_fuses, !withFarCmd_fuses, !fieldBegin_fuses]
theorem execBundle_fuses (part s) {t} (h : execBundle part s = .next t) : t.fuses = s.fuses := by
  unfold execBundle at h; grind [!bundleClock_fuses]
theorem execScheduleCycle_fuses (part s) {t} (h : execScheduleCycle part s = .next t) : t.fuses = s.fuses := by
  unfold execScheduleCycle at h; grind [!courtClock_fuses]
theorem execNetworkTransferArrival_fuses (part s) {t} (h : execNetworkTransferArrival part s = .next t) : t.fuses = s.fuses := by
  unfold execNetworkTransferArrival at h; grind [!landFlits_fuses]
theorem execDmaComplete_fuses (court stream s) {t} (h : execDmaComplete court stream s = .next t) : t.fuses = s.fuses := by
  unfold execDmaComplete at h; grind [!dmaComplete_fuses]
theorem execHeavyHoldExpiry_fuses (s) {t} (h : execHeavyHoldExpiry s = .next t) : t.fuses = s.fuses := by
  unfold execHeavyHoldExpiry at h; grind [!railFollow_fuses, !State.setFld_fuses, State.fuses]
theorem execFieldEnd_fuses (part s) {t} (h : execFieldEnd part s = .next t) : t.fuses = s.fuses := by
  unfold execFieldEnd at h; grind [!fieldEnd_fuses]
theorem execCourtScrub_fuses (court s) {t} (h : execCourtScrub court s = .next t) : t.fuses = s.fuses := by
  unfold execCourtScrub at h; grind [!State.setFld_fuses, !State.setCourt_fuses, !idleLeave_fuses]
theorem execCourtScrubEnd_fuses (court s) {t} (h : execCourtScrubEnd court s = .next t) : t.fuses = s.fuses := by
  unfold execCourtScrubEnd at h; grind [!courtSettle_fuses, !State.setFld_fuses, !State.setCourt_fuses]
theorem execDroopDetect_fuses (site s) {t} (h : execDroopDetect site s = .next t) : t.fuses = s.fuses := by
  unfold execDroopDetect at h; grind [!State.bump_fuses, !State.setField_fuses, !State.setQuarter_fuses]
theorem execStretchEnd_fuses (clock s) {t} (h : execStretchEnd clock s = .next t) : t.fuses = s.fuses := by
  unfold execStretchEnd at h; grind [!State.setField_fuses, !State.setQuarter_fuses]

end Sys2Proof.Machine
end

section
/-! The anti-rollback fuses (R816), continued: the recorder, power and the rows of the links leave them. -/

namespace Sys2Proof.Machine

open Sys2Proof

/-! ### The event recorder -/

theorem thawed_fuses (s) : (thawed s).fuses = s.fuses := by
  unfold thawed; grind [!putRecord_fuses, State.fuses]
theorem thaw_fuses (s) : (thaw s).fuses = s.fuses := by
  unfold thaw; grind [!State.setFld_fuses, !thawed_fuses]
theorem freeze_fuses (s) : (freeze s).fuses = s.fuses := by
  unfold freeze; grind [!State.setFld_fuses, State.fuses]
theorem evrFreezeWrite_fuses (s v) : (evrFreezeWrite s v).fuses = s.fuses := by
  unfold evrFreezeWrite; grind [!State.answer_fuses, !State.setFld_fuses, !thaw_fuses, !freeze_fuses]
theorem execFreeze_fuses (v s) {t} (h : execFreeze v s = .next t) : t.fuses = s.fuses := by
  unfold execFreeze at h; grind [!guarded_fuses, !evrFreezeWrite_fuses]
theorem execThaw_fuses (v s) {t} (h : execThaw v s = .next t) : t.fuses = s.fuses := by
  unfold execThaw at h; grind [!guarded_fuses, !evrFreezeWrite_fuses]
theorem execFreezeTimeout_fuses (s) {t} (h : execFreezeTimeout s = .next t) : t.fuses = s.fuses := by
  unfold execFreezeTimeout at h; grind [!thaw_fuses]
theorem flushCause_fuses (s cause) : (flushCause s cause).fuses = s.fuses := by
  unfold flushCause; grind [State.fuses]
theorem flushBegin_fuses (s cause) : (flushBegin s cause).fuses = s.fuses := by
  unfold flushBegin; grind [!State.bumpSat_fuses, !thaw_fuses, !putRecord_fuses, State.fuses]
theorem execFlush_fuses (s) {t} (h : execFlush s = .next t) : t.fuses = s.fuses := by
  unfold execFlush at h; grind [!flushBegin_fuses]
theorem flushDone_fuses (s) : (flushDone s).fuses = s.fuses := by
  unfold flushDone; grind [!thawed_fuses, !State.setFld_fuses, State.fuses]
theorem execFlushDone_fuses (s) {t} (h : execFlushDone s = .next t) : t.fuses = s.fuses := by
  unfold execFlushDone at h; grind [!flushDone_fuses]
theorem execPwrFail_fuses (s) {t} (h : execPwrFail s = .next t) : t.fuses = s.fuses := by
  unfold execPwrFail at h; grind [!flushCause_fuses, State.fuses]
theorem execPowerRestored_fuses (s) {t} (h : execPowerRestored s = .next t) : t.fuses = s.fuses := by
  unfold execPowerRestored at h; grind [!putRecord_fuses, State.fuses]
theorem execTokenRefill_fuses (s) {t} (h : execTokenRefill s = .next t) : t.fuses = s.fuses := by
  unfold execTokenRefill at h; grind [State.fuses]
theorem evrCfgWrite_fuses (s v) : (evrCfgWrite s v).fuses = s.fuses := by
  unfold evrCfgWrite; grind [!State.answer_fuses, !State.wrPlain_fuses, foldl_fuses, State.fuses]
theorem execEvrCfg_fuses (v s) {t} (h : execEvrCfg v s = .next t) : t.fuses = s.fuses := by
  unfold execEvrCfg at h; grind [!guarded_fuses, !evrCfgWrite_fuses]
theorem trayCause_fuses (s bit) : (trayCause s bit).fuses = s.fuses := by
  unfold trayCause; grind [!State.emit_fuses, State.fuses]
theorem hostCause_fuses (s bit) : (hostCause s bit).fuses = s.fuses := by
  unfold hostCause; grind [!State.setFld_fuses]

/-! ### Standby, wake and power domains -/

theorem claimTake_fuses (s k fn) : (claimTake s k fn).fuses = s.fuses := by
  unfold claimTake; grind [!State.setFld_fuses, State.fuses]
theorem watchClaim_fuses (s) {t} (h : watchClaim s = some t) : t.fuses = s.fuses := by
  unfold watchClaim at h
  extract_lets want at h
  clear_value want
  generalize ho : some s = o at h
  have hs : ∀ u, o = some u → u.fuses = s.fuses := by
    rintro u rfl
    cases ho
    rfl
  clear ho
  induction want generalizing o with
  | nil => exact hs t h
  | cons w ws ih =>
    refine ih _ h fun u hu => ?_
    cases o with
    | none => cases hu
    | some v =>
      obtain ⟨k, -, rfl⟩ := Option.map_eq_some_iff.1 hu
      exact (claimTake_fuses ..).trans (hs v rfl)
theorem watchRelease_fuses (s) : (watchRelease s).fuses = s.fuses := by
  unfold watchRelease; grind [!State.setFld_fuses, foldl_fuses, State.fuses]
theorem huddleRefused_fuses (s target block reason) : (huddleRefused s target block reason).fuses = s.fuses := by
  unfold huddleRefused; grind [!event_fuses, !huddleOver_fuses]
theorem entryAdvance_fuses (s) : (entryAdvance s).fuses = s.fuses := by
  unfold entryAdvance; grind [!domStop_fuses, !State.setFld_fuses, State.fuses]
theorem benchAll_fuses (s) : (benchAll s).fuses = s.fuses := by
  unfold benchAll; grind [!saveQueue_fuses, foldl_fuses, State.fuses]
theorem timeEntry_fuses (s) : (timeEntry s).fuses = s.fuses := by
  unfold timeEntry; grind [!toHoldover_fuses, !toFreeRun_fuses]
theorem entryBegin_fuses (s target) : (entryBegin s target).fuses = s.fuses := by
  unfold entryBegin
  extract_lets ds kept latch p s1 s2
  have h1 : s1.fuses = s.fuses := State.fuses_of_stw rfl
  clear_value s1
  have h2 : s2.fuses = s1.fuses := by
    refine fuses_ite ?_ rfl
    cases hclaim : watchClaim s1 with
    | none => rfl
    | some t => exact watchClaim_fuses _ hclaim
  rw [entryAdvance_fuses, timeEntry_fuses, benchAll_fuses, h2, h1]
theorem huddleAnswer_fuses (s h a) : (huddleAnswer s h a).fuses = s.fuses := by
  unfold huddleAnswer; grind [!huddleRefused_fuses, !entryBegin_fuses, State.fuses]
theorem execHuddleAnswer_fuses (agent s) {t} (h : execHuddleAnswer agent s = .next t) : t.fuses = s.fuses := by
  unfold execHuddleAnswer at h; grind [!huddleAnswer_fuses]
theorem execHuddleDelayExpiry_fuses (agent s) {t} (h : execHuddleDelayExpiry agent s = .next t) : t.fuses = s.fuses := by
  unfold execHuddleDelayExpiry at h; grind [State.fuses]
theorem targetWrite_fuses (s t) : (targetWrite s t).fuses = s.fuses := by
  unfold targetWrite; grind [!State.answer_fuses, !wakeEvent_fuses, !State.setFld_fuses, State.fuses]
theorem targetGuarded_fuses (s t) : (targetGuarded s t).fuses = s.fuses := by
  unfold targetGuarded; grind [!targetWrite_fuses]
theorem execTargetActive_fuses (s) {t} (h : execTargetActive s = .next t) : t.fuses = s.fuses := by
  unfold execTargetActive at h; grind [!targetGuarded_fuses]
theorem execTargetStandby_fuses (s) {t} (h : execTargetStandby s = .next t) : t.fuses = s.fuses := by
  unfold execTargetStandby at h; grind [!targetGuarded_fuses]
theorem execTargetWatch_fuses (s) {t} (h : execTargetWatch s = .next t) : t.fuses = s.fuses := by
  unfold execTargetWatch at h; grind [!targetGuarded_fuses]
theorem copyRegion_fuses (s src dst) : (copyRegion s src dst).fuses = s.fuses := by
  unfold copyRegion; grind [!State.mend_fuses, State.fuses]
theorem portGoesOff_fuses (s p) : (portGoesOff s p).fuses = s.fuses := by
  unfold portGoesOff; grind [!portEvent_fuses]
theorem execWatchSaveDone_fuses (s) {t} (h : execWatchSaveDone s = .next t) : t.fuses = s.fuses := by
  unfold execWatchSaveDone at h; grind [!copyRegion_fuses, !portGoesOff_fuses, !entryAdvance_fuses, foldl_fuses, State.fuses]
theorem wakeBegin_fuses (s) : (wakeBegin s).fuses = s.fuses := by
  unfold wakeBegin; grind [!State.wr_fuses, !watchRelease_fuses, !event_fuses, !domEvent_fuses, State.fuses]
theorem execWake_fuses (s) {t} (h : execWake s = .next t) : t.fuses = s.fuses := by
  unfold execWake at h; grind [!wakeBegin_fuses]
theorem wakeEnd_fuses (s) : (wakeEnd s).fuses = s.fuses := by
  unfold wakeEnd; grind [!State.setQp_fuses, !State.setFld_fuses, foldl_fuses, State.fuses]
theorem execWatchRestoreDone_fuses (s) {t} (h : execWatchRestoreDone s = .next t) : t.fuses = s.fuses := by
  unfold execWatchRestoreDone at h; grind [!wakeEnd_fuses, !copyRegion_fuses]
theorem padEnd_fuses (s d) : (padEnd s d).fuses = s.fuses := by
  unfold padEnd; grind [!State.setFld_fuses, State.fuses]
theorem wakeOn_fuses (s d) : (wakeOn s d).fuses = s.fuses := by
  unfold wakeOn; grind [!domEvent_fuses, !padEnd_fuses, !portEvent_fuses, !wakeEnd_fuses, foldl_fuses]
theorem execWatchPeriod_fuses (sensor samples s) {t} (h : execWatchPeriod sensor samples s = .next t) : t.fuses = s.fuses := by
  unfold execWatchPeriod at h; grind [!State.setFld_fuses, !State.bumpSat_fuses, !wakeEvent_fuses, State.fuses]
theorem idleNote_fuses (s) : (idleNote s).fuses = s.fuses := by
  unfold idleNote; grind [State.fuses]
theorem execIdleEntry_fuses (s) {t} (h : execIdleEntry s = .next t) : t.fuses = s.fuses := by
  unfold execIdleEntry at h; grind [!State.setFld_fuses]
theorem stopWhenIdle_fuses (s d) : (stopWhenIdle s d).fuses = s.fuses := by
  unfold stopWhenIdle; grind [!courtSettle_fuses, !State.setCourt_fuses, !quarterSettle_fuses, !State.setQuarter_fuses,
    !rasterSettle_fuses, State.fuses]
theorem stopForgotten_fuses (s d) : (stopForgotten s d).fuses = s.fuses := by
  unfold stopForgotten; grind [!State.setCourt_fuses, !State.setQuarter_fuses, State.fuses]
theorem domainReq_fuses (s on d) : (domainReq s on d).fuses = s.fuses := by
  unfold domainReq; grind [!State.answer_fuses, !domStart_fuses, !stopForgotten_fuses, !whistleUnawait_fuses, !stopWhenIdle_fuses]
theorem execDomainStart_fuses (domain s) {t} (h : execDomainStart domain s = .next t) : t.fuses = s.fuses := by
  unfold execDomainStart at h; grind [!guarded_fuses, !domainReq_fuses]
theorem execDomainStop_fuses (domain s) {t} (h : execDomainStop domain s = .next t) : t.fuses = s.fuses := by
  unfold execDomainStop at h; grind [!guarded_fuses, !domainReq_fuses]
theorem startScrub_fuses (s d) : (startScrub s d).fuses = s.fuses := by
  unfold startScrub; grind [!State.setFld_fuses, !State.setCourt_fuses, !State.setCore_fuses, foldl_fuses]
theorem domainOn_fuses (s d) : (domainOn s d).fuses = s.fuses := by
  unfold domainOn; grind [!startScrub_fuses, !State.setFld_fuses, !domEvent_fuses, !trainStart_fuses, !wakeOn_fuses]
theorem execDomainOn_fuses (domain s) {t} (h : execDomainOn domain s = .next t) : t.fuses = s.fuses := by
  unfold execDomainOn at h; grind [!domainOn_fuses]
theorem domainLost_fuses (s d) : (domainLost s d).fuses = s.fuses := by
  unfold domainLost; grind [!State.setCourt_fuses, !State.setCore_fuses, !linkLost_fuses, !State.setDpTx_fuses, !State.mend_fuses,
    foldl_fuses, State.fuses]
theorem domainOff_fuses (s d) : (domainOff s d).fuses = s.fuses := by
  unfold domainOff; grind [!entryAdvance_fuses, !whistleUnawait_fuses, !domEvent_fuses, !domainLost_fuses]
theorem execDomainOff_fuses (domain s) {t} (h : execDomainOff domain s = .next t) : t.fuses = s.fuses := by
  unfold execDomainOff at h; grind [!domainOff_fuses]
theorem padRelease_fuses (s v) : (padRelease s v).fuses = s.fuses := by
  unfold padRelease; grind [!State.answer_fuses, !padEnd_fuses, foldl_fuses]
theorem execPadRelease_fuses (v s) {t} (h : execPadRelease v s = .next t) : t.fuses = s.fuses := by
  unfold execPadRelease at h; grind [!guarded_fuses, !padRelease_fuses]

/-! ### Clock, capping and thermal limits -/

theorem fixedSubmit_fuses (s en) : (fixedSubmit s en).fuses = s.fuses := by
  unfold fixedSubmit; grind [!whistleStart_fuses]
theorem fixedFollow_fuses (s) : (fixedFollow s).fuses = s.fuses := by
  unfold fixedFollow; grind [!fixedSubmit_fuses]
theorem capWrite_fuses (s v) : (capWrite s v).fuses = s.fuses := by
  unfold capWrite; grind [!State.answer_fuses, !fixedFollow_fuses, !State.setFld_fuses]
theorem execPwrCapMw_fuses (v s) {t} (h : execPwrCapMw v s = .next t) : t.fuses = s.fuses := by
  unfold execPwrCapMw at h; grind [!guarded_fuses, !capWrite_fuses]
theorem permitShow_fuses (s) : (permitShow s).fuses = s.fuses := by
  unfold permitShow; grind [!State.setFld_fuses, foldl_fuses]
theorem permitWrite_fuses (s v) : (permitWrite s v).fuses = s.fuses := by
  unfold permitWrite; grind [!State.answer_fuses, !fixedFollow_fuses, !permitShow_fuses, !State.setFld_fuses]
theorem execPwrDomainPermit_fuses (v s) {t} (h : execPwrDomainPermit v s = .next t) : t.fuses = s.fuses := by
  unfold execPwrDomainPermit at h; grind [!guarded_fuses, !permitWrite_fuses]
theorem fixedWrite_fuses (s v) : (fixedWrite s v).fuses = s.fuses := by
  unfold fixedWrite; grind [!State.setFld_fuses, !State.answer_fuses, !fixedSubmit_fuses]
theorem execPwrFixedMode_fuses (v s) {t} (h : execPwrFixedMode v s = .next t) : t.fuses = s.fuses := by
  unfold execPwrFixedMode at h; grind [!guarded_fuses, !fixedWrite_fuses]
theorem issueWrite_fuses (s v) : (issueWrite s v).fuses = s.fuses := by
  unfold issueWrite; grind [!State.answer_fuses, !whistleStart_fuses]
theorem execIssueLimit_fuses (v s) {t} (h : execIssueLimit v s = .next t) : t.fuses = s.fuses := by
  unfold execIssueLimit at h; grind [!guarded_fuses, !issueWrite_fuses]
theorem rampWrite_fuses (s v) : (rampWrite s v).fuses = s.fuses := by
  unfold rampWrite; grind [!State.answer_fuses, !whistleStart_fuses]
theorem execRampCycles_fuses (v s) {t} (h : execRampCycles v s = .next t) : t.fuses = s.fuses := by
  unfold execRampCycles at h; grind [!guarded_fuses, !rampWrite_fuses]
theorem watchSaveWrite_fuses (s v) : (watchSaveWrite s v).fuses = s.fuses := by
  unfold watchSaveWrite; grind [!State.answer_fuses, !State.wrPlain_fuses]
theorem execPwrWatchSave_fuses (v s) {t} (h : execPwrWatchSave v s = .next t) : t.fuses = s.fuses := by
  unfold execPwrWatchSave at h; grind [!guarded_fuses, !watchSaveWrite_fuses]
theorem watchCfgWrite_fuses (s v) : (watchCfgWrite s v).fuses = s.fuses := by
  unfold watchCfgWrite; grind [!State.answer_fuses, !State.wrPlain_fuses]
theorem execPwrWatchCfg_fuses (v s) {t} (h : execPwrWatchCfg v s = .next t) : t.fuses = s.fuses := by
  unfold execPwrWatchCfg at h; grind [!guarded_fuses, !watchCfgWrite_fuses]
theorem fitBegin_fuses (s) : (fitBegin s).fuses = s.fuses := by
  unfold fitBegin; grind [!State.setFld_fuses, State.fuses]
theorem boostWrite_fuses (s v) : (boostWrite s v).fuses = s.fuses := by
  unfold boostWrite; grind [!State.setFld_fuses, !State.answer_fuses, !fitBegin_fuses]
theorem execRecal_fuses (s) {t} (h : execRecal s = .next t) : t.fuses = s.fuses := by
  unfold execRecal at h; grind [!guarded_fuses, !State.answer_fuses, !fitBegin_fuses]
theorem execRecalRetry_fuses (s) {t} (h : execRecalRetry s = .next t) : t.fuses = s.fuses := by
  unfold execRecalRetry at h; grind [!fitBegin_fuses]
theorem pwrOtherWrite_fuses (s fam v) : (pwrOtherWrite s fam v).fuses = s.fuses := by
  unfold pwrOtherWrite; grind [!State.answer_fuses, !State.wrPlain_fuses, !railFollow_fuses]
theorem rateChanged_fuses (s) : (rateChanged s).fuses = s.fuses := by
  unfold rateChanged; grind [!markThrottled_fuses, !extendBudgets_fuses]
theorem setClock_fuses (s mhz) : (setClock s mhz).fuses = s.fuses := by
  unfold setClock; grind [!rateChanged_fuses, !railFollow_fuses, !State.setFld_fuses, !usageSettle_fuses]
theorem setGranted_fuses (s g) : (setGranted s g).fuses = s.fuses := by
  unfold setGranted; grind [!rateChanged_fuses, !State.setFld_fuses]
theorem execClockStep_fuses (s) {t} (h : execClockStep s = .next t) : t.fuses = s.fuses := by
  unfold execClockStep at h; grind [!setClock_fuses, State.fuses]
theorem trustShow_fuses (s) : (trustShow s).fuses = s.fuses := by
  unfold trustShow; grind [!State.setFld_fuses]
theorem execEstimateTick_fuses (mw s) {t} (h : execEstimateTick mw s = .next t) : t.fuses = s.fuses := by
  unfold execEstimateTick at h; grind [!shareEnergy_fuses, !usageSettle_fuses, !State.setFld_fuses, State.fuses]
theorem readsNoted_fuses (s failing) : (readsNoted s failing).fuses = s.fuses := by
  unfold readsNoted; grind [!event_fuses, !State.setFld_fuses, foldl_fuses, State.fuses]
theorem compared_fuses (s e n m) : (compared s e n m).fuses = s.fuses := by
  unfold compared; grind [!fitBegin_fuses, !event_fuses, !State.setFld_fuses, State.fuses]
theorem fixedWatch_fuses (s m) : (fixedWatch s m).fuses = s.fuses := by
  unfold fixedWatch; grind [!event_fuses, !State.setFld_fuses, !fixedSubmit_fuses, State.fuses]
theorem execMeasuredSample_fuses (mw failing s) {t} (h : execMeasuredSample mw failing s = .next t) : t.fuses = s.fuses := by
  unfold execMeasuredSample at h; grind [!readsNoted_fuses, !trustShow_fuses, !State.setFld_fuses, !compared_fuses,
    !fixedWatch_fuses, State.fuses]
theorem controlTick_fuses (s field step next) : (controlTick s field step next).fuses = s.fuses := by
  unfold controlTick; grind [!State.setFld_fuses, !setGranted_fuses, State.fuses]
theorem execControlTick_fuses (field step next s) {t} (h : execControlTick field step next s = .next t) : t.fuses = s.fuses := by
  unfold execControlTick at h; grind [!controlTick_fuses]
theorem throttleTo_fuses (s step) : (throttleTo s step).fuses = s.fuses := by
  unfold throttleTo; grind [!State.setFld_fuses, !setClock_fuses, State.fuses]
theorem dropSwitched_fuses (s) : (dropSwitched s).fuses = s.fuses := by
  unfold dropSwitched; grind [State.fuses]
theorem shutDown_fuses (s cause) : (shutDown s cause).fuses = s.fuses := by
  unfold shutDown; grind [!dropSwitched_fuses, !State.setFld_fuses, !flushCause_fuses, foldl_fuses, State.fuses]
theorem thermalTrip_fuses (s sensor t) : (thermalTrip s sensor t).fuses = s.fuses := by
  unfold thermalTrip; grind [!event_fuses, !shutDown_fuses, !trayCause_fuses, State.fuses]
theorem thermalNote_fuses (s sensor t) : (thermalNote s sensor t).fuses = s.fuses := by
  unfold thermalNote; grind [!event_fuses, !trayCause_fuses, !throttleTo_fuses, !State.bump_fuses, State.fuses]
theorem maxShow_fuses (s) : (maxShow s).fuses = s.fuses := by
  unfold maxShow; grind [!State.setFld_fuses, foldl_fuses]
theorem sensorRead_fuses (s sensor raw) : (sensorRead s sensor raw).fuses = s.fuses := by
  unfold sensorRead; grind [!railFollow_fuses, !maxShow_fuses, !State.setFld_fuses, !thermalTrip_fuses, !thermalNote_fuses]
theorem execSensorRead_fuses (sensor raw s) {t} (h : execSensorRead sensor raw s = .next t) : t.fuses = s.fuses := by
  unfold execSensorRead at h; grind [!sensorRead_fuses]
theorem execThrottleStepUp_fuses (s) {t} (h : execThrottleStepUp s = .next t) : t.fuses = s.fuses := by
  unfold execThrottleStepUp at h; grind [!throttleTo_fuses, State.fuses]
theorem execThrottleStepDown_fuses (s) {t} (h : execThrottleStepDown s = .next t) : t.fuses = s.fuses := by
  unfold execThrottleStepDown at h; grind [!throttleTo_fuses, State.fuses]
theorem execSdTempUpdate_fuses (channel raw s) {t} (h : execSdTempUpdate channel raw s = .next t) : t.fuses = s.fuses := by
  unfold execSdTempUpdate at h; grind [!State.setFld_fuses, !thermalNote_fuses]
theorem execLpTempUpdate_fuses (controller temp rate s) {t} (h : execLpTempUpdate controller temp rate s = .next t) :
    t.fuses = s.fuses := by
  unfold execLpTempUpdate at h; grind [!State.setFld_fuses]
theorem execRailFault_fuses (s) {t} (h : execRailFault s = .next t) : t.fuses = s.fuses := by
  unfold execRailFault at h; grind [!shutDown_fuses]

/-! ### Rows of the Ihlique links -/

theorem respond_fuses (s p op payload) : (respond s p op payload).fuses = s.fuses := by
  unfold respond; grind [!sendPacket_fuses]
theorem forward_fuses (s port vc p) : (forward s port vc p).fuses = s.fuses := by
  unfold forward; grind [!State.bump_fuses, !respond_fuses, !portSend_fuses]
theorem serveRead_fuses (s p) : (serveRead s p).fuses = s.fuses := by
  unfold serveRead; grind [!memLoad_fuses, !respond_fuses]
theorem serveWrite_fuses (s p) : (serveWrite s p).fuses = s.fuses := by
  unfold serveWrite; grind [!memStore_fuses, !respond_fuses]
theorem serveAtomic_fuses (s p) : (serveAtomic s p).fuses = s.fuses := by
  unfold serveAtomic; grind [!memLoadNat_fuses, !respond_fuses, !memStoreNat_fuses]
theorem examineFence_fuses (s a) : (examineFence s a).fuses = s.fuses := by
  unfold examineFence; grind [!examineWait_fuses, foldl_fuses]
theorem endTxns_fuses (s f) : (endTxns s f).fuses = s.fuses := by
  unfold endTxns; grind [!State.setTxn_fuses, !answered_fuses, !drainTxWait_fuses, foldl_fuses]
theorem announceIn_fuses (s p) : (announceIn s p).fuses = s.fuses := by
  unfold announceIn; grind [!State.setFld_fuses, !endTxns_fuses]
theorem responseIn_fuses (s port p) : (responseIn s port p).fuses = s.fuses := by
  unfold responseIn; grind [!drainTxWait_fuses, !State.setTxn_fuses, !answered_fuses, !sendPacket_fuses, !State.bump_fuses]
theorem serve_fuses (s port p) : (serve s port p).fuses = s.fuses := by
  unfold serve; grind [!serveRead_fuses, !responseIn_fuses, !serveWrite_fuses, !serveAtomic_fuses, !State.bump_fuses,
    !doorbellIn_fuses, !examineFence_fuses, !announceIn_fuses]
theorem packetIn_fuses (s port vc p) : (packetIn s port vc p).fuses = s.fuses := by
  unfold packetIn; grind [!frameFailed_fuses, !State.bump_fuses, !frameIn_fuses, !forward_fuses, !State.setFld_fuses, !serve_fuses]
theorem execRead_fuses (port vc p s) {t} (h : execRead port vc p s = .next t) : t.fuses = s.fuses := by
  unfold execRead at h; grind [!packetIn_fuses]
theorem execReadRsp_fuses (port vc p s) {t} (h : execReadRsp port vc p s = .next t) : t.fuses = s.fuses := by
  unfold execReadRsp at h; grind [!packetIn_fuses]
theorem execWrite_fuses (port vc p s) {t} (h : execWrite port vc p s = .next t) : t.fuses = s.fuses := by
  unfold execWrite at h; grind [!packetIn_fuses]
theorem execWriteAck_fuses (port vc p s) {t} (h : execWriteAck port vc p s = .next t) : t.fuses = s.fuses := by
  unfold execWriteAck at h; grind [!packetIn_fuses]
theorem execAtomicPacket_fuses (port vc p s) {t} (h : execAtomicPacket port vc p s = .next t) : t.fuses = s.fuses := by
  unfold execAtomicPacket at h; grind [!packetIn_fuses]
theorem execAtomicRsp_fuses (port vc p s) {t} (h : execAtomicRsp port vc p s = .next t) : t.fuses = s.fuses := by
  unfold execAtomicRsp at h; grind [!packetIn_fuses]
theorem execDoorbell_fuses (port vc p s) {t} (h : execDoorbell port vc p s = .next t) : t.fuses = s.fuses := by
  unfold execDoorbell at h; grind [!packetIn_fuses]
theorem execFenceNotice_fuses (port vc p s) {t} (h : execFenceNotice port vc p s = .next t) : t.fuses = s.fuses := by
  unfold execFenceNotice at h; grind [!packetIn_fuses]
theorem execAnnounce_fuses (port vc p s) {t} (h : execAnnounce port vc p s = .next t) : t.fuses = s.fuses := by
  unfold execAnnounce at h; grind [!packetIn_fuses]
theorem execTxTimeout_fuses (txid s) {t} (h : execTxTimeout txid s = .next t) : t.fuses = s.fuses := by
  unfold execTxTimeout at h; grind [!drainTxWait_fuses, !State.setTxn_fuses, !answered_fuses]
theorem setLanes_fuses (s p lanes) : (setLanes s p lanes).fuses = s.fuses := by
  unfold setLanes; grind [!State.setFld_fuses]
theorem iqlEnable_fuses (s p) : (iqlEnable s p).fuses = s.fuses := by
  unfold iqlEnable; grind [!State.answer_fuses, !State.setFld_fuses, !domStart_fuses]
theorem iqlEvent_fuses (s p e) : (iqlEvent s p e).fuses = s.fuses := by
  unfold iqlEvent; grind [!State.setFld_fuses, !setLanes_fuses, !State.setIqlPort_fuses, !domStop_fuses]
theorem execIqlPortEnable_fuses (port s) {t} (h : execIqlPortEnable port s = .next t) : t.fuses = s.fuses := by
  unfold execIqlPortEnable at h; grind [!guarded_fuses, !iqlEnable_fuses]
theorem iqlDisable_fuses (s p) : (iqlDisable s p).fuses = s.fuses := by
  unfold iqlDisable; grind [!State.answer_fuses, !State.setFld_fuses, !iqlEvent_fuses]
theorem execIqlPortDisable_fuses (port s) {t} (h : execIqlPortDisable port s = .next t) : t.fuses = s.fuses := by
  unfold execIqlPortDisable at h; grind [!guarded_fuses, !iqlDisable_fuses]
theorem authFailed_fuses (s p) : (authFailed s p).fuses = s.fuses := by
  unfold authFailed; grind [!event_fuses, !State.bump_fuses]
theorem execKeyExchange_fuses (port lanes peer peerEpoch authentic s) {t} (h : execKeyExchange port lanes peer peerEpoch authentic
    s = .next t) : t.fuses = s.fuses := by
  unfold execKeyExchange at h; grind [!setLanes_fuses, !State.fresh_fuses, !State.setIqlPort_fuses, !State.setFld_fuses,
    !authFailed_fuses]
theorem announceAll_fuses (s) : (announceAll s).fuses = s.fuses := by
  unfold announceAll; grind [!sendPacket_fuses, foldl_fuses]
theorem execIqlPortOn_fuses (port s) {t} (h : execIqlPortOn port s = .next t) : t.fuses = s.fuses := by
  unfold execIqlPortOn at h; grind [!iqlEvent_fuses, !State.setIqlPort_fuses, !announceAll_fuses, !State.setFld_fuses]
theorem execIqlStartRetry_fuses (port why s) {t} (h : execIqlStartRetry port why s = .next t) : t.fuses = s.fuses := by
  unfold execIqlStartRetry at h; grind [!State.bump_fuses, !authFailed_fuses, !State.setFld_fuses]
theorem execIqlLanesDown_fuses (port s) {t} (h : execIqlLanesDown port s = .next t) : t.fuses = s.fuses := by
  unfold execIqlLanesDown at h; grind [!iqlEvent_fuses]
theorem execIqlLinkDown_fuses (port s) {t} (h : execIqlLinkDown port s = .next t) : t.fuses = s.fuses := by
  unfold execIqlLinkDown at h; grind [!State.setFld_fuses]
theorem releaseTraffic_fuses (s p) : (releaseTraffic s p).fuses = s.fuses := by
  unfold releaseTraffic; grind [!State.setIqlPort_fuses, !portGo_fuses, !State.emit_fuses, foldl_fuses]
theorem execIqlLinkRetrain_fuses (port up s) {t} (h : execIqlLinkRetrain port up s = .next t) : t.fuses = s.fuses := by
  unfold execIqlLinkRetrain at h; grind [!State.bump_fuses, !State.setFld_fuses, !releaseTraffic_fuses]
theorem execLaneRetrain_fuses (port lane count s) {t} (h : execLaneRetrain port lane count s = .next t) : t.fuses = s.fuses := by
  unfold execLaneRetrain at h; grind [!State.bump_fuses, !State.setFld_fuses, !State.setIqlPort_fuses, State.fuses]
theorem execRetrainEnd_fuses (port lanes s) {t} (h : execRetrainEnd port lanes s = .next t) : t.fuses = s.fuses := by
  unfold execRetrainEnd at h
  split at h
  · cases h
    exact fuses_ite ((State.setFld_fuses ..).trans (setLanes_fuses ..)) (fuses_ite (setLanes_fuses ..)
      ((releaseTraffic_fuses ..).trans (setLanes_fuses ..)))
  · cases h
    rfl
theorem execRekey_fuses (port s) {t} (h : execRekey port s = .next t) : t.fuses = s.fuses := by
  unfold execRekey at h; grind [!State.fresh_fuses, !event_fuses, !State.setIqlPort_fuses]
theorem execLinkReplay_fuses (port cause s) {t} (h : execLinkReplay port cause s = .next t) : t.fuses = s.fuses := by
  unfold execLinkReplay at h; grind [!State.emit_fuses, !State.bump_fuses, !frameFailed_fuses, !State.setIqlPort_fuses, foldl_fuses]
theorem iqlRouteWrite_fuses (s d v) : (iqlRouteWrite s d v).fuses = s.fuses := by
  unfold iqlRouteWrite; grind [!State.answer_fuses, !State.wrPlain_fuses]
theorem execIqlRoute_fuses (dev v s) {t} (h : execIqlRoute dev v s = .next t) : t.fuses = s.fuses := by
  unfold execIqlRoute at h; grind [!guarded_fuses, !iqlRouteWrite_fuses]
theorem iqlPortCtrlWrite_fuses (s p v) : (iqlPortCtrlWrite s p v).fuses = s.fuses := by
  unfold iqlPortCtrlWrite; grind [!State.answer_fuses, !State.wr_fuses, !iqlEnable_fuses, !iqlDisable_fuses]
theorem execIqlPortCtrl_fuses (port v s) {t} (h : execIqlPortCtrl port v s = .next t) : t.fuses = s.fuses := by
  unfold execIqlPortCtrl at h; grind [!guarded_fuses, !iqlPortCtrlWrite_fuses]
theorem iqlCfgWrite_fuses (s v) : (iqlCfgWrite s v).fuses = s.fuses := by
  unfold iqlCfgWrite; grind [!State.answer_fuses, !State.wrPlain_fuses]
theorem execIqlCfg_fuses (v s) {t} (h : execIqlCfg v s = .next t) : t.fuses = s.fuses := by
  unfold execIqlCfg at h; grind [!guarded_fuses, !iqlCfgWrite_fuses]
theorem bulkMove_fuses (fuel s qi push dev src dst n) : (bulkMove fuel s qi push dev src dst n).2.fuses = s.fuses := by
  induction fuel generalizing s src dst n with
  | zero => rfl
  | succ fuel ih =>
    unfold bulkMove
    split
    · rfl
    extract_lets h k
    split
    next => exact snd_fuses (xlate_fuses ..) ‹_›
    next a s1 ha =>
    rw [← snd_fuses (xlate_fuses ..) ha]
    split
    next => exact snd_fuses (xlate_fuses ..) ‹_›
    next b s2 hb =>
    rw [← snd_fuses (xlate_fuses ..) hb]
    split
    next x d y =>
      split
      · rfl
      split
      next => exact snd_fuses (memLoad_fuses ..) ‹_›
      next bs s3 hm =>
      rw [← snd_fuses (memLoad_fuses ..) hm]
      split
      next ok s4 hw =>
      rw [← snd_fuses (remoteWrite_fuses ..) hw]
      split
      · exact ih ..
      · rfl
    next d x y =>
      split
      · rfl
      split
      next ok s4 hr =>
      rw [← snd_fuses (remoteRead_fuses ..) hr]
      split
      · exact ih ..
      · rfl
    next => rfl
theorem bulkOn_fuses (s qi d) : (bulkOn s qi d).fuses = s.fuses := by
  unfold bulkOn; grind [!setOn_fuses]
theorem bulkRun_fuses (s qi) : (bulkRun s qi).fuses = s.fuses := by
  have hrefuse (t : State) (e : W16) : (complete (beginCmd t qi none) qi e).fuses = t.fuses :=
    (complete_fuses ..).trans (beginCmd_fuses ..)
  unfold bulkRun
  extract_lets q
  split
  next => exact (hrefuse ..).trans (snd_fuses (ctxReadObj_fuses ..) ‹_›)
  next bs s1 hbs =>
  rw [← snd_fuses (ctxReadObj_fuses ..) hbs]
  split
  next => exact complete_fuses ..
  next src dst n _ =>
  split
  next => exact (hrefuse ..).trans (snd_fuses (xlate_fuses ..) ‹_›)
  next a s2 ha =>
  rw [← snd_fuses (xlate_fuses ..) ha]
  split
  next => exact (hrefuse ..).trans (snd_fuses (xlate_fuses ..) ‹_›)
  next b s3 hb =>
  rw [← snd_fuses (xlate_fuses ..) hb]
  extract_lets go
  have hgo (push : Bool) (d : Nat) : (go push d).fuses = s3.fuses := by
    unfold go
    split
    next t ht =>
      obtain ⟨k, -, hk⟩ := Option.bind_eq_some_iff.1 ht
      exact retarget_fuses _ _ _ hk
    next =>
      extract_lets t
      have ht : t.fuses = s3.fuses := (beginCmd_fuses ..).trans (bulkOn_fuses ..)
      clear_value t
      rw [← ht]
      split
      next => exact (complete_fuses ..).trans (snd_fuses (bulkMove_fuses ..) ‹_›)
      next => exact (complete_fuses ..).trans (snd_fuses (bulkMove_fuses ..) ‹_›)
  clear_value go
  split
  next => exact hgo _ _
  next => exact hgo _ _
  all_goals exact complete_fuses ..
theorem execBulk_fuses (q s) {t} (h : execBulk q s = .next t) : t.fuses = s.fuses := by
  unfold execBulk at h; grind [!complete_fuses, !withFarCmd_fuses, !bulkRun_fuses]

end Sys2Proof.Machine
end

section
/-! The anti-rollback fuses (R816), continued: the rows of thread groups and the raster pipeline leave them. -/

namespace Sys2Proof.Machine

open Sys2Proof

/-! ### Rows of thread groups -/

theorem execIntOp_fuses (g op s) {t} (h : execIntOp g op s = .next t) : t.fuses = s.fuses := by
  unfold execIntOp at h; grind [!issue_fuses, !aluBody_fuses, !Issued.holdPipe_fuses]
theorem execFp32Op_fuses (g op s) {t} (h : execFp32Op g op s = .next t) : t.fuses = s.fuses := by
  unfold execFp32Op at h; grind [!issue_fuses, !aluBody_fuses]
theorem execFp16x2Op_fuses (g op s) {t} (h : execFp16x2Op g op s = .next t) : t.fuses = s.fuses := by
  unfold execFp16x2Op at h; grind [!issue_fuses, !aluBody_fuses]
theorem cvtBody_fuses (src dst s x) : (cvtBody src dst s x).fuses = s.fuses := by
  unfold cvtBody; grind [!Issued.fault_fuses, !aluBody_fuses]
theorem execCvtOp_fuses (g src dst s) {t} (h : execCvtOp g src dst s = .next t) : t.fuses = s.fuses := by
  unfold execCvtOp at h; grind [!issue_fuses, !cvtBody_fuses]
theorem execSfuOp_fuses (g op s) {t} (h : execSfuOp g op s = .next t) : t.fuses = s.fuses := by
  unfold execSfuOp at h; grind [!issue_fuses, !aluBody_fuses]
theorem moveBody_fuses (op s x) : (moveBody op s x).fuses = s.fuses := by
  unfold moveBody; grind [!finishAlu_fuses, !Issued.fault_fuses]
theorem execMoveOp_fuses (g op s) {t} (h : execMoveOp g op s = .next t) : t.fuses = s.fuses := by
  unfold execMoveOp at h; grind [!issue_fuses, !moveBody_fuses]
theorem setteamBody_fuses (s x) : (setteamBody s x).fuses = s.fuses := by
  unfold setteamBody; grind [!Issued.fault_fuses, !settleTeams_fuses, !goOn_fuses, foldl_fuses]
theorem execSetteam_fuses (g s) {t} (h : execSetteam g s = .next t) : t.fuses = s.fuses := by
  unfold execSetteam at h; grind [!issue_fuses, !setteamBody_fuses]
theorem laneBody_fuses (op s x) : (laneBody op s x).fuses = s.fuses := by
  unfold laneBody; grind [!Issued.fault_fuses, !settleTeams_fuses, !goOn_fuses]
theorem execLaneOp_fuses (g op s) {t} (h : execLaneOp g op s = .next t) : t.fuses = s.fuses := by
  unfold execLaneOp at h; grind [!issue_fuses, !laneBody_fuses]
theorem execGlobalMem_fuses (g op s) {t} (h : execGlobalMem g op s = .next t) : t.fuses = s.fuses := by
  unfold execGlobalMem at h; grind [!issue_fuses, !globalLoad_fuses, !releaseDrain_fuses, !globalStore_fuses, !Issued.fault_fuses]
theorem execLocalMem_fuses (g op s) {t} (h : execLocalMem g op s = .next t) : t.fuses = s.fuses := by
  unfold execLocalMem at h; grind [!issue_fuses, !localLoad_fuses, !localStore_fuses, !localAtomic_fuses, !Issued.fault_fuses]
theorem execAtomicOp_fuses (g op wide s) {t} (h : execAtomicOp g op wide s = .next t) : t.fuses = s.fuses := by
  unfold execAtomicOp at h; grind [!issue_fuses, !globalAtomic_fuses]
theorem unlessReserved_fuses (body s x) (hbody : ∀ s a, (body s a).fuses = s.fuses) :
    (unlessReserved body s x).fuses = s.fuses := by
  unfold unlessReserved; grind [!Issued.fault_fuses]
theorem fenceBody_fuses (s x) : (fenceBody s x).fuses = s.fuses := by
  unfold fenceBody; grind [!drainCore_fuses, !goOn_fuses]
theorem execFenceOp_fuses (g s) {t} (h : execFenceOp g s = .next t) : t.fuses = s.fuses := by
  unfold execFenceOp at h; grind [!issue_fuses, !unlessReserved_fuses, !fenceBody_fuses]
theorem execBranch_fuses (g s) {t} (h : execBranch g s = .next t) : t.fuses = s.fuses := by
  unfold execBranch at h; grind [!issue_fuses, !unlessReserved_fuses, !goOn_fuses]
theorem callBody_fuses (s x) : (callBody s x).fuses = s.fuses := by
  unfold callBody; grind [!Issued.fault_fuses, !goOn_fuses, foldl_fuses]
theorem execCall_fuses (g s) {t} (h : execCall g s = .next t) : t.fuses = s.fuses := by
  unfold execCall at h; grind [!issue_fuses, !unlessReserved_fuses, !callBody_fuses]
theorem retBody_fuses (s x) : (retBody s x).fuses = s.fuses := by
  unfold retBody; grind [!Issued.fault_fuses, !goOn_fuses]
theorem execRet_fuses (g s) {t} (h : execRet g s = .next t) : t.fuses = s.fuses := by
  unfold execRet at h; grind [!issue_fuses, !unlessReserved_fuses, !retBody_fuses]
theorem settleAll_fuses (s gk) : (settleAll s gk).fuses = s.fuses := by
  unfold settleAll; grind [!State.setGroup_fuses, !settleAmma_fuses, !settleBlockBar_fuses, !settleGroupBar_fuses,
    !settleTeams_fuses]
theorem exitBody_fuses (s x) : (exitBody s x).fuses = s.fuses := by
  unfold exitBody; grind [!settleAll_fuses, !goOn_fuses]
theorem execExit_fuses (g s) {t} (h : execExit g s = .next t) : t.fuses = s.fuses := by
  unfold execExit at h; grind [!issue_fuses, !unlessReserved_fuses, !exitBody_fuses]
theorem convergeBody_fuses (s x) : (convergeBody s x).fuses = s.fuses := by
  unfold convergeBody; grind [!goOn_fuses]
theorem execConverge_fuses (g s) {t} (h : execConverge g s = .next t) : t.fuses = s.fuses := by
  unfold execConverge at h; grind [!issue_fuses, !unlessReserved_fuses, !convergeBody_fuses]
theorem execConvergeHoldExpiry_fuses (g s) {t} (h : execConvergeHoldExpiry g s = .next t) : t.fuses = s.fuses := by
  unfold execConvergeHoldExpiry at h; grind [!State.setGroup_fuses]
theorem barrierBody_fuses (w settle s x) (hsettle : ∀ s a, (settle s a).fuses = s.fuses) :
    (barrierBody w settle s x).fuses = s.fuses := by
  unfold barrierBody; grind [!Issued.fault_fuses, !goOn_fuses, !State.setGroup_fuses]
theorem execGroupBarrier_fuses (g s) {t} (h : execGroupBarrier g s = .next t) : t.fuses = s.fuses := by
  unfold execGroupBarrier at h; grind [!issueIf_fuses, !barrierBody_fuses, !settleGroupBar_fuses]
theorem execBlockBarrier_fuses (g s) {t} (h : execBlockBarrier g s = .next t) : t.fuses = s.fuses := by
  unfold execBlockBarrier at h; grind [!issueIf_fuses, !barrierBody_fuses, !settleBlockBar_fuses]
theorem ammaBody_fuses (s x) : (ammaBody s x).fuses = s.fuses := by
  unfold ammaBody; grind [!Issued.fault_fuses, !settleAmma_fuses, !goOn_fuses]
theorem execAmma_fuses (g s) {t} (h : execAmma g s = .next t) : t.fuses = s.fuses := by
  unfold execAmma at h; grind [!issue_fuses, !unlessReserved_fuses, !ammaBody_fuses]
theorem ammaComplete_fuses (s core) : (ammaComplete s core).fuses = s.fuses := by
  unfold ammaComplete; grind [!ammaRun_fuses, !State.setCore_fuses, !State.setGroup_fuses, !settleAmma_fuses, foldl_fuses]
theorem execAmmaComplete_fuses (core s) {t} (h : execAmmaComplete core s = .next t) : t.fuses = s.fuses := by
  unfold execAmmaComplete at h; grind [!ammaComplete_fuses]
theorem waittokBody_fuses (s x) : (waittokBody s x).fuses = s.fuses := by
  unfold waittokBody; grind [!goOn_fuses]
theorem execWaittok_fuses (g s) {t} (h : execWaittok g s = .next t) : t.fuses = s.fuses := by
  unfold execWaittok at h; grind [!issue_fuses, !unlessReserved_fuses, !waittokBody_fuses]

/-! ### SAMPLE -/

theorem drainAt_fuses (s core h va) : (drainAt s core h va).fuses = s.fuses := by
  unfold drainAt; grind [!drainLine_fuses]
theorem laneRead_fuses (s x va n) : (laneRead s x va n).2.fuses = s.fuses := by
  unfold laneRead; grind [!drainAt_fuses, !ctxReadObj_fuses]
theorem texel_fuses (s x m i j) : (texel s x m i j).2.fuses = s.fuses := by
  unfold texel; grind [!laneRead_fuses]
theorem sampleFour_fuses (s x m i j fu fv) : (sampleFour s x m i j fu fv).2.fuses = s.fuses := by
  unfold sampleFour; grind [!texel_fuses]
theorem sampleLane_fuses (s x l) : (sampleLane s x l).2.fuses = s.fuses := by
  unfold sampleLane; grind [!laneRead_fuses, !texel_fuses, !sampleFour_fuses]
theorem sampleBody_fuses (s x) : (sampleBody s x).fuses = s.fuses := by
  unfold sampleBody
  refine fuses_ite (Issued.fault_fuses ..) ?_
  extract_lets r
  have hr : r.2.2.2.fuses = s.fuses :=
    foldl_at_fuses (fun a : Group × Option (Nat × Nat) × List Nat × State => a.2.2.2) (by grind [!sampleLane_fuses]) x.lanes _
  clear_value r
  split
  · exact (Issued.fault_fuses ..).trans hr
  · exact (goOn_fuses ..).trans hr
theorem execSample_fuses (g s) {t} (h : execSample g s = .next t) : t.fuses = s.fuses := by
  unfold execSample at h; grind [!withFar_fuses, !issue_fuses, !sampleBody_fuses]

/-! ### Render passes -/

theorem heapBusy_fuses (s ho h va on pu) : (heapBusy s ho h va on pu).2.fuses = s.fuses := by
  unfold heapBusy; grind [!xlate_fuses, !memLoadNat_fuses, !memStoreNat_fuses, !farSet_fuses, !clearBusy_fuses]
theorem heapEnd_fuses (s ho h p) : (heapEnd s ho h p).fuses = s.fuses := by
  unfold heapEnd; grind [!ctxStore_fuses, !heapBusy_fuses]
theorem stageProg_fuses (s h va consts) : (stageProg s h va consts).2.fuses = s.fuses := by
  unfold stageProg; grind [!readHeader_fuses]
theorem drawProgs_fuses (s ho h ds) : (drawProgs s ho h ds).2.fuses = s.fuses := by
  induction ds generalizing s with
  | nil => rfl
  | cons d ds ih =>
    unfold drawProgs
    repeat' split
    all_goals grind [!ctxReadObj_fuses, !stageProg_fuses]
theorem vertexIndex_fuses (s fe h w i) : (vertexIndex s fe h w i).2.fuses = s.fuses := by
  unfold vertexIndex; grind [!ctxReadObj_fuses]
theorem vertexIndices_fuses (s fe h w is) : (vertexIndices s fe h w is).2.fuses = s.fuses := by
  induction is generalizing s with
  | nil => rfl
  | cons x is ih => unfold vertexIndices; grind [!vertexIndex_fuses]
theorem gfxStart_fuses (s fe p pr core base n g) : (gfxStart s fe p pr core base n g).fuses = s.fuses := by
  unfold gfxStart; grind [!State.setBlock_fuses, !placeGroup_fuses, !State.setPass_fuses, !markBusy_fuses, !coreHold_fuses]
theorem passFault_fuses (s fe kind st addr tile core) : (passFault s fe kind st addr tile core).fuses = s.fuses := by
  unfold passFault; grind [!cmdFault_fuses]
theorem passFaultOpen_fuses (s fe kind st addr) : (passFaultOpen s fe kind st addr).fuses = s.fuses := by
  unfold passFaultOpen; grind [!State.fresh_fuses, !passFault_fuses]
theorem vertexKick_fuses (s fe) : (vertexKick s fe).fuses = s.fuses := by
  obtain ⟨skip, hskip⟩ : ∃ skip, skip = passSkip := ⟨_, rfl⟩
  unfold vertexKick
  rw [← hskip]
  split
  next => rfl
  next p _ =>
  extract_lets q t
  have ht : t.fuses = s.fuses := State.setPass_fuses ..
  clear_value q t
  rw [← ht]
  split
  next => rfl
  next d _ =>
  refine fuses_ite rfl ?_
  split
  next => exact State.setPass_fuses ..
  next core base _ =>
  extract_lets n
  split
  next => exact (passFaultOpen_fuses ..).trans (snd_fuses (vertexIndices_fuses ..) ‹_›)
  next => exact (gfxStart_fuses ..).trans (snd_fuses (vertexIndices_fuses ..) ‹_›)
theorem passRefuse_fuses (s ho h q heap st) : (passRefuse s ho h q heap st).fuses = s.fuses := by
  unfold passRefuse; grind [!completeOn_fuses, !heapBusy_fuses]
theorem renderBegin_fuses (s qi fe) : (renderBegin s qi fe).fuses = s.fuses := by
  unfold renderBegin
  extract_lets x h ho ms s1
  have h1 : s1.fuses = s.fuses := beginCmd_fuses ..
  clear_value s1
  rw [← h1]
  refine fuses_ite (completeOn_fuses ..) ?_
  split
  next => exact (completeOn_fuses ..).trans (snd_fuses (ctxReadObj_fuses ..) ‹_›)
  next bs s2 hbs =>
  rw [← snd_fuses (ctxReadObj_fuses ..) hbs]
  extract_lets w refuse
  clear_value w
  refine fuses_ite (completeOn_fuses ..) ?_
  split
  next => exact (completeOn_fuses ..).trans (snd_fuses (heapBusy_fuses ..) ‹_›)
  next => exact (completeOn_fuses ..).trans (snd_fuses (heapBusy_fuses ..) ‹_›)
  next s3 hheap =>
  rw [← snd_fuses (heapBusy_fuses ..) hheap]
  have hrefuse (t : State) (st : W16) : (refuse t st).fuses = t.fuses := passRefuse_fuses ..
  clear_value refuse
  split
  next => exact (hrefuse ..).trans (snd_fuses (ctxReadObj_fuses ..) ‹_›)
  next hb s4 hhb =>
  rw [← snd_fuses (ctxReadObj_fuses ..) hhb]
  extract_lets heap
  split
  next => exact (hrefuse ..).trans (snd_fuses (ctxReadObj_fuses ..) ‹_›)
  next db s5 hdb =>
  rw [← snd_fuses (ctxReadObj_fuses ..) hdb]
  extract_lets draws
  refine fuses_ite (hrefuse ..) (fuses_ite (hrefuse ..) ?_)
  split
  next => exact (hrefuse ..).trans (snd_fuses (drawProgs_fuses ..) ‹_›)
  next => exact (hrefuse ..).trans ((faultRecord_fuses ..).trans (snd_fuses (drawProgs_fuses ..) ‹_›))
  next ds safe s6 hds =>
  rw [← snd_fuses (drawProgs_fuses ..) hds]
  refine fuses_ite (hrefuse ..) (fuses_ite (hrefuse ..) ?_)
  extract_lets act p s7
  clear_value p
  exact (vertexKick_fuses ..).trans ((State.setFld_fuses ..).trans ((markThrottled_fuses ..).trans
    ((State.setPass_fuses ..).trans (State.setQueue_fuses ..))))
theorem heapWrites_fuses (s fe q ws) : (heapWrites s fe q ws).2.fuses = s.fuses := by
  induction ws generalizing s with
  | nil => rfl
  | cons x ws ih => unfold heapWrites; grind [!freeBytes_fuses, !ctxStore_fuses]
theorem tilerWrite_fuses (s fe p) : (tilerWrite s fe p).fuses = s.fuses := by
  unfold tilerWrite
  repeat' split
  all_goals grind [!State.bump_fuses, !heapWrites_fuses, !passFaultOpen_fuses, !vertexKick_fuses, !State.setPass_fuses]
theorem markTiles_fuses (s fe) : (markTiles s fe).fuses = s.fuses := by
  unfold markTiles; grind [!State.setFld_fuses]
theorem tileFree_fuses (s fe p i t) : (tileFree s fe p i t).fuses = s.fuses := by
  unfold tileFree; grind [!coreFree_fuses, !markTiles_fuses, !State.setPass_fuses]
theorem passEnd_fuses (s fe p) : (passEnd s fe p).fuses = s.fuses := by
  unfold passEnd
  extract_lets h s1 s2 s3 fault s4 i c s5 s6 s7 s8
  have h1 : s1.fuses = s.fuses := foldl_fuses (fun _ _ => coreFree_fuses _ _ _) _ _
  have h2 : s2.fuses = s1.fuses := (drainQueue_fuses _ _ _).trans (dropGroups_fuses _ _)
  have h3 : s3.fuses = s2.fuses := heapEnd_fuses _ _ _ _
  have h4 : s4.fuses = s3.fuses := writeFault_fuses _ _ _
  have h5 : s5.fuses = s4.fuses := State.setCtx_fuses ..
  have h6 : s6.fuses = s5.fuses := (markTiles_fuses _ _).trans (State.setPass_fuses ..)
  have h7 : s7.fuses = s6.fuses := State.setFld_fuses ..
  have h8 : s8.fuses = s7.fuses := fuses_ite (foldl_fuses (fun _ _ => coreScrubDue_fuses _ _) _ _) rfl
  rw [completeOn_fuses, h8, h7, h6, h5, h4, h3, h2, h1]
theorem passSettle_fuses (s fe) : (passSettle s fe).fuses = s.fuses := by
  unfold passSettle; grind [!passEnd_fuses]
theorem binningEnd_fuses (s fe p) : (binningEnd s fe p).fuses = s.fuses := by
  unfold binningEnd; grind [!State.setFld_fuses, !passSettle_fuses, !State.setPass_fuses, foldl_fuses]
theorem partialStart_fuses (s fe p) : (partialStart s fe p).fuses = s.fuses := by
  unfold partialStart; grind [!State.setPass_fuses, !State.setFld_fuses]
theorem partialEnd_fuses (s fe p) : (partialEnd s fe p).fuses = s.fuses := by
  unfold partialEnd; grind [!State.setFld_fuses, !State.bump_fuses, !setFlag_fuses, !State.setPass_fuses]
theorem tileSet_fuses (s p t n x y sm v) : (tileSet s p t n x y sm v).fuses = s.fuses := by
  unfold tileSet; grind [!setLocal_fuses]
theorem loadRuns_fuses (s fe core base h runs) : (loadRuns s fe core base h runs).2.fuses = s.fuses := by
  induction runs generalizing s with
  | nil => rfl
  | cons x runs ih => unfold loadRuns; grind [!ctxReadObj_fuses, !setLocal_fuses]
theorem tileLoad_fuses (s fe p i core base t) : (tileLoad s fe p i core base t).2.fuses = s.fuses := by
  unfold tileLoad; grind [!loadRuns_fuses, !State.bump_fuses, !setLocal_fuses, !foldl_snd_fuses]
theorem tileFault_fuses (s fe i kind e addr) : (tileFault s fe i kind e addr).fuses = s.fuses := by
  unfold tileFault; grind [!passFault_fuses, !passSettle_fuses, !tileFree_fuses]
theorem tileGrant_fuses (s fe logical base p) : (tileGrant s fe logical base p).fuses = s.fuses := by
  unfold tileGrant; grind [!markTiles_fuses, !State.setPass_fuses, !coreHold_fuses, !tileLoad_fuses, !tileFault_fuses]
theorem applySample_fuses (s p t d f z colors sm) : (applySample s p t d f z colors sm).fuses = s.fuses := by
  unfold applySample; grind [!tileSet_fuses, foldl_fuses]
theorem applyFrag_fuses (s p t f zout colors) : (applyFrag s p t f zout colors).fuses = s.fuses := by
  unfold applyFrag; grind [!applySample_fuses, foldl_fuses]
theorem shadeNext_fuses (fuel s fe i) : (shadeNext fuel s fe i).fuses = s.fuses := by
  induction fuel generalizing s fe i with
  | zero => rfl
  | succ fuel ih =>
    unfold shadeNext
    repeat' split
    all_goals grind [!State.setPass_fuses, !gfxStart_fuses, !applyFrag_fuses, foldl_fuses]
theorem shadeKick_fuses (s fe i) : (shadeKick s fe i).fuses = s.fuses := by
  unfold shadeKick; grind [!shadeNext_fuses]
theorem gfxKick_fuses (s fe) : (gfxKick s fe).fuses = s.fuses := by
  unfold gfxKick; grind [!vertexKick_fuses, !shadeKick_fuses, foldl_fuses]
theorem pagesOk_fuses (s fe h pages) : (pagesOk s fe h pages).2.fuses = s.fuses := by
  induction pages generalizing s with
  | nil => rfl
  | cons x pages ih => unfold pagesOk; grind [!xlate_fuses, !foldl_snd_fuses]
theorem writeRuns_fuses (s fe q h runs) : (writeRuns s fe q h runs).2.fuses = s.fuses := by
  induction runs generalizing s with
  | nil => rfl
  | cons x runs ih => unfold writeRuns; grind [!ctxStore_fuses]
theorem tileShaded_fuses (s fe i p) : (tileShaded s fe i p).fuses = s.fuses := by
  unfold tileShaded; grind [!State.setPass_fuses, !pagesOk_fuses, !tileFault_fuses, !writeRuns_fuses]
theorem gfxDone_fuses (s gk g x) : (gfxDone s gk g x).fuses = s.fuses := by
  unfold gfxDone; grind [!groupDone_fuses, !applyFrag_fuses, !gfxKick_fuses, !State.setPass_fuses, foldl_fuses]

/-! ### Rows of the raster pipeline -/

theorem execRender_fuses (q s) {t} (h : execRender q s = .next t) : t.fuses = s.fuses := by
  unfold execRender at h; grind [!completeOn_fuses, !forgetFar_fuses, !withFarCmd_fuses, !renderBegin_fuses]
theorem execTilerWrite_fuses (fe s) {t} (h : execTilerWrite fe s = .next t) : t.fuses = s.fuses := by
  unfold execTilerWrite at h; grind [!withFar_fuses, !tilerWrite_fuses]
theorem execBinningEnd_fuses (fe s) {t} (h : execBinningEnd fe s = .next t) : t.fuses = s.fuses := by
  unfold execBinningEnd at h; grind [!binningEnd_fuses, !passSettle_fuses]
theorem execPartialRender_fuses (fe s) {t} (h : execPartialRender fe s = .next t) : t.fuses = s.fuses := by
  unfold execPartialRender at h; grind [!partialStart_fuses]
theorem execPartialRenderEnd_fuses (fe s) {t} (h : execPartialRenderEnd fe s = .next t) : t.fuses = s.fuses := by
  unfold execPartialRenderEnd at h; grind [!partialEnd_fuses, !passSettle_fuses]
theorem execTileBufferGrant_fuses (fe core base s) {t} (h : execTileBufferGrant fe core base s = .next t) : t.fuses = s.fuses := by
  unfold execTileBufferGrant at h; grind [!withFar_fuses, !tileGrant_fuses]
theorem execTileLoadDone_fuses (fe tile s) {t} (h : execTileLoadDone fe tile s = .next t) : t.fuses = s.fuses := by
  unfold execTileLoadDone at h; grind [!shadeKick_fuses, !State.setPass_fuses]
theorem execTileShaded_fuses (fe tile s) {t} (h : execTileShaded fe tile s = .next t) : t.fuses = s.fuses := by
  unfold execTileShaded at h; grind [!tileShaded_fuses]
theorem execSpillDone_fuses (fe tile s) {t} (h : execSpillDone fe tile s = .next t) : t.fuses = s.fuses := by
  unfold execSpillDone at h; grind [!withFar_fuses, !gfxKick_fuses, !tileFree_fuses, !State.bump_fuses]
theorem execWritebackDone_fuses (fe tile s) {t} (h : execWritebackDone fe tile s = .next t) : t.fuses = s.fuses := by
  unfold execWritebackDone at h; grind [!withFar_fuses, !passSettle_fuses, !gfxKick_fuses, !tileFree_fuses, !State.bump_fuses]
theorem execGroupEnd_fuses (g s) {t} (h : execGroupEnd g s = .next t) : t.fuses = s.fuses := by
  unfold execGroupEnd at h; grind [!withFar_fuses, !gfxKick_fuses, !groupDone_fuses, !gfxDone_fuses]
theorem tileOp_fuses (op fragment regs ok f s x) (hf : ∀ s a b, (f s a b).fuses = s.fuses) :
    (tileOp op fragment regs ok f s x).fuses = s.fuses := by
  unfold tileOp; grind [!Issued.fault_fuses]
theorem execVin_fuses (g s) {t} (h : execVin g s = .next t) : t.fuses = s.fuses := by
  unfold execVin at h; grind [!issueIf_fuses, !tileOp_fuses, !finishAlu_fuses]
theorem execVout_fuses (g s) {t} (h : execVout g s = .next t) : t.fuses = s.fuses := by
  unfold execVout at h; grind [!issueIf_fuses, !tileOp_fuses, !goOn_fuses]
theorem execInterp_fuses (g s) {t} (h : execInterp g s = .next t) : t.fuses = s.fuses := by
  unfold execInterp at h; grind [!issueIf_fuses, !tileOp_fuses, !goOn_fuses, foldl_fuses]
theorem execCout_fuses (g s) {t} (h : execCout g s = .next t) : t.fuses = s.fuses := by
  unfold execCout at h; grind [!issueIf_fuses, !tileOp_fuses, !goOn_fuses]
theorem execZout_fuses (g s) {t} (h : execZout g s = .next t) : t.fuses = s.fuses := by
  unfold execZout at h; grind [!issueIf_fuses, !tileOp_fuses, !goOn_fuses]
theorem execKill_fuses (g s) {t} (h : execKill g s = .next t) : t.fuses = s.fuses := by
  unfold execKill at h; grind [!issueIf_fuses, !tileOp_fuses, !goOn_fuses]
theorem tileRead_fuses (s y f n) : (tileRead s y f n).2.fuses = s.fuses := by
  unfold tileRead; grind
theorem execTread_fuses (g s) {t} (h : execTread g s = .next t) : t.fuses = s.fuses := by
  unfold execTread at h; grind [!issueIf_fuses, !tileOp_fuses, !tileRead_fuses, !goOn_fuses, !foldl_snd_fuses]

end Sys2Proof.Machine
end

section
/-! The anti-rollback fuses (R816), continued: recovery, inspections and the steward leave them. -/

namespace Sys2Proof.Machine

open Sys2Proof

/-! ### The referee -/

theorem recoveryNew_fuses (s r) : (recoveryNew s r).fuses = s.fuses := by
  unfold recoveryNew; grind [!refShow_fuses, State.fuses]
theorem refuseNew_fuses (s qi) : (refuseNew s qi).fuses = s.fuses := by
  unfold refuseNew; grind [State.fuses]
theorem stopAtContext_fuses (s qi) : (stopAtContext s qi).fuses = s.fuses := by
  unfold stopAtContext; grind [!advance_fuses, !State.setQueue_fuses, !requestStop_fuses]
theorem contextStop_fuses (s qi) : (contextStop s qi).fuses = s.fuses := by
  unfold contextStop; grind [!refuseNew_fuses, !State.bump_fuses, !cmdFault_fuses, !recoveryNew_fuses, !stopAtContext_fuses]
theorem replayStop_fuses (s qi) : (replayStop s qi).fuses = s.fuses := by
  unfold replayStop; grind [!stopAtContext_fuses, !refuseNew_fuses, !State.bump_fuses, State.fuses]
theorem execBudgetOverrun_fuses (q s) {t} (h : execBudgetOverrun q s = .next t) : t.fuses = s.fuses := by
  unfold execBudgetOverrun at h; grind [!replayStop_fuses, !contextStop_fuses]
theorem forgetAnswers_fuses (s qi) : (forgetAnswers s qi).fuses = s.fuses := by
  unfold forgetAnswers; grind [!forgetFar_fuses, State.fuses]
theorem dropCmd_fuses (s qi) : (dropCmd s qi).fuses = s.fuses := by
  unfold dropCmd; grind [!forgetAnswers_fuses, !dropRun_fuses, !State.setLaunch_fuses, !dropGroups_fuses, !coreFree_fuses,
    !heapEnd_fuses, !rasterSettle_fuses, !State.setFld_fuses, !markTiles_fuses, !State.setPass_fuses, !presentDrop_fuses,
    foldl_fuses, State.fuses]
theorem portReset_fuses (s p) : (portReset s p).fuses = s.fuses := by
  unfold portReset; grind [!State.setIqlPort_fuses, !State.setFld_fuses, !endTxns_fuses]
theorem unitFence_fuses (s u) : (unitFence s u).fuses = s.fuses := by
  unfold unitFence; grind [!portReset_fuses, State.fuses]
theorem unitReset_fuses (s u) : (unitReset s u).fuses = s.fuses := by
  unfold unitReset; grind [!courtScrubDue_fuses, !quarterScrubDue_fuses, !State.setFld_fuses, !State.setPipe_fuses]
theorem haltAll_fuses (s qs) : (haltAll s qs).fuses = s.fuses := by
  unfold haltAll; grind [!State.setQueue_fuses, foldl_fuses]
theorem climb_fuses (s r level units) : (climb s r level units).fuses = s.fuses := by
  unfold climb; grind [!haltAll_fuses, !forgetAnswers_fuses, !unitFence_fuses, !refShow_fuses, !State.bump_fuses, foldl_fuses,
    State.fuses]
theorem chipBegin_fuses (s r cause) : (chipBegin s r cause).fuses = s.fuses := by
  unfold chipBegin; grind [!haltAll_fuses, !flushCause_fuses, !event_fuses, !State.bump_fuses, !State.wr_fuses, !refShow_fuses,
    foldl_fuses, State.fuses]
theorem chipFor_fuses (s cause) : (chipFor s cause).fuses = s.fuses := by
  unfold chipFor; grind [!chipBegin_fuses, State.fuses]
theorem execSharedUnitTimeout_fuses (s) {t} (h : execSharedUnitTimeout s = .next t) : t.fuses = s.fuses := by
  unfold execSharedUnitTimeout at h; grind [!chipFor_fuses]
theorem replayReset_fuses (s r qi) : (replayReset s r qi).fuses = s.fuses := by
  unfold replayReset; grind [!haltAll_fuses, !State.bump_fuses, !unitFence_fuses, !forgetAnswers_fuses, !complete_fuses,
    !dropCmd_fuses, foldl_fuses, State.fuses]
theorem boundMiss_fuses (s r) : (boundMiss s r).fuses = s.fuses := by
  unfold boundMiss; grind [!chipBegin_fuses, !replayReset_fuses, !climb_fuses]
theorem execStopBoundMiss_fuses (id s) {t} (h : execStopBoundMiss id s = .next t) : t.fuses = s.fuses := by
  unfold execStopBoundMiss at h; grind [!boundMiss_fuses]
theorem dropWrites_fuses (s ws) : (dropWrites s ws).fuses = s.fuses := by
  unfold dropWrites; grind [!State.bump_fuses, foldl_fuses]
theorem fenceDrain_fuses (s r) : (fenceDrain s r).fuses = s.fuses := by
  unfold fenceDrain; grind [!dropWrites_fuses, !dropCmd_fuses, !unitReset_fuses, foldl_fuses, State.fuses]
theorem execFenceDrainEnd_fuses (id s) {t} (h : execFenceDrainEnd id s = .next t) : t.fuses = s.fuses := by
  unfold execFenceDrainEnd at h; grind [!fenceDrain_fuses]
theorem endWith_fuses (s qi st) : (endWith s qi st).fuses = s.fuses := by
  unfold endWith; grind [!settleUnits_fuses, !advance_fuses, !State.setQueue_fuses]
theorem judge_fuses (id s x) : (judge id s x).fuses = s.fuses := by
  unfold judge; grind [!endWith_fuses, !suspectJudged_fuses]
theorem resumeDestroys_fuses (s) : (resumeDestroys s).fuses = s.fuses := by
  unfold resumeDestroys; grind [!destroyBegin_fuses, foldl_fuses]
theorem resetEnd_fuses (s r) : (resetEnd s r).fuses = s.fuses := by
  unfold resetEnd; grind [!State.setPipe_fuses, !endWith_fuses, !judge_fuses, !recoveryPut_fuses, !resumeDestroys_fuses,
    foldl_fuses, State.fuses]
theorem execResetEnd_fuses (id s) {t} (h : execResetEnd id s = .next t) : t.fuses = s.fuses := by
  unfold execResetEnd at h; grind [!resetEnd_fuses]
theorem replayNext_fuses (s r x) : (replayNext s r x).fuses = s.fuses := by
  unfold replayNext; grind [!State.setQueue_fuses, !refShow_fuses, State.fuses]
theorem execReplay_fuses (id s) {t} (h : execReplay id s = .next t) : t.fuses = s.fuses := by
  unfold execReplay at h; grind [!resumeDestroys_fuses, !endWith_fuses, !suspectJudged_fuses, !replayNext_fuses]
theorem marginWrite_fuses (s v) : (marginWrite s v).fuses = s.fuses := by
  unfold marginWrite; grind [!State.answer_fuses, !State.wrPlain_fuses]
theorem execRefBudgetMargin_fuses (v s) {t} (h : execRefBudgetMargin v s = .next t) : t.fuses = s.fuses := by
  unfold execRefBudgetMargin at h; grind [!guarded_fuses, !marginWrite_fuses]
theorem faultRingWrite_fuses (s v) : (faultRingWrite s v).fuses = s.fuses := by
  unfold faultRingWrite; grind [!State.answer_fuses, !State.wrPlain_fuses]
theorem execRefFaultRing_fuses (v s) {t} (h : execRefFaultRing v s = .next t) : t.fuses = s.fuses := by
  unfold execRefFaultRing at h; grind [!guarded_fuses, !faultRingWrite_fuses]
theorem destroyReset_fuses (s i) : (destroyReset s i).fuses = s.fuses := by
  unfold destroyReset; grind [!climb_fuses, foldl_fuses, State.fuses]
theorem execDestroyStopTimeout_fuses (ctx s) {t} (h : execDestroyStopTimeout ctx s = .next t) : t.fuses = s.fuses := by
  unfold execDestroyStopTimeout at h; grind [!resumeDestroys_fuses, !destroyReset_fuses]
theorem abandon_fuses (s e) : (abandon s e).fuses = s.fuses := by
  unfold abandon; grind [!fenceUpdate_fuses, !remoteAtomic_fuses]
theorem abandonAll_fuses (s i) : (abandonAll s i).fuses = s.fuses := by
  unfold abandonAll; grind [!memLoadNat_fuses, !abandon_fuses, foldl_fuses]
theorem releaseOwned_fuses (s h) : (releaseOwned s h).fuses = s.fuses := by
  unfold releaseOwned; grind [!State.setFld_fuses, !State.setPipe_fuses, !stopStream_fuses, foldl_fuses]
theorem destroyRelease_fuses (s i) : (destroyRelease s i).fuses = s.fuses := by
  unfold destroyRelease; grind [!releaseOwned_fuses, !revokeOwned_fuses, !abandonAll_fuses, !State.setCtx_fuses]
theorem execDestroyRelease_fuses (ctx s) {t} (h : execDestroyRelease ctx s = .next t) : t.fuses = s.fuses := by
  unfold execDestroyRelease at h; grind [!destroyRelease_fuses, !resumeDestroys_fuses]
theorem dropLayers_fuses (s p ls) : (dropLayers s p ls).fuses = s.fuses := by
  unfold dropLayers; grind [!composeTo_fuses, !State.setPipe_fuses, !State.latch_fuses, foldl_fuses]
theorem releaseNow_fuses (s h) : (releaseNow s h).fuses = s.fuses := by
  unfold releaseNow; grind [!dropLayers_fuses, !wbEnd_fuses, !State.setStream_fuses, foldl_fuses]
theorem dropCompletions_fuses (s h) : (dropCompletions s h).fuses = s.fuses := by
  unfold dropCompletions; grind [!State.bump_fuses, State.fuses]
theorem destructionEnds_fuses (s i) : (destructionEnds s i).fuses = s.fuses := by
  unfold destructionEnds; grind [!dropCompletions_fuses, !dropAll_fuses, !releaseNow_fuses, !writeScore_fuses, !State.setCtx_fuses,
    !event_fuses]
theorem execDestructionEnds_fuses (ctx s) {t} (h : execDestructionEnds ctx s = .next t) : t.fuses = s.fuses := by
  unfold execDestructionEnds at h; grind [!destructionEnds_fuses]

/-! ### Recovery of the chip -/

theorem capture_fuses (s r) : (capture s r).fuses = s.fuses := by
  unfold capture; grind [!memStore_fuses, !State.bumpSat_fuses, !State.setFld_fuses, State.fuses]
theorem pipeAgain_fuses (s p) : (pipeAgain s p).fuses = s.fuses := by
  unfold pipeAgain; grind [!State.setFld_fuses]
theorem portAgain_fuses (s p) : (portAgain s p).fuses = s.fuses := by
  unfold portAgain; grind [!State.setIqlPort_fuses, !State.setFld_fuses]
theorem sendsLost_fuses (s) : (sendsLost s).fuses = s.fuses := by
  unfold sendsLost; grind [!completionStale_fuses, !hostRefused_fuses, !hostGone_fuses, foldl_fuses]
theorem netAfter_fuses (s) : (netAfter s).fuses = s.fuses := by
  unfold netAfter; grind [foldl_fuses, State.fuses]
theorem unitsAfter_fuses (s) : (unitsAfter s).fuses = s.fuses := by
  unfold unitsAfter; grind [!State.setFld_fuses, !courtSettle_fuses, !rasterSettle_fuses, !quarterSettle_fuses, foldl_fuses,
    State.fuses]
theorem whistleCut_fuses (s) : (whistleCut s).fuses = s.fuses := by
  unfold whistleCut; grind [!whistleFailed_fuses, State.fuses]
theorem mapsApplied_fuses (s) : (mapsApplied s).fuses = s.fuses := by
  unfold mapsApplied; grind [!courtRemap_fuses, !coreRemap_fuses, foldl_fuses]
theorem inspectsAfter_fuses (s) : (inspectsAfter s).fuses = s.fuses := by
  unfold inspectsAfter; grind [State.fuses]
theorem epochUp_fuses (s) : (epochUp s).fuses = s.fuses := by
  unfold epochUp; grind [!State.setFld_fuses, State.fuses]
theorem claimsAgain_fuses (s) : (claimsAgain s).fuses = s.fuses := by
  unfold claimsAgain; grind [!State.setFld_fuses, foldl_fuses]
theorem chipRestore_fuses (s) : (chipRestore s).fuses = s.fuses := by
  unfold chipRestore; grind [!inspectsAfter_fuses, !whistleCut_fuses, !mapsApplied_fuses, !epochUp_fuses, !State.setFld_fuses,
    !netAfter_fuses, !unitsAfter_fuses, !pipeAgain_fuses, !portAgain_fuses, !trainStart_fuses, !claimsAgain_fuses, foldl_fuses,
    State.fuses]
theorem cycleFor_fuses (s case) : (cycleFor s case).fuses = s.fuses := by
  unfold cycleFor; grind [State.fuses]
theorem chipReset_fuses (s r benched trained) : (chipReset s r benched trained).fuses = s.fuses := by
  unfold chipReset; grind [!cycleFor_fuses, !sendsLost_fuses, !capture_fuses, !benchAll_fuses, !dropCmd_fuses, !dropWrites_fuses,
    !chipRestore_fuses, !trayCause_fuses, !refShow_fuses, foldl_fuses, State.fuses]
theorem execChipReset_fuses (benched trained s) {t} (h : execChipReset benched trained s = .next t) : t.fuses = s.fuses := by
  unfold execChipReset at h; grind [!chipReset_fuses]
theorem execChipRecoveryTimeout_fuses (s) {t} (h : execChipRecoveryTimeout s = .next t) : t.fuses = s.fuses := by
  unfold execChipRecoveryTimeout at h; grind [!cycleFor_fuses]
theorem trayAssert_fuses (s) : (trayAssert s).fuses = s.fuses := by
  unfold trayAssert; grind [!State.setFld_fuses, !State.wr_fuses]
theorem powerCycle_fuses (s case) : (powerCycle s case).fuses = s.fuses := by
  unfold powerCycle; grind [!event_fuses, !dropSwitched_fuses, !trayCause_fuses, !flushCause_fuses, !flushDone_fuses,
    !flushBegin_fuses, !trayAssert_fuses, State.fuses]
theorem execPowerCycleReq_fuses (s) {t} (h : execPowerCycleReq s = .next t) : t.fuses = s.fuses := by
  unfold execPowerCycleReq at h; grind [!powerCycle_fuses]
theorem execTrayReqHoldoffEnd_fuses (s) {t} (h : execTrayReqHoldoffEnd s = .next t) : t.fuses = s.fuses := by
  unfold execTrayReqHoldoffEnd at h; grind [!trayAssert_fuses]
theorem execWatchdogExpiry_fuses (s) {t} (h : execWatchdogExpiry s = .next t) : t.fuses = s.fuses := by
  unfold execWatchdogExpiry at h; grind [!cycleFor_fuses, State.fuses]

/-! ### Inspections and the repair journal -/

theorem execInspectionDue_fuses (kind unit s) {t} (h : execInspectionDue kind unit s = .next t) : t.fuses = s.fuses := by
  unfold execInspectionDue at h; grind [!inspectQueue_fuses]
theorem inspectReq_fuses (s v) : (inspectReq s v).fuses = s.fuses := by
  unfold inspectReq; grind [!State.answer_fuses, !inspectQueue_fuses, State.fuses]
theorem execStwInspectReq_fuses (v s) {t} (h : execStwInspectReq v s = .next t) : t.fuses = s.fuses := by
  unfold execStwInspectReq at h; grind [!guarded_fuses, !inspectReq_fuses]
theorem inspectBegin_fuses (s x) : (inspectBegin s x).fuses = s.fuses := by
  unfold inspectBegin; grind [!idleLeave_fuses, !State.setFld_fuses, !writeBack_fuses, State.fuses]
theorem execInspection_fuses (kind unit way s) {t} (h : execInspection kind unit way s = .next t) : t.fuses = s.fuses := by
  unfold execInspection at h; grind [!inspectBegin_fuses, foldl_fuses]
theorem repaired_fuses (s typ unit sub) : (repaired s typ unit sub).fuses = s.fuses := by
  unfold repaired; grind [State.fuses]
theorem retireCourt_fuses (s n) : (retireCourt s n).fuses = s.fuses := by
  unfold retireCourt; grind [!event_fuses, !State.bump_fuses, !State.setFld_fuses, !repaired_fuses, !whistleStart_fuses,
    !stopWhenIdle_fuses]
theorem mapEngine_fuses (s n r e) : (mapEngine s n r e).fuses = s.fuses := by
  unfold mapEngine; grind [!State.stage_fuses, !event_fuses, !State.bump_fuses, !repaired_fuses, !courtRemap_fuses]
theorem courtFailed_fuses (s n mask engines) : (courtFailed s n mask engines).2.fuses = s.fuses := by
  unfold courtFailed; grind [!retireCourt_fuses, !mapEngine_fuses, foldl_fuses]
theorem coreFailed_fuses (s unit) : (coreFailed s unit).2.fuses = s.fuses := by
  unfold coreFailed
  extract_lets q c map s1 s2 s3
  have h1 : s1.fuses = s.fuses := shaSpareMapPut_fuses _ _ _
  have h2 : s2.fuses = s.fuses := fuses_ite ((coreRemap_fuses _ _).trans h1) h1
  have h3 : s3.fuses = s.fuses := retireCore_fuses _ _
  split
  · rw [repaired_fuses, event_fuses, State.bump_fuses, h2]
  · rw [repaired_fuses, event_fuses, State.bump_fuses, h3]
theorem wayFailed_fuses (s slice way) : (wayFailed s slice way).2.fuses = s.fuses := by
  unfold wayFailed; grind [!State.fresh_fuses, !event_fuses, !State.setFld_fuses, !repaired_fuses, !State.bump_fuses]
theorem inspectLeave_fuses (s x) : (inspectLeave s x).fuses = s.fuses := by
  unfold inspectLeave; grind [!State.setFld_fuses, !courtScrubDue_fuses, !coreScrubDue_fuses, State.fuses]
theorem inspectEnd_fuses (s x mask engines) : (inspectEnd s x mask engines).fuses = s.fuses := by
  unfold inspectEnd; grind [!inspectLeave_fuses, !State.bump_fuses, !event_fuses, !courtFailed_fuses, !coreFailed_fuses,
    !wayFailed_fuses, !State.setFld_fuses, !State.wr_fuses, !courtSettle_fuses, !quarterSettle_fuses]
theorem execInspectionEnd_fuses (kind unit way mask engines s) {t} (h : execInspectionEnd kind unit way mask engines s = .next t) :
    t.fuses = s.fuses := by
  unfold execInspectionEnd at h; grind [!inspectEnd_fuses]
theorem State.flashPut_fuses (s : State) (a bs) : (s.flashPut a bs).fuses = s.fuses := by
  unfold State.flashPut; grind [!foldl_snd_fuses, State.fuses]
theorem journalPut_fuses (s r) : (journalPut s r).fuses = s.fuses := by
  unfold journalPut
  extract_lets n bs s1 at' w s2
  have h1 : s1.fuses = s.fuses := State.flashPut_fuses _ _ _
  clear_value s1 bs at'
  have h2 : s2.fuses = s1.fuses := fuses_withSteward s1 { w with cal := _ } rfl
  exact fuses_ite (event_fuses ..) ((State.setFld_fuses ..).trans ((State.setFld_fuses ..).trans (h2.trans h1)))
theorem execJournalAppend_fuses (s) {t} (h : execJournalAppend s = .next t) : t.fuses = s.fuses := by
  unfold execJournalAppend at h; grind [!journalPut_fuses, State.fuses]
theorem captureStatusWrite_fuses (s v) : (captureStatusWrite s v).fuses = s.fuses := by
  unfold captureStatusWrite; grind [!State.answer_fuses, !State.wrPlain_fuses]
theorem execStwCaptureStatus_fuses (v s) {t} (h : execStwCaptureStatus v s = .next t) : t.fuses = s.fuses := by
  unfold execStwCaptureStatus at h; grind [!guarded_fuses, !captureStatusWrite_fuses]

/-! ### The steward -/

theorem State.flashReplace_fuses (s : State) (base size bs) : (s.flashReplace base size bs).fuses = s.fuses := by
  unfold State.flashReplace; grind [State.fuses]
theorem opDone_fuses (s st value) : (opDone s st value).fuses = s.fuses := by
  unfold opDone; grind [!State.answer_fuses, !State.wr_fuses]
theorem withInput_fuses (s n f) (hf : ∀ a s, (f a s).fuses = s.fuses) : (withInput s n f).fuses = s.fuses := by
  unfold withInput; grind [!opDone_fuses, !memLoad_fuses]
theorem giveOutput_fuses (s bs) : (giveOutput s bs).fuses = s.fuses := by
  unfold giveOutput; grind [!opDone_fuses, !memStore_fuses]
theorem calRead_fuses (s) : (calRead s).fuses = s.fuses := by
  unfold calRead; grind [!giveOutput_fuses]
theorem calWrite_fuses (s) : (calWrite s).fuses = s.fuses := by
  unfold calWrite; grind [!opDone_fuses, !withInput_fuses, !State.flashReplace_fuses]
theorem cfgRead_fuses (s) : (cfgRead s).fuses = s.fuses := by
  unfold cfgRead; grind [!giveOutput_fuses]
theorem cfgWrite_fuses (s) : (cfgWrite s).fuses = s.fuses := by
  unfold cfgWrite; grind [!opDone_fuses, !withInput_fuses, !State.flashReplace_fuses]
theorem updateBegin_fuses (s bs) : (updateBegin s bs).fuses = s.fuses := by
  unfold updateBegin; grind [!State.fresh_fuses, !State.flashReplace_fuses, !State.answer_fuses, State.fuses]
theorem updateEnd_fuses (s u) : (updateEnd s u).fuses = s.fuses := by
  unfold updateEnd; grind [!State.flashReplace_fuses, !State.wr_fuses, State.fuses]
theorem updateTick_fuses (s) : (updateTick s).fuses = s.fuses := by
  unfold updateTick; grind [!updateEnd_fuses, State.fuses]
theorem imageUpdate_fuses (s n) : (imageUpdate s n).fuses = s.fuses := by
  unfold imageUpdate; grind [!opDone_fuses, !withInput_fuses, !updateBegin_fuses]
theorem attest_fuses (s) : (attest s).fuses = s.fuses := by
  unfold attest; grind [!withInput_fuses, !giveOutput_fuses]
theorem identityRead_fuses (s) : (identityRead s).fuses = s.fuses := by
  unfold identityRead; grind [!giveOutput_fuses]
theorem claim_fuses (s param) : (claim s param).fuses = s.fuses := by
  unfold claim; grind [!opDone_fuses, !State.setFld_fuses]
theorem release_fuses (s param) : (release s param).fuses = s.fuses := by
  unfold release; grind [!opDone_fuses, !State.setFld_fuses]
theorem macsecPut_fuses (s param d) : (macsecPut s param d).fuses = s.fuses := by
  unfold macsecPut; grind [!State.setEthPort_fuses]
theorem macsecPick_fuses (s param) : (macsecPick s param).2.fuses = s.fuses := by
  unfold macsecPick; grind [!State.setEthPort_fuses]
theorem keysZero_fuses (s) : (keysZero s).fuses = s.fuses := by
  unfold keysZero; grind [State.fuses]
theorem macsecInstall_fuses (s param) : (macsecInstall s param).fuses = s.fuses := by
  unfold macsecInstall; grind [!opDone_fuses, !keysZero_fuses, !macsecPut_fuses]
theorem macsecSelect_fuses (s param) : (macsecSelect s param).fuses = s.fuses := by
  unfold macsecSelect; grind [!macsecPick_fuses, !opDone_fuses, !keysZero_fuses]
theorem trayKeyDone_fuses (s st) : (trayKeyDone s st).fuses = s.fuses := by
  unfold trayKeyDone; grind [State.fuses]
theorem stwOpWrite_fuses (s v) : (stwOpWrite s v).fuses = s.fuses := by
  unfold stwOpWrite; grind [!calRead_fuses, !calWrite_fuses, !cfgRead_fuses, !cfgWrite_fuses, !imageUpdate_fuses, !attest_fuses,
    !identityRead_fuses, !claim_fuses, !release_fuses, !macsecInstall_fuses, !macsecSelect_fuses, !opDone_fuses]
theorem execCalRead_fuses (s) {t} (h : execCalRead s = .next t) : t.fuses = s.fuses := by
  unfold execCalRead at h; grind [!guarded_fuses, !calRead_fuses]
theorem execCalWrite_fuses (s) {t} (h : execCalWrite s = .next t) : t.fuses = s.fuses := by
  unfold execCalWrite at h; grind [!guarded_fuses, !calWrite_fuses]
theorem execCfgRead_fuses (s) {t} (h : execCfgRead s = .next t) : t.fuses = s.fuses := by
  unfold execCfgRead at h; grind [!guarded_fuses, !cfgRead_fuses]
theorem execCfgWrite_fuses (s) {t} (h : execCfgWrite s = .next t) : t.fuses = s.fuses := by
  unfold execCfgWrite at h; grind [!guarded_fuses, !cfgWrite_fuses]
theorem execUpdate_fuses (param s) {t} (h : execUpdate param s = .next t) : t.fuses = s.fuses := by
  unfold execUpdate at h; grind [!guarded_fuses, !imageUpdate_fuses]
theorem execAttest_fuses (s) {t} (h : execAttest s = .next t) : t.fuses = s.fuses := by
  unfold execAttest at h; grind [!guarded_fuses, !attest_fuses]
theorem execIdentityRead_fuses (s) {t} (h : execIdentityRead s = .next t) : t.fuses = s.fuses := by
  unfold execIdentityRead at h; grind [!guarded_fuses, !identityRead_fuses]
theorem execClaim_fuses (param s) {t} (h : execClaim param s = .next t) : t.fuses = s.fuses := by
  unfold execClaim at h; grind [!guarded_fuses, !claim_fuses]
theorem execRelease_fuses (param s) {t} (h : execRelease param s = .next t) : t.fuses = s.fuses := by
  unfold execRelease at h; grind [!guarded_fuses, !release_fuses]
theorem execMacsecInstall_fuses (tray param sci s) {t} (h : execMacsecInstall tray param sci s = .next t) : t.fuses = s.fuses := by
  unfold execMacsecInstall at h; grind [!trayKeyDone_fuses, !macsecPut_fuses, !guarded_fuses, !macsecInstall_fuses]
theorem execMacsecSelect_fuses (tray param s) {t} (h : execMacsecSelect tray param s = .next t) : t.fuses = s.fuses := by
  unfold execMacsecSelect at h; grind [!macsecPick_fuses, !trayKeyDone_fuses, !guarded_fuses, !macsecSelect_fuses]
theorem gpioWrite_fuses (s v) : (gpioWrite s v).fuses = s.fuses := by
  unfold gpioWrite; grind [!State.answer_fuses, !State.setFld_fuses, foldl_fuses]
theorem timerWrite_fuses (s t v) : (timerWrite s t v).fuses = s.fuses := by
  unfold timerWrite; grind [!State.answer_fuses, !State.wr_fuses, State.fuses]
theorem sbufWrite_fuses (s i v) : (sbufWrite s i v).fuses = s.fuses := by
  unfold sbufWrite; grind [!State.answer_fuses, !State.wr_fuses]
theorem keyDataWrite_fuses (s i v) : (keyDataWrite s i v).fuses = s.fuses := by
  unfold keyDataWrite; grind [!State.answer_fuses, State.fuses]
theorem execHostTimerAlarm_fuses (timer s) {t} (h : execHostTimerAlarm timer s = .next t) : t.fuses = s.fuses := by
  unfold execHostTimerAlarm at h; grind [!hostCause_fuses, State.fuses]
theorem trayAccess_fuses (s x1) : (trayAccess s x1).fuses = s.fuses := by
  unfold trayAccess; grind [!wakeEvent_fuses, !State.emit_fuses, foldl_fuses, State.fuses]
theorem execTrayWake_fuses (acc s) {t} (h : execTrayWake acc s = .next t) : t.fuses = s.fuses := by
  unfold execTrayWake at h; grind [!trayAccess_fuses]
theorem execEntdaa_fuses (addr s) {t} (h : execEntdaa addr s = .next t) : t.fuses = s.fuses := by
  unfold execEntdaa at h; grind [State.fuses]

/-! ### Errors in memory -/

theorem alterData_fuses (s line bytes) : (alterData s line bytes).fuses = s.fuses := by
  unfold alterData; grind [foldl_fuses, State.fuses]
theorem markBad_fuses (s line) : (markBad s line).fuses = s.fuses := by
  unfold markBad; grind [State.fuses]
theorem upsetCells_fuses (s line bytes) : (upsetCells s line bytes).fuses = s.fuses := by
  unfold upsetCells; grind [!alterData_fuses, !markBad_fuses, !State.fresh_fuses, !State.mend_fuses, State.fuses]
theorem upsetBus_fuses (s line again) : (upsetBus s line again).fuses = s.fuses := by
  unfold upsetBus; grind [!markBad_fuses]
theorem wayInspect_fuses (s line) : (wayInspect s line).fuses = s.fuses := by
  unfold wayInspect; grind [!inspectQueue_fuses]
theorem wayCorrected_fuses (s line) : (wayCorrected s line).fuses = s.fuses := by
  unfold wayCorrected; grind [!wayInspect_fuses, State.fuses]
theorem upsetCache_fuses (s line bits) : (upsetCache s line bits).fuses = s.fuses := by
  unfold upsetCache; grind [!wayInspect_fuses, !markBad_fuses, !wayCorrected_fuses, !State.fresh_fuses, !alterData_fuses,
    foldl_fuses, State.fuses]
theorem upset_fuses (s u) : (upset s u).fuses = s.fuses := by
  unfold upset; grind [!upsetCells_fuses, !upsetBus_fuses, !upsetCache_fuses, State.fuses]
theorem upsetTick_fuses (s) : (upsetTick s).fuses = s.fuses := by
  unfold upsetTick; grind [!upset_fuses, State.fuses]

end Sys2Proof.Machine
end

section
/-! The anti-rollback fuses (R816), continued: management, boot and the recovery service; then every row,
MIN_SVN, and the obligation. -/

namespace Sys2Proof.Machine

open Sys2Proof

/-! ### Management requests and the time step -/

theorem plainWrite_fuses (s fam i v locked) : (plainWrite s fam i v locked).fuses = s.fuses := by
  unfold plainWrite; grind [!State.answer_fuses, !State.wrPlain_fuses]
theorem stageWrite_fuses (s fam i v) : (stageWrite s fam i v).fuses = s.fuses := by
  unfold stageWrite; grind [!State.answer_fuses, !State.stage_fuses]
theorem feOpWrite_fuses (s v) : (feOpWrite s v).fuses = s.fuses := by
  unfold feOpWrite; grind [!feCreate_fuses, !feDestroy_fuses, !feSet_fuses, !feResume_fuses, !feQuery_fuses, !queueCreate_fuses,
    !feQueueDestroy_fuses, !feQueueQuery_fuses, !feResult_fuses]
theorem ethOpWrite_fuses (s v) : (ethOpWrite s v).fuses = s.fuses := by
  unfold ethOpWrite; grind [!opQpStart_fuses, !opQpStop_fuses, !opQpQuery_fuses, !opKeyLoad_fuses, !opKeyRevoke_fuses,
    !opStreamStart_fuses, !opStreamStop_fuses, !ethResult_fuses]
theorem ethPortCtrlWrite_fuses (s p v) : (ethPortCtrlWrite s p v).fuses = s.fuses := by
  unfold ethPortCtrlWrite; grind [!State.answer_fuses, !State.wr_fuses, !portEnable_fuses, !portDisable_fuses]
theorem stewardWrite_fuses (s fam i v) : (stewardWrite s fam i v).fuses = s.fuses := by
  unfold stewardWrite
  exact fuses_ite (stwOpWrite_fuses ..) <|
    fuses_ite (keyDataWrite_fuses ..) <|
    fuses_ite (gpioWrite_fuses ..) <|
    fuses_ite (timerWrite_fuses ..) <|
    fuses_ite (inspectReq_fuses ..) <|
    fuses_ite (captureStatusWrite_fuses ..) <|
    fuses_ite (sbufWrite_fuses ..) <|
    fuses_ite (targetGuarded_fuses ..) <|
    fuses_ite (pwrOtherWrite_fuses ..) <|
    fuses_ite (capWrite_fuses ..) <|
    fuses_ite (fixedWrite_fuses ..) <|
    fuses_ite (issueWrite_fuses ..) <|
    fuses_ite (boostWrite_fuses ..) <|
    fuses_ite (permitWrite_fuses ..) <|
    fuses_ite (domainReq_fuses ..) <|
    fuses_ite (padRelease_fuses ..) <|
    fuses_ite (rampWrite_fuses ..) <|
    fuses_ite (watchCfgWrite_fuses ..) <|
    fuses_ite (watchSaveWrite_fuses ..) <|
    plainWrite_fuses ..
theorem engineWrite_fuses (s fam i v) : (engineWrite s fam i v).fuses = s.fuses := by
  unfold engineWrite
  exact fuses_ite (feRegWrite_fuses ..) <|
    fuses_ite (plainWrite_fuses ..) <|
    fuses_ite (feRegWrite_fuses ..) <|
    fuses_ite (feRegWrite_fuses ..) <|
    fuses_ite (feRegWrite_fuses ..) <|
    fuses_ite (feRegWrite_fuses ..) <|
    fuses_ite (feOpWrite_fuses ..) <|
    fuses_ite (feRegWrite_fuses ..) <|
    fuses_ite (stageWrite_fuses ..) <|
    fuses_ite (partCommit_fuses ..) <|
    fuses_ite (scrubCfgWrite_fuses ..) <|
    fuses_ite (fmtDefaultWrite_fuses ..) <|
    fuses_ite (spareMapWrite_fuses ..) <|
    fuses_ite (shaSpareMapWrite_fuses ..) <|
    plainWrite_fuses ..
theorem displayWrite_fuses (s fam i v) : (displayWrite s fam i v).fuses = s.fuses := by
  unfold displayWrite
  exact fuses_ite (pipeCtrlWrite_fuses ..) <|
    fuses_ite (timingWrite_fuses ..) <|
    fuses_ite (timingWrite_fuses ..) <|
    fuses_ite (timingWrite_fuses ..) <|
    fuses_ite (plainWrite_fuses ..) <|
    fuses_ite (sigRegionWrite_fuses ..) <|
    fuses_ite (sigRegionWrite_fuses ..) <|
    fuses_ite (sigRegionWrite_fuses ..) <|
    fuses_ite (wbCtrlWrite_fuses ..) <|
    fuses_ite (linkCtrlWrite_fuses ..) <|
    fuses_ite (streamWrite_fuses ..) <|
    plainWrite_fuses ..
theorem fabricWrite_fuses (s fam i v) : (fabricWrite s fam i v).fuses = s.fuses := by
  unfold fabricWrite
  exact fuses_ite (sdCommit_fuses ..) <|
    fuses_ite (stageWrite_fuses ..) <|
    fuses_ite (scRetire_fuses ..) <|
    fuses_ite (qosWrite_fuses ..) <|
    fuses_ite (ethTableWrite_fuses ..) <|
    fuses_ite (ethTableWrite_fuses ..) <|
    fuses_ite (ethTableWrite_fuses ..) <|
    fuses_ite (ethOpWrite_fuses ..) <|
    fuses_ite (ethPortCtrlWrite_fuses ..) <|
    fuses_ite (ethPortMacWrite_fuses ..) <|
    fuses_ite (ethPortMacWrite_fuses ..) <|
    fuses_ite (ethPortMacWrite_fuses ..) <|
    fuses_ite (timCfgWrite_fuses ..) <|
    fuses_ite (iqlCfgWrite_fuses ..) <|
    fuses_ite (iqlRouteWrite_fuses ..) <|
    fuses_ite (iqlPortCtrlWrite_fuses ..) <|
    fuses_ite (fuses_ite (channelEnable_fuses ..) (channelDisable_fuses ..)) <|
    fuses_ite (marginWrite_fuses ..) <|
    fuses_ite (faultRingWrite_fuses ..) <|
    fuses_ite (evrCfgWrite_fuses ..) <|
    fuses_ite (evrFreezeWrite_fuses ..) <|
    plainWrite_fuses ..
theorem writeReg_fuses (s fam i v) : (writeReg s fam i v).fuses = s.fuses := by
  unfold writeReg; grind [!stewardWrite_fuses, !engineWrite_fuses, !displayWrite_fuses, !fabricWrite_fuses]
theorem registerAccess_fuses (s write a n v) : (registerAccess s write a n v).2.fuses = s.fuses := by
  unfold registerAccess
  split
  · split
    · rfl
    · split <;> rfl
  · rfl
  · split
    · rfl
    · split
      · exact (writeReg_fuses _ _ _ _).trans (State.answer_fuses ..)
      · exact readVal_fuses _ _ _
theorem request_fuses (s bs) : (request s bs).2.fuses = s.fuses := by
  unfold request; grind [!registerAccess_fuses]
theorem jobGo_fuses (fuel s j) : (jobGo fuel s j).2.fuses = s.fuses := by
  induction fuel generalizing s j with
  | zero => rfl
  | succ fuel ih => unfold jobGo; grind [!qpSend_fuses, !request_fuses]
theorem jobAt_fuses (s k) : (jobAt s k).fuses = s.fuses := by
  unfold jobAt; grind [!jobGo_fuses, State.fuses]
theorem jobsGo_fuses (s) : (jobsGo s).fuses = s.fuses := by
  unfold jobsGo; grind [!jobAt_fuses, foldl_fuses, State.fuses]
theorem sendIn_fuses (s i psn data) : (sendIn s i psn data).fuses = s.fuses := by
  unfold sendIn; grind [!ackRequest_fuses, !qpSend_fuses, !jobsGo_fuses, !doorbellFromQp_fuses, !nak_fuses, State.fuses]
theorem execSend_fuses (qp psn ecn data s) {t} (h : execSend qp psn ecn data s = .next t) : t.fuses = s.fuses := by
  unfold execSend at h; grind [!hostRequest_fuses, !sendIn_fuses]
theorem execTc10Wake_fuses (port s) {t} (h : execTc10Wake port s = .next t) : t.fuses = s.fuses := by
  unfold execTc10Wake at h; grind [!linkWoke_fuses, !wakeEvent_fuses]
theorem talkNext_fuses (s i) : (talkNext s i).fuses = s.fuses := by
  unfold talkNext; grind [!State.setStream_fuses]
theorem talkPacket_fuses (s i n f) : (talkPacket s i n f).fuses = s.fuses := by
  unfold talkPacket; grind [!talkNext_fuses, !State.bump_fuses, !ctxReadObj_fuses, !State.setStream_fuses, !offerFrame_fuses]
theorem execTalkerFrame_fuses (stream bytes s) {t} (h : execTalkerFrame stream bytes s = .next t) : t.fuses = s.fuses := by
  unfold execTalkerFrame at h; grind [!withFar_fuses, !talkPacket_fuses]
theorem idle_fuses (s) : (idle s).fuses = s.fuses := by
  unfold idle; grind [!idleNote_fuses, !jobsGo_fuses, !resumeDestroys_fuses, !updateTick_fuses, !upsetTick_fuses, !queueTick_fuses,
    !tick_fuses]

/-! ### The configuration record -/

theorem applyRegs_fuses (s es) : (applyRegs s es).fuses = s.fuses := by
  unfold applyRegs; grind [!State.wr_fuses, foldl_fuses]

/-! ### Boot -/

theorem powerOff_fuses (s) : (powerOff s).fuses = s.fuses := by
  unfold powerOff; grind [State.fuses]
theorem execPorstNAssert_fuses (s) {t} (h : execPorstNAssert s = .next t) : t.fuses = s.fuses := by
  unfold execPorstNAssert at h; grind [!powerOff_fuses]
theorem execAlwaysOnSupplyLost_fuses (s) {t} (h : execAlwaysOnSupplyLost s = .next t) : t.fuses = s.fuses := by
  unfold execAlwaysOnSupplyLost at h; grind [!powerOff_fuses]
theorem prevRing_fuses (s) : (prevRing s).fuses = s.fuses := by
  unfold prevRing; grind [!State.resetFam_fuses, !State.wr_fuses, !State.setFld_fuses, foldl_fuses, State.fuses]
theorem bootStart_fuses (s force role addr) : (bootStart s force role addr).fuses = s.fuses := by
  unfold bootStart; grind [!State.wr_fuses, !State.setFld_fuses, !prevRing_fuses, State.fuses]
theorem bootStatus_fuses (s st err detail) : (bootStatus s st err detail).fuses = s.fuses := by
  unfold bootStatus; grind [!State.setFld_fuses]
theorem domUp_fuses (s d) : (domUp s d).fuses = s.fuses := by
  unfold domUp; grind [!domEvent_fuses]
theorem servicePort_fuses (s) : (servicePort s).fuses = s.fuses := by
  unfold servicePort; grind [!State.wr_fuses, !State.setFld_fuses]
theorem bootHalt_fuses (s st err detail) : (bootHalt s st err detail).fuses = s.fuses := by
  unfold bootHalt; grind [!trayCause_fuses, !hostCause_fuses, !servicePort_fuses, !bootStatus_fuses]
theorem recoveryBoot_fuses (s err) : (recoveryBoot s err).fuses = s.fuses := by
  unfold recoveryBoot; grind [!bootHalt_fuses, !event_fuses]
theorem repairIn_fuses (s typ unit sub addr) : (repairIn s typ unit sub addr).fuses = s.fuses := by
  unfold repairIn; grind [!State.setFld_fuses, !State.wr_fuses, !markRetired_fuses, !retireCore_fuses, !State.setIqlPort_fuses,
    State.fuses]
theorem repairsIn_fuses (s) : (repairsIn s).fuses = s.fuses := by
  unfold repairsIn; grind [!State.setQuarter_fuses, !repairIn_fuses, !State.setFld_fuses, foldl_fuses]
theorem packageRepair_fuses (s a) : (packageRepair s a).fuses = s.fuses := by
  unfold packageRepair; grind [!event_fuses, !State.bump_fuses, State.fuses]
theorem powerModelIn_fuses (s) : (powerModelIn s).fuses = s.fuses := by
  unfold powerModelIn; grind [State.fuses]
theorem macsecIn_fuses (s bs) : (macsecIn s bs).fuses = s.fuses := by
  unfold macsecIn; grind [!State.setFld_fuses, !State.setEthPort_fuses, foldl_fuses]
theorem peersIn_fuses (s bs) : (peersIn s bs).fuses = s.fuses := by
  unfold peersIn; grind [!State.setIqlPort_fuses, foldl_fuses]
theorem portIn_fuses (s p) : (portIn s p).fuses = s.fuses := by
  unfold portIn; grind [!State.setFld_fuses, !domUp_fuses]
theorem linkIn_fuses (s p) : (linkIn s p).fuses = s.fuses := by
  unfold linkIn; grind [!State.setFld_fuses, !domUp_fuses]
theorem qpsIn_fuses (s) : (qpsIn s).fuses = s.fuses := by
  unfold qpsIn; grind [!State.setQp_fuses, foldl_fuses]
theorem recordKept_fuses (s bs) : (recordKept s bs).fuses = s.fuses := by
  unfold recordKept; grind [!claimsAgain_fuses, !State.wr_fuses, State.fuses]

theorem fuses_le_ite {c : Prop} [Decidable c] {a b : State} {n : Nat} (ha : n ≤ a.fuses) (hb : n ≤ b.fuses) :
    n ≤ (if c then a else b).fuses := by
  split <;> assumption

/-- `fusesRaised` shows in MIN_SVN the fuses that it leaves: those of SVN join with COMMIT_SVN. -/
theorem fusesRaised_eq_withSteward (s img) : ∃ w : Steward,
    w.fuses = (if imageCommit img then max s.fuses (min 64 (imageSvn img)) else s.fuses) ∧
    fusesRaised s img = { s.setFld F.stwImageMinSvn 0 w.fuses with stw := w } := by
  unfold fusesRaised
  extract_lets n
  exact ⟨{ s.stw with fuses := n, misses := 0, restart := false }, rfl, rfl⟩

theorem fusesRaised_fuses (s img) :
    (fusesRaised s img).fuses = if imageCommit img then max s.fuses (min 64 (imageSvn img)) else s.fuses := by
  obtain ⟨w, hw, heq⟩ := fusesRaised_eq_withSteward s img
  rw [heq, ← hw, withSteward_fuses]

/-- A boot reaches READY by raising the fuses of a state that still has those of `s`; only its status and its causes are set after. -/
theorem bootReadyUp_eq_fusesRaised (s img bs ppr) : ∃ u : State, u.fuses = s.fuses ∧
    bootReadyUp s img bs ppr = trayCause (hostCause (bootStatus (fusesRaised u img) 1 0 0) 0) 0 := by
  unfold bootReadyUp
  extract_lets s1 s2 s3 s4 s5 s6 s7
  have h1 : s1.fuses = s.fuses := (permitShow_fuses _).trans (recordKept_fuses ..)
  have h2 : s2.fuses = s1.fuses := (foldl_fuses (fun _ _ => packageRepair_fuses ..) _ _).trans (repairsIn_fuses _)
  have h3 : s3.fuses = s2.fuses := State.fuses_of_stw rfl
  have h4 : s4.fuses = s3.fuses := (domUp_fuses ..).trans (domUp_fuses ..)
  have h5 : s5.fuses = s4.fuses := (epochUp_fuses _).trans ((peersIn_fuses ..).trans (macsecIn_fuses ..))
  have h6 : s6.fuses = s5.fuses := event_fuses ..
  have h7 : s7.fuses = s6.fuses := (qpsIn_fuses _).trans ((foldl_fuses (fun _ _ => linkIn_fuses ..) _ _).trans
    (foldl_fuses (fun _ _ => portIn_fuses ..) _ _))
  exact ⟨s7, by rw [h7, h6, h5, h4, h3, h2, h1], rfl⟩

/-- What a boot does after the fuses are raised leaves them. -/
theorem bootReadyUp_fuses (s img bs ppr) :
    (bootReadyUp s img bs ppr).fuses = if imageCommit img then max s.fuses (min 64 (imageSvn img)) else s.fuses := by
  obtain ⟨u, hu, heq⟩ := bootReadyUp_eq_fusesRaised s img bs ppr
  rw [heq, trayCause_fuses, hostCause_fuses, bootStatus_fuses, fusesRaised_fuses, hu]

theorem fuses_le_bootReadyUp (s img bs ppr) : s.fuses ≤ (bootReadyUp s img bs ppr).fuses := by
  rw [bootReadyUp_fuses]
  split
  · exact Nat.le_max_left ..
  · exact Nat.le_refl _

theorem fuses_le_bootRecords (s img silent ppr) : s.fuses ≤ (bootRecords s img silent ppr).fuses := by
  unfold bootRecords
  refine fuses_le_ite (bootHalt_fuses ..).ge (fuses_le_ite (bootHalt_fuses ..).ge ?_)
  obtain ⟨s0, hs0⟩ : ∃ t : State, t = { s with stw := { s.stw with cal := s.flashBytes flCal calBytes } } := ⟨_, rfl⟩
  have h0 : s0.fuses = s.fuses := by
    rw [hs0]
    exact fuses_withSteward s { s.stw with cal := s.flashBytes flCal calBytes } rfl
  rw [← hs0]
  extract_lets s1 bs t
  have h1 : s1.fuses = s.fuses := (railFollow_fuses _).trans ((powerModelIn_fuses _).trans h0)
  have ht : t.fuses = s.fuses := (applyRegs_fuses ..).trans h1
  clear_value t s1
  split
  · exact ((bootHalt_fuses ..).trans h1).ge
  · exact ht.ge.trans (fuses_le_bootReadyUp ..)

theorem imageIn_fuses (s img) : (imageIn s img).fuses = s.fuses := by
  unfold imageIn; grind [!State.wr_fuses, !State.setFld_fuses, foldl_fuses]

theorem fuses_le_boot (s stuck silent ppr) : s.fuses ≤ (boot s stuck silent ppr).fuses := by
  unfold boot
  refine fuses_le_ite (recoveryBoot_fuses ..).ge (fuses_le_ite (recoveryBoot_fuses ..).ge
    (fuses_le_ite (recoveryBoot_fuses ..).ge ?_))
  extract_lets s1
  have h1 : s1.fuses = s.fuses := imageIn_fuses ..
  clear_value s1
  exact fuses_le_ite h1.ge (h1.ge.trans (fuses_le_bootRecords ..))

theorem fuses_le_execBoot (force role addr stuck silent ppr s) {t} (h : execBoot force role addr stuck silent ppr s = .next t) :
    s.fuses ≤ t.fuses := by
  unfold execBoot at h
  split at h <;> cases h
  · exact Nat.le_refl _
  · exact (bootStart_fuses ..).ge.trans (fuses_le_boot ..)

theorem execRefclkLost_fuses (s) {t} (h : execRefclkLost s = .next t) : t.fuses = s.fuses := by
  unfold execRefclkLost at h; grind [!chipFor_fuses]

/-! ### On-deck preloads -/

theorem touchPages_fuses (fuel s ho h acc va n) : (touchPages fuel s ho h acc va n).fuses = s.fuses := by
  induction fuel generalizing s ho h acc va n with
  | zero => rfl
  | succ fuel ih => unfold touchPages; grind [!xlate_fuses]
theorem readAhead_fuses (s ho h acc va n) : (readAhead s ho h acc va n).fuses = s.fuses := by
  unfold readAhead; grind [!ctxReadObj_fuses]
theorem preloadField_fuses (s p h pb arg) : (preloadField s p h pb arg).fuses = s.fuses := by
  unfold preloadField; grind [!ctxReadObj_fuses, !readAhead_fuses, !touchPages_fuses]
theorem preloadLaunch_fuses (s p h va) : (preloadLaunch s p h va).fuses = s.fuses := by
  unfold preloadLaunch; grind [!readHeader_fuses, !touchPages_fuses, !readAhead_fuses, foldl_fuses]
theorem preloadRender_fuses (s p h va) : (preloadRender s p h va).fuses = s.fuses := by
  unfold preloadRender; grind [!ctxReadObj_fuses, !readAhead_fuses]
theorem preloadObject_fuses (s q w) : (preloadObject s q w).fuses = s.fuses := by
  unfold preloadObject; grind [!preloadField_fuses, !preloadLaunch_fuses, !preloadRender_fuses, !readAhead_fuses]
theorem preloadNext_fuses (s qi) : (preloadNext s qi).fuses = s.fuses := by
  unfold preloadNext; grind [!State.setQueue_fuses, !preloadObject_fuses, !readEntry_fuses]
theorem execPreload_fuses (q s) {t} (h : execPreload q s = .next t) : t.fuses = s.fuses := by
  unfold execPreload at h; grind [!preloadNext_fuses]

/-! ### The recovery service and the test port -/

theorem service_fuses (s r f) (hf : ∀ s, (f s).2.2.fuses = s.fuses) : (service s r f).fuses = s.fuses := by
  unfold service
  grind [!State.emit_fuses, State.fuses]
theorem dataPut_fuses (s off bs) : (dataPut s off bs).fuses = s.fuses := by
  unfold dataPut; grind [State.fuses]
theorem restartOff_fuses (s) : (restartOff s).fuses = s.fuses := by
  unfold restartOff; grind [!dropSwitched_fuses, !State.setFld_fuses, !State.resetFam_fuses, !State.wr_fuses, !bootStatus_fuses,
    foldl_fuses, State.fuses]
theorem svcStatus_fuses (r s) : (svcStatus r s).2.2.fuses = s.fuses := by
  unfold svcStatus
  split <;> rfl
theorem svcRead_fuses (r s) : (svcRead r s).2.2.fuses = s.fuses := by
  unfold svcRead; grind
theorem svcErase_fuses (r s) : (svcErase r s).2.2.fuses = s.fuses := by
  unfold svcErase; grind [!dataPut_fuses, !State.flashReplace_fuses]
theorem svcWrite_fuses (r data s) : (svcWrite r data s).2.2.fuses = s.fuses := by
  unfold svcWrite; grind [!dataPut_fuses, !State.flashPut_fuses]
theorem svcVerify_fuses (s) : (svcVerify s).2.2.fuses = s.fuses := rfl
theorem execRecoveryStatus_fuses (op region seq len rsv off s) {t} (h : execRecoveryStatus op region seq len rsv off s = .next t) :
    t.fuses = s.fuses := by
  unfold execRecoveryStatus at h
  split at h <;> cases h
  · rfl
  · exact service_fuses _ _ _ (svcStatus_fuses _)
theorem execRecoveryRead_fuses (region seq len rsv off s) {t} (h : execRecoveryRead region seq len rsv off s = .next t) :
    t.fuses = s.fuses := by
  unfold execRecoveryRead at h
  cases h
  exact service_fuses _ _ _ (svcRead_fuses _)
theorem execErase_fuses (region seq len rsv off s) {t} (h : execErase region seq len rsv off s = .next t) : t.fuses = s.fuses := by
  unfold execErase at h
  cases h
  exact service_fuses _ _ _ (svcErase_fuses _)
theorem execRecoveryWrite_fuses (region seq len rsv off data s) {t} (h : execRecoveryWrite region seq len rsv off data s = .next t)
    : t.fuses = s.fuses := by
  unfold execRecoveryWrite at h
  cases h
  exact service_fuses _ _ _ (svcWrite_fuses _ _)
theorem execVerify_fuses (region seq len rsv off s) {t} (h : execVerify region seq len rsv off s = .next t) :
    t.fuses = s.fuses := by
  unfold execVerify at h
  cases h
  exact service_fuses _ _ _ (svcVerify_fuses)
theorem execRestart_fuses (region seq len rsv off s) {t} (h : execRestart region seq len rsv off s = .next t) :
    t.fuses = s.fuses := by
  unfold execRestart at h
  extract_lets r again due u at h
  have hu : u.fuses = s.fuses := service_fuses _ _ _ (fun _ => rfl)
  cases h
  exact fuses_ite ((restartOff_fuses u).trans hu) hu
theorem execTck_fuses (tms tdi pins s) {t} (h : execTck tms tdi pins s = .next t) : t.fuses = s.fuses := by
  unfold execTck at h; grind [!State.fresh_fuses, State.fuses]
theorem execTrstN_fuses (s) {t} (h : execTrstN s = .next t) : t.fuses = s.fuses := by
  unfold execTrstN at h; grind [State.fuses]

/-! ### Every row -/

theorem fuses_le_exec {s t : State} : ∀ c, exec c s = .next t → s.fuses ≤ t.fuses
  | .send .., h => (execSend_fuses (h := h) ..).ge
  | .rdmaWrite .., h => (execRdmaWrite_fuses (h := h) ..).ge
  | .rdmaRead .., h => (execRdmaRead_fuses (h := h) ..).ge
  | .compareAndSwap .., h => (execCompareAndSwap_fuses (h := h) ..).ge
  | .fetchAndAdd .., h => (execFetchAndAdd_fuses (h := h) ..).ge
  | .ackReceived .., h => (execAckReceived_fuses (h := h) ..).ge
  | .nakReceived .., h => (execNakReceived_fuses (h := h) ..).ge
  | .ackTimeout .., h => (execAckTimeout_fuses (h := h) ..).ge
  | .doorbellRecord .., h => (execDoorbellRecord_fuses (h := h) ..).ge
  | .create .., h => (execCreate_fuses (h := h) ..).ge
  | .destroy .., h => (execDestroy_fuses (heq := h) ..).ge
  | .destroyStopTimeout .., h => (execDestroyStopTimeout_fuses (h := h) ..).ge
  | .destroyRelease .., h => (execDestroyRelease_fuses (h := h) ..).ge
  | .destructionEnds .., h => (execDestructionEnds_fuses (h := h) ..).ge
  | .set .., h => (execSet_fuses (heq := h) ..).ge
  | .resume .., h => (execResume_fuses (heq := h) ..).ge
  | .query .., h => (execQuery_fuses (heq := h) ..).ge
  | .queueCreate .., h => (execQueueCreate_fuses (h := h) ..).ge
  | .queueDestroy .., h => (execQueueDestroy_fuses (heq := h) ..).ge
  | .queueQuery .., h => (execQueueQuery_fuses (heq := h) ..).ge
  | .commandAtHead .., h => (execCommandAtHead_fuses (h := h) ..).ge
  | .waitExamine .., h => (execWaitExamine_fuses (h := h) ..).ge
  | .waitTimeout .., h => (execWaitTimeout_fuses (h := h) ..).ge
  | .remoteFenceRead .., h => (execRemoteFenceRead_fuses (h := h) ..).ge
  | .commandStart .., h => (execCommandStart_fuses (h := h) ..).ge
  | .aging .., h => (execAging_fuses (h := h) ..).ge
  | .sliceEnd, h => (execSliceEnd_fuses (h := h) ..).ge
  | .fwFallback, h => (execFwFallback_fuses (h := h) ..).ge
  | .preload .., h => (execPreload_fuses (h := h) ..).ge
  | .benchSwap .., h => (execBenchSwap_fuses (h := h) ..).ge
  | .benchCheck, h => (execBenchCheck_fuses (h := h) ..).ge
  | .deadlockSearch .., h => (execDeadlockSearch_fuses (h := h) ..).ge
  | .scoreboardUpdate, h => (execScoreboardUpdate_fuses (h := h) ..).ge
  | .scoreboardWalk, h => (execScoreboardWalk_fuses (h := h) ..).ge
  | .nop .., h => (execNop_fuses (h := h) ..).ge
  | .free .., h => (execFree_fuses (h := h) ..).ge
  | .fePartCommit .., h => (execFePartCommit_fuses (h := h) ..).ge
  | .whistleReport .., h => (execWhistleReport_fuses (h := h) ..).ge
  | .whistleTimeout, h => (execWhistleTimeout_fuses (h := h) ..).ge
  | .fldFmtDefault .., h => (execFldFmtDefault_fuses (h := h) ..).ge
  | .fldScrubCfg .., h => (execFldScrubCfg_fuses (h := h) ..).ge
  | .fldSpareMap .., h => (execFldSpareMap_fuses (h := h) ..).ge
  | .courtRemap .., h => (execCourtRemap_fuses (h := h) ..).ge
  | .field .., h => (execField_fuses (h := h) ..).ge
  | .bundle .., h => (execBundle_fuses (h := h) ..).ge
  | .scheduleCycle .., h => (execScheduleCycle_fuses (h := h) ..).ge
  | .networkTransferArrival .., h => (execNetworkTransferArrival_fuses (h := h) ..).ge
  | .dmaComplete .., h => (execDmaComplete_fuses (h := h) ..).ge
  | .heavyHoldExpiry, h => (execHeavyHoldExpiry_fuses (h := h) ..).ge
  | .fieldEnd .., h => (execFieldEnd_fuses (h := h) ..).ge
  | .courtScrub .., h => (execCourtScrub_fuses (h := h) ..).ge
  | .courtScrubEnd .., h => (execCourtScrubEnd_fuses (h := h) ..).ge
  | .droopDetect .., h => (execDroopDetect_fuses (h := h) ..).ge
  | .stretchEnd .., h => (execStretchEnd_fuses (h := h) ..).ge
  | .launch .., h => (execLaunch_fuses (h := h) ..).ge
  | .blockStart .., h => (execBlockStart_fuses (h := h) ..).ge
  | .intOp .., h => (execIntOp_fuses (h := h) ..).ge
  | .fp32Op .., h => (execFp32Op_fuses (h := h) ..).ge
  | .fp16x2Op .., h => (execFp16x2Op_fuses (h := h) ..).ge
  | .cvtOp .., h => (execCvtOp_fuses (h := h) ..).ge
  | .sfuOp .., h => (execSfuOp_fuses (h := h) ..).ge
  | .moveOp .., h => (execMoveOp_fuses (h := h) ..).ge
  | .setteam .., h => (execSetteam_fuses (h := h) ..).ge
  | .laneOp .., h => (execLaneOp_fuses (h := h) ..).ge
  | .globalMem .., h => (execGlobalMem_fuses (h := h) ..).ge
  | .localMem .., h => (execLocalMem_fuses (h := h) ..).ge
  | .atomicOp .., h => (execAtomicOp_fuses (h := h) ..).ge
  | .fenceOp .., h => (execFenceOp_fuses (h := h) ..).ge
  | .sample .., h => (execSample_fuses (h := h) ..).ge
  | .vin .., h => (execVin_fuses (h := h) ..).ge
  | .vout .., h => (execVout_fuses (h := h) ..).ge
  | .interp .., h => (execInterp_fuses (h := h) ..).ge
  | .cout .., h => (execCout_fuses (h := h) ..).ge
  | .zout .., h => (execZout_fuses (h := h) ..).ge
  | .kill .., h => (execKill_fuses (h := h) ..).ge
  | .tread .., h => (execTread_fuses (h := h) ..).ge
  | .branch .., h => (execBranch_fuses (h := h) ..).ge
  | .call .., h => (execCall_fuses (h := h) ..).ge
  | .ret .., h => (execRet_fuses (h := h) ..).ge
  | .exit .., h => (execExit_fuses (h := h) ..).ge
  | .converge .., h => (execConverge_fuses (h := h) ..).ge
  | .convergeHoldExpiry .., h => (execConvergeHoldExpiry_fuses (h := h) ..).ge
  | .groupBarrier .., h => (execGroupBarrier_fuses (h := h) ..).ge
  | .blockBarrier .., h => (execBlockBarrier_fuses (h := h) ..).ge
  | .amma .., h => (execAmma_fuses (h := h) ..).ge
  | .ammaComplete .., h => (execAmmaComplete_fuses (h := h) ..).ge
  | .waittok .., h => (execWaittok_fuses (h := h) ..).ge
  | .groupEnd .., h => (execGroupEnd_fuses (h := h) ..).ge
  | .launchEnd .., h => (execLaunchEnd_fuses (h := h) ..).ge
  | .mergeDrain .., h => (execMergeDrain_fuses (h := h) ..).ge
  | .coreScrub .., h => (execCoreScrub_fuses (h := h) ..).ge
  | .coreScrubEnd .., h => (execCoreScrubEnd_fuses (h := h) ..).ge
  | .shaSpareMap .., h => (execShaSpareMap_fuses (h := h) ..).ge
  | .coreRemap .., h => (execCoreRemap_fuses (h := h) ..).ge
  | .render .., h => (execRender_fuses (h := h) ..).ge
  | .tilerWrite .., h => (execTilerWrite_fuses (h := h) ..).ge
  | .binningEnd .., h => (execBinningEnd_fuses (h := h) ..).ge
  | .partialRender .., h => (execPartialRender_fuses (h := h) ..).ge
  | .partialRenderEnd .., h => (execPartialRenderEnd_fuses (h := h) ..).ge
  | .tileBufferGrant .., h => (execTileBufferGrant_fuses (h := h) ..).ge
  | .tileLoadDone .., h => (execTileLoadDone_fuses (h := h) ..).ge
  | .tileShaded .., h => (execTileShaded_fuses (h := h) ..).ge
  | .spillDone .., h => (execSpillDone_fuses (h := h) ..).ge
  | .writebackDone .., h => (execWritebackDone_fuses (h := h) ..).ge
  | .pipeEnable .., h => (execPipeEnable_fuses (h := h) ..).ge
  | .pipeDisable .., h => (execPipeDisable_fuses (h := h) ..).ge
  | .frameBoundary .., h => (execFrameBoundary_fuses (h := h) ..).ge
  | .present .., h => (execPresent_fuses (h := h) ..).ge
  | .fetchUnderflow .., h => (execFetchUnderflow_fuses (h := h) ..).ge
  | .layerFetch .., h => (execLayerFetch_fuses (h := h) ..).ge
  | .frameRecord .., h => (execFrameRecord_fuses (h := h) ..).ge
  | .lyrCommit .., h => (execLyrCommit_fuses (h := h) ..).ge
  | .lyrLayerOwner .., h => (execLyrLayerOwner_fuses (h := h) ..).ge
  | .lyrSigRegion .., h => (execLyrSigRegion_fuses (h := h) ..).ge
  | .lyrSigCtrl .., h => (execLyrSigCtrl_fuses (h := h) ..).ge
  | .lyrTiming .., h => (execLyrTiming_fuses (h := h) ..).ge
  | .hotPlug .., h => (execHotPlug_fuses (h := h) ..).ge
  | .linkTrainingEnd .., h => (execLinkTrainingEnd_fuses (h := h) ..).ge
  | .trainRetry .., h => (execTrainRetry_fuses (h := h) ..).ge
  | .dpxStream .., h => (execDpxStream_fuses (h := h) ..).ge
  | .memSdCommit .., h => (execMemSdCommit_fuses (h := h) ..).ge
  | .sdZeroingEnd, h => (execSdZeroingEnd_fuses (h := h) ..).ge
  | .tableWalk .., h => (execTableWalk_fuses (heq := h) ..).ge
  | .patrol .., h => (execPatrol_fuses (h := h) ..).ge
  | .sdTempUpdate .., h => (execSdTempUpdate_fuses (h := h) ..).ge
  | .memScRetire .., h => (execMemScRetire_fuses (h := h) ..).ge
  | .memQosCfg .., h => (execMemQosCfg_fuses (h := h) ..).ge
  | .invalRange .., h => (execInvalRange_fuses (h := h) ..).ge
  | .invalAll .., h => (execInvalAll_fuses (h := h) ..).ge
  | .rootSwitch .., h => (execRootSwitch_fuses (h := h) ..).ge
  | .rowRemap .., h => (execRowRemap_fuses (h := h) ..).ge
  | .portEnable .., h => (execPortEnable_fuses (h := h) ..).ge
  | .portDisable .., h => (execPortDisable_fuses (h := h) ..).ge
  | .phyPowered .., h => (execPhyPowered_fuses (h := h) ..).ge
  | .phyPoweredDown .., h => (execPhyPoweredDown_fuses (h := h) ..).ge
  | .linkUp .., h => (execLinkUp_fuses (h := h) ..).ge
  | .linkDown .., h => (execLinkDown_fuses (h := h) ..).ge
  | .tc10SleepRequest .., h => (execTc10SleepRequest_fuses (h := h) ..).ge
  | .tc10Wake .., h => (execTc10Wake_fuses (h := h) ..).ge
  | .tc10WakeTimeout .., h => (execTc10WakeTimeout_fuses (h := h) ..).ge
  | .frameTransmit .., h => (execFrameTransmit_fuses (h := h) ..).ge
  | .unclassifiedFrame .., h => (execUnclassifiedFrame_fuses (h := h) ..).ge
  | .qpStart .., h => (execQpStart_fuses (h := h) ..).ge
  | .qpStop .., h => (execQpStop_fuses (h := h) ..).ge
  | .qpQuery .., h => (execQpQuery_fuses (h := h) ..).ge
  | .keyLoad .., h => (execKeyLoad_fuses (h := h) ..).ge
  | .keyRevoke .., h => (execKeyRevoke_fuses (h := h) ..).ge
  | .streamStart .., h => (execStreamStart_fuses (h := h) ..).ge
  | .streamStop .., h => (execStreamStop_fuses (h := h) ..).ge
  | .avtpPacket .., h => (execAvtpPacket_fuses (h := h) ..).ge
  | .talkerFrame .., h => (execTalkerFrame_fuses (h := h) ..).ge
  | .syncMessage .., h => (execSyncMessage_fuses (h := h) ..).ge
  | .announceMessage .., h => (execAnnounceMessage_fuses (h := h) ..).ge
  | .peerDelayRequest .., h => (execPeerDelayRequest_fuses (h := h) ..).ge
  | .syncTransmit, h => (execSyncTransmit_fuses (h := h) ..).ge
  | .syncTimeout, h => (execSyncTimeout_fuses (h := h) ..).ge
  | .holdoverExpiry, h => (execHoldoverExpiry_fuses (h := h) ..).ge
  | .timCfg .., h => (execTimCfg_fuses (h := h) ..).ge
  | .ethRefclkLost, h => (execEthRefclkLost_fuses (h := h) ..).ge
  | .iqlPortEnable .., h => (execIqlPortEnable_fuses (h := h) ..).ge
  | .iqlPortDisable .., h => (execIqlPortDisable_fuses (h := h) ..).ge
  | .keyExchange .., h => (execKeyExchange_fuses (h := h) ..).ge
  | .iqlPortOn .., h => (execIqlPortOn_fuses (h := h) ..).ge
  | .iqlStartRetry .., h => (execIqlStartRetry_fuses (h := h) ..).ge
  | .iqlLanesDown .., h => (execIqlLanesDown_fuses (h := h) ..).ge
  | .iqlLinkDown .., h => (execIqlLinkDown_fuses (h := h) ..).ge
  | .laneRetrain .., h => (execLaneRetrain_fuses (h := h) ..).ge
  | .rekey .., h => (execRekey_fuses (h := h) ..).ge
  | .linkReplay .., h => (execLinkReplay_fuses (h := h) ..).ge
  | .read .., h => (execRead_fuses (h := h) ..).ge
  | .readRsp .., h => (execReadRsp_fuses (h := h) ..).ge
  | .write .., h => (execWrite_fuses (h := h) ..).ge
  | .writeAck .., h => (execWriteAck_fuses (h := h) ..).ge
  | .atomicPacket .., h => (execAtomicPacket_fuses (h := h) ..).ge
  | .atomicRsp .., h => (execAtomicRsp_fuses (h := h) ..).ge
  | .doorbell .., h => (execDoorbell_fuses (h := h) ..).ge
  | .fenceNotice .., h => (execFenceNotice_fuses (h := h) ..).ge
  | .announce .., h => (execAnnounce_fuses (h := h) ..).ge
  | .txTimeout .., h => (execTxTimeout_fuses (h := h) ..).ge
  | .iqlRoute .., h => (execIqlRoute_fuses (h := h) ..).ge
  | .iqlPortCtrl .., h => (execIqlPortCtrl_fuses (h := h) ..).ge
  | .bulk .., h => (execBulk_fuses (h := h) ..).ge
  | .channelEnable .., h => (execChannelEnable_fuses (h := h) ..).ge
  | .channelDisable .., h => (execChannelDisable_fuses (h := h) ..).ge
  | .channelPowered .., h => (execChannelPowered_fuses (h := h) ..).ge
  | .compress .., h => (execCompress_fuses (h := h) ..).ge
  | .decompress .., h => (execDecompress_fuses (h := h) ..).ge
  | .domainStart .., h => (execDomainStart_fuses (h := h) ..).ge
  | .domainStop .., h => (execDomainStop_fuses (h := h) ..).ge
  | .domainOn .., h => (execDomainOn_fuses (h := h) ..).ge
  | .domainOff .., h => (execDomainOff_fuses (h := h) ..).ge
  | .padRelease .., h => (execPadRelease_fuses (h := h) ..).ge
  | .clockStep, h => (execClockStep_fuses (h := h) ..).ge
  | .targetActive, h => (execTargetActive_fuses (h := h) ..).ge
  | .targetStandby, h => (execTargetStandby_fuses (h := h) ..).ge
  | .targetWatch, h => (execTargetWatch_fuses (h := h) ..).ge
  | .huddleAnswer .., h => (execHuddleAnswer_fuses (h := h) ..).ge
  | .huddleDelayExpiry .., h => (execHuddleDelayExpiry_fuses (h := h) ..).ge
  | .watchSaveDone, h => (execWatchSaveDone_fuses (h := h) ..).ge
  | .wake, h => (execWake_fuses (h := h) ..).ge
  | .watchRestoreDone, h => (execWatchRestoreDone_fuses (h := h) ..).ge
  | .idleEntry, h => (execIdleEntry_fuses (h := h) ..).ge
  | .watchPeriod .., h => (execWatchPeriod_fuses (h := h) ..).ge
  | .estimateTick .., h => (execEstimateTick_fuses (h := h) ..).ge
  | .measuredSample .., h => (execMeasuredSample_fuses (h := h) ..).ge
  | .controlTick .., h => (execControlTick_fuses (h := h) ..).ge
  | .recal, h => (execRecal_fuses (h := h) ..).ge
  | .recalRetry, h => (execRecalRetry_fuses (h := h) ..).ge
  | .pwrCapMw .., h => (execPwrCapMw_fuses (h := h) ..).ge
  | .pwrDomainPermit .., h => (execPwrDomainPermit_fuses (h := h) ..).ge
  | .pwrFixedMode .., h => (execPwrFixedMode_fuses (h := h) ..).ge
  | .issueLimit .., h => (execIssueLimit_fuses (h := h) ..).ge
  | .rampCycles .., h => (execRampCycles_fuses (h := h) ..).ge
  | .pwrWatchSave .., h => (execPwrWatchSave_fuses (h := h) ..).ge
  | .pwrWatchCfg .., h => (execPwrWatchCfg_fuses (h := h) ..).ge
  | .sensorRead .., h => (execSensorRead_fuses (h := h) ..).ge
  | .throttleStepUp, h => (execThrottleStepUp_fuses (h := h) ..).ge
  | .throttleStepDown, h => (execThrottleStepDown_fuses (h := h) ..).ge
  | .railFault, h => (execRailFault_fuses (h := h) ..).ge
  | .porstNAssert, h => (execPorstNAssert_fuses (h := h) ..).ge
  | .pwrFail, h => (execPwrFail_fuses (h := h) ..).ge
  | .powerRestored, h => (execPowerRestored_fuses (h := h) ..).ge
  | .budgetOverrun .., h => (execBudgetOverrun_fuses (h := h) ..).ge
  | .stopBoundMiss .., h => (execStopBoundMiss_fuses (h := h) ..).ge
  | .fenceDrainEnd .., h => (execFenceDrainEnd_fuses (h := h) ..).ge
  | .resetEnd .., h => (execResetEnd_fuses (h := h) ..).ge
  | .replay .., h => (execReplay_fuses (h := h) ..).ge
  | .sharedUnitTimeout, h => (execSharedUnitTimeout_fuses (h := h) ..).ge
  | .chipReset .., h => (execChipReset_fuses (h := h) ..).ge
  | .chipRecoveryTimeout, h => (execChipRecoveryTimeout_fuses (h := h) ..).ge
  | .powerCycleReq, h => (execPowerCycleReq_fuses (h := h) ..).ge
  | .trayReqHoldoffEnd, h => (execTrayReqHoldoffEnd_fuses (h := h) ..).ge
  | .watchdogExpiry, h => (execWatchdogExpiry_fuses (h := h) ..).ge
  | .refBudgetMargin .., h => (execRefBudgetMargin_fuses (h := h) ..).ge
  | .refFaultRing .., h => (execRefFaultRing_fuses (h := h) ..).ge
  | .inspectionDue .., h => (execInspectionDue_fuses (h := h) ..).ge
  | .stwInspectReq .., h => (execStwInspectReq_fuses (h := h) ..).ge
  | .inspection .., h => (execInspection_fuses (h := h) ..).ge
  | .inspectionEnd .., h => (execInspectionEnd_fuses (h := h) ..).ge
  | .journalAppend, h => (execJournalAppend_fuses (h := h) ..).ge
  | .tokenRefill, h => (execTokenRefill_fuses (h := h) ..).ge
  | .evrCfg .., h => (execEvrCfg_fuses (h := h) ..).ge
  | .freeze .., h => (execFreeze_fuses (h := h) ..).ge
  | .thaw .., h => (execThaw_fuses (h := h) ..).ge
  | .freezeTimeout, h => (execFreezeTimeout_fuses (h := h) ..).ge
  | .flush, h => (execFlush_fuses (h := h) ..).ge
  | .flushDone, h => (execFlushDone_fuses (h := h) ..).ge
  | .stwCaptureStatus .., h => (execStwCaptureStatus_fuses (h := h) ..).ge
  | .boot .., h => fuses_le_execBoot (h := h) ..
  | .recoveryStatus .., h => (execRecoveryStatus_fuses (h := h) ..).ge
  | .recoveryRead .., h => (execRecoveryRead_fuses (h := h) ..).ge
  | .erase .., h => (execErase_fuses (h := h) ..).ge
  | .recoveryWrite .., h => (execRecoveryWrite_fuses (h := h) ..).ge
  | .verify .., h => (execVerify_fuses (h := h) ..).ge
  | .restart .., h => (execRestart_fuses (h := h) ..).ge
  | .calRead, h => (execCalRead_fuses (h := h) ..).ge
  | .calWrite, h => (execCalWrite_fuses (h := h) ..).ge
  | .cfgRead, h => (execCfgRead_fuses (h := h) ..).ge
  | .cfgWrite, h => (execCfgWrite_fuses (h := h) ..).ge
  | .update .., h => (execUpdate_fuses (h := h) ..).ge
  | .attest, h => (execAttest_fuses (h := h) ..).ge
  | .identityRead, h => (execIdentityRead_fuses (h := h) ..).ge
  | .claim .., h => (execClaim_fuses (h := h) ..).ge
  | .release .., h => (execRelease_fuses (h := h) ..).ge
  | .macsecInstall .., h => (execMacsecInstall_fuses (h := h) ..).ge
  | .macsecSelect .., h => (execMacsecSelect_fuses (h := h) ..).ge
  | .hostTimerAlarm .., h => (execHostTimerAlarm_fuses (h := h) ..).ge
  | .trayWake .., h => (execTrayWake_fuses (h := h) ..).ge
  | .entdaa .., h => (execEntdaa_fuses (h := h) ..).ge
  | .dpxLinkCtrl .., h => (execDpxLinkCtrl_fuses (h := h) ..).ge
  | .lossOfLock .., h => (execLossOfLock_fuses (h := h) ..).ge
  | .iqlLinkRetrain .., h => (execIqlLinkRetrain_fuses (h := h) ..).ge
  | .retrainEnd .., h => (execRetrainEnd_fuses (h := h) ..).ge
  | .lpTempUpdate .., h => (execLpTempUpdate_fuses (h := h) ..).ge
  | .refclkLost, h => (execRefclkLost_fuses (h := h) ..).ge
  | .alwaysOnSupplyLost, h => (execAlwaysOnSupplyLost_fuses (h := h) ..).ge
  | .tck .., h => (execTck_fuses (h := h) ..).ge
  | .trstN, h => (execTrstN_fuses (h := h) ..).ge
  | .feCtxTableBase .., h => (execFeCtxTableBase_fuses (h := h) ..).ge
  | .ethQpTableBase .., h => (execEthQpTableBase_fuses (h := h) ..).ge
  | .ethPortMac .., h => (execEthPortMac_fuses (h := h) ..).ge
  | .lyrWbCtrl .., h => (execLyrWbCtrl_fuses (h := h) ..).ge
  | .iqlCfg .., h => (execIqlCfg_fuses (h := h) ..).ge
  | .invalidRequest .., h => (execInvalidRequest_fuses (h := h) ..).ge

/-- No step lowers the number of blown fuses: a row is `exec` of the command at the front, and a state that waits for none is idle. -/
theorem fuses_le_step {s t : State} (h : step s = .next t) : s.fuses ≤ t.fuses := by
  unfold step at h
  split at h
  · cases h
    exact (idle_fuses s).ge
  next c rest _ =>
    exact Nat.le_trans (State.fuses_of_stw (t := { s with pending := rest }) rfl).ge (fuses_le_exec c h)

/-! ### MIN_SVN shows the fuses (R816) -/

theorem withSteward_fld (s : State) (w : Steward) (g i) : ({ s with stw := w } : State).fld g i = s.fld g i :=
  State.fld_of_regs rfl g i

theorem trayCause_fld (s bit g i) : (trayCause s bit).fld g i = s.fld g i := by
  unfold trayCause
  extract_lets t w s1
  have h1 : s1.fld g i = s.fld g i := State.fld_of_regs rfl g i
  clear_value s1
  split
  · exact (State.emit_fld ..).trans h1
  · exact h1

theorem hostCause_minSvn (s bit) : (hostCause s bit).fld F.stwImageMinSvn = s.fld F.stwImageMinSvn :=
  State.fld_setFld_ne _ _ _ _ _ _ (State.key_ne_fam (by decide) _ _)

theorem bootStatus_minSvn (s st err detail) : (bootStatus s st err detail).fld F.stwImageMinSvn = s.fld F.stwImageMinSvn := by
  have hstatus (t : State) (f : Reg.Field) (x : Nat) (h : F.stwImageMinSvn.fam ≠ f.fam) :
      (t.setFld f 0 x).fld F.stwImageMinSvn = t.fld F.stwImageMinSvn :=
    State.fld_setFld_ne _ _ _ _ _ _ (State.key_ne_fam h _ _)
  rw [bootStatus, hstatus _ _ _ (by decide), hstatus _ _ _ (by decide), hstatus _ _ _ (by decide)]

/-- MIN_SVN is eight bits wide. -/
theorem setFld_minSvn (s : State) {n : Nat} (h : n ≤ 64) : (s.setFld F.stwImageMinSvn 0 n).fld F.stwImageMinSvn = n := by
  rw [State.fld_setFld_same _ _ _ _ (by decide) (by decide)]
  exact Nat.mod_eq_of_lt (Nat.lt_of_le_of_lt h (by decide))

theorem fusesRaised_minSvn (s img) (h : (fusesRaised s img).fuses ≤ 64) :
    (fusesRaised s img).fld F.stwImageMinSvn = (fusesRaised s img).fuses := by
  obtain ⟨w, -, heq⟩ := fusesRaised_eq_withSteward s img
  rw [heq, withSteward_fuses] at h ⊢
  exact (withSteward_fld ..).trans (setFld_minSvn s h)

theorem bootReadyUp_minSvn (s img bs ppr) (h : (bootReadyUp s img bs ppr).fuses ≤ 64) :
    (bootReadyUp s img bs ppr).fld F.stwImageMinSvn = (bootReadyUp s img bs ppr).fuses := by
  obtain ⟨u, -, heq⟩ := bootReadyUp_eq_fusesRaised s img bs ppr
  have hfuses : (bootReadyUp s img bs ppr).fuses = (fusesRaised u img).fuses := by
    rw [heq, trayCause_fuses, hostCause_fuses, bootStatus_fuses]
  rw [hfuses] at h ⊢
  rw [heq, trayCause_fld, hostCause_minSvn, bootStatus_minSvn, fusesRaised_minSvn u img h]

/-- A family set back to its reset values leaves the registers of the others. -/
theorem State.fld_resetFam_ne (s : State) (fam : Nat) (g : Reg.Field) (i : Nat) (h : g.fam ≠ fam) :
    (s.resetFam fam).fld g i = s.fld g i := by
  have hkey : ¬ (Reg.key fam 0 ≤ Reg.key g.fam i ∧ Reg.key g.fam i < Reg.key (fam + 1) 0) := by
    unfold Reg.key
    omega
  have hrd : (s.resetFam fam).rd g.fam i = s.rd g.fam i := (SMap.get_clear ..).trans (if_neg hkey)
  rw [State.fld, hrd, ← State.fld]

/-- The ring of the boot before writes registers of the recorder alone. -/
theorem prevRing_fld (s g i) (hring : g.fam ≠ Reg.evrPrev) (hstatus : g.fam ≠ F.evrFlushStatusLast.fam) :
    (prevRing s).fld g i = s.fld g i := by
  have hkept (kept : List (Nat × W64)) (t : State) :
      (kept.foldl (fun s kv => s.wr Reg.evrPrev kv.1 kv.2) t).fld g i = t.fld g i := by
    induction kept generalizing t with
    | nil => rfl
    | cons kv kept ih => exact (ih _).trans (State.fld_wr_ne t _ g (State.key_ne_fam hring _ _))
  unfold prevRing
  extract_lets keep s1 s2 s3 s4
  have h1 : s1.fld g i = s.fld g i := State.fld_resetFam_ne s _ g i hring
  have h2 : s2.fld g i = s1.fld g i := hkept _ _
  have h3 : s3.fld g i = s2.fld g i := State.fld_setFld_ne _ _ _ _ _ _ (State.key_ne_fam hstatus _ _)
  have h4 : s4.fld g i = s3.fld g i := State.fld_setFld_ne _ _ _ _ _ _ (State.key_ne_fam hstatus _ _)
  exact (withSteward_fld ..).trans (h4.trans (h3.trans (h2.trans h1)))

theorem bootStart_minSvn (s force role addr) (h : s.fuses ≤ 64) :
    (bootStart s force role addr).fld F.stwImageMinSvn = s.fuses := by
  unfold bootStart
  extract_lets w s1 p s2 s3 s4
  have h1 : s1.fuses = s.fuses := fuses_ite rfl (fuses_withSteward s { w with force := force, role := role, addr := addr } rfl)
  have h2 : s2.fuses = s1.fuses := State.fuses_of_stw rfl
  have h3 : s3.stw.fuses = s.fuses := (State.wr_fuses ..).trans (h2.trans h1)
  have h4 : s4.fld F.stwImageMinSvn = s.fuses := by
    unfold s4
    rw [h3, setFld_minSvn _ h]
  rw [prevRing_fld _ _ _ (by decide) (by decide), State.fld_setFld_ne _ _ _ _ _ _ (State.key_ne_fam (by decide) _ _), h4]

/-- Settles O6: only `fusesRaised` changes the fuses (`fuses_le_step`), it blows those of SVN and shows them in MIN_SVN
(`bootReadyUp_fuses`, `bootReadyUp_minSvn`), and a boot writes MIN_SVN before it looks at the image (`bootStart_minSvn`). -/
theorem fusesNeverFall : Obligations.FusesNeverFall := by
  unfold Obligations.FusesNeverFall
  refine ⟨fun s t h => fuses_le_step h, fun s img bs ppr hcommit hle hsvn => ?_, fun s f r a h => ?_⟩
  · have hfuses : (bootReadyUp s img bs ppr).fuses = imageSvn img := by
      rw [bootReadyUp_fuses, if_pos hcommit, Nat.min_eq_right hsvn]
      exact Nat.max_eq_right hle
    exact ⟨hfuses, (bootReadyUp_minSvn s img bs ppr (hfuses.trans_le hsvn)).trans hfuses⟩
  · exact (bootStart_minSvn s f r a h).trans (bootStart_fuses s f r a).symm

end Sys2Proof.Machine
end
